-- ==== Sys2Proof/Word.lean ====
section
/-! DEFINITION. The words of the T9: a setup register is 32 bits (20 R442), a Chart byte 8 bits,
an accumulator 48 bits (05 R117), a Sextant lane value 64 bits (05 R139). -/

namespace Sys2Proof

/-- One byte of a memory. -/
abbrev Byte := BitVec 8
/-- One setup register, Beacon, sequence number: 32 bits. -/
abbrev Word := BitVec 32
/-- One W48 pattern (06 R143). -/
abbrev W48 := BitVec 48
/-- One 64-bit pattern: binary64, a host address, a signature of R47. -/
abbrev Word64 := BitVec 64
/-- The 64 bytes of a descriptor or context-block head, byte 0 in the low bits (09 R228). -/
abbrev Line := BitVec 512
/-- The 32 bytes of a ring record (09 R221) or completion record (R241). -/
abbrev Rec := BitVec 256

end Sys2Proof
end

