-- ==== Sys2Proof/Machine/Bits.lean ====
section
/-! DEFINITION. Byte-order and bit-field helpers over the little-endian records of the T9
(09 R221: multi-byte fields are little-endian), sorted association lists, and canonical byte memories. -/

namespace Sys2Proof.Machine

/-- Bits [hi:lo] of a word, as a number. -/
def bits {w : Nat} (x : BitVec w) (hi lo : Nat) : Nat := (x.toNat >>> lo) % 2 ^ (hi + 1 - lo)

/-- Bit i of a word. -/
def bit {w : Nat} (x : BitVec w) (i : Nat) : Bool := x.getLsbD i

/-- n bytes at byte offset off of a little-endian record, as a number. -/
def leField {w : Nat} (x : BitVec w) (off n : Nat) : Nat := (x.toNat >>> (8 * off)) % 2 ^ (8 * n)

/-- A Bool as bit i. -/
def bitAt (b : Bool) (i : Nat) : Nat := if b then 2 ^ i else 0

/-- n bytes of v, least significant first (little-endian). -/
def leBytes : Nat → Nat → List Byte
  | 0, _ => []
  | n + 1, v => BitVec.ofNat 8 v :: leBytes n (v / 256)

/-- The number that a little-endian byte list spells. -/
def leNat : List Byte → Nat
  | [] => 0
  | b :: bs => b.toNat + 256 * leNat bs

/-- The sequence-number rule of 09 R222: a is ahead of b when 1 ≤ (a - b) mod 2^32 < 2^31. -/
def ahead (a b : Word) : Bool := decide (1 ≤ (a - b).toNat) && decide ((a - b).toNat < 2 ^ 31)

/-- Saturating count. -/
def satTo (lim n : Nat) : Nat := if n > lim then lim else n

/-- Ceiling of a / b. -/
def ceilDiv (a b : Nat) : Nat := (a + b - 1) / b

/-! ### Maps: sorted association lists -/

/-- The entry of key k. -/
def mget {α : Type} : List (Nat × α) → Nat → Option α
  | [], _ => none
  | (k', v) :: m, k => if k' = k then some v else mget m k

/-- The entry of key k, or d. -/
def mgetD {α : Type} (m : List (Nat × α)) (k : Nat) (d : α) : α := (mget m k).getD d

/-- Set the entry of key k, keeping the keys in rising order. -/
def mset {α : Type} : List (Nat × α) → Nat → α → List (Nat × α)
  | [], k, v => [(k, v)]
  | (k', v') :: m, k, v =>
    if k < k' then (k, v) :: (k', v') :: m
    else if k = k' then (k, v) :: m
    else (k', v') :: mset m k v

/-- Remove the entry of key k. -/
def mdel {α : Type} : List (Nat × α) → Nat → List (Nat × α)
  | [], _ => []
  | (k', v') :: m, k => if k' = k then m else (k', v') :: mdel m k

/-- Change the entry of key k, where d stands for an absent one. -/
def mupd {α : Type} (m : List (Nat × α)) (k : Nat) (d : α) (f : α → α) : List (Nat × α) :=
  mset m k (f (mgetD m k d))

/-- Keep the entries a test admits. -/
def mfilter {α : Type} (m : List (Nat × α)) (p : Nat → α → Bool) : List (Nat × α) :=
  m.filter (fun e => p e.1 e.2)

/-- Replace element i of a list, where it has one. -/
def lset {α : Type} : List α → Nat → α → List α
  | [], _, _ => []
  | _ :: xs, 0, v => v :: xs
  | x :: xs, n + 1, v => x :: lset xs n v

/-- Change element i of a list, where it has one. -/
def lupd {α : Type} : List α → Nat → (α → α) → List α
  | [], _, _ => []
  | x :: xs, 0, f => f x :: xs
  | x :: xs, n + 1, f => x :: lupd xs n f

/-! ### Byte memories: addresses strictly rising, no byte equal to what an unlisted address reads as -/

/-- Read one byte, where `dflt` is what an unlisted address reads as. -/
def memRead (dflt : Byte) (m : List (Nat × Byte)) (a : Nat) : Byte := mgetD m a dflt

/-- Write one byte: a value equal to what an unlisted address reads as removes the entry. -/
def memWrite (dflt : Byte) : List (Nat × Byte) → Nat → Byte → List (Nat × Byte)
  | [], a, v => if v = dflt then [] else [(a, v)]
  | (a', v') :: m, a, v =>
    if a < a' then (if v = dflt then (a', v') :: m else (a, v) :: (a', v') :: m)
    else if a = a' then (if v = dflt then m else (a, v) :: m)
    else (a', v') :: memWrite dflt m a v

/-- Write bytes at rising addresses from a. -/
def memWriteBytes (dflt : Byte) (m : List (Nat × Byte)) (a : Nat) : List Byte → List (Nat × Byte)
  | [] => m
  | b :: bs => memWriteBytes dflt (memWrite dflt m a b) (a + 1) bs

/-- Read n bytes from a. -/
def memReadBytes (dflt : Byte) (m : List (Nat × Byte)) (a : Nat) : Nat → List Byte
  | 0 => []
  | n + 1 => memRead dflt m a :: memReadBytes dflt m (a + 1) n

/-- Drop every listed byte of [lo, hi): it then reads as the unlisted byte. -/
def memClear (m : List (Nat × Byte)) (lo hi : Nat) : List (Nat × Byte) :=
  m.filter (fun e => decide (e.1 < lo) || decide (hi ≤ e.1))

/-- The canonical form of a byte memory: addresses strictly rising, all at least lo, no default byte. -/
def memWfFrom (dflt : Byte) : Nat → List (Nat × Byte) → Bool
  | _, [] => true
  | lo, (a, v) :: m => decide (lo ≤ a) && decide (v ≠ dflt) && memWfFrom dflt (a + 1) m

/-- The canonical form of a byte memory. -/
def memWf (dflt : Byte) (m : List (Nat × Byte)) : Bool := memWfFrom dflt 0 m

/-- n zero bytes. -/
def zeros (n : Nat) : List Byte := List.replicate n 0#8

/-- A byte list cut or padded with zeros to n bytes. -/
def fitTo (n : Nat) (bs : List Byte) : List Byte := (bs ++ zeros (n - bs.length)).take n

end Sys2Proof.Machine
end

