-- ==== Sys2Proof/Machine/Formats.lean ====
section
/-! DEFINITION. The eight number formats of 06: decoding (R145), the four rounding modes (R153), conversion
(R152), subnormals and flushing (R156, R157), overflow (R158 to R160), block stores (R148), and exact arithmetic. -/

namespace Sys2Proof.Machine

/-- The formats of 06 R143. -/
inductive Fmt where
  | k4b | k8 | k8b | k16 | k24 | b32 | w48 | b64
deriving DecidableEq, Repr

/-- The rounding modes of 06 R153. -/
inductive RMode where
  | rne | rtz | rdn | rup
deriving DecidableEq, Repr

/-- An exact value: a signed zero, m × 2^e with m not 0, an infinity, a NaN (06 R149's classes). -/
inductive Num where
  | zero (neg : Bool)
  | fin (neg : Bool) (m : Nat) (e : Int)
  | inf (neg : Bool)
  | nan
deriving DecidableEq, Repr

/-- Counts of the six numeric events of 06 R165, R166. -/
structure NumEv where
  sat : Nat := 0
  flushed : Nat := 0
  zsl : Nat := 0
  divz : Nat := 0
  nanGen : Nat := 0
  strictOvf : Nat := 0
deriving DecidableEq, Repr

/-- The sum of two counts of events. -/
def NumEv.add (a b : NumEv) : NumEv :=
  ⟨a.sat + b.sat, a.flushed + b.flushed, a.zsl + b.zsl, a.divz + b.divz, a.nanGen + b.nanGen, a.strictOvf + b.strictOvf⟩

/-- NUM_FLAGS of 06 R165: each flag is set when its event occurred. -/
def NumEv.flags (a : NumEv) : Nat :=
  bitAt (decide (0 < a.sat)) 0 + bitAt (decide (0 < a.flushed)) 1 + bitAt (decide (0 < a.zsl)) 2 +
  bitAt (decide (0 < a.divz)) 3 + bitAt (decide (0 < a.nanGen)) 4 + bitAt (decide (0 < a.strictOvf)) 5

/-- The numeric settings of a command: NUMCTL of 06 R154. -/
structure NumCtl where
  rm : RMode := .rne
  strict : Bool := false
  nanTrap : Bool := false
deriving DecidableEq, Repr

/-- Rounding-mode code of NUMCTL[1:0] (06 R153). -/
def rmodeOf (c : Nat) : RMode :=
  match c % 4 with
  | 0 => .rne
  | 1 => .rtz
  | 2 => .rdn
  | _ => .rup

/-- NUMCTL as 06 R154 lays it out. -/
def numCtlOf (b : Nat) : NumCtl := ⟨rmodeOf b, b.testBit 2, b.testBit 3⟩

/-- Significand bits of a format (06 R143); for the block formats the element's magnitude bits. -/
def Fmt.sig : Fmt → Nat
  | .k4b => 3 | .k8 => 4 | .k8b => 7 | .k16 => 10 | .k24 => 16 | .b32 => 24 | .w48 => 38 | .b64 => 53

/-- Exponent bias (06, bit layouts). -/
def Fmt.bias : Fmt → Int
  | .k8 => 7 | .k16 => 31 | .k24 => 127 | .b32 => 127 | .w48 => 511 | .b64 => 1023 | _ => 127

/-- Width of the exponent field. -/
def Fmt.ebits : Fmt → Nat
  | .k8 => 4 | .k16 => 6 | .k24 => 8 | .b32 => 8 | .w48 => 10 | .b64 => 11 | _ => 8

/-- Width of the pattern without its container's zeros. -/
def Fmt.width : Fmt → Nat
  | .k4b => 4 | .k8 => 8 | .k8b => 8 | .k16 => 16 | .k24 => 24 | .b32 => 32 | .w48 => 48 | .b64 => 64

/-- Bytes of the container (06 R143); a K4b pair shares one byte. -/
def Fmt.bytes : Fmt → Nat
  | .k4b => 1 | .k8 => 1 | .k8b => 1 | .k16 => 2 | .k24 => 4 | .b32 => 4 | .w48 => 8 | .b64 => 8

/-- Has the format infinities (06 R143)? -/
def Fmt.hasInf : Fmt → Bool
  | .k16 | .k24 | .b32 | .w48 | .b64 => true
  | _ => false

/-- Has the format subnormals (06 R144)? -/
def Fmt.hasSub : Fmt → Bool
  | .k8 | .k16 | .k24 => true
  | _ => false

/-- Is the format long (06, opening list)? -/
def Fmt.isLong : Fmt → Bool
  | .b32 | .w48 | .b64 => true
  | _ => false

/-- Exponent of the smallest normal value. -/
def Fmt.emin (f : Fmt) : Int := 1 - f.bias

/-- Exponent of the largest finite value; K8 uses its top exponent code for numbers (06 R145). -/
def Fmt.emax (f : Fmt) : Int :=
  match f with
  | .k8 => 8
  | _ => (2 : Int) ^ f.ebits - 2 - f.bias

/-- Chart format codes (02 R46). -/
def fmtOfCode : Nat → Option Fmt
  | 1 | 2 => some .k4b
  | 3 => some .k8
  | 4 | 5 => some .k8b
  | 6 => some .k16
  | 7 => some .k24
  | 8 => some .b32
  | 9 => some .w48
  | 10 => some .b64
  | _ => none

/-- The NaN pattern the device writes (06 R143). -/
def Fmt.nanCode : Fmt → Nat
  | .k4b => 0 | .k8 => 0x80 | .k8b => 0x80 | .k16 => 0x7F00 | .k24 => 0x7FC000 | .b32 => 0x7FC00000
  | .w48 => 0x7FF000000000 | .b64 => 0x7FF8000000000000

/-- The sign bit at the top of a pattern. -/
def Fmt.signBit (f : Fmt) (neg : Bool) : Nat := bitAt neg (f.width - 1)

/-- An infinity's pattern, for a format that has one. -/
def Fmt.infCode (f : Fmt) (neg : Bool) : Nat := f.signBit neg + (2 ^ f.ebits - 1) * 2 ^ (f.sig - 1)

/-- The largest finite pattern of a sign. -/
def Fmt.maxCode (f : Fmt) (neg : Bool) : Nat :=
  match f with
  | .k8 => f.signBit neg + 0x7F
  | _ => f.signBit neg + (2 ^ f.ebits - 2) * 2 ^ (f.sig - 1) + (2 ^ (f.sig - 1) - 1)

/-- A zero's pattern; K8 has +0 alone (06 R162). -/
def Fmt.zeroCode (f : Fmt) (neg : Bool) : Nat :=
  match f with
  | .k8 | .k8b | .k4b => 0
  | _ => f.signBit neg

/-- Decoding of a pattern (06 R145); the flag says that a long-format subnormal was flushed.
K8b and K4b elements are decoded with their block exponent by `decodeBlock`. -/
def decode (f : Fmt) (p : Nat) : Num × Bool :=
  let neg := p.testBit (f.width - 1)
  let mw := f.sig - 1
  let m := p % 2 ^ mw
  let e := (p >>> mw) % 2 ^ f.ebits
  match f with
  | .k8 =>
    if p % 256 = 0x80 then (.nan, false)
    else if e = 0 then (if m = 0 then .zero false else .fin neg m (-9), false)
    else (.fin neg (8 + m) ((e : Int) - 10), false)
  | .k8b | .k4b => (.nan, false)
  | _ =>
    if e = 2 ^ f.ebits - 1 then (if m = 0 then .inf neg else .nan, false)
    else if e = 0 then
      if m = 0 then (.zero neg, false)
      else if f.hasSub then (.fin neg m (f.emin - mw), false)
      else (.zero neg, true)
    else (.fin neg (2 ^ mw + m) ((e : Int) - f.bias - mw), false)

/-- Decoding of a K8b or K4b element q (two's complement in `w` bits) under block exponent E (06 R145). -/
def decodeBlock (w q E : Nat) : Num :=
  if E = 255 then .nan
  else if w = 8 ∧ q % 256 = 128 then .nan
  else
    let neg := q.testBit (w - 1)
    let mag := if neg then 2 ^ w - q % 2 ^ w else q % 2 ^ w
    if mag = 0 then .zero false else .fin neg mag ((E : Int) - 127)

/-- The sign of a value (06 R149: a NaN has none). -/
def Num.neg : Num → Bool
  | .zero n | .fin n _ _ | .inf n => n
  | .nan => false

/-- Is the value a NaN? -/
def Num.isNan : Num → Bool
  | .nan => true
  | _ => false

/-- Is the value an infinity? -/
def Num.isInf : Num → Bool
  | .inf _ => true
  | _ => false

/-- Is the value a zero? -/
def Num.isZero : Num → Bool
  | .zero _ => true
  | _ => false

/-- The magnitude m × 2^e rounded to an integer multiple of 2^g under a mode (06 R153). -/
def roundGrid (neg : Bool) (m : Nat) (e g : Int) (rm : RMode) : Nat :=
  if g ≤ e then m * 2 ^ (e - g).toNat
  else
    let k := (g - e).toNat
    let q := m >>> k
    let r := m % 2 ^ k
    let up :=
      match rm with
      | .rne => decide (2 * r > 2 ^ k) || (decide (2 * r = 2 ^ k) && decide (q % 2 = 1))
      | .rtz => false
      | .rdn => neg && decide (r ≠ 0)
      | .rup => !neg && decide (r ≠ 0)
    if up then q + 1 else q

/-- The exponent of the leading bit of m × 2^e. -/
def topExp (m : Nat) (e : Int) : Int := (Nat.log2 m : Int) + e

/-- The rounded magnitude at `p` significant bits with an unbounded exponent, as (integer, exponent). -/
def roundSig (neg : Bool) (m : Nat) (e : Int) (p : Nat) (rm : RMode) : Nat × Int :=
  let g := topExp m e - (p - 1 : Int)
  (roundGrid neg m e g rm, g)

/-- m × 2^e < 2^x? -/
def ltPow (m : Nat) (e x : Int) : Bool := decide (topExp m e < x)

/-- Pack a rounded value r × 2^g of a format that can hold it. -/
def pack (f : Fmt) (neg : Bool) (r : Nat) (g : Int) : Nat :=
  let mw := f.sig - 1
  let t := topExp r g
  if t < f.emin then f.signBit neg + (if f.emin - mw ≤ g then r * 2 ^ (g - (f.emin - mw)).toNat else r >>> ((f.emin - mw) - g).toNat)
  else
    let s := if t - mw ≤ g then r * 2 ^ (g - (t - mw)).toNat else r >>> ((t - mw) - g).toNat
    f.signBit neg + (t + f.bias).toNat * 2 ^ mw + (s - 2 ^ mw)

/-- The overflow result of 06 R159, R160. -/
def overflowCode (f : Fmt) (neg strict : Bool) : Nat × NumEv :=
  if strict then (if f.hasInf then f.infCode neg else f.nanCode, { strictOvf := 1 })
  else (f.maxCode neg, { sat := 1 })

/-- The flush of 06 R157: a directed conversion never crosses zero. -/
def flushCode (f : Fmt) (neg : Bool) (rm : RMode) : Nat :=
  let least := f.signBit neg + 2 ^ (f.sig - 1)
  match rm with
  | .rup => if neg then f.signBit neg else least
  | .rdn => if neg then least else f.signBit neg
  | _ => f.signBit neg

/-- The conversion of 06 R152 into a format other than the block formats, with its events. -/
def convert (v : Num) (f : Fmt) (rm : RMode) (strict : Bool) : Nat × NumEv :=
  match v with
  | .nan => (f.nanCode, {})
  | .zero neg => (f.zeroCode neg, if neg && !f.hasInf then { zsl := 1 } else {})
  | .inf neg => if f.hasInf then (f.infCode neg, {}) else overflowCode f neg strict
  | .fin neg m e =>
    let (r, g) :=
      if f.hasSub && ltPow m e f.emin then
        (roundGrid neg m e (f.emin - (f.sig - 1)) rm, f.emin - (f.sig - 1))
      else roundSig neg m e f.sig rm
    if r = 0 then (f.zeroCode neg, if neg && !f.hasInf then { zsl := 1 } else {})
    else if topExp r g > f.emax then overflowCode f neg strict
    else if f.isLong && ltPow r g f.emin then (flushCode f neg rm, { flushed := 1 })
    else (pack f neg r g, {})

/-- The fixed-mode conversion of residuals: RUP, +Inf beyond the largest finite value, no flag for that (06 R155); a flush counts (R157). -/
def convertResidual (v : Num) : Nat × NumEv :=
  match v with
  | .fin neg m e =>
    let (r, g) := roundSig neg m e Fmt.b32.sig .rup
    if topExp r g > Fmt.b32.emax then (Fmt.b32.infCode neg, {})
    else convert v .b32 .rup false
  | _ => convert v .b32 .rup false

/-! ### Exact arithmetic -/

/-- A signed integer times 2^e as a value; `z` is the sign of an exact zero. -/
def ofDyadic (i : Int) (e : Int) (z : Bool) : Num :=
  if i = 0 then .zero z else .fin (decide (i < 0)) i.natAbs e

/-- The signed significand of a finite value. -/
def signedOf (neg : Bool) (m : Nat) : Int := if neg then -(m : Int) else m

/-- Exact sum; an exact cancellation is +0 (06 R162, 05 R118); the flag says a NaN was generated (06 R167). -/
def addX (a b : Num) : Num × Bool :=
  match a, b with
  | .nan, _ => (.nan, false)
  | _, .nan => (.nan, false)
  | .inf s, .inf t => if s = t then (.inf s, false) else (.nan, true)
  | .inf s, _ => (.inf s, false)
  | _, .inf t => (.inf t, false)
  | .zero s, .zero t => (.zero (s && t), false)
  | .zero _, y => (y, false)
  | x, .zero _ => (x, false)
  | .fin s m e, .fin t n f =>
    let g := if e ≤ f then e else f
    (ofDyadic (signedOf s m * 2 ^ (e - g).toNat + signedOf t n * 2 ^ (f - g).toNat) g false, false)

/-- Exact product; 0 × ±Inf generates a NaN (06 R167); the sign is the exclusive OR (05 R117). -/
def mulX (a b : Num) : Num × Bool :=
  let s := xor a.neg b.neg
  match a, b with
  | .nan, _ => (.nan, false)
  | _, .nan => (.nan, false)
  | .inf _, .zero _ => (.nan, true)
  | .zero _, .inf _ => (.nan, true)
  | .inf _, _ => (.inf s, false)
  | _, .inf _ => (.inf s, false)
  | .zero _, _ => (.zero s, false)
  | _, .zero _ => (.zero s, false)
  | .fin _ m e, .fin _ n f => (.fin s (m * n) (e + f), false)

/-- The value with the other sign. -/
def Num.opp : Num → Num
  | .zero s => .zero (!s)
  | .fin s m e => .fin (!s) m e
  | .inf s => .inf (!s)
  | .nan => .nan

/-- The magnitude of a value. -/
def Num.abs : Num → Num
  | .zero _ => .zero false
  | .fin _ m e => .fin false m e
  | .inf _ => .inf false
  | .nan => .nan

/-- A quotient of magnitudes with 70 bits beyond the divisor's, and a sticky lowest bit: enough for every format. -/
def divMag (m : Nat) (e : Int) (n : Nat) (f : Int) : Nat × Int :=
  let k := Nat.log2 n + 70
  let q := (m <<< k) / n
  let r := (m <<< k) % n
  (2 * q + (if r = 0 then 0 else 1), e - f - k - 1)

/-- Division (05 R141): the flags say a NaN was generated, and that a non-zero value met ±0. -/
def divX (a b : Num) : Num × Bool × Bool :=
  let s := xor a.neg b.neg
  match a, b with
  | .nan, _ => (.nan, false, false)
  | _, .nan => (.nan, false, false)
  | .zero _, .zero _ => (.nan, true, false)
  | .inf _, .inf _ => (.nan, true, false)
  | .inf _, .zero _ => (.inf s, false, true)
  | .inf _, _ => (.inf s, false, false)
  | _, .inf _ => (.zero s, false, false)
  | .zero _, _ => (.zero s, false, false)
  | .fin _ _ _, .zero _ => (.inf s, false, true)
  | .fin _ m e, .fin _ n f => let (q, g) := divMag m e n f; (.fin s q g, false, false)

/-- Integer square root by bits, from bit k down. -/
def isqrtAux (n : Nat) : Nat → Nat → Nat
  | 0, r => if (r + 1) * (r + 1) ≤ n then r + 1 else r
  | k + 1, r =>
    let t := r + 2 ^ (k + 1)
    isqrtAux n k (if t * t ≤ n then t else r)

/-- Integer square root. -/
def isqrt (n : Nat) : Nat := isqrtAux n (Nat.log2 n / 2 + 1) 0

/-- A square root of a magnitude with at least 70 bits and a sticky lowest bit. -/
def sqrtMag (m : Nat) (e : Int) : Nat × Int :=
  let k : Nat := 140 + (if e % 2 = 0 then 0 else 1)
  let x := m <<< k
  let q := isqrt x
  (2 * q + (if q * q = x then 0 else 1), (e - k) / 2 - 1)

/-- Square root (06 R162, R167): a negative non-zero value generates a NaN; √−0 is −0. -/
def sqrtX : Num → Num × Bool
  | .nan => (.nan, false)
  | .zero s => (.zero s, false)
  | .inf false => (.inf false, false)
  | .inf true => (.nan, true)
  | .fin true _ _ => (.nan, true)
  | .fin false m e => let (q, g) := sqrtMag m e; (.fin false q g, false)

/-! ### Comparison, maximum, minimum (06 R163, R164) -/

/-- The order of two values, none when unordered; −0 equals +0. -/
def cmpX (a b : Num) : Option Ordering :=
  match a, b with
  | .nan, _ => none
  | _, .nan => none
  | _, _ =>
    match (addX a b.opp).1 with
    | .nan => some .eq
    | .zero _ => some .eq
    | .fin s _ _ => some (if s then .lt else .gt)
    | .inf s => some (if s then .lt else .gt)

/-- a ≤ b, false when unordered. -/
def leX (a b : Num) : Bool :=
  match cmpX a b with
  | some .lt | some .eq => true
  | _ => false

/-- a < b, false when unordered. -/
def ltX (a b : Num) : Bool :=
  match cmpX a b with
  | some .lt => true
  | _ => false

/-- The maximum of IEEE 754-2019: NaN-propagating, −0 below +0. -/
def maxX (a b : Num) : Num :=
  match cmpX a b with
  | none => .nan
  | some .lt => b
  | some .gt => a
  | some .eq => if a.neg then b else a

/-- The minimum of IEEE 754-2019. -/
def minX (a b : Num) : Num :=
  match cmpX a b with
  | none => .nan
  | some .lt => a
  | some .gt => b
  | some .eq => if a.neg then a else b

/-! ### Arithmetic rounded to a format -/

/-- Round an exact result to nearest even in a format, with its events (06 R155's fixed modes). -/
def roundTo (f : Fmt) (strict : Bool) (v : Num) : Num × NumEv :=
  let (p, ev) := convert v f .rne strict
  ((decode f p).1, ev)

/-- A rounded result and events, from an exact result and whether it generated a NaN. -/
def finish (f : Fmt) (strict : Bool) (r : Num × Bool) : Num × NumEv :=
  let (v, ev) := roundTo f strict r.1
  (v, { ev with nanGen := if r.2 then 1 else 0 })

/-- Rounded sum. -/
def addR (f : Fmt) (strict : Bool) (a b : Num) : Num × NumEv := finish f strict (addX a b)
/-- Rounded product. -/
def mulR (f : Fmt) (strict : Bool) (a b : Num) : Num × NumEv := finish f strict (mulX a b)
/-- Fused multiply-add, rounded once. -/
def fmaR (f : Fmt) (strict : Bool) (a b c : Num) : Num × NumEv :=
  let (p, g1) := mulX a b
  let (s, g2) := addX p c
  finish f strict (s, g1 || g2)
/-- Rounded quotient (05 R141). -/
def divR (f : Fmt) (strict : Bool) (a b : Num) : Num × NumEv :=
  let (q, g, z) := divX a b
  let (v, ev) := finish f strict (q, g)
  (v, { ev with divz := if z then 1 else 0 })
/-- Rounded square root. -/
def sqrtR (f : Fmt) (strict : Bool) (a : Num) : Num × NumEv := finish f strict (sqrtX a)

/-- 2^k as a value. -/
def pow2 (k : Int) : Num := .fin false 1 k

/-- A value times 2^k, exact. -/
def scaleX (v : Num) (k : Int) : Num :=
  match v with
  | .fin s m e => .fin s m (e + k)
  | x => x

/-- The pattern of a value in a format, to nearest even. -/
def patOf (f : Fmt) (v : Num) : Nat := (convert v f .rne false).1

/-- The binary64 value of a pattern. -/
def f64 (p : Word64) : Num := (decode .b64 p.toNat).1
/-- The W48 value of a pattern. -/
def w48 (p : W48) : Num := (decode .w48 p.toNat).1
/-- The W48 pattern of a value. -/
def toW48 (v : Num) : W48 := BitVec.ofNat 48 (patOf .w48 v)

/-! ### K8b blocks (06 R148) -/

/-- The largest magnitude over the finite elements, as its leading exponent. -/
def blockTop : List Num → Option Int
  | [] => none
  | .fin _ m e :: vs =>
    match blockTop vs with
    | none => some (topExp m e)
    | some t => some (if topExp m e ≤ t then t else topExp m e)
  | _ :: vs => blockTop vs

/-- One element of a K8b store at exponent E: its signed value, whether it overflowed, whether a sign was lost. -/
def k8bElem (v : Num) (E : Nat) (rm : RMode) (strict : Bool) : Nat × NumEv :=
  let ovf (neg : Bool) : Nat × NumEv :=
    if strict then (0x80, { strictOvf := 1 }) else (if neg then 0x81 else 0x7F, { sat := 1 })
  match v with
  | .nan => (0x80, {})
  | .inf neg => ovf neg
  | .zero neg => (0, if neg then { zsl := 1 } else {})
  | .fin neg m e =>
    let q := roundGrid neg m e ((E : Int) - 127) rm
    if q > 127 then ovf neg
    else if q = 0 then (0, if neg then { zsl := 1 } else {})
    else (if neg then 256 - q else q, {})

/-- Does some finite element round to a magnitude of 128 at exponent E? -/
def k8bBump (vs : List Num) (E : Nat) (rm : RMode) : Bool :=
  vs.any (fun v => match v with
    | .fin neg m e => decide (roundGrid neg m e ((E : Int) - 127) rm = 128)
    | _ => false)

/-- The K8b block store of 06 R148: the exponent, the elements, the events. -/
def storeK8b (vs : List Num) (rm : RMode) (strict : Bool) : Nat × List Nat × NumEv :=
  let E0 : Nat := match blockTop vs with
    | none => 0
    | some t => (t - 6 + 127).toNat
  let E1 := if E0 > 254 then 254 else E0
  let E2 := if E0 ≤ 254 && k8bBump vs E1 rm then (if E1 + 1 > 254 then 254 else E1 + 1) else E1
  let rs := vs.map (fun v => k8bElem v E2 rm strict)
  (E2, rs.map (·.1), rs.foldl (fun a r => a.add r.2) {})

/-! ### The internal form (06 R149) -/

/-- The 68-bit internal form of a value: CLASS, S, EXP, SIG. -/
def internalForm (v : Num) : BitVec 68 :=
  match v with
  | .zero s => BitVec.ofNat 68 (bitAt s 65)
  | .inf s => BitVec.ofNat 68 (2 * 2 ^ 66 + bitAt s 65)
  | .nan => BitVec.ofNat 68 (3 * 2 ^ 66)
  | .fin s m e =>
    let t := topExp m e
    let sig := if t - 52 ≤ e then m * 2 ^ (e - (t - 52)).toNat else m >>> ((t - 52) - e).toNat
    BitVec.ofNat 68 (2 ^ 66 + bitAt s 65 + (t + 2047).toNat * 2 ^ 53 + sig)

end Sys2Proof.Machine
end

