-- ==== Sys2Proof/Types.lean ====
section
/-! DEFINITION. The plain data that commands carry and that State holds: keys, berths, charts, routes, models,
instances, iterates, runs. What the compiled route or the environment supplies is a field here; what the spec decides
from it is computed under Machine/. -/

namespace Sys2Proof.Machine
open Sys2Proof

/-- Meridian time (13 R314) in units of 2^-32 ns, the grain of the Meridian adder (R315). -/
abbrev Mer := Nat

/-- A command's name: context, ring, sequence number (09 R222, R251). -/
structure CmdKey where
  ctx : Nat
  ring : Nat
  seq : Word
deriving DecidableEq, Repr

/-- A rectangle of whole facets by its origin facet, height and width (01 R16, 05 R124). -/
structure Berth where
  origin : Nat
  h : Nat
  w : Nat
deriving DecidableEq, Repr

/-- One (bank, lane, phase) triple of a bank plan (08 R199): the block is 0 to 15 for the berth's own sector by its
place in the berth (0 = the lowest sector), 16 for the Almanac core. -/
structure Triple where
  block : Nat
  bank : Nat
  lane : Nat
  phase : Nat
deriving DecidableEq, Repr

/-- A receive window that a route declares (08 R214): its Plot range relative to the Plot base, and its writers. -/
structure RecvWin where
  win : Nat
  base : Nat
  len : Nat
  writers : List Nat
  closeOnCommit : Bool
deriving DecidableEq, Repr

/-- The kinds of VARY step (11 R278). -/
inductive VaryKind where
  | orderedRecv | freeReduce | timedWait
deriving DecidableEq, Repr

/-- The region of a model item (02 R52): the Almanac core or the Almanac space of a sector block. -/
inductive Region where
  | core
  | sector (s : Nat)
deriving DecidableEq, Repr

/-- A recheck program (16 R378, R379): its Binnacle cycles W, and the two properties that LOAD_MODEL refuses. -/
structure Recheck where
  w : Nat
  writesInstance : Bool
  writesFixLate : Bool
deriving DecidableEq, Repr

/-- One route of a model image with the figures of its certificate (04 R112, R116) and its listing's data. -/
structure Route where
  berthW : Nat
  berthH : Nat
  vernier : Nat
  rounds : Nat
  setupAk : Nat
  iterAk : Nat
  refactorAk : Nat
  commitAk : Nat
  setupExtra : Nat
  iterLimit : Nat
  sweeps : Nat
  spans : Bool
  spillStream : Bool
  batch : Bool
  mask : Nat
  firstRose : Nat
  plotNeed : List Nat
  plan : List Triple
  writesPlot : Bool
  recv : List RecvWin
  vary : List VaryKind
  recheck : Option Recheck
  code : List Byte
  readsUnwritten : Bool
  reserved : Bool
  base : Nat
  nanAk : Nat
  boundAk : Nat
  consensus : Bool
  tau : Nat
deriving DecidableEq, Repr

/-- The operands of a chart that are model data or instance data (02 R36 to R43, R49); matrices stand row by row, per-stage operands
stage by stage. `hess` to `bndMap` belong to the condensed class, `qxx` to `ubN` to the staged ones, `kF` to `ym` to the Kalman
family (with `info` for the information vector), `xbar` to `dwin` to moving-horizon estimation, the networks f_θ and h to the
classes that learn them; `vary` stands for any instance value that the chart only hands on. -/
inductive Part where
  | hess | ineq | eq | lin | lb | ub | eqRhs | params | linMap | bndMap
  | xhat | qxx | qxu | quu | qx | qu | sA | sB | sc | sC | sD | slb | sub | qN | qNlin | cN | lbN | ubN
  | kF | kG | kc | kW | kC | kV | kVinv | state | cov | info | input | ym
  | xbar | arrival | wInv | uwin | ywin | dwin
  | netW (layer : Nat) | netB (layer : Nat) | obsW (layer : Nat) | obsB (layer : Nat)
  | other
deriving DecidableEq, Repr

/-- Operands with their values as binary64 patterns. -/
abbrev PartData := List (Part × List Word64)

/-- Values added at the end of an operand. -/
def addPart : PartData → Part → List Word64 → PartData
  | [], p, v => [(p, v)]
  | x :: xs, p, v => if x.1 = p then (p, x.2 ++ v) :: xs else x :: addPart xs p v

/-- One field of an instance as the host lays it out: the operand, its chart format code, its first byte, its elements. -/
structure InstField where
  part : Part
  fmt : Nat
  off : Nat
  count : Nat
deriving DecidableEq, Repr

/-- One item of a model image (02 R52, R474): its region and bytes, and, for an operand of the chart, which one, its chart format
code and its elements. -/
structure Item where
  region : Region
  data : List Byte
  part : Part
  fmt : Nat
  count : Nat
deriving DecidableEq, Repr

/-- The canonical chart descriptor's fields (02 R46), as read from its bytes. -/
structure Chart where
  magic : Nat
  version : Nat
  cls : Nat
  method : Nat
  nVar : Nat
  mIneq : Nat
  pEq : Nat
  horizon : Nat
  nx : Nat
  nu : Nat
  stageRows : Nat
  ny : Nat
  formats : List Nat
  flags : Nat
  layers : Nat
  act : Nat
  width : Nat
  tangents : Nat
  vernier : Nat
  termRows : Nat
  patternLen : Nat
  stagemapLen : Nat
  reservedZero : Bool
  pattern : List Byte
  stageMap : List Nat
deriving DecidableEq, Repr

/-- A quadratic problem as setup forms it, binary64 patterns, row by row (02 R36): H (lower triangle read), A, E, q, the bounds
and e. The staged classes are stacked (03 R65, 02 R473). -/
structure ProbData where
  h : List (List Word64)
  a : List (List Word64)
  e : List (List Word64)
  q : List Word64
  lb : List Word64
  ub : List Word64
  ev : List Word64
deriving DecidableEq, Repr

/-- The stream map of a class 0x6 image compiled for streaming (12, before R298): the Sounding's FORMAT and ELEM_COUNT,
the estimator chart's signature, which elements feed which items of the estimator's and of the controller's instance, and which
elements of the controller's iterate and of x⁺ form the Fix payload. -/
structure StreamMap where
  format : Nat
  elems : Nat
  estSig : Word64
  toEst : List (Nat × Part)
  toCtl : List (Nat × Part)
  fixFromIter : List Nat
  fixFromX : List Nat
deriving DecidableEq, Repr

/-- A model image as LOAD_MODEL reads it (09 R232, 02 R48, R474). -/
structure Image where
  desc : List Byte
  sig : Word64
  routes : List Route
  items : List Item
  admmRegion : Region
  warmRegion : Region
  spill : Nat
  instBytes : Nat
  layout : List InstField
  smap : Option StreamMap
deriving DecidableEq, Repr

/-- A model, reserved by its LOAD_MODEL and loaded at that command's commit (02 R49 to R57). -/
structure Model where
  owner : Nat
  loader : CmdKey
  chart : Chart
  sig : Word64
  routes : List Route
  places : List (Nat × Nat)
  first : Nat
  count : Nat
  warmBase : Nat
  warmSize : Nat
  spill : Nat
  instBytes : Nat
  scaleD : List Int
  scaleF : List Int
  parts : PartData
  layout : List InstField
  smap : Option StreamMap
  loaded : Bool
deriving DecidableEq, Repr

/-- An iterate: x, the inequality multipliers y, the equality multipliers ν (03 R65), with the slacks and one-sided
multipliers of interior point and the z of ADMM (04 R472), in binary64 patterns, unscaled. -/
structure Iter where
  x : List Word64
  y : List Word64
  nu : List Word64
  lamL : List Word64
  lamU : List Word64
  sL : List Word64
  sU : List Word64
  z : List Word64
  xhat : List Word64
deriving DecidableEq, Repr

/-- The four figures of 03 R65, binary64 patterns. -/
structure Resid where
  rp : Word64
  rd : Word64
  rg : Word64
  merit : Word64
deriving DecidableEq, Repr

/-- A candidate best iterate (04 R102): the iteration that gave it, the iterate, its residuals, and whether every linear
solve of it met the refinement target (03 R71). -/
structure Cand where
  iter : Nat
  it : Iter
  res : Resid
  refined : Bool
deriving DecidableEq, Repr

/-- Counts of the numeric events and bad pivots of one run (06 R166, 07 R184, 15 R360), with the flushes of Sextant results on
their own (03 R72). -/
structure RunCounts where
  ev : NumEv
  sxtFlushed : Nat
  pivReg : Nat
  pivInertia : Nat
  pivAbandoned : Nat
  productCycles : Nat
  chartRd : Nat
  chartWr : Nat
  almRd : Nat
  sxtOps : Nat
  spillB : Nat
  rasSent : Nat
  rasRecv : Nat
deriving DecidableEq, Repr

/-- No event counted yet. -/
def RunCounts.zero : RunCounts := ⟨{}, 0, 0, 0, 0, 0, 0, 0, 0, 0, 0, 0, 0⟩

/-- The sum of two counts. -/
def RunCounts.add (a b : RunCounts) : RunCounts :=
  ⟨a.ev.add b.ev, a.sxtFlushed + b.sxtFlushed, a.pivReg + b.pivReg, a.pivInertia + b.pivInertia, a.pivAbandoned + b.pivAbandoned,
   a.productCycles + b.productCycles, a.chartRd + b.chartRd, a.chartWr + b.chartWr, a.almRd + b.almRd,
   a.sxtOps + b.sxtOps, a.spillB + b.spillB, a.rasSent + b.rasSent, a.rasRecv + b.rasRecv⟩

/-- The trap record of 06 R168, field by field. -/
structure TrapRec where
  kind : Nat
  unitK : Nat
  opcode : Nat
  count : Nat
  routeAddr : Nat
  step : Nat
  facet : Nat
  strip : Nat
  pos : Nat
  row : Nat
  col : Nat
  fmtA : Nat
  fmtB : Nat
  fmtR : Nat
  pass : Nat
  ak : Nat
  opndA : Nat
  opndB : Nat
  result : Nat
deriving DecidableEq, Repr

/-- Where an accepted command stands between acceptance and commit (09 R226, R247 to R250). -/
inductive CmdPhase where
  | refetch
  | accepted
  | ready
  | awaitFit
  | fitted
  | unloading
  | waiting
  | armed
  | placed
  | running
  | requested
deriving DecidableEq, Repr

/-- A commit request (09 R248) with everything its completion record and Heading write need. -/
structure CommitReq where
  status : Nat
  flags : Nat
  numFlags : Nat
  iterRun : Nat
  res0 : Nat
  res1 : Nat
  res2 : Nat
  res3 : Nat
  stamp : Mer
  ak : Nat
  launched : Bool
  order : Nat
  recheckDone : Bool
  fixWritten : Bool
  bestIter : Nat
  sig : Word64
  merit : Nat
  store : Option (List Byte)
  dualValid : Bool
  charge : Nat
  credit : Int
  headDone : Bool
  fixLen : Nat
  counts : RunCounts
  launchAk : Nat
deriving DecidableEq, Repr

/-- An accepted, uncommitted command (09 R226). -/
structure Cmd where
  key : CmdKey
  desc : Line
  acceptedAt : Mer
  order : Nat
  phase : CmdPhase
  freeAt : List Nat
  deadline : Option Mer
  faultKills : Nat
  rerun : Bool
  avoid : List Nat
  inputIn : Bool
  raw : List Byte
  instOff : Nat
  inst : PartData
  nanElem : Option (Nat × Nat × Nat)
  nanCount : Nat
  image : Option Image
  since : Mer
  launchableAt : Option Mer
  cover : Option Nat
  req : Option CommitReq
  waitRetry : Nat
  chargeDue : Nat
  faultIdx : Nat
  runs : Nat
  rows : List (List Byte)
  bcnOk : Bool
  watched : Bool
deriving DecidableEq, Repr

/-- The phase of a run (01 R34, 03). -/
inductive RunPhase where
  | placed
  | setup
  | iterating
  | stopping
  | commit
  | done
deriving DecidableEq, Repr

/-- A berth's Plot range in one sector block: sector, first line, lines (08 R210). -/
structure PlotRange where
  sector : Nat
  line : Nat
  lines : Nat
deriving DecidableEq, Repr

/-- Which trigger told a run to stop, at which AK cycle (04 R96, R100), and whether a later route-step boundary has passed, at which the
sequencers stopped (R97, 07 R176). -/
structure Trig where
  ak : Nat
  meridian : Bool
  stopped : Bool
deriving DecidableEq, Repr

/-- What a timed wait of a route waits for (11 R278): a Beacon reaching a value, with the AK cycle in which it did; rows
of a peer in a receive window, needed and received; a Meridian time. -/
inductive RWait where
  | beacon (b : Nat) (v : Word) (met : Option Nat)
  | fill (win peer need got : Nat)
  | clock (t : Mer)
deriving DecidableEq, Repr

/-- A run of a command on its berth or berths (11 R281, 04, 05). `prob` is the problem that its setup formed, `base` the point a
real-time SQP step is taken from, `scaleD` and `scaleF` the exponents of D and F (03 R62), `work` the active set's rows with true for
the upper side, `phase1` the t of a phase 1 under way (R79), `mark` the counts at the start of the present phase. -/
structure Run where
  key : CmdKey
  stream : Option Nat
  berths : List Berth
  route : Route
  model : Nat
  isSoft : Bool
  launchAk : Nat
  launchMer : Mer
  armedOff : Option Nat
  phase : RunPhase
  plots : List PlotRange
  triples : List Triple
  wins : List Nat
  cost : Nat
  iter : Nat
  limit : Nat
  phaseStart : Nat
  phaseEnd : Nat
  abandoned : Bool
  last : Option Cand
  best : Option Cand
  bestBuf : Bool
  prob : Option ProbData
  base : List Word64
  scaleD : List Int
  scaleF : List Int
  work : List (Nat × Bool)
  phase1 : Option Word64
  mark : RunCounts
  warmFlags : Nat
  infP : Nat
  infD : Nat
  cert : List Word64
  rhoExp : Int
  status : Option Nat
  trap : Option TrapRec
  trig : Option Trig
  commitAt : Option Nat
  waits : List RWait
  waitAk : Nat
  counts : RunCounts
  slot : Option (Nat × Nat)
  chargeFrom : Mer
deriving DecidableEq, Repr

/-- What a phase of a route moved and issued, which the compiled route fixes (15 R360, 18): product cycles, Chart and Almanac
bytes, Sextant operations, spill and Rastan bytes. -/
structure Traffic where
  productCycles : Nat
  chartRd : Nat
  chartWr : Nat
  almRd : Nat
  sxtOps : Nat
  spillB : Nat
  rasSent : Nat
  rasRecv : Nat
deriving DecidableEq, Repr

/-- What comes with the end of setup: the route's traffic, and the place of a trap. -/
structure SetupData where
  traffic : Traffic
  site : TrapRec
deriving DecidableEq, Repr

/-- What comes with the end of an iteration: the peers' pass flags and the consensus residual (14 R350), the route's traffic, and
the place of a trap. -/
structure IterData where
  cons : List Bool
  consRes : Word64
  traffic : Traffic
  site : TrapRec
deriving DecidableEq, Repr

/-- A batch of SOLVE_BATCH problems (10 R270): its units and the problems in their slots. -/
structure BatchUnit where
  berth : Berth
  triples : List Triple
  plots : List PlotRange
  wins : List Nat
  slots : List (Option CmdKey)
deriving DecidableEq, Repr

/-- A running batch: context, model, class group (quota or SOFT), tick origin in chip AK cycles (10 R270). -/
structure Batch where
  ctx : Nat
  model : Nat
  quota : Bool
  origin : Nat
  units : List BatchUnit
deriving DecidableEq, Repr

/-! ### Operations of cells, pivot units and Sextants (05, 07) -/

/-- A cell of a facet, and the slot of the problem it works for on a batch unit (05 R124, 07 R189). -/
structure CellAt where
  facet : Nat
  strip : Nat
  pos : Nat
  slot : Nat
  ecc : List Nat
deriving DecidableEq, Repr

/-- An operand: its chart format code, its pattern, and its block exponent for the block formats (06 R145). -/
structure Opnd where
  fmt : Nat
  pat : Nat
  blockExp : Nat
deriving DecidableEq, Repr

/-- What the activation stage does with the drained values (05 R136, R137): nothing, or the activation `code` over points of one primal
column and d tangent columns each. -/
inductive ActMode where
  | none
  | layer (code : Nat) (d : Nat)
deriving DecidableEq, Repr

/-- Where a drain goes: the Chart store path, one address for each value that leaves and one for each block exponent, with
its storage format; or the panel buffer of the facet's pivot unit (05 R122, 07 R171). -/
inductive DrainTo where
  | plot (addrs : List Nat) (fmt : Nat) (exps : List Nat) (act : ActMode)
  | panel (elems : List Nat)
deriving DecidableEq, Repr

/-- A Sextant lane at work for a command's run: binary32 or binary64, which of the two binary32 operations of an AK cycle (05 R139),
and the place of the step for a trap. -/
structure SxtAt where
  key : CmdKey
  sector : Nat
  lane : Nat
  single : Bool
  half : Bool
  ecc : List Nat
  site : TrapRec
deriving DecidableEq, Repr

/-- Where a Sextant conversion goes (05 R139, R140; 06 R151): a format that stays in the lane, or a Plot store through the
sector's store path, one address for each element, and the exponent's address for a K8b block. -/
inductive ConvTo where
  | lane (fmt : Nat)
  | plot (fmt : Nat) (addrs : List Nat) (expAddr : Nat)
deriving DecidableEq, Repr

/-- The comparisons of 06 R163. -/
inductive CmpOp where
  | eq | ne | lt | le | gt | ge
deriving DecidableEq, Repr

/-- The kernels whose column steps a pivot unit runs (07 R174, R179 to R181), the solves of an LU factor's block row of U (R180) and of
a tile below a factored one (R177, R189), and the rank-1 changes of R188: of a Cholesky factor, and of the rows of a QR factor. -/
inductive Kernel where
  | chol | ldl | lu | qr | luRow | solve | update | downdate | append | remove
deriving DecidableEq, Repr

/-- A column step: the run, its kernel, the facets of the berth column from the panel's first row down (of the berth row for a QR row
change), the column in the panel and its width, whether the row is an equality row of a quasi-definite system (07 R184), whether the
kernel is regularised (R174), the Sextant lane that scanned the diagonal of a tiled factor (R177), the vector of a rank-1 change
(R188), or for `solve` r of the column and then the factor's elements at the columns right of it; elements that the step first loads
from Chart memory, as facet × 1,024 + 32 × row + column with their values (R177, R183); where completed elements of L and of LD go;
`site` holds the matrix element at the panel's first row and column. -/
structure ColStep where
  key : CmdKey
  kernel : Kernel
  facets : List Nat
  col : Nat
  width : Nat
  eqRow : Bool
  regular : Bool
  scan : Option (Nat × Nat)
  vec : List W48
  load : List (Nat × W48)
  store : List (Nat × Nat)
  storeLd : List (Nat × Nat)
  ecc : List Nat
  site : TrapRec
deriving DecidableEq, Repr

/-! ### Job faults (10 R273) -/

/-- The unit in which a control-word parity error is found: a strip of a facet, a lane of a facet's pivot unit, a lane of a
sector's Sextant. -/
inductive FaultUnit where
  | strip (facet strip : Nat)
  | pivot (facet lane : Nat)
  | sextant (sector lane : Nat)
deriving DecidableEq, Repr

/-- The job faults of 10 R273: a control-word parity error, an uncorrectable Chart read, with the LPDDR5X controller whose read of the
word's Almanac shadow is uncorrectable too (19 R438), and an access outside the berth's Plot (08 R211). -/
inductive JobCause where
  | parity (u : FaultUnit)
  | read (addr : Nat) (shadow : Option Nat)
  | outsidePlot (u : FaultUnit) (addr : Nat)
deriving DecidableEq, Repr

/-- What an event names. -/
structure EvArg where
  cls : Nat
  cause : Nat
  unitKind : Nat := 0
  unitNo : Nat := 0
  key : Option CmdKey := none
  originA : Nat := 0xFFFF
  originB : Nat := 0xFFFF
  detail : List Byte := []
deriving DecidableEq, Repr

/-! ### What arrives -/

/-- A descriptor read's completion: its 64 bytes, or an error or poisoned completion (09 R226, 15 R362). -/
inductive FetchRes where
  | bytes (d : Line)
  | failed
deriving DecidableEq, Repr

/-! ### Fleet frames (14 R341, R342) -/

/-- The TYPE field of a Rastan header. -/
inductive RType where
  | hello | write | beacon | ack | ask | stop | resume | refused
deriving DecidableEq, Repr

/-- A Rastan frame, field by field as 14 R342 lays the header out, with its rows. -/
structure RFrame where
  kind : RType
  fleet : Nat
  src : Nat
  dst : Nat
  all : Bool
  alt : Bool
  retry : Bool
  raise : Bool
  streams : Bool
  lseq : Word
  ack : Word
  winId : Nat
  reason : Nat
  addr : Nat
  value : Word
  aux : Nat
  rows : List (List Byte)
deriving DecidableEq, Repr

/-- How a received frame fails the checks of 14 R341 that are made on the wire: a VLAN tag, a bad FCS. -/
inductive RWire where
  | good | vlan | badFcs
deriving DecidableEq, Repr

/-! ### Sounding and Fix frames (12 R296, R297) -/

/-- A Sounding header line (12 R297). -/
structure SndHdr where
  magic : Nat
  streamId : Nat
  format : Nat
  seq : Word
  elems : Nat
  capSec : Nat
  capNs : Nat
  capFrac : Nat
  rsv : Nat
  srcData : List Byte
deriving DecidableEq, Repr

/-- A Sounding frame as the receive port saw it: the header line when one followed FS, whether its CRC and ECC held,
whether every payload CRC and packet header held, whether word counts and data types were right, the payload. -/
structure SndFrame where
  hdr : Option SndHdr
  hdrGood : Bool
  payGood : Bool
  shapeGood : Bool
  payload : List Byte
deriving DecidableEq, Repr

/-- A Fix frame (12 R297): its header line's fields and its payload. -/
structure FixFrame where
  streamId : Nat
  format : Nat
  kind : Nat
  seq : Word
  elems : Nat
  capSec : Nat
  capNs : Nat
  capFrac : Nat
  status : Nat
  flags : Nat
  emit : Mer
  holdReason : Nat
  fflags : Nat
  missFirst : Word
  missCount : Nat
  merit : Nat
  fixCount : Word
  payload : List Byte
deriving DecidableEq, Repr

/-! ### What leaves the device -/

/-- The PMBus commands that the Binnacle uses on the VDD_CORE regulator (21 R455). -/
inductive PmbOp where
  | voutMode | voutCommand | readVout | readIout | statusWord | clearFaults
deriving DecidableEq, Repr

/-- One thing that leaves the device: a posted memory write (19 R428) with its function, an MSI-X message of a table
entry (R426), a register read's value (20 R442), an I3C read's bytes (19 R432), an in-band interrupt (R434), a Rastan
frame on a port (14), a Fix frame on a transmit port (12), a skew calibration (R295), a PTP message's egress time
(13 R326), a pulse output's level change (13 R336), a PMBus write (21 R455), the bytes of a mailbox read (17 R406). -/
inductive Output where
  | memWrite (fn : Nat) (addr : Nat) (data : List Byte)
  | msix (fn : Nat) (entry : Nat)
  | regRead (path : Nat) (off : Nat) (value : Word)
  | i3cRead (data : List Byte)
  | ibi (kind : Nat) (payload : Word)
  | rastan (port : Nat) (frame : RFrame)
  | fix (port : Nat) (vc : Nat) (frame : FixFrame)
  | skew (port : Nat)
  | ptp (port : Nat) (time : Mer)
  | pulse (n : Nat) (high : Bool) (at0 : Mer)
  | pmbus (op : PmbOp) (mv : Nat)
  | hostRead (fn : Nat) (addr : Nat) (bytes : Nat)
deriving DecidableEq, Repr

end Sys2Proof.Machine
end

