-- ==== Sys2Proof/Syntax.lean ====
section
/-! DEFINITION. The commands of the T9 block: one constructor for each row of spec/opcode_table.json, with the
operands that the environment, the host or a compiled route supplies (log 15). -/

namespace Sys2Proof
open Sys2Proof.Machine

/-- The commands, in the order of the table. -/
inductive Instr where
  | doorbell (fn : Nat) (page : Nat) (ring : Nat) (tail : Word) (ep : Bool)
  | ringEnable (fn : Nat) (page : Nat) (ring : Nat) (w : Word) (rec : Rec)
  | ringDisable (fn : Nat) (page : Nat) (ring : Nat) (w : Word)
  | descriptorAccept (ctx : Nat) (ring : Nat) (badCopies : Nat) (res : FetchRes)
  | loadModel (k : CmdKey) (im : Image)
  | fitCheck
  | unloadModel (k : CmdKey)
  | unloadComplete (k : CmdKey)
  | solveCmd (k : CmdKey)
  | solveBatch (k : CmdKey)
  | estimateCmd (k : CmdKey)
  | streamBind (k : CmdKey)
  | streamUnbind (k : CmdKey)
  | timedLaunch (k : CmdKey)
  | timedLaunchArm (k : CmdKey)
  | launchTrigger (k : CmdKey)
  | beaconSignal (k : CmdKey)
  | beaconWait (k : CmdKey)
  | beaconWaitSatisfied (k : CmdKey)
  | beaconWaitTimeout (k : CmdKey)
  | fenceCmd (k : CmdKey)
  | fenceComplete (k : CmdKey)
  | watchCmd (k : CmdKey)
  | watchFire (k : CmdKey) (step : Nat) (origin : Nat) (words : List Nat)
  | watchCopyEnd (k : CmdKey) (words : List Nat) (lost : Option Nat)
  | watchTruncate (k : CmdKey) (n : Nat) (words : List Nat)
  | attestCmd (k : CmdKey)
  | schedulingRound
  | ladderRetry (k : CmdKey)
  | contextResidency (ctx : Nat) (block : Option (Int × Nat))
  | queuedDeadlineExpiry (k : CmdKey)
  | launchCycle (k : CmdKey)
  | ladderStep (k : CmdKey)
  | setupEnd (k : CmdKey) (data : SetupData)
  | iterationEnd (k : CmdKey) (data : IterData)
  | deadlineTrigger (k : CmdKey)
  | deadlineStop (k : CmdKey)
  | commitPoint (k : CmdKey) (site : TrapRec)
  | recheckEnd (k : CmdKey) (fix : List Byte) (fix2 : List Byte) (words : List Nat) (lost : Option Nat) (shadow : Option Nat)
  | committing (k : CmdKey) (fix : List Byte) (lost : List Nat) (upto : Nat)
  | batchTick (ctx : Nat) (model : Nat) (quota : Bool)
  | firstOp (c : CellAt) (w : Opnd) (n : Opnd) (pass : Nat) (site : TrapRec)
  | mac (c : CellAt) (w : Opnd) (n : Opnd) (pass : Nat) (site : TrapRec) (words : List Nat)
  | msub (c : CellAt) (w : Opnd) (n : Opnd) (pass : Nat) (site : TrapRec)
  | preload (c : CellAt) (v : W48)
  | drainOp (c : CellAt) (dst : DrainTo) (site : TrapRec)
  | idleOp (c : CellAt)
  | columnStep (x : ColStep)
  | pivotDiv (x : ColStep) (row : Nat) (pivot : W48)
  | fma (x : SxtAt) (a : Opnd) (b : Opnd) (c : Opnd)
  | add (x : SxtAt) (a : Opnd) (b : Opnd)
  | sub (x : SxtAt) (a : Opnd) (b : Opnd)
  | mul (x : SxtAt) (a : Opnd) (b : Opnd)
  | divOp (x : SxtAt) (a : Opnd) (b : Opnd)
  | sqrt (x : SxtAt) (a : Opnd)
  | maxOp (x : SxtAt) (a : Opnd) (b : Opnd)
  | minOp (x : SxtAt) (a : Opnd) (b : Opnd)
  | compareOp (x : SxtAt) (op : CmpOp) (a : Opnd) (b : Opnd)
  | absOp (x : SxtAt) (a : Opnd)
  | pow2Scale (x : SxtAt) (a : Opnd) (k : Option Int)
  | convertOp (x : SxtAt) (src : List Opnd) (dst : ConvTo)
  | partitionReset (k : CmdKey) (causes : List JobCause)
  | remoteWrite (row : Nat) (writer : Nat) (data : List Byte) (closing : Bool)
  | windowOpen (win : Nat)
  | windowClose (win : Nat)
  | windowExpiry (win : Nat)
  | windowDescriptorWrite (win : Nat) (word : Nat) (v : Word)
  | almLinesWrite (b : Nat) (v : Word)
  | bankPowerDownRequest (n : Nat)
  | bankPowerDownStart (n : Nat)
  | bankDrainEnd (n : Nat)
  | bankPowerRestore (n : Nat)
  | bankZeroFillEnd (n : Nat)
  | scrubRewrite
  | scrubPeriod (covered : Bool)
  | sectorGate (b : Nat)
  | sectorRestart (b : Nat)
  | droopStretch (mv : Nat)
  | ctxDefine (w : Word) (block : Line)
  | ctxUpdate (w : Word) (block : Line)
  | ctxUndefine (w : Word)
  | ctxBaseWrite (hi : Bool) (w : Word)
  | rsvFacetsWrite (w : Word)
  | fnCtxWrite (f : Nat) (w : Word)
  | beaconRangeSet (w : Word)
  | beaconRangeGet (w : Word)
  | headingRangeSet (w : Word)
  | headingRangeGet (w : Word)
  | headingEntryLatch (path : Nat) (w : Word)
  | contextReset (ctx : Nat) (recs : List (Nat × Rec))
  | deviceEvent (a : EvArg) (facets : List Nat)
  | safeStateExit
  | binRecover (path : Nat) (w : Word)
  | warmReset (path : Nat) (w : Word)
  | warmResetComplete (failed : List Nat)
  | lockstepMismatch
  | binOscLoss
  | clockMonitorWindow (clock : Nat) (count : Nat) (expect : Nat)
  | voltageSample (rail : Nat) (mv : Nat)
  | temperatureSample (sensor : Nat) (tenths : Int)
  | helmHeartbeat (core : Nat)
  | heartbeatTimeout (core : Nat)
  | avsReadback (mv : Nat)
  | avsUpdate (up : Option Bool)
  | pmbAlert (outputFault : Bool) (other : Bool)
  | deadlineWatch (k : CmdKey)
  | traceabilityLoss
  | spareSubstitution (sector : Nat)
  | facetLbistEnd (unit0 : Nat) (pass : Bool)
  | inputReadError (k : CmdKey) (spill : Option Nat)
  | inputReadComplete (k : CmdKey) (data : List Byte) (off : Nat) (words : List Nat) (lost : Option Nat)
  | functionLevelReset (f : Nat)
  | busMasterDisable (f : Nat) (d3 : Bool)
  | busMasterEnable (f : Nat)
  | linkReset (width : Nat) (speed : Nat)
  | msixUnmask (f : Nat) (e : Nat)
  | w1cClear (path : Nat) (off : Nat) (w : Word) (race : Word)
  | rcCounterRead (path : Nat) (off : Nat)
  | registerWrite (path : Nat) (off : Nat) (w : Word) (full : Bool) (ep : Bool)
  | snapMeridian (w : Word)
  | setMeridian (w : Word)
  | switchSource (w : Word)
  | merNowRead (path : Nat)
  | syncSample (i : Nat) (origin : Int) (ingress : Int)
  | delayMeasurement (i : Nat) (t1 : Int) (t2 : Int) (t3 : Int) (t4 : Int)
  | primarySampleTimeout
  | holdLimit
  | announce (i : Nat) (utc : Nat) (valid : Bool) (ptp : Bool) (logSync : Nat)
  | ptpEventIngress (p : Nat) (sub : Nat)
  | ptpEventEgress (p : Nat) (sub : Nat) (seqId : Nat) (msgType : Nat) (carries : Bool)
  | outputArm (n : Nat) (w : Word)
  | outputEdge (n : Nat)
  | inputEdge (i : Nat) (rise : Bool) (sub : Nat)
  | inputFifoPop (i : Nat)
  | hello
  | rastanFrameReceive (port : Nat) (f : RFrame) (wire : RWire)
  | rastanRetry (c : Nat) (lseq : Word)
  | memberDown (c : Nat)
  | timedWaitLimit (k : CmdKey)
  | globalStopRequest (w : Word)
  | globalStop (places : List (Nat × Nat × Nat))
  | scanOutEnd
  | globalResume (w : Word)
  | soundingFrameEnd (port : Nat) (vc : Nat) (f : SndFrame)
  | csiPacketIgnored (port : Nat) (hdrEcc : Bool)
  | streamUnitLaunch (n : Nat) (event : Nat)
  | fixFrameEmit (n : Nat)
  | fixFrameSent (n : Nat)
  | streamWatchdog (n : Nat)
  | streamFailed (n : Nat) (portFault : Bool)
  | skewCalibration (port : Nat) (dur : Mer)
  | counterClear (path : Nat) (w : Word)
  | bsetRead (path : Nat)
  | counterRead (path : Nat)
  | serialRead (path : Nat)
  | traceLost
  | wakePageLatch (w : Word)
  | logWindowLatch (path : Nat) (w : Word)
  | binCfgWrite (path : Nat) (w : Word)
  | helmBreakpoint (core : Nat) (pc : Word64)
  | helmHalt (w : Word)
  | helmResume (w : Word)
  | helmHalted (core : Nat) (pc : Word64)
  | porPin (mode : Nat) (i3cSa : Nat)
  | binnacleSelfTestEnd (pass : Bool)
  | rootPllLock (width : Nat) (speed : Nat)
  | bootRomEnd (core0 : Bool) (key : Bool) (serial : Word64)
  | selfTestEnd (facets : List Nat) (spares : List Nat) (sextants : List Nat) (cores : List Nat) (rows : List Nat) (banks : List Nat) (tables : Bool)
  | firmwareReadEnd (octal : Bool)
  | readyOp (t0 : Bool) (t1 : Bool) (pmb : Bool) (init0 : Bool) (mv : Nat)
  | bootTimeout
  | supplyDetectReset (core : Nat) (sram : Nat)
  | powerDown (short : Bool) (si : Bool) (lg : Bool)
  | mbxReport (path : Nat)
  | mbxAttest (path : Nat)
  | mbxErase (path : Nat)
  | mbxWrite (path : Nat)
  | mbxVerify (path : Nat)
  | mbxReboot (path : Nat)
  | mbxListen (path : Nat)
  | mbxDone (good : Bool)
  | i3cSetPage (first : Nat) (page : Nat)
  | i3cWriteWords (a : Nat) (data : List Byte)
  | i3cSetReadAddr (a : Nat) (n : Nat)
  | entdaa (da : Nat)
  | setdasa (sa : Nat) (da : Nat)
  | setnewda (cur : Nat) (da : Nat)
  | rstdaa
  | enec (events : Nat)
  | disec (events : Nat)
  | getpid
  | getbcr
  | getdcr
  | getstatus
  | getmwl
  | getmrl
  | setmwl (n : Nat)
  | setmrl (n : Nat)
  | getmxds
  | ibiRetry (acked : List Nat)
  | soundingFrameStart (port : Nat) (vc : Nat)
  | rastanSend (k : CmdKey) (peer : Nat) (win : Nat) (off : Nat) (rows : List Nat) (bcn : Option (Nat × Word × Bool)) (waits : List RWait)
  | pcieCompletionTimeout (k : CmdKey) (fetch : Bool)
  | vfEnableClear
  | vddSiOutOfWindow (mv : Nat)
  | fallbackOscillatorStop
  | vddSiLowReset (mv : Nat)
  | bootStepDeadline (part : Nat)
deriving DecidableEq, Repr

end Sys2Proof
end

