-- ==== Sys2Proof/WellFormed.lean ====
section
/-! DEFINITION. Well-formed commands: each operand within the range that the spec gives what it names. -/

namespace Sys2Proof
open Sys2Proof.Machine

namespace Wf

/-- A context, 0 to 4,095 (10 R251). -/
def ctx (n : Nat) : Bool := decide (n < 4096)
/-- A ring of a context, 0 to 7 (09 R221). -/
def ring (n : Nat) : Bool := decide (n < 8)
/-- A function, 0 to 63 (19 R424). -/
def fn (n : Nat) : Bool := decide (n < 64)
/-- A doorbell page (19 R425). -/
def page (n : Nat) : Bool := decide (n < 4096)
/-- A path to the setup registers: a function, or I3C as 64 (20 R443). -/
def path (n : Nat) : Bool := decide (n ≤ 64)
/-- A command's name. -/
def key (k : CmdKey) : Bool := ctx k.ctx && ring k.ring
/-- A sector, 0 to 15 (01 R18). -/
def sector (n : Nat) : Bool := decide (n < 16)
/-- A facet, 0 to 255 (00 R12). -/
def facet (n : Nat) : Bool := decide (n < 256)
/-- A bank: 512 of the sector blocks and 64 of the Almanac core (08 R193). -/
def bank (n : Nat) : Bool := decide (n < 576)
/-- A window, 0 to 1,023 (08 R213). -/
def win (n : Nat) : Bool := decide (n < 1024)
/-- A Helm core, 0 to 7. -/
def core (n : Nat) : Bool := decide (n < 8)
/-- An Ethernet or CSI-2 port, 0 to 3. -/
def port (n : Nat) : Bool := decide (n < 4)
/-- A virtual channel, 0 to 15. -/
def chan (n : Nat) : Bool := decide (n < 16)
/-- A binding, 16 × receive port + virtual channel. -/
def bindingNo (n : Nat) : Bool := decide (n < 64)
/-- A chip of the fleet, 0 to 31 (14 R341). -/
def chip (n : Nat) : Bool := decide (n < 32)
/-- A source slot of the servo (13 R328). -/
def slot (n : Nat) : Bool := decide (n < 2)
/-- A register offset: a whole word (20 R442). -/
def offset (n : Nat) : Bool := decide (n % 4 = 0) && decide (n < 0x110000)
/-- A root period within an AK cycle (01 R28). -/
def sub (n : Nat) : Bool := decide (n < 8)
/-- A cell of the Rose and its slot (01 R14). -/
def cell (c : CellAt) : Bool := facet c.facet && decide (c.strip < 32) && decide (c.pos < 32) && decide (c.slot < 2)
/-- An operand: a chart format code (02 R46), 0x1 to 0xA, with a pattern. -/
def opnd (o : Opnd) : Bool := decide (1 ≤ o.fmt) && decide (o.fmt ≤ 10) && decide (o.pat < 2 ^ 64)
/-- A Sextant lane, 0 to 63 of a sector (05 R139). -/
def lane (x : SxtAt) : Bool := key x.key && sector x.sector && decide (x.lane < 64)
/-- A column step: facets of one berth column, a column of the panel; an equality row is one of LDLᵀ (07 R184). -/
def colStep (x : ColStep) : Bool :=
  key x.key && x.facets.all facet && decide (x.col < 32) && decide (x.width ≤ 32) && (!x.eqRow || decide (x.kernel = .ldl))
/-- A route's constants: 1 to 4 refinement rounds (03 R69), τ from 2^-48 to 2^-12 (07 R184), 1 to 3 Vernier passes (05 R129), a berth of 1
to 256 facets (05 R124). -/
def route (r : Route) : Bool :=
  decide (1 ≤ r.rounds) && decide (r.rounds ≤ 4) && decide (12 ≤ r.tau) && decide (r.tau ≤ 48) && decide (1 ≤ r.vernier) &&
  decide (r.vernier ≤ 3) && decide (1 ≤ r.berthH * r.berthW) && decide (r.berthH * r.berthW ≤ 256)
/-- A Chart row (08 R196). -/
def row (n : Nat) : Bool := decide (n % 512 = 0) && decide (n < 0x14000000)
/-- A 7-bit bus address. -/
def addr7 (n : Nat) : Bool := decide (n < 128)
/-- A byte. -/
def byte (n : Nat) : Bool := decide (n < 256)

end Wf

/-- Is a command well-formed? -/
def Instr.wellFormed : Instr → Bool
  | .doorbell f p r _ _ => Wf.fn f && Wf.page p && Wf.ring r
  | .ringEnable f p r _ _ => Wf.fn f && Wf.page p && Wf.ring r
  | .ringDisable f p r _ => Wf.fn f && Wf.page p && Wf.ring r
  | .descriptorAccept c r _ _ => Wf.ctx c && Wf.ring r
  | .loadModel k im => Wf.key k && im.routes.all Wf.route
  | .fitCheck => true
  | .unloadModel k => Wf.key k
  | .unloadComplete k => Wf.key k
  | .solveCmd k => Wf.key k
  | .solveBatch k => Wf.key k
  | .estimateCmd k => Wf.key k
  | .streamBind k => Wf.key k
  | .streamUnbind k => Wf.key k
  | .timedLaunch k => Wf.key k
  | .timedLaunchArm k => Wf.key k
  | .launchTrigger k => Wf.key k
  | .beaconSignal k => Wf.key k
  | .beaconWait k => Wf.key k
  | .beaconWaitSatisfied k => Wf.key k
  | .beaconWaitTimeout k => Wf.key k
  | .fenceCmd k => Wf.key k
  | .fenceComplete k => Wf.key k
  | .watchCmd k => Wf.key k
  | .watchFire k _ o _ => Wf.key k && decide (o < 256)
  | .watchCopyEnd k _ _ => Wf.key k
  | .watchTruncate k _ _ => Wf.key k
  | .attestCmd k => Wf.key k
  | .schedulingRound => true
  | .ladderRetry k => Wf.key k
  | .contextResidency c _ => Wf.ctx c
  | .queuedDeadlineExpiry k => Wf.key k
  | .launchCycle k => Wf.key k
  | .ladderStep k => Wf.key k
  | .setupEnd k _ => Wf.key k
  | .iterationEnd k _ => Wf.key k
  | .deadlineTrigger k => Wf.key k
  | .deadlineStop k => Wf.key k
  | .commitPoint k _ => Wf.key k
  | .recheckEnd k _ _ _ _ _ => Wf.key k
  | .committing k _ _ _ => Wf.key k
  | .batchTick c _ _ => Wf.ctx c
  | .firstOp c w n p _ => Wf.cell c && Wf.opnd w && Wf.opnd n && decide (p < 6)
  | .mac c w n p _ _ => Wf.cell c && Wf.opnd w && Wf.opnd n && decide (p < 6)
  | .msub c w n p _ => Wf.cell c && Wf.opnd w && Wf.opnd n && decide (p < 6)
  | .preload c _ => Wf.cell c
  | .drainOp c _ _ => Wf.cell c
  | .idleOp c => Wf.cell c
  | .columnStep x => Wf.colStep x
  | .pivotDiv x _ _ => Wf.colStep x
  | .fma x a b c => Wf.lane x && Wf.opnd a && Wf.opnd b && Wf.opnd c
  | .add x a b => Wf.lane x && Wf.opnd a && Wf.opnd b
  | .sub x a b => Wf.lane x && Wf.opnd a && Wf.opnd b
  | .mul x a b => Wf.lane x && Wf.opnd a && Wf.opnd b
  | .divOp x a b => Wf.lane x && Wf.opnd a && Wf.opnd b
  | .sqrt x a => Wf.lane x && Wf.opnd a
  | .maxOp x a b => Wf.lane x && Wf.opnd a && Wf.opnd b
  | .minOp x a b => Wf.lane x && Wf.opnd a && Wf.opnd b
  | .compareOp x _ a b => Wf.lane x && Wf.opnd a && Wf.opnd b
  | .absOp x a => Wf.lane x && Wf.opnd a
  | .pow2Scale x a _ => Wf.lane x && Wf.opnd a
  | .convertOp x src _ => Wf.lane x && src.all Wf.opnd
  | .partitionReset k _ => Wf.key k
  | .remoteWrite r _ data _ => Wf.row r && decide (data.length = 512)
  | .windowOpen w => Wf.win w
  | .windowClose w => Wf.win w
  | .windowExpiry w => Wf.win w
  | .windowDescriptorWrite w i _ => Wf.win w && decide (i < 8)
  | .almLinesWrite b _ => Wf.sector b
  | .bankPowerDownRequest n => Wf.bank n
  | .bankPowerDownStart n => Wf.bank n
  | .bankDrainEnd n => Wf.bank n
  | .bankPowerRestore n => Wf.bank n
  | .bankZeroFillEnd n => Wf.bank n
  | .scrubRewrite => true
  | .scrubPeriod _ => true
  | .sectorGate b => Wf.sector b
  | .sectorRestart b => Wf.sector b
  | .droopStretch _ => true
  | .ctxDefine _ _ => true
  | .ctxUpdate _ _ => true
  | .ctxUndefine _ => true
  | .ctxBaseWrite _ _ => true
  | .rsvFacetsWrite _ => true
  | .fnCtxWrite f _ => Wf.fn f
  | .beaconRangeSet _ => true
  | .beaconRangeGet _ => true
  | .headingRangeSet _ => true
  | .headingRangeGet _ => true
  | .headingEntryLatch p _ => Wf.path p
  | .contextReset c _ => Wf.ctx c
  | .deviceEvent _ facets => facets.all Wf.facet
  | .safeStateExit => true
  | .binRecover p _ => Wf.path p
  | .warmReset p _ => Wf.path p
  | .warmResetComplete failed => failed.all Wf.facet
  | .lockstepMismatch => true
  | .binOscLoss => true
  | .clockMonitorWindow _ _ _ => true
  | .voltageSample r _ => decide (r < 5)
  | .temperatureSample n _ => decide (n < 20)
  | .helmHeartbeat c => Wf.core c
  | .heartbeatTimeout c => Wf.core c
  | .avsReadback _ => true
  | .avsUpdate _ => true
  | .pmbAlert _ _ => true
  | .deadlineWatch k => Wf.key k
  | .traceabilityLoss => true
  | .spareSubstitution k => Wf.sector k
  | .facetLbistEnd u _ => decide (u < 272)
  | .inputReadError k _ => Wf.key k
  | .inputReadComplete k _ _ _ _ => Wf.key k
  | .functionLevelReset f => Wf.fn f
  | .busMasterDisable f _ => Wf.fn f
  | .busMasterEnable f => Wf.fn f
  | .linkReset w v => [1, 2, 4, 8].contains w && decide (1 ≤ v) && decide (v ≤ 5)
  | .msixUnmask f e => Wf.fn f && decide (e < 2048)
  | .w1cClear p off _ _ => Wf.path p && Wf.offset off
  | .rcCounterRead p off => Wf.path p && Wf.offset off
  | .registerWrite p off _ _ _ => Wf.path p && Wf.offset off
  | .snapMeridian _ => true
  | .setMeridian _ => true
  | .switchSource _ => true
  | .merNowRead p => Wf.path p
  | .syncSample i _ _ => Wf.slot i
  | .delayMeasurement i _ _ _ _ => Wf.slot i
  | .primarySampleTimeout => true
  | .holdLimit => true
  | .announce i _ _ _ _ => Wf.slot i
  | .ptpEventIngress p n => Wf.port p && Wf.sub n
  | .ptpEventEgress p n _ _ _ => Wf.port p && Wf.sub n
  | .outputArm n _ => decide (n < 8)
  | .outputEdge n => decide (n < 8)
  | .inputEdge i _ n => Wf.port i && Wf.sub n
  | .inputFifoPop i => Wf.port i
  | .hello => true
  | .rastanFrameReceive p _ _ => Wf.port p
  | .rastanRetry c _ => Wf.chip c
  | .memberDown c => Wf.chip c
  | .timedWaitLimit k => Wf.key k
  | .globalStopRequest _ => true
  | .globalStop _ => true
  | .scanOutEnd => true
  | .globalResume _ => true
  | .soundingFrameEnd p v _ => Wf.port p && Wf.chan v
  | .csiPacketIgnored p _ => Wf.port p
  | .streamUnitLaunch n _ => Wf.bindingNo n
  | .fixFrameEmit n => Wf.bindingNo n
  | .fixFrameSent n => Wf.bindingNo n
  | .streamWatchdog n => Wf.bindingNo n
  | .streamFailed n _ => Wf.bindingNo n
  | .skewCalibration p _ => Wf.port p
  | .counterClear p _ => Wf.path p
  | .bsetRead p => Wf.path p
  | .counterRead p => Wf.path p
  | .serialRead p => Wf.path p
  | .traceLost => true
  | .wakePageLatch _ => true
  | .logWindowLatch p _ => Wf.path p
  | .binCfgWrite p _ => Wf.path p
  | .helmBreakpoint c _ => Wf.core c
  | .helmHalt _ => true
  | .helmResume _ => true
  | .helmHalted c _ => Wf.core c
  | .porPin m a => decide (m < 4) && decide (a < 4)
  | .binnacleSelfTestEnd _ => true
  | .rootPllLock w v => [1, 2, 4, 8].contains w && decide (1 ≤ v) && decide (v ≤ 5)
  | .bootRomEnd _ _ _ => true
  | .selfTestEnd f sp sx co _ bk _ => f.all Wf.facet && sp.all Wf.sector && sx.all Wf.sector && co.all Wf.core && bk.all Wf.bank
  | .firmwareReadEnd _ => true
  | .readyOp _ _ _ _ _ => true
  | .bootTimeout => true
  | .supplyDetectReset _ _ => true
  | .powerDown _ _ _ => true
  | .mbxReport p => Wf.path p
  | .mbxAttest p => Wf.path p
  | .mbxErase p => Wf.path p
  | .mbxWrite p => Wf.path p
  | .mbxVerify p => Wf.path p
  | .mbxReboot p => Wf.path p
  | .mbxListen p => Wf.path p
  | .mbxDone _ => true
  | .i3cSetPage f p => Wf.byte f && Wf.byte p
  | .i3cWriteWords a _ => decide (a < 0x10000)
  | .i3cSetReadAddr a _ => decide (a < 0x10000)
  | .entdaa da => Wf.addr7 da
  | .setdasa sa da => Wf.addr7 sa && Wf.addr7 da
  | .setnewda cur da => Wf.addr7 cur && Wf.addr7 da
  | .rstdaa => true
  | .enec e => Wf.byte e
  | .disec e => Wf.byte e
  | .getpid => true
  | .getbcr => true
  | .getdcr => true
  | .getstatus => true
  | .getmwl => true
  | .getmrl => true
  | .setmwl n => decide (n < 0x10000)
  | .setmrl n => decide (n < 0x10000)
  | .getmxds => true
  | .ibiRetry _ => true
  | .soundingFrameStart p v => Wf.port p && Wf.chan v
  | .rastanSend k peer w _ _ _ _ => Wf.key k && Wf.chip peer && Wf.win w
  | .pcieCompletionTimeout k _ => Wf.key k
  | .vfEnableClear => true
  | .vddSiOutOfWindow _ => true
  | .fallbackOscillatorStop => true
  | .vddSiLowReset _ => true
  | .bootStepDeadline p => decide (p < 4)

end Sys2Proof
end

