-- ==== Sys2Proof/Decode.lean ====
section
/-! DEFINITION. The commands as words. No row of spec/opcode_table.json gives a word any bits, so no word spells a command. -/

namespace Sys2Proof

/-- The command that a word of the table spells: none, as the table gives no row bits. -/
def decodeTableWord (_nbits _w : Nat) : Option Instr := none

end Sys2Proof
end

