-- ==== Sys2Proof/Machine/Vernier.lean ====
section
/-! DEFINITION. Vernier passes and the accumulator of a cell (05 R117 to R119, R128 to R134), and the reductions that a cell
carries out over a product step (R120). -/

namespace Sys2Proof.Machine
open Sys2Proof

/-! ### Chunks and passes -/

/-- The significand of a finite operand as 36 bits under P_c chunks, and its exponent: wider ones are rounded to nearest. -/
def sig36 (pc : Nat) (neg : Bool) (m : Nat) (e : Int) : Nat × Int :=
  let (r, g) := roundSig neg m e (12 * pc) .rne
  let l := Nat.log2 r
  (if l ≤ 35 then r <<< (35 - l) else r >>> (l - 35), topExp r g)

/-- Chunk i of a finite operand as a value. -/
def chunk (pc i : Nat) (neg : Bool) (m : Nat) (e : Int) : Num :=
  let (s, t) := sig36 pc neg m e
  let c := s / 2 ^ (24 - 12 * i) % 4096
  if c = 0 then .zero neg else .fin neg c (t - 11 - 12 * i)

/-- The chunk pairs of a mode, west first (05 R129). -/
def passPairs (pc : Nat) : List (Nat × Nat) :=
  match pc with
  | 1 => [(0, 0)]
  | 2 => [(0, 1), (1, 0), (0, 0)]
  | _ => [(0, 2), (2, 0), (1, 1), (0, 1), (1, 0), (0, 0)]

/-- The product that a cell forms in a pass, with the flag of a generated NaN; none when a special operand has already
acted on the first pass (05 R134). -/
def cellProduct (pc pass : Nat) (a b : Num) : Option (Num × Bool) :=
  match a, b with
  | .fin s m e, .fin t n f =>
    let (i, j) := (passPairs pc).getD pass (0, 0)
    some (mulX (chunk pc i s m e) (chunk pc j t n f))
  | _, _ => if pass = 0 then some (mulX a b) else none

/-! ### The accumulator -/

/-- Round to W48 with its events. -/
def toAcc (strict : Bool) (r : Num × Bool) : Num × NumEv := finish .w48 strict r

/-- The accumulator after a product: written by FIRST, added or subtracted by MAC and MSUB (05 R117, R119). -/
def accAfter (strict : Bool) (op : Nat) (acc prod : Num) : Num × NumEv :=
  if op = 1 then (prod, {})
  else if op = 2 then addR .w48 strict acc prod
  else addR .w48 strict acc prod.opp

/-! ### Reductions inside a cell (05 R118, R120) -/

/-- The passes of one multiply-accumulate on an accumulator, empty at first: FIRST on an empty one, then MAC, or MSUB. -/
def cellPasses (pc : Nat) (strict sub : Bool) (a b : Num) : List Nat → Option Num → NumEv → Option Num × NumEv
  | [], acc, ev => (acc, ev)
  | p :: ps, acc, ev =>
    match cellProduct pc p a b with
    | none => cellPasses pc strict sub a b ps acc ev
    | some x =>
      let (v, e1) := toAcc strict x
      match acc with
      | none => cellPasses pc strict sub a b ps (some v) (ev.add e1)
      | some c =>
        let (z, e2) := accAfter strict (if sub then 3 else 2) c v
        cellPasses pc strict sub a b ps (some z) ((ev.add e1).add e2)

/-- A reduction in increasing k, within one k in pass order (05 R120). -/
def cellReduce (pc : Nat) (strict sub : Bool) : List Num → List Num → Option Num → NumEv → Option Num × NumEv
  | a :: as0, b :: bs, acc, ev =>
    let (x, e) := cellPasses pc strict sub a b (List.range (passPairs pc).length) acc ev
    cellReduce pc strict sub as0 bs x e
  | _, _, acc, ev => (acc, ev)

end Sys2Proof.Machine
end

