-- ==== Sys2Proof/Machine/Work.lean ====
section
/-! DEFINITION. The arithmetic of a solve as a computation that keeps a tally of its events: Sextant operations in binary64 with
fused dot products and the lane tree (05 R139 to R141), products on the Rose into W48 (05 R120), and the tally that a run takes
over (06 R165, R166; 07 R185; 03 R71). -/

namespace Sys2Proof.Machine
open Sys2Proof

/-- A vector, and a matrix by rows. -/
abbrev Vec := List Num
abbrev Mat := List (List Num)

/-- What a solve's arithmetic has counted: numeric events, the flushes of Sextant results among them (03 R72), replaced pivots by
policy, pivots that end the command, and the last-round norms ‖r‖ and ‖b‖ of each refined solve (03 R71). -/
structure Tally where
  ev : NumEv := {}
  sxtFlushed : Nat := 0
  pivReg : Nat := 0
  pivInertia : Nat := 0
  aborts : Nat := 0
  solves : List (Num × Num) := []
deriving DecidableEq, Repr

/-- A computation with its tally. -/
abbrev Work := StateM Tally

/-- What fixes the arithmetic of a run: NUMCTL, the passes of the route's Vernier mode, its refinement rounds, the pivot policy of
the command, τ as 2^-τ, the berth side S = 32 min(h, w). -/
structure Arith where
  num : NumCtl
  pc : Nat
  rounds : Nat
  policy : Nat
  tau : Nat
  side : Nat
deriving DecidableEq, Repr

/-- +0 and 1. -/
def nz : Num := .zero false
def n1 : Num := .fin false 1 0

/-- Take a result and add its events to the tally. -/
def note {α : Type} (r : α × NumEv) : Work α := do
  modify (fun t => { t with ev := t.ev.add r.2 })
  return r.1

/-- Take a result of the Sextant, whose flushes it counts on its own (03 R72). -/
def noteS {α : Type} (r : α × NumEv) : Work α := do
  modify (fun t => { t with ev := t.ev.add r.2, sxtFlushed := t.sxtFlushed + r.2.flushed })
  return r.1

/-- Work that an earlier phase has done and counted: its result again, without its events. -/
def again {α : Type} (w : Work α) : Work α := pure (w.run {}).1

/-! ### The Sextant (03 R72, 05 R139, R141) -/

def sAdd (A : Arith) (a b : Num) : Work Num := noteS (addR .b64 A.num.strict a b)
def sSub (A : Arith) (a b : Num) : Work Num := noteS (addR .b64 A.num.strict a b.opp)
def sMul (A : Arith) (a b : Num) : Work Num := noteS (mulR .b64 A.num.strict a b)
def sDiv (A : Arith) (a b : Num) : Work Num := noteS (divR .b64 A.num.strict a b)
def sSqrt (A : Arith) (a : Num) : Work Num := noteS (sqrtR .b64 A.num.strict a)
def sFma (A : Arith) (a b c : Num) : Work Num := noteS (fmaR .b64 A.num.strict a b c)

/-- A power-of-two scaling in binary64 (05 R140): exact unless it leaves the format's range. -/
def sScale (A : Arith) (v : Num) (k : Int) : Work Num := noteS (roundTo .b64 A.num.strict (scaleX v k))

/-- A dot product inside one lane, from element 0 up, one fused multiply-add a term (03 R61). -/
def sDot (A : Arith) (xs ys : Vec) : Work Num := (xs.zip ys).foldlM (fun a p => sFma A p.1 p.2 a) nz

/-- The fixed pairwise tree (05 R141): lane 2i with lane 2i + 1, level by level. -/
def treeLevels {α : Type} (f : α → α → Work α) : Nat → List α → Work (List α)
  | 0, xs => pure xs
  | n + 1, xs =>
    let rec level : List α → Work (List α)
      | a :: b :: r => do return (← f a b) :: (← level r)
      | r => pure r
    do treeLevels f n (← level xs)

/-- The elements of each of 64 lanes, element i in lane i mod 64. -/
def lanes {α : Type} (xs : List α) : List (List α) :=
  (List.range (if xs.length < 64 then xs.length else 64)).map (fun l => (xs.zipIdx.filter (fun x => x.2 % 64 = l)).map (·.1))

/-- A dot product over 64 lanes: each lane over its elements in increasing order, then the tree (05 R141). -/
def sLaneDot (A : Arith) (xs ys : Vec) : Work Num := do
  let ps ← (lanes (xs.zip ys)).mapM (fun l => l.foldlM (fun a p => sFma A p.1 p.2 a) nz)
  return (← treeLevels (sAdd A) 6 ps).headD nz

/-- A sum over 64 lanes. -/
def sLaneSum (A : Arith) (xs : Vec) : Work Num := do
  let ps ← (lanes xs).mapM (fun l => match l with | [] => pure nz | v :: vs => vs.foldlM (sAdd A) v)
  return (← treeLevels (sAdd A) 6 ps).headD nz

/-- The largest magnitude, NaN-propagating (06 R164). -/
def vNorm (xs : Vec) : Num := xs.foldl (fun a x => maxX a x.abs) nz

def vAdd (A : Arith) (xs ys : Vec) : Work Vec := (xs.zip ys).mapM (fun p => sAdd A p.1 p.2)
def vSub (A : Arith) (xs ys : Vec) : Work Vec := (xs.zip ys).mapM (fun p => sSub A p.1 p.2)
def vNeg (xs : Vec) : Vec := xs.map Num.opp

/-- x + a d, one fused multiply-add an element. -/
def vAxpy (A : Arith) (a : Num) (d x : Vec) : Work Vec := (d.zip x).mapM (fun p => sFma A a p.1 p.2)

/-- Element (i, j) of a matrix, +0 outside it. -/
def mat (m : Mat) (i j : Nat) : Num := (m.getD i []).getD j nz

/-- Column j, and the transpose with n columns. -/
def mCol (m : Mat) (j : Nat) : Vec := m.map (fun r => r.getD j nz)
def mTr (n : Nat) (m : Mat) : Mat := (List.range n).map (mCol m)

/-- A matrix times a vector: one lane a row. -/
def sMatVec (A : Arith) (m : Mat) (x : Vec) : Work Vec := m.mapM (fun r => sDot A r x)

/-- A transposed matrix of n columns times a vector. -/
def sMatTVec (A : Arith) (n : Nat) (m : Mat) (y : Vec) : Work Vec := (List.range n).mapM (fun j => sDot A (mCol m j) y)

/-- The square matrix whose lower triangle is given (02 R36). -/
def mSym (n : Nat) (m : Mat) : Mat := (List.range n).map (fun i => (List.range n).map (fun j => if j ≤ i then mat m i j else mat m j i))

/-- A diagonal matrix of n ones, r rows. -/
def mEye (r n : Nat) : Mat := (List.range r).map (fun i => (List.range n).map (fun j => if i = j then n1 else nz))

/-- A block of a matrix. -/
def mBlock (m : Mat) (i0 r j0 c : Nat) : Mat := (List.range r).map (fun i => (List.range c).map (fun j => mat m (i0 + i) (j0 + j)))

/-- A vector of n elements of a list from one on, zeros beyond its end. -/
def vSeg (v : Vec) (o n : Nat) : Vec := (List.range n).map (fun i => v.getD (o + i) nz)

/-! ### The Rose -/

/-- A value in a W48 container (05 R117). -/
def toRose (A : Arith) (v : Num) : Work Num := note (roundTo .w48 A.num.strict v)

/-- One output element of a product step: from a preloaded value or an empty accumulator, added or subtracted. -/
def rDot (A : Arith) (sub : Bool) (acc : Option Num) (xs ys : Vec) : Work Num := do
  return (← note (cellReduce A.pc A.num.strict sub xs ys acc {})).getD nz

/-- A product step C = X·Y, Y by its columns (05 R120). -/
def rMul (A : Arith) (x cols : Mat) : Work Mat := x.mapM (fun r => cols.mapM (fun c => rDot A false none r c))

/-- A product step on preloaded values P + X·Y (05 R117). -/
def rMulAdd (A : Arith) (p x cols : Mat) : Work Mat :=
  (p.zip x).mapM (fun pr => (pr.1.zip cols).mapM (fun pc => rDot A false (some pc.1) pr.2 pc.2))

/-- Its lower triangle alone, mirrored. -/
def rSymAdd (A : Arith) (p x cols : Mat) : Work Mat := do
  let n := p.length
  let low ← (List.range n).mapM (fun i => (List.range (i + 1)).mapM (fun j => rDot A false (some (mat p i j)) (x.getD i []) (cols.getD j [])))
  return mSym n low

/-- Values as a matrix in W48. -/
def mRose (A : Arith) (m : Mat) : Work Mat := m.mapM (fun r => r.mapM (toRose A))

end Sys2Proof.Machine
end

