-- ==== Sys2Proof/Machine/Factor.lean ====
section
/-! DEFINITION. Factors and triangular solves (07 R171 to R191): pivots and their policies, the blocked and the tiled
factorisation, the sweeps of rose_solve, the refinement loop (03 R69 to R71), Householder QR and rank-1 changes. -/

namespace Sys2Proof.Machine
open Sys2Proof

/-! ### Pivots (07 R172, R184, R185) -/

/-- s × d. -/
def signedPivot (neg : Bool) (d : Num) : Num := if neg then d.opp else d

/-- A reference magnitude, or 1 where it is 0 or not finite. -/
def dmaxNum (v : Num) : Num :=
  match v.abs with
  | .fin _ m e => .fin false m e
  | _ => .fin false 1 0

/-- The largest magnitude of a list, a NaN where it holds one (06 R164). -/
def dmaxOfVec (xs : Vec) : Num := dmaxNum (vNorm xs)

/-- τ × dmax. -/
def tauDmax (tau : Nat) (dmax : Num) : Num := scaleX dmax (-(tau : Int))

/-- Is a pivot bad? -/
def pivotBad (thr d : Num) (neg : Bool) : Bool := leX (signedPivot neg d) thr

/-- 2^(⌊log₂ v⌋ + 1). -/
def nextPow (v : Num) : Num :=
  match v with
  | .fin _ m e => .fin false 1 (topExp m e + 1)
  | _ => .fin false 1 0

/-- The replacement of a bad pivot under REGULARISE (code 0) and INERTIA (code 2). -/
def replacePivot (strict : Bool) (policy : Nat) (thr d : Num) (neg : Bool) : Num × NumEv :=
  if policy = 0 then
    let v := (addX thr (signedPivot neg d).opp).1
    let dr := nextPow (maxX v thr)
    addR .w48 strict d (if neg then dr.opp else dr)
  else
    let v := maxX d.abs (nextPow thr)
    (if neg then v.opp else v, {})

/-- r of a pivot: 1/√d for Cholesky, 1/d otherwise, correctly rounded to W48 (07 R172), with its flush. -/
def recipOf (kernel : Kernel) (d : Num) : Num × NumEv :=
  let one : Num := .fin false 1 0
  match kernel with
  | .chol =>
    -- 1/√d from √(1/d), with more than 60 bits and a sticky bit at each stage
    roundTo .w48 false (divX one (sqrtX d).1).1
  | _ => roundTo .w48 false (divX one d).1

/-- The quotient A × r, rounded once to W48. -/
def quotient (strict : Bool) (a r : Num) : Num × NumEv := mulR .w48 strict a r

/-- A fused a − b × c in W48. -/
def fusedSub (strict : Bool) (a b c : Num) : Num × NumEv := fmaR .w48 strict b.opp c a

/-- A value entering a pivot unit: ±Inf is an overflow into W48 (07 R173). -/
def enterPivot (strict : Bool) (v : Num) : W48 × NumEv :=
  match v with
  | .inf neg => if strict then (toW48 v, { strictOvf := 1 }) else (BitVec.ofNat 48 (Fmt.maxCode .w48 neg), { sat := 1 })
  | x => (toW48 x, {})

/-- The pivot to use, the policy's count on the tally (07 R185). -/
def usePivot (A : Arith) (thr d : Num) (neg : Bool) : Work Num :=
  if !pivotBad thr d neg then pure d
  else if A.policy = 1 then do modify (fun t => { t with aborts := t.aborts + 1 }); return d
  else do
    modify (fun t => if A.policy = 2 then { t with pivInertia := t.pivInertia + 1 } else { t with pivReg := t.pivReg + 1 })
    note (replacePivot A.num.strict A.policy thr d neg)

/-! ### Cholesky and LDLᵀ (07 R174 to R179) -/

/-- A factor: L below and on the diagonal (for LDLᵀ the diagonal holds D), LD for the trailing updates, and r of each column. -/
structure Factor where
  kern : Kernel
  n : Nat
  l : Mat
  ld : Mat
  r : Vec
deriving DecidableEq, Repr

/-- Replace the elements of a matrix from row i on by a function of row and column. -/
def mRows (m : Mat) (lo hi : Nat) (f : Nat → List Num → Work (List Num)) : Work Mat :=
  m.zipIdx.mapM (fun x => if lo ≤ x.2 ∧ x.2 < hi then f x.2 x.1 else pure x.1)

/-- The quotients of column k over rows lo to hi: L and LD (07 R174, R179). -/
def scaleColumn (A : Arith) (f : Factor) (k lo hi : Nat) (d r : Num) : Work Factor := do
  let l ← mRows f.l lo hi (fun _ row => do return row.set k (← note (quotient A.num.strict (row.getD k nz) r)))
  let ld ← mRows f.ld lo hi (fun i row => do
    return row.set k (← if f.kern = .ldl then note (mulR .w48 A.num.strict d (mat l i k)) else pure (mat l i k)))
  return { f with l := l, ld := ld }

/-- The updates of rows lo to hi by column k, in columns k + 1 to kend − 1 (07 R174). -/
def updateRows (A : Arith) (f : Factor) (k kend lo hi : Nat) : Work Factor := do
  let l ← mRows f.l lo hi (fun i row => row.zipIdx.mapM (fun x =>
    if k < x.2 ∧ x.2 < kend ∧ x.2 ≤ i then note (fusedSub A.num.strict x.1 (row.getD k nz) (mat f.ld x.2 k)) else pure x.1))
  return { f with l := l }

/-- Column step k of a panel that ends before column kend, over rows up to rend. -/
def columnStep (A : Arith) (reg : Vec) (neg : List Bool) (thr : Num) (kend rend : Nat) (f : Factor) (k : Nat) : Work Factor := do
  let d ← note (addR .w48 A.num.strict (mat f.l k k) (reg.getD k nz))
  let d ← usePivot A thr d (neg.getD k false)
  let r ← note (recipOf f.kern d)
  let dk ← if f.kern = .chol then note (sqrtR .w48 A.num.strict d) else pure d
  let f := { f with l := f.l.modify k (fun row => row.set k dk), r := f.r ++ [r] }
  let f ← scaleColumn A f k (k + 1) rend d r
  updateRows A f k kend (k + 1) rend

/-- A trailing update on the Rose: rows and columns lo to hi, over the columns [c0, c1) (07 R174, R177). -/
def trailing (A : Arith) (c0 c1 rlo rhi clo chi : Nat) (f : Factor) : Work Factor := do
  let l ← mRows f.l rlo rhi (fun i row => row.zipIdx.mapM (fun x =>
    if clo ≤ x.2 ∧ x.2 < chi ∧ x.2 ≤ i then rDot A true (some x.1) (vSeg row c0 (c1 - c0)) (vSeg (f.ld.getD x.2 []) c0 (c1 - c0))
    else pure x.1))
  return { f with l := l }

/-- chol_berth on the super-tile [k0, k1): panels of 32 columns, each followed by its trailing update (07 R174). -/
def cholBerth (A : Arith) (reg : Vec) (neg : List Bool) (thr : Num) (k0 k1 : Nat) (f : Factor) : Work Factor :=
  (List.range ((k1 - k0 + 31) / 32)).foldlM (fun f j => do
    let c0 := k0 + 32 * j
    let c1 := if c0 + 32 < k1 then c0 + 32 else k1
    let f ← ((List.range (c1 - c0)).map (c0 + ·)).foldlM (columnStep A reg neg thr c1 k1) f
    trailing A c0 c1 c1 k1 c1 k1 f) f

/-- L_IK of every super-tile below the diagonal one: one column step a column, with the pivots' r (07 R177). -/
def solveBelow (A : Arith) (k0 k1 n : Nat) (f : Factor) : Work Factor :=
  ((List.range (k1 - k0)).map (k0 + ·)).foldlM (fun f k => do
    let f ← scaleColumn A f k k1 n (mat f.l k k) (f.r.getD k nz)
    updateRows A f k k1 k1 n) f

/-- The factor of the lower triangle of a matrix in W48: in the berth when it fits, else super-tile by super-tile (07 R174, R177);
for n at most the side the tiled order is that of the berth. -/
def factorise (A : Arith) (kern : Kernel) (m : Mat) (reg : Vec) (neg : List Bool) : Work Factor := do
  let n := m.length
  let sd := if A.side = 0 then 32 else A.side
  let thr := tauDmax A.tau (dmaxOfVec ((List.range n).map (fun k => mat m k k)))
  let f : Factor := { kern := kern, n := n, l := m, ld := m, r := [] }
  (List.range ((n + sd - 1) / sd)).foldlM (fun f t => do
    let k0 := sd * t
    let k1 := if k0 + sd < n then k0 + sd else n
    let f ← cholBerth A reg neg thr k0 k1 f
    let f ← solveBelow A k0 k1 n f
    trailing A k0 k1 k1 n k1 n f) f

/-! ### Triangular solves (07 R182) -/

/-- The forward sweep: successive fused subtractions in increasing j; for Cholesky the quotient by the diagonal enters the sum of
the later rows, for LDLᵀ the unscaled value does and r_k is applied to the result (log 120). -/
def sweepForward (A : Arith) (f : Factor) (b : Vec) : Work Vec := do
  let ws ← (List.range f.n).foldlM (fun (ys : Vec) k => do
    let acc ← (List.range k).foldlM (fun a j => note (fusedSub A.num.strict a (mat f.l k j) (ys.getD j nz))) (b.getD k nz)
    let y ← if f.kern = .chol then note (quotient A.num.strict acc (f.r.getD k nz)) else pure acc
    return ys ++ [y]) []
  if f.kern = .ldl then (ws.zip f.r).mapM (fun p => note (quotient A.num.strict p.1 p.2)) else return ws

/-- The backward sweep with Lᵀ, in decreasing j; the result's element n − 1 − i stands at place i until the end. -/
def sweepBackward (A : Arith) (f : Factor) (y : Vec) : Work Vec := do
  let xs ← (List.range f.n).foldlM (fun (xs : Vec) i => do
    let k := f.n - 1 - i
    let acc ← (List.range i).foldlM (fun a t => note (fusedSub A.num.strict a (mat f.l (f.n - 1 - t) k) (xs.getD t nz))) (y.getD k nz)
    let x ← if f.kern = .chol then note (quotient A.num.strict acc (f.r.getD k nz)) else pure acc
    return xs ++ [x]) []
  return xs.reverse

/-- A right-hand side entering the pivot units: converted to W48 under the command's rounding mode; ±Inf is an overflow (R173). -/
def enterRhs (A : Arith) (v : Num) : Work Num := do
  let (p, e) := convert v .w48 A.num.rm A.num.strict
  let x ← note ((decode .w48 p).1, e)
  if v.isInf then return w48 (← note (enterPivot A.num.strict x)) else return x

/-- rose_solve: the sweeps of a factor, its result widened exactly to binary64. -/
def roseSolve (A : Arith) (f : Factor) (b : Vec) : Work Vec := do
  let b ← b.mapM (enterRhs A)
  sweepBackward A f (← sweepForward A f b)

/-- LU with partial pivoting (07 R180): the rows in the order of the permutation, unit L below the diagonal and U on and above it. -/
structure LuFactor where
  n : Nat
  lu : Mat
  r : Vec
deriving DecidableEq, Repr

/-- rose_solve of an LU factor: a forward sweep with unit L, a backward sweep with U (07 R182); b comes in permuted order. -/
def roseSolveLu (A : Arith) (f : LuFactor) (b : Vec) : Work Vec := do
  let b ← b.mapM (enterRhs A)
  let ys ← (List.range f.n).foldlM (fun (ys : Vec) k => do
    let acc ← (List.range k).foldlM (fun a j => note (fusedSub A.num.strict a (mat f.lu k j) (ys.getD j nz))) (b.getD k nz)
    return ys ++ [acc]) []
  let xs ← (List.range f.n).foldlM (fun (xs : Vec) i => do
    let k := f.n - 1 - i
    let acc ← (List.range i).foldlM (fun a t => note (fusedSub A.num.strict a (mat f.lu k (f.n - 1 - t)) (xs.getD t nz))) (ys.getD k nz)
    return xs ++ [← note (quotient A.num.strict acc (f.r.getD k nz))]) []
  return xs.reverse

/-! ### Refinement (03 R69 to R71) -/

/-- The exponent of the power of two that brings a norm into [1, 2); 0 for a zero, an infinity or a NaN. -/
def unitExp (v : Num) : Int := match v with | .fin _ m e => -topExp m e | _ => 0

/-- One refinement round: the step so far, the last ‖r‖. -/
def refineRound (A : Arith) (solve : Vec → Work Vec) (mul : Vec → Work Vec) (b : Vec) (s : Vec × Num) : Work (Vec × Num) := do
  let md ← mul s.1
  let r ← vSub A b md
  let k := unitExp (vNorm r)
  let rt ← r.mapM (fun v => sScale A v k)
  let c ← solve rt
  let c ← c.mapM (fun v => sScale A v (-k))
  return (← vAdd A s.1 c, vNorm r)

/-- refined_solve: the first solve and every round, whatever the target says (R69); the tally takes ‖r‖ of the last round, that of
the solution after rounds − 1 corrections, and ‖b‖ (R71). -/
def refinedWith (A : Arith) (solve mul : Vec → Work Vec) (b : Vec) : Work Vec := do
  let d ← solve b
  let (d, r) ← (List.range A.rounds).foldlM (fun s _ => refineRound A solve mul b s) (d, nz)
  modify (fun t => { t with solves := t.solves ++ [(r, vNorm b)] })
  return d

/-- refined_solve against the matrix as formed, held in W48 (R70). -/
def refinedSolve (A : Arith) (f : Factor) (m : Mat) (b : Vec) : Work Vec := refinedWith A (roseSolve A f) (sMatVec A m) b

/-- Did a solve meet the target: ‖r‖ ≤ 2^-40 ‖b‖ (R71)? -/
def metTarget (x : Num × Num) : Bool := leX x.1 (scaleX x.2 (-40))

/-! ### Householder QR (07 R181) and rank-1 changes (R188) -/

/-- The norm of rows k on of a column: a fused sum of squares in increasing row, then the square root (07 R172; log 121). -/
def tailNorm (strict : Bool) (col : Vec) (k : Nat) : Num × NumEv :=
  let (q, e) := (col.drop k).foldl (fun (a : Num × NumEv) v => let (x, e) := fmaR .w48 strict v v a.1; (x, a.2.add e)) (nz, {})
  let (v, e2) := sqrtR .w48 strict q
  (v, e.add e2)

/-- A reflector v with β = 2 / vᵀv that takes column k to +‖·‖ in row k: v = x − ‖x‖ e_k where x_k is not positive, and its
negative image otherwise, the sign going into Q (07 R181; log 121). -/
structure Reflector where
  k : Nat
  v : Vec
  beta : Num
  flip : Bool
deriving DecidableEq, Repr

/-- Apply a reflector to a column of W48 values: x − (β vᵀx) v, then the sign of row k. -/
def reflect (strict : Bool) (h : Reflector) (x : Vec) : Vec × NumEv :=
  let (w, e1) := (h.v.zip (x.drop h.k)).foldl (fun (a : Num × NumEv) p => let (y, e) := fmaR .w48 strict p.1 p.2 a.1; (y, a.2.add e)) (nz, {})
  let (g, e2) := mulR .w48 strict h.beta w
  let low := (h.v.zip (x.drop h.k)).map (fun p => fusedSub strict p.2 g p.1)
  let vs := low.map (·.1)
  let vs := if h.flip then (match vs with | a :: r => a.opp :: r | [] => []) else vs
  (x.take h.k ++ vs, low.foldl (fun a p => a.add p.2) (e1.add e2))

/-- The reflector of column k whose remaining norm is d. -/
def reflectorOf (strict : Bool) (col : Vec) (k : Nat) (d : Num) : Reflector × NumEv :=
  let xk := col.getD k nz
  let flip := !xk.neg
  let (v0, e1) := if flip then addR .w48 strict xk d else addR .w48 strict xk d.opp
  let v := v0 :: col.drop (k + 1)
  let (q, e2) := v.foldl (fun (a : Num × NumEv) x => let (y, e) := fmaR .w48 strict x x a.1; (y, a.2.add e)) (nz, {})
  let (b, e3) := divR .w48 strict (.fin false 2 0) q
  (⟨k, v, b, flip⟩, (e1.add e2).add e3)

/-- R (upper, by columns) and the reflectors of Q, of a matrix given by columns of r rows (07 R181, R184, R188). -/
def qrFactor (A : Arith) (r : Nat) (cols : Mat) : Work (Mat × List Reflector) := do
  let norms ← cols.mapM (fun c => note (tailNorm A.num.strict c 0))
  let thr := tauDmax A.tau (dmaxOfVec norms)
  let cols ← mRose A (cols.map (fun c => vSeg c 0 r))
  (List.range cols.length).foldlM (fun (s : Mat × List Reflector) k => do
    let col := s.1.getD k []
    let d ← note (tailNorm A.num.strict col k)
    if pivotBad thr d false then
      let _ ← usePivot A thr d false
      let g := nextPow thr
      return (s.1.modify k (fun c => c.take k ++ g :: List.replicate (r - k - 1) nz), s.2)
    else
      let h ← note (reflectorOf A.num.strict col k d)
      let out ← s.1.zipIdx.mapM (fun x =>
        if x.2 < k then pure x.1
        else if x.2 = k then pure (x.1.take k ++ d :: List.replicate (r - k - 1) nz)
        else note (reflect A.num.strict h x.1))
      return (out, s.2 ++ [h])) (cols, [])

/-- Qᵀ x, the reflectors in order; Q x, in reverse. -/
def applyQt (A : Arith) (hs : List Reflector) (x : Vec) : Work Vec := hs.foldlM (fun x h => note (reflect A.num.strict h x)) x

/-- Q x: the reflector is its own inverse; its sign comes first. -/
def applyQ (A : Arith) (hs : List Reflector) (x : Vec) : Work Vec :=
  hs.reverse.foldlM (fun x h =>
    let x := if h.flip then x.modify h.k Num.opp else x
    note (reflect A.num.strict { h with flip := false } x)) x

/-- chol_update (07 R188): L Lᵀ + sign v vᵀ by one sweep of rotations; the pivot test only for a downdate. -/
def cholUpdate (A : Arith) (l : Mat) (v : Vec) (down : Bool) : Work Mat := do
  let st := A.num.strict
  let n := l.length
  let sq ← (List.range n).mapM (fun k => note (mulR .w48 st (mat l k k) (mat l k k)))
  let thr := tauDmax A.tau (dmaxOfVec sq)
  let (l, _) ← (List.range n).foldlM (fun (s : Mat × Vec) k => do
    let lkk := mat s.1 k k
    let vk := s.2.getD k nz
    let q ← note (mulR .w48 st lkk lkk)
    let d ← note (fmaR .w48 st (if down then vk.opp else vk) vk q)
    let d ← if down then usePivot A thr d false else pure d
    let root ← note (sqrtR .w48 st d)
    let c ← note (divR .w48 st root lkk)
    let sn ← note (divR .w48 st vk lkk)
    let ss := if down then sn.opp else sn
    let l ← mRows (s.1.modify k (fun row => row.set k root)) (k + 1) n (fun i row => do
      let t ← note (fmaR .w48 st ss (s.2.getD i nz) (row.getD k nz))
      return row.set k (← note (divR .w48 st t c)))
    let v ← s.2.zipIdx.mapM (fun x => do
      if k < x.2 then
        let cv ← note (mulR .w48 st c x.1)
        note (fusedSub st cv sn (mat l x.2 k))
      else return x.1)
    return (l, v)) (l, v)
  return l

end Sys2Proof.Machine
end

