-- ==== Sys2Proof/Config.lean ====
section
/-! DEFINITION. What the spec leaves open: opaque constants, with no body, so that nothing can be proved of a value. -/

namespace Sys2Proof.Config

/-- A value that the spec leaves open, by its kind (the number of its log entry) and the count of free values drawn so far (log 3). -/
opaque freeValue : Nat → Nat → Nat

/-- Which of the binary32 values within 2 ulp the activation stage gives (05 R138), by activation code, derivative and argument: the
same bits on every T9 (log 41). -/
opaque activation : Nat → Bool → Nat → Nat

/-- The Ed448 signature of a message under the Lodestone key (04 R115, 17 R410), by key and bytes (log 21). -/
opaque ed448Sign : Nat → List Byte → List Byte

/-- Whether an Ed448 signature over a message verifies under a public key: key, message, signature (17 R402, R403; log 21). -/
opaque ed448Verify : List Byte → List Byte → List Byte → Bool

/-- The Ghewald root public keys of the boot ROM, by index (17 R401; log 21). -/
opaque rootKey : Nat → List Byte

/-- A byte of the flash after an erase or program that failed (17 R406; log 6), by the count of free values and its place. -/
opaque flashAfterError : Nat → Nat → Byte

/-- The Lodestone key, by serial number: derived from the PUF (17 R408, log 21). -/
opaque lodestoneKey : Nat → Nat

/-- Bytes of sequencer state scanned out of a facet (18 R423), by facet and stop index (log 22). -/
opaque sequencerState : Nat → Nat → List Byte

/-- Bytes that GETSTATUS and GETMXDS answer (19 R430 names them, the MIPI text fixes them; log 23). -/
opaque i3cStatusBytes : Nat → List Byte

/-- Whether a POR_N pulse shorter than 10 µs resets the device (21 R463), by the count of such pulses (log 24). -/
opaque shortPorActs : Nat → Bool

/-- A 64-byte block of the Logbook RAM's header, of which the spec gives the place and size alone (16 R387, log 25). -/
opaque logHeader : Nat → List Byte

/-- The Helm core that serves a context's rings (01 R19; no chapter states the assignment; log 26). -/
opaque helmCoreOf : Nat → Nat

end Sys2Proof.Config
end

