-- ==== Sys2Proof/Machine/Activation.lean ====
section
/-! DEFINITION. The activation stage (05 R137, R138; 06 R167): ReLU and identity exactly, tanh, SiLU and their derivatives as
open values within 2 ulp of binary32 around a fixed-point evaluation. -/

namespace Sys2Proof.Machine
open Sys2Proof

/-- ln 2 in units of 2^-192. -/
def ln2Fix : Nat := 4350955369971217654477563090224794165364344896676135745069

/-- One in units of 2^-192. -/
def oneFix : Nat := 2 ^ 192

/-- Σ (-r)^i / i! from term i on, r and terms in units of 2^-192: the positive and the negative terms apart. -/
def expTerms : Nat → Nat → Nat → Nat → Nat × Nat
  | 0, _, _, _ => (0, 0)
  | n + 1, i, term, r =>
    let (p, q) := expTerms n (i + 1) (term * r / oneFix / (i + 1)) r
    if i % 2 = 0 then (p + term, q) else (p, q + term)

/-- e^-x of x in units of 2^-192, as mantissa and exponent; beyond 512 a value below 2^-700 stands for it. -/
def expNeg (x : Nat) : Num :=
  if 512 * oneFix ≤ x then .fin false 1 (-700)
  else
    let n := x / ln2Fix
    let (p, q) := expTerms 50 0 oneFix (x % ln2Fix)
    .fin false (p - q) (-192 - n)

/-- A magnitude in units of 2^-192, capped at 1,024. -/
def fixOf (m : Nat) (e : Int) : Nat :=
  if 10 ≤ topExp m e then 1024 * oneFix
  else if -192 ≤ e then m * 2 ^ (e + 192).toNat else m / 2 ^ (-192 - e).toNat

/-- 1. -/
def oneN : Num := .fin false 1 0

/-- A sum, a product, a quotient, without events. -/
def addN (a b : Num) : Num := (addX a b).1
def mulN (a b : Num) : Num := (mulX a b).1
def divN (a b : Num) : Num := (divX a b).1

/-- The logistic function of m × 2^e with a sign. -/
def sigmoidN (neg : Bool) (m : Nat) (e : Int) : Num :=
  let x := expNeg (fixOf m e)
  if neg then divN x (addN oneN x) else divN oneN (addN oneN x)

/-- tanh, SiLU and their derivatives at a finite non-zero value, close to exact: code 1 tanh, 2 SiLU. -/
def actNear (code : Nat) (deriv : Bool) (neg : Bool) (m : Nat) (e : Int) : Num :=
  if code = 1 then
    let x := expNeg (fixOf m (e + 1))
    let d := addN oneN x
    if deriv then divN (mulN (.fin false 4 0) x) (mulN d d)
    else
      let t := if topExp m e < -80 then .fin false m e else divN (addN oneN x.opp) d
      if neg then t.opp else t
  else
    let s := sigmoidN neg m e
    let z : Num := .fin neg m e
    if deriv then mulN s (addN oneN (mulN z (addN oneN s.opp))) else mulN z s

/-- Is a binary32 pattern within 2 ulp of a value? -/
def within2 (p : Nat) (t : Num) : Bool :=
  match t, (decode .b32 p).1 with
  | .fin _ m e, v =>
    let top := topExp m e
    let ulp : Int := (if top < -126 then -126 else top) - 23
    leX (addN v t.opp).abs (.fin false 1 (ulp + 1))
  | _, _ => false

/-- A binary32 pattern within 2 ulp of a value, picked by an open choice. -/
def pickNear (t : Num) (free : Nat) : Nat :=
  let p := patOf .b32 t
  let c := p + free % 5 - 2
  if within2 c t && decide (c < 2 ^ 32) then c else p

/-- σ or σ′ at a binary32 value (05 R138, 06 R167); at finite non-zero arguments of tanh and SiLU the bits within 2 ulp are open,
the same for the same argument on every device (log 41). -/
def actOf (code : Nat) (deriv : Bool) (z : Num) : Num :=
  match z with
  | .nan => .nan
  | .inf neg =>
    if deriv then (if code = 3 then oneN else if code = 1 ∨ neg then .zero false else oneN)
    else if code = 0 then (if neg then .zero false else .inf false)
    else if code = 1 then .fin neg 1 0
    else if code = 2 then (if neg then .zero true else .inf false)
    else .inf neg
  | .zero neg =>
    if code = 0 then .zero false
    else if code = 3 then (if deriv then oneN else .zero neg)
    else if deriv then (if code = 1 then oneN else .fin false 1 (-1))
    else .zero neg
  | .fin neg m e =>
    if code = 0 then (if deriv then (if neg then .zero false else oneN) else (if neg then .zero false else z))
    else if code = 3 then (if deriv then oneN else z)
    else (decode .b32 (pickNear (actNear code deriv neg m e) (Config.activation code deriv (patOf .b32 z)))).1

end Sys2Proof.Machine
end

