-- ==== Sys2Proof/Machine/Network.lean ====
section
/-! DEFINITION. Learned networks in tangent mode (02 R43, R44; 05 R135 to R138): values and Jacobians of a network at a point. -/

namespace Sys2Proof.Machine
open Sys2Proof

/-- The values of an operand, empty where neither the instance nor the model gives it. -/
def partVec (ps : PartData) (p : Part) : Vec :=
  match ps.find? (fun x => x.1 = p) with
  | some x => x.2.map f64
  | none => []

/-- A matrix of c columns from its elements row by row. -/
def rowsOf (r c : Nat) (v : Vec) : Mat := (List.range r).map (fun i => vSeg v (i * c) c)

/-- One layer: weights by rows, biases. -/
structure Layer where
  w : Mat
  b : Vec
deriving DecidableEq, Repr

/-- The layers of a network: each has a row for each bias. -/
def layersOf (ps : PartData) (count : Nat) (w b : Nat → Part) : List Layer :=
  (List.range count).map (fun l =>
    let bs := partVec ps (b l)
    let ws := partVec ps (w l)
    ⟨rowsOf bs.length (ws.length / bs.length) ws, bs⟩)

/-- A point of a sweep: the primal column, and a tangent column for each direction. -/
structure Sweep where
  primal : Vec
  tangents : Mat
deriving DecidableEq, Repr

/-- A value rounded to binary32 in the activation stage. -/
def toSingle (A : Arith) (v : Num) : Work Num := note (roundTo .b32 A.num.strict v)

/-- A layer's product step (05 R137): the bias preloaded into the primal column, empty accumulators for the tangents. -/
def layerProduct (A : Arith) (l : Layer) (s : Sweep) : Work Sweep := do
  let z ← (l.w.zip l.b).mapM (fun x => do rDot A false (some (← toRose A x.2)) x.1 s.primal)
  let ts ← s.tangents.mapM (fun t => l.w.mapM (fun r => rDot A false none r t))
  return ⟨z, ts⟩

/-- The activation stage: σ(z) for the primal column, σ′(z) t for each tangent, z and t rounded to binary32 and the product once. -/
def layerActivate (A : Arith) (code : Nat) (s : Sweep) : Work Sweep := do
  let zs ← s.primal.mapM (toSingle A)
  let ts ← s.tangents.mapM (fun t => (zs.zip t).mapM (fun x => do
    note (mulR .b32 A.num.strict (actOf code true x.1) (← toSingle A x.2))))
  return ⟨zs.map (actOf code false), ts⟩

/-- The layers in order; the last one is linear. -/
def runLayers (A : Arith) (code : Nat) : List Layer → Sweep → Work Sweep
  | [], s => pure s
  | [l], s => layerProduct A l s
  | l :: ls, s => do runLayers A code ls (← layerActivate A code (← layerProduct A l s))

/-- A network at a point: its value and its Jacobian by directions, unit vectors entering the first layer (05 R136); a residual
network adds x to the value and the identity to the state directions in the Sextant (R137). -/
def netAt (A : Arith) (code : Nat) (residual : Bool) (ls : List Layer) (x u : Vec) : Work Sweep := do
  let d := x.length + u.length
  let s ← runLayers A code ls ⟨x ++ u, mEye d d⟩
  if residual then
    let f ← vAdd A s.primal x
    let ts ← s.tangents.zipIdx.mapM (fun t => if t.2 < x.length then t.1.zipIdx.mapM (fun v => if v.2 = t.2 then sAdd A v.1 n1 else pure v.1)
      else pure t.1)
    return ⟨f, ts⟩
  else return s

/-- The tangent sweeps that a stage takes: ⌈(n_x + n_u) / 64⌉ (02 R44). -/
def stageSweeps (nx nu : Nat) : Nat := (nx + nu + 63) / 64

/-- The berth columns of a sweep with d directions, and the points that w facets carry side by side (05 R136). -/
def sweepCols (d : Nat) : Nat := 1 + d
def sweepPoints (w d : Nat) : Nat := 32 * w / sweepCols d

/-- The berth column of direction t of point i: the primal column first, then state and input directions (05 R136). -/
def sweepColumn (d i t : Nat) : Nat := i * sweepCols d + t

end Sys2Proof.Machine
end

