-- ==== Sys2Proof/Machine/Digest.lean ====
section
/-! DEFINITION. The two digests that the spec names: CRC-32 of the IEEE 802.3 polynomial (16 R388, R389) and SHAKE256
(02 R47, 04 R112, 17 R403), the latter as FIPS 202 gives it (log 20). -/

namespace Sys2Proof.Machine
open Sys2Proof

/-- One bit of the reflected CRC-32. -/
def crcBit (c : BitVec 32) : BitVec 32 :=
  if c.getLsbD 0 then (c >>> 1) ^^^ 0xEDB88320#32 else c >>> 1

/-- One byte of the reflected CRC-32. -/
def crcByte (c : BitVec 32) (b : Byte) : BitVec 32 :=
  let x := c ^^^ (b.setWidth 32)
  crcBit (crcBit (crcBit (crcBit (crcBit (crcBit (crcBit (crcBit x)))))))

/-- CRC-32 of a byte list. -/
def crc32 (bs : List Byte) : BitVec 32 := (bs.foldl crcByte 0xFFFFFFFF#32) ^^^ 0xFFFFFFFF#32

/-- Round constants of Keccak-f[1600]. -/
def keccakRC : List (BitVec 64) :=
  [0x0000000000000001#64, 0x0000000000008082#64, 0x800000000000808A#64, 0x8000000080008000#64,
   0x000000000000808B#64, 0x0000000080000001#64, 0x8000000080008081#64, 0x8000000000008009#64,
   0x000000000000008A#64, 0x0000000000000088#64, 0x0000000080008009#64, 0x000000008000000A#64,
   0x000000008000808B#64, 0x800000000000008B#64, 0x8000000000008089#64, 0x8000000000008003#64,
   0x8000000000008002#64, 0x8000000000000080#64, 0x000000000000800A#64, 0x800000008000000A#64,
   0x8000000080008081#64, 0x8000000000008080#64, 0x0000000080000001#64, 0x8000000080008008#64]

/-- Rotation offsets, lane x + 5y. -/
def keccakRot : List Nat :=
  [0, 1, 62, 28, 27, 36, 44, 6, 55, 20, 3, 10, 43, 25, 39, 41, 45, 15, 21, 8, 18, 2, 61, 56, 14]

/-- Lane i of a state. -/
def lane (a : List (BitVec 64)) (i : Nat) : BitVec 64 := a.getD i 0#64

/-- One round of Keccak-f[1600]. -/
def keccakRound (a : List (BitVec 64)) (rc : BitVec 64) : List (BitVec 64) :=
  let c := (List.range 5).map (fun x => lane a x ^^^ lane a (x + 5) ^^^ lane a (x + 10) ^^^ lane a (x + 15) ^^^ lane a (x + 20))
  let d := (List.range 5).map (fun x => lane c ((x + 4) % 5) ^^^ (lane c ((x + 1) % 5)).rotateLeft 1)
  let t := (List.range 25).map (fun i => lane a i ^^^ lane d (i % 5))
  let b := (List.range 25).map (fun i =>
    let x := i % 5
    let y := i / 5
    let xs := (x + 3 * y) % 5
    (lane t (xs + 5 * x)).rotateLeft (keccakRot.getD (xs + 5 * x) 0))
  let n := (List.range 25).map (fun i =>
    let x := i % 5
    let y := i / 5
    lane b i ^^^ ((~~~ lane b ((x + 1) % 5 + 5 * y)) &&& lane b ((x + 2) % 5 + 5 * y)))
  match n with
  | [] => []
  | l :: ls => (l ^^^ rc) :: ls

/-- Keccak-f[1600]. -/
def keccakF (a : List (BitVec 64)) : List (BitVec 64) := keccakRC.foldl keccakRound a

/-- Lanes of a byte list, 8 bytes each. -/
def lanesOf : Nat → List Byte → List (BitVec 64)
  | 0, _ => []
  | n + 1, bs => BitVec.ofNat 64 (leNat (bs.take 8)) :: lanesOf n (bs.drop 8)

/-- Absorb `n` blocks of 136 bytes. -/
def absorb : Nat → List (BitVec 64) → List Byte → List (BitVec 64)
  | 0, a, _ => a
  | n + 1, a, bs =>
    let blk := lanesOf 17 (bs.take 136)
    absorb n (keccakF ((List.range 25).map (fun i => lane a i ^^^ lane blk i))) (bs.drop 136)

/-- The first n (at most 136) bytes of SHAKE256. -/
def shake256 (bs : List Byte) (n : Nat) : List Byte :=
  let r := bs.length % 136
  let z := 136 - r
  let tail : List Byte := if z = 1 then [0x9F#8] else 0x1F#8 :: (List.replicate (z - 2) 0#8 ++ [0x80#8])
  let a := absorb (bs.length / 136 + 1) (List.replicate 25 0#64) (bs ++ tail)
  ((a.map (fun l => leBytes 8 l.toNat)).flatten).take n

end Sys2Proof.Machine
end

