-- ==== Sys2Proof/Machine/RegMap.lean ====
section
/-! DEFINITION. The setup space of 20 R442 to R445: every register with its offset, reset value, the masks of its RW,
W1C, RC and WO bits, and the VF, I3C and CFG columns of the register summary. -/

namespace Sys2Proof.Machine

/-- How a path reaches a register (20 R443): not at all, read-only, or as its access codes allow. -/
inductive Acc where
  | no | r | rw
deriving DecidableEq, Repr

/-- The CFG column (20 R445). -/
inductive CfgAcc where
  | no | yes | go
deriving DecidableEq, Repr

/-- One register of the summary. -/
structure RegInfo where
  reset : Nat
  rw : Nat
  w1c : Nat
  rc : Nat
  wo : Nat
  vf : Acc
  i3c : Acc
  cfg : CfgAcc
deriving DecidableEq, Repr

/-- Is off = base + step × i for some i below n? -/
def inArray (off base step n : Nat) : Bool :=
  decide (base ≤ off) && decide ((off - base) % step = 0) && decide ((off - base) / step < n)

/-- A read-only register. -/
def roReg (reset : Nat) (vf i3c : Acc) : RegInfo := ⟨reset, 0, 0, 0, 0, vf, i3c, .no⟩

/-- Registers of the TOP_ block (17 R398, 15 R357, R369, 20). -/
def topRegs (off : Nat) : Option RegInfo :=
  if off = 0x0 then some (roReg 0x740910B0 .r .r)
  else if off = 0x4 ∨ off = 0x8 ∨ off = 0x10 then some (roReg 0 .r .r)
  else if off = 0x20 ∨ off = 0x24 ∨ off = 0x104 then some (roReg 0 .no .r)
  else if off = 0x100 then some ⟨0, 0, 0x3F, 0, 0, .no, .rw, .no⟩
  else if off = 0x108 then some ⟨0x38, 0x1F, 0, 0, 0, .no, .rw, .yes⟩
  else if off = 0x10C then some ⟨0, 0, 0, 0xFFFFFFFF, 0, .no, .rw, .no⟩
  else if off = 0x110 then some ⟨0, 0, 0, 0, 0x80000000, .no, .rw, .no⟩
  else none

/-- Registers of the HELM_ block (10, 18 R422). -/
def helmRegs (off : Nat) : Option RegInfo :=
  if off = 0x10000 then some ⟨0, 0xFFE00000, 0, 0, 0, .no, .r, .yes⟩
  else if off = 0x10004 then some ⟨0, 0xFFFFFFFF, 0, 0, 0, .no, .r, .yes⟩
  else if off = 0x10008 then some ⟨0x03E83264, 0xFFFFFFFF, 0, 0, 0, .no, .r, .yes⟩
  else if off = 0x1000C then some ⟨0, 0x1FF, 0x80000000, 0, 0, .no, .r, .yes⟩
  else if off = 0x10010 then some ⟨0, 0x3FFF, 0x20000000, 0, 0x80000000, .no, .r, .no⟩
  else if inArray off 0x10100 4 64 then some ⟨0, 0x1FFF0FFF, 0, 0, 0, .no, .r, .yes⟩
  else if inArray off 0x10400 8 64 then some ⟨0, 0xFFFFFFFD, 0, 0, 0, .no, .no, .no⟩
  else if inArray off 0x10404 8 64 then some ⟨0, 0xFFFFFFFF, 0, 0, 0, .no, .no, .no⟩
  else if off = 0x10600 then some ⟨0, 0xFF, 0, 0, 0xC0000000, .no, .r, .no⟩
  else none

/-- Registers of the ROSE_, CHM_, GOV_ and SXT_ blocks (11, 08, 20); window descriptors are 8 words each (08 R213). -/
def chmRegs (off : Nat) : Option RegInfo :=
  if inArray off 0x20100 4 16 then some (roReg 0x1F000000 .no .r)
  else if off = 0x30010 then some ⟨0, 0x0C0003FF, 0, 0, 0x80000000, .no, .no, .no⟩
  else if off = 0x30014 then some ⟨0, 0, 0x2E, 0, 0, .no, .r, .no⟩
  else if inArray off 0x30100 4 16 then some ⟨0, 0x3FFF, 0x80000000, 0, 0, .no, .r, .yes⟩
  else if inArray off 0x30200 4 18 then some ⟨0, 0xFFFFFFFF, 0, 0, 0, .no, .r, .yes⟩
  else if inArray off 0x30280 4 18 then some (roReg 0 .no .r)
  else if inArray off 0x40000 4 8192 then some (roReg 0 .no .no)
  else if off = 0x50000 then some ⟨0, 0, 0, 0x00FF0000, 0, .no, .r, .no⟩
  else if off = 0x50004 then some ⟨0, 0, 0, 0xFFFFFFFF, 0, .no, .r, .no⟩
  else if inArray off 0x60000 4 16 then some (roReg 0 .no .r)
  else none

/-- Registers of the BCN_ and HDG_ blocks (20 R448 to R451). -/
def bcnRegs (off : Nat) : Option RegInfo :=
  if off = 0x70000 ∨ off = 0x78000 then some ⟨0, 0x3FFF, 0x20000000, 0, 0x80000000, .no, .no, .go⟩
  else if off = 0x70004 ∨ off = 0x70008 then some ⟨0, 0xFFFF7FFF, 0, 0, 0, .no, .no, .yes⟩
  else if off = 0x70010 then some ⟨0, 0x7FFF, 0, 0, 0, .rw, .no, .no⟩
  else if off = 0x70014 then some (roReg 0 .rw .no)
  else if off = 0x78004 then some ⟨0, 0xFFFF, 0, 0, 0, .no, .no, .yes⟩
  else if off = 0x78008 then some ⟨0, 0x1FFFF, 0, 0, 0, .no, .no, .yes⟩
  else if off = 0x78010 then some ⟨0, 0xFFFF, 0, 0, 0, .rw, .no, .no⟩
  else if inArray off 0x78040 4 16 then some (roReg 0 .rw .no)
  else none

/-- Registers of the CSI_ block (12). -/
def csiRegs (off : Nat) : Option RegInfo :=
  if inArray off 0x80000 4 4 then some ⟨0, 0x83001FFF, 0, 0, 0, .no, .r, .yes⟩
  else if inArray off 0x80010 4 4 then some ⟨0, 0xC3FF1FFF, 0, 0, 0, .no, .r, .yes⟩
  else if inArray off 0x80100 4 64 then some ⟨0, 0x7FFFFFFF, 0, 0, 0, .no, .r, .yes⟩
  else none

/-- Registers of the MER_ block (13, 20 R447). -/
def merRegs (off : Nat) : Option RegInfo :=
  if off = 0x90000 then some ⟨0, 0x6, 0, 0, 0xE0000000, .no, .no, .yes⟩
  else if off = 0x90004 then some ⟨0, 0, 0x3F, 0, 0, .r, .r, .no⟩
  else if off = 0x90008 ∨ off = 0x9000C then some ⟨0, 0xFFFFFFFF, 0, 0, 0, .no, .no, .no⟩
  else if off = 0x90010 then some ⟨0, 0x3FFFFFFF, 0, 0, 0, .no, .no, .no⟩
  else if off = 0x90014 then some ⟨0, 0xFFFF, 0, 0, 0, .no, .no, .no⟩
  else if off = 0x90018 then some (roReg 0 .no .no)
  else if off = 0x90020 ∨ off = 0x90024 then some ⟨0, 0x800F03FF, 0, 0, 0, .no, .r, .yes⟩
  else if off = 0x90030 then some ⟨0x3600320A, 0xFF00FFFF, 0, 0, 0, .no, .r, .yes⟩
  else if off = 0x90034 then some ⟨0x0140500A, 0x3FFFFFFF, 0, 0, 0, .no, .r, .yes⟩
  else if off = 0x90038 then some ⟨0x0000003C, 0xFFFF, 0, 0, 0, .no, .r, .yes⟩
  else if inArray off 0x9004C 16 4 then some ⟨0, 0xFC000000, 0, 0, 0, .no, .r, .yes⟩
  else if inArray off 0x90040 4 16 then some ⟨0, 0xFFFFFFFF, 0, 0, 0, .no, .r, .yes⟩
  else if inArray off 0x90080 32 8 then some ⟨0, 0xE000FFFF, 0x10000000, 0, 0, .no, .no, .no⟩
  else if inArray off 0x90084 32 8 then some ⟨0, 0xFFFFFFFF, 0, 0, 0, .no, .no, .no⟩
  else if inArray off 0x90088 32 8 ∨ inArray off 0x9008C 32 8 then some ⟨0, 0x3FFFFFFF, 0, 0, 0, .no, .no, .no⟩
  else if inArray off 0x90090 32 8 then some ⟨0, 0, 0, 0xFFFFFFFF, 0, .no, .no, .no⟩
  else if inArray off 0x90200 16 4 then some ⟨0, 0xE0000000, 0x10000000, 0, 0, .no, .no, .yes⟩
  else if inArray off 0x90208 16 4 then some ⟨0, 0, 0, 0x3FFFFFFF, 0, .no, .no, .no⟩
  else if inArray off 0x90204 16 4 ∨ inArray off 0x9020C 16 4 then some (roReg 0 .no .no)
  else if inArray off 0x90300 4 4 then some (roReg 0 .r .r)
  else none

/-- Registers of the FLT_ and MEM_ blocks (14, 19 R439). -/
def fltRegs (off : Nat) : Option RegInfo :=
  if off = 0xA0000 then some ⟨0, 0x801FFFFF, 0, 0, 0, .no, .r, .yes⟩
  else if off = 0xA0004 then some ⟨0x006401F4, 0xFFFFFFFF, 0, 0, 0, .no, .r, .yes⟩
  else if off = 0xA0008 then some ⟨0x14, 0x2000FFFF, 0x08000000, 0, 0xC0000000, .no, .r, .yes⟩
  else if off = 0xA000C then some ⟨0, 0xFFFF7FFF, 0, 0, 0, .no, .r, .yes⟩
  else if inArray off 0xA0100 4 32 then some ⟨0, 0xA0000033, 0, 0, 0, .no, .r, .yes⟩
  else if off = 0xB0000 then some (roReg 0 .no .r)
  else if off = 0xB0010 ∨ off = 0xB0014 then some ⟨0, 0, 0, 0xFFFFFFFF, 0, .no, .r, .no⟩
  else none

/-- Registers of the PEL_ block (15 R361, 18). -/
def pelRegs (off : Nat) : Option RegInfo :=
  if off = 0xC0000 then some ⟨0, 0x7FF, 0, 0, 0, .rw, .no, .no⟩
  else if inArray off 0xC0004 4 4 then some (roReg 0 .rw .no)
  else if off = 0xC0020 then some ⟨0, 0x8FFFFFFF, 0, 0, 0, .rw, .rw, .no⟩
  else if inArray off 0xC0024 4 3 then some (roReg 0 .rw .rw)
  else if off = 0xC0030 then some ⟨0, 0, 0, 0, 0x80000000, .no, .no, .no⟩
  else if off = 0xC0040 then some ⟨0, 0xDF000FFF, 0x20000000, 0, 0, .no, .no, .yes⟩
  else if off = 0xC0044 then some (roReg 0 .no .no)
  else if off = 0xC0048 then some ⟨0, 0, 0, 0xFFFFFFFF, 0, .no, .no, .no⟩
  else if off = 0xC0050 then some ⟨0, 0xFFFFF, 0, 0, 0, .no, .no, .no⟩
  else if off = 0xC0054 ∨ inArray off 0xC1000 4 1024 then some (roReg 0 .no .no)
  else if off = 0xC0060 then some ⟨0, 0x1FFF, 0, 0, 0, .rw, .no, .no⟩
  else if off = 0xC0064 ∨ off = 0xC0068 then some (roReg 0 .rw .no)
  else none

/-- Registers of the BIN_, LOG_, PCI_ and I3C_ blocks (16 R385, R390, 19). -/
def binRegs (off : Nat) : Option RegInfo :=
  if off = 0xD0000 then some (roReg 0 .no .r)
  else if off = 0xD0004 then some ⟨1, 0x8000000F, 0, 0, 0, .no, .rw, .no⟩
  else if off = 0xD0008 then some ⟨0, 0, 0, 0, 0x80000000, .no, .rw, .no⟩
  else if off = 0xE0000 then some ⟨0, 0x83FFFFFF, 0, 0, 0, .no, .rw, .no⟩
  else if inArray off 0xE0040 4 16 then some (roReg 0 .no .rw)
  else if off = 0xF0000 then some (roReg 0 .r .r)
  else if off = 0xF0004 then some ⟨0, 0, 0, 0xFFFFFFFF, 0, .no, .r, .no⟩
  else if off = 0xF0100 then some ⟨0, 0, 0x1E, 0, 0, .no, .rw, .no⟩
  else none

/-- The register at an offset of the setup space, none where it holds no register (20 R442). -/
def regInfo (off : Nat) : Option RegInfo :=
  if off < 0x10000 then topRegs off
  else if off < 0x20000 then helmRegs off
  else if off < 0x70000 then chmRegs off
  else if off < 0x80000 then bcnRegs off
  else if off < 0x90000 then csiRegs off
  else if off < 0xA0000 then merRegs off
  else if off < 0xC0000 then fltRegs off
  else if off < 0xD0000 then pelRegs off
  else if off < 0x100000 then binRegs off
  else none

/-- The path number of I3C; paths 0 to 63 are the PCIe functions (20 R443). -/
def i3cPath : Nat := 64

/-- Which instance of a register a path reaches (20 R443): registers with R or RW in the VF column have one for each
function and one for I3C; LOG_WIN_ registers have one for the physical function and one for I3C; others exist once. -/
def regCopy (ri : RegInfo) (off path : Nat) : Nat :=
  if ri.vf ≠ .no then path
  else if 0xE0000 ≤ off ∧ off < 0xF0000 then (if path = i3cPath then i3cPath else 0)
  else 0

/-- The key of a register instance in the register store. -/
def regKey (copy off : Nat) : Nat := copy * 0x100000 + off

/-- Does a path reach a register for reading? -/
def regReadable (ri : RegInfo) (path : Nat) : Bool :=
  if path = i3cPath then decide (ri.i3c ≠ .no)
  else if path = 0 then true
  else decide (ri.vf ≠ .no)

/-- Does a path reach a register for writing? -/
def regWritable (ri : RegInfo) (path : Nat) : Bool :=
  if path = i3cPath then decide (ri.i3c = .rw)
  else if path = 0 then true
  else decide (ri.vf = .rw)

end Sys2Proof.Machine
end

