-- ==== Sys2Proof/Machine/Parts.lean ====
section
/-! DEFINITION. The groups of registers, tables, queues and counters that the machine state is made of, all plain data:
clocks, boot, the Helm complex, Chart memory, the Rose, the Binnacle and its Logbook, Pelorus. -/

namespace Sys2Proof.Machine
open Sys2Proof

/-- A sorted association list. -/
abbrev Map (α : Type) := List (Nat × α)

/-- Clocks (01 R27 to R29) and Meridian time (13 R314 to R318); the AK cycles of the latest MK edge and of the one before. -/
structure Clk where
  locked : Bool
  rootPhase : Nat
  chipAk : Nat
  mkAk : Nat
  mkPrev : Nat
  sectorAk : List Nat
  gated : List (Option Mer)
  stretch : Nat
  mer : Mer
  shadow : Mer
  shadowMark : Bool
deriving DecidableEq, Repr

/-- A context's ranges of Beacons (20 R448): granted, first, last. -/
structure BcnRange where
  en : Bool
  first : Nat
  last : Nat
deriving DecidableEq, Repr

/-- The states of a defined context (10 R257). -/
inductive CtxState where
  | idle | runnable | blocked
deriving DecidableEq, Repr

/-- A defined context (10 R251 to R262); `saved` says that its balance and charged total lie in its block (R259). -/
structure Ctx where
  shares : Nat
  quota : Nat
  upd : Option (Nat × Nat)
  balance : Int
  charged : Nat
  resident : Bool
  slot : Nat
  st : CtxState
  since : Mer
  saved : Bool
deriving DecidableEq, Repr

/-- A row of the ring table (10 R256): the parameters of the ring record, the pointers and the bits of
HELM_RING_CTL (09 R223); `next` is the first slot not yet requested (R225), `stopped` says fetching has stopped. -/
structure Ring where
  sqBase : Nat
  cqBase : Nat
  seq0 : Word
  log2e : Nat
  irqEn : Bool
  vector : Nat
  enable : Bool
  enableRefused : Bool
  fetchErr : Bool
  dbIgnored : Bool
  dbOverrun : Bool
  recordErr : Bool
  tail : Word
  head : Word
  done : Word
  next : Word
  stopped : Bool
deriving DecidableEq, Repr

/-- A Helm core (16 R376, 18 R422): in service, halted, draining towards a halt, a RESUME written meanwhile, its last heartbeat, and
the breakpoint or the halt address. -/
structure HelmCore where
  ok : Bool
  halted : Bool
  draining : Bool
  resumeDue : Bool
  heartbeat : Mer
  pc : Option Word64
deriving DecidableEq, Repr

/-- A Heading table entry, field by field as 02 R53 lays it out. -/
structure Hdg where
  state : Nat
  lastStatus : Nat
  ctx : Nat
  model : Nat
  flags : Nat
  sig : Word64
  lastSeq : Word
  ring : Nat
  lastIter : Nat
  stream : Nat
  commit : Mer
  warmAddr : Nat
  warmCap : Nat
  merit : Nat
  commitCount : Nat
deriving DecidableEq, Repr

/-- The entry that is 0 in every field (02 R54). -/
def Hdg.zero : Hdg := ⟨0, 0, 0, 0, 0, 0, 0, 0, 0, 0, 0, 0, 0, 0, 0⟩

/-- An armed TIMED_LAUNCH (11 R291): the command, its launch time, the covered placements with their step offsets, and
the start step once the trigger has fixed it. -/
structure Armed where
  key : CmdKey
  tl : Mer
  covered : List (CmdKey × Nat)
  steps : Nat
  startAk : Option Nat
  at0 : Mer
deriving DecidableEq, Repr

/-- The Helm complex: contexts, ring table, Helm cores, ladder, Beacons, ranges, Heading table, models
(10, 09 R235, 11 R287, 20 R448 to R451, 02). -/
structure Helm where
  ctxs : Map Ctx
  lastSlot : Nat
  rings : Map Ring
  cores : List HelmCore
  ladder : Map Nat
  armed : List Armed
  beacons : Map Word
  bcnBy : Map (Nat × Word × Bool)
  sig : Map BcnRange
  wait : Map BcnRange
  hdgRange : Map (Nat × Nat)
  heading : Map Hdg
  models : Map Model
  ctxResetDue : List Nat
  lateCover : List (Nat × Word)
  accepts : Nat
  requests : Nat
deriving DecidableEq, Repr

/-- A window descriptor (08 R213). -/
structure Window where
  base : Nat
  len : Nat
  isOpen : Bool
  kind : Nat
  expires : Bool
  closeOnCommit : Bool
  owner : Nat
  writers : List Nat
  expSec : Nat
  expNs : Nat
  refused : Nat
deriving DecidableEq, Repr

/-- The power state of a bank that is not plainly on (08 R220): pending behind a berth, draining since an AK cycle,
off since an AK cycle, or restored and filling since an AK cycle. -/
inductive BankState where
  | pending
  | draining (since : Nat)
  | off
  | filling (since : Nat)
  | retired
deriving DecidableEq, Repr

/-- A write admitted by a window check, holding its bank cycle later (08 R203, R220): the row's Chart address, the
AK cycle of its bank cycle, the writer, the bytes. -/
structure Admitted where
  row : Nat
  ak : Nat
  writer : Nat
  data : List Byte
deriving DecidableEq, Repr

/-- Chart memory (08). Banks are numbered 32 × sector + bank, and 512 + bank in the Almanac core; `gating` lists the sectors that close
and drain before their clock stops (R219). -/
structure ChartSt where
  mem : List (Nat × Byte)
  wins : Map Window
  banks : Map BankState
  gating : List Nat
  admitted : List Admitted
  eccLog : List Nat
  eccBank : Map Nat
  scrubQ : List Nat
  patrolled : Bool
  patrolMer : Mer
  spareRows : Map Nat
  rowHist : List Nat
  shadow : List (Nat × Byte)
deriving DecidableEq, Repr

/-- One sector's repair and status fields (11 R289, 20 SXT_STAT). -/
structure Sector where
  failed : Nat
  spareFail : Bool
  subPos : Option Nat
  pendingSub : Option Nat
  sxtFailed : Bool
  laneValid : Bool
  lane : Nat
deriving DecidableEq, Repr

/-- The Rose: accumulators by cell, panel buffers by facet and element, recorded permutations, the chunks that cells passed east and
south with the AK cycle (05 R117), the primal values that a berth row passes along (R137), dmax of the kernel on a berth (07 R184), the
vector of a rank-1 change under way (R188), Sextant lane results, the control-word parity error register of each facet's strips (01 R24),
the sectors, and the history of facet and lane faults (05, 07, 11 R289, 15 R365). -/
structure Rose where
  acc : Map W48
  panel : Map W48
  perm : Map (List Nat)
  east : Map (Nat × Opnd)
  south : Map (Nat × Opnd)
  rowZ : Map Nat
  dmax : Map W48
  vec : Map (List W48)
  sxt : Map Word64
  parity : Map Nat
  sectors : List Sector
  hist : List (Nat × Mer)
  laneHist : List (Nat × Mer)
  lbist : List Nat
deriving DecidableEq, Repr

/-- A journal entry (16 R388). -/
structure JEntry where
  kind : Nat
  eflags : Nat
  ctx : Nat
  seq : Word
  ring : Nat
  slot : Nat
  beacon : Nat
  handle2 : Nat
  mer : Mer
  record : List Byte
  image1 : List Byte
  image2 : List Byte
deriving DecidableEq, Repr

/-- An event record (16 R389). -/
structure Event where
  index : Nat
  cls : Nat
  cause : Nat
  unitKind : Nat
  unitNo : Nat
  mer : Mer
  mflags : Nat
  ctx : Nat
  ring : Nat
  seq : Word
  originA : Nat
  originB : Nat
  ak : Nat
  detail : List Byte
deriving DecidableEq, Repr

/-- The Logbook and its journal queue (16 R387 to R390, 15 R357, R363). -/
structure LogSt where
  journal : Map JEntry
  queue : List CmdKey
  shadow : Map Hdg
  events : Map Event
  next : Nat
  last : Map Word
  notices : Map Nat
  jnext : Nat
  recheckAt : Mer
deriving DecidableEq, Repr

/-- The Binnacle (16, 21 R452 to R456). -/
structure Bin where
  safe : Bool
  safeN : Bool
  alertN : Bool
  cause : Nat
  causes : List Nat
  since : Mer
  devTimes : List Mer
  fallback : Bool
  oscLost : Bool
  frozen : Bool
  txCut : Bool
  linksDown : Bool
  vBad : Map Nat
  okSince : Mer
  setMv : Nat
  prevMv : Nat
  avsAt : Mer
  hot : Nat
  missFrom : Mer
  breached : List (CmdKey × Mer)
  warm : Bool
  named : List Nat
  namedCmds : List (CmdKey × Nat)
  noLateMer : Bool
  traceFell : Bool
deriving DecidableEq, Repr

/-- One berth counter set (15 R360, R361): the live run, and the snapshot with its tag. -/
structure BSet where
  live : Option CmdKey
  snap : List Nat
  tag : Option CmdKey
deriving DecidableEq, Repr

/-- A trace record (18 R416). -/
structure TraceRec where
  kind : Nat
  flags : Nat
  unitNo : Nat
  ctx : Nat
  seq : Word
  mer : Mer
  ak : Nat
  arg0 : Nat
  arg1 : Nat
deriving DecidableEq, Repr

/-- An element on the Chart store path as a STATS watch taps it (18 R419): its address, chart format code, stored bytes and, for a block
format, its block exponent. -/
structure Tap where
  addr : Nat
  code : Nat
  bytes : List Byte
  blockExp : Nat
deriving DecidableEq, Repr

/-- An armed watch (18 R418 to R420). -/
structure Watch where
  key : CmdKey
  target : CmdKey
  dump : Bool
  step : Nat
  addr : Nat
  len : Nat
  outAddr : Nat
  outLen : Nat
  run : Nat
  fired : Bool
  copying : Bool
  firedAt : Mer
  firedAk : Nat
  torn : Option Nat
  killed : Bool
  origin : Nat
  plot : Option (Nat × Nat)
  copied : Nat
  truncated : Bool
  taps : List Tap
deriving DecidableEq, Repr

/-- One slot of the scan area (18 R423). -/
structure ScanSlot where
  held : Bool
  lateStop : Bool
  origin : Nat
  ctx : Nat
  seq : Word
  stop : Mer
  ak : Nat
  step : Nat
  routeAddr : Nat
  index : Nat
  acc : Map W48
  panel : Map W48
deriving DecidableEq, Repr

/-- Pelorus (18). -/
structure Pel where
  ctxCnt : Map Nat
  gblCnt : Map Nat
  bsets : Map BSet
  queue : List TraceRec
  ring : Map TraceRec
  wp : Nat
  lostRun : Nat
  enBase : Nat
  watches : List Watch
  scan : Map ScanSlot
  stopIndex : Nat
  scanning : Bool
deriving DecidableEq, Repr

/-- A frame queued for a peer or sent and not yet acknowledged (14 R344, R348): the time of its last send, its retries, whether
it has started on the wire, and the command whose run sends it. -/
structure SentFrame where
  frame : RFrame
  at0 : Mer
  retries : Nat
  started : Bool
  key : Option CmdKey
deriving DecidableEq, Repr

/-- One peer (14 R343 to R351): whether it is UP and when it was last heard, the last sequence number given and the last
applied, frames held after a gap, frames sent, refusals by window, frames discarded, whether an ACK is owed, and by window
the command and frames that were last sent to it. -/
structure Peer where
  up : Bool
  heard : Mer
  lseq : Word
  applied : Word
  held : List RFrame
  sent : List SentFrame
  refused : Map Nat
  discarded : Nat
  ackDue : Bool
  last : Map (CmdKey × List RFrame)
deriving DecidableEq, Repr

/-- The Rastan engine (14). -/
structure Fleet where
  peers : Map Peer
  helloAt : Mer
  stop : Option (Mer × Bool)
  reached : Option Nat
  stopped : Bool
deriving DecidableEq, Repr

/-- A Sounding answered or to be answered: what a Fix frame of it will carry (12 R305 to R308). -/
structure FixDue where
  due : Mer
  kind : Nat
  reason : Nat
  seq : Word
  hdr : Option SndHdr
  status : Nat
  flags : Nat
  merit : Nat
  payload : List Byte
  answers : Bool
  ready : Bool
deriving DecidableEq, Repr

/-- The unit of a binding in flight (12 R303): the Sounding it serves, its end of frame, its launch cycle. -/
structure UnitSt where
  seq : Word
  tfe : Mer
  complete : Option Nat
  launchAk : Option Nat
  hdr : SndHdr
  payload : List Byte
  estStatus : Option Nat
  estStore : Option (List Byte)
  estX : List Word64
  req : Option CommitReq
deriving DecidableEq, Repr

/-- A stream binding (12 R298 to R313), named by 16 × receive port + virtual channel. -/
structure Stream where
  key : CmdKey
  tx : Nat
  win : Nat
  ctlHandle : Nat
  estHandle : Nat
  ctlModel : Nat
  estModel : Nat
  desc : Line
  streamId : Nat
  safe : Bool
  budget : Nat
  berth : Berth
  triples : List Triple
  plots : List PlotRange
  next : Option Word
  newest : Option Word
  fixCount : Word
  lastServed : Option Mer
  lastEnd : Option Mer
  dogAt : Option Mer
  frameOpen : Option Mer
  buf : Bool
  refusedRow : Bool
  badHdr : Bool
  unit : Option UnitSt
  due : List FixDue
  onLanes : Option (FixDue × Mer)
  emitted : Option FixFrame
  failed : Bool
  resumed : Bool
  stopAt : Option Mer
  stopAk : Nat
  startAk : Nat
  unbind : Option CmdKey
  suspended : Bool
  faultKills : Nat
deriving DecidableEq, Repr

/-- The CSI-2 transmit ports: the end of the burst on the lanes, the next frame number, the last calibration
(12 R295, R296, R311). -/
structure CsiTx where
  burstEnd : Mer
  frameNo : Nat
  skewAt : Mer
  busy : Bool
deriving DecidableEq, Repr

/-- Power-up, identity and the checked configuration block (17 R393 to R411). `age` is the Binnacle's time since POR_N rose,
`began` its value when the present run of the steps began, `passed` the last step that has passed. -/
structure Boot where
  por : Bool
  state : Nat
  stage : Nat
  fail : Nat
  mode : Nat
  lodestone : Bool
  degraded : Bool
  helmOk : Nat
  readyUs : Nat
  age : Mer
  began : Mer
  i3cSa : Nat
  serial : Word64
  fwVersion : Nat
  fwDigest : List Byte
  cfgDigest : List Byte
  minFw : Nat
  keyMask : Nat
  numVf : Nat
  memProfile : Nat
  binCfgInit : Nat
  wakeMib : Nat
  portEn : Nat
  cfgWrites : List (Nat × Word)
  bootCount : Nat
  trained0 : Bool
  trained1 : Bool
  passed : Nat
deriving DecidableEq, Repr

/-- The firmware and configuration regions of the flash (17 R401, R406). -/
structure Flash where
  fw : List (Nat × Byte)
  cfg : List (Nat × Byte)
  fwNext : Option Nat
  cfgNext : Option Nat
deriving DecidableEq, Repr

/-- The mailbox (17 R406): with the result that a running command will have, the FAIL code of a VERIFY, and the bytes that a WRITE
is putting into a region (true: configuration); `running` is the code of the command that BUSY stands for. -/
structure Mbx where
  cmd : Nat
  busy : Bool
  result : Nat
  args : List Word
  buf : List (Nat × Byte)
  doneResult : Nat
  failCode : Option Nat
  chunk : Option (Bool × Nat × List Byte)
  running : Nat
deriving DecidableEq, Repr

/-- A PCIe function (19 R424 to R429). -/
structure Fn where
  bme : Bool
  d3 : Bool
  vfEn : Bool
deriving DecidableEq, Repr

/-- An MSI-X table entry's state (19 R426): masked until host software unmasks it, as PCIe lays down (log 13). -/
structure MsixEnt where
  masked : Bool
  pend : Bool
deriving DecidableEq, Repr

/-- The I3C target (19 R430 to R434). -/
structure I3cSt where
  page : Nat
  rdAddr : Nat
  da : Option Nat
  ibiEn : Bool
  mwl : Nat
  mrl : Nat
  ibis : Map Word
deriving DecidableEq, Repr

/-- The PCIe link (19 R424 to R428). -/
structure Pci where
  dlUp : Bool
  width : Nat
  speed : Nat
  epDropped : Nat
deriving DecidableEq, Repr

/-- The servo states of 13 R329, with their codes. -/
inductive Servo where
  | free | acquire | locked | slewing | holdover
deriving DecidableEq, Repr

/-- A source slot (13 R328, R333, R334). Offsets and delays are in units of 2^-16 ns; a held sample keeps its offset
before the path delay is taken off. -/
structure Slot where
  delay : Int
  delays : List Int
  samples : List (Mer × Int)
  held : List Int
  outCount : Nat
  beyond : Nat
  within : Nat
  lastAt : Option Mer
deriving DecidableEq, Repr

/-- A pulse output (13 R336, R337). -/
structure PulseOut where
  armed : Bool
  start : Mer
  period : Nat
  nextK : Nat
  high : Bool
deriving DecidableEq, Repr

/-- A capture input (13 R338): entries oldest first, with their edge direction. -/
structure CapIn where
  fifo : List (Mer × Bool)
  lastEdge : Option Mer
deriving DecidableEq, Repr

/-- One egress FIFO entry (13 R327). -/
structure Egress where
  seqId : Nat
  msgType : Nat
  time : Mer
deriving DecidableEq, Repr

/-- The Meridian servo, the operations that wait for the next MK edge, the PTP FIFOs, outputs and inputs (13). The
frequency and phase terms are added to INC, in 2^-32 ns per MK edge (R315, R330). -/
structure MerSt where
  servo : Servo
  freq : Int
  phase : Int
  freqHist : List Int
  primaryB : Bool
  hits : Nat
  traceable : Bool
  holdSince : Mer
  utcOff : Nat
  utcValid : Bool
  slots : List Slot
  setDue : Option Mer
  snapDue : Bool
  switchDue : Bool
  stepDue : Option Int
  slewLeft : Int
  egress : List (List Egress)
  outs : List PulseOut
  ins : List CapIn
deriving DecidableEq, Repr

end Sys2Proof.Machine
end

