-- ==== Sys2Proof/Machine/State.lean ====
section
/-! DEFINITION. The machine state: every register, table, queue, FIFO, counter, mode and pin the spec gives the T9,
as plain data, and State.reset. -/

namespace Sys2Proof.Machine
open Sys2Proof

/-- Faults: no command of this model ends in one (INVENTORY, Faults); kept closed for the host's interface. -/
inductive Fault where
  /-- Raised by nobody: the T9 reports every fault as an event and goes on (15 R356). Safe. -/
  | none
deriving DecidableEq, Repr

/-- Refusals. -/
inductive Refusal where
  /-- An arm of the dispatcher whose command has no meaning yet. Safe: nothing can be proved of it. -/
  | notModelled (mnemonic : String)
deriving DecidableEq, Repr

structure State where
  clk : Clk
  regs : Map Word
  boot : Boot
  flash : Flash
  mbx : Mbx
  helm : Helm
  cmds : List Cmd
  runs : List Run
  batches : List Batch
  chart : ChartSt
  rose : Rose
  log : LogSt
  bin : Bin
  ms : MerSt
  streams : Map Stream
  csi : List CsiTx
  fleet : Fleet
  fns : List Fn
  msix : Map MsixEnt
  pci : Pci
  i3c : I3cSt
  pel : Pel
  out : List Output
  free : Nat
  pending : List Instr
deriving DecidableEq, Repr

/-- The outcome of a step (Host.Core). -/
abbrev Res := Host.Outcome State Fault Refusal

/-! ### The machine while POR_N is low (19 R441, 20 R444, 17 R393, R397) -/

/-- The source slot of the servo with nothing sampled. -/
def Slot.zero : Slot := ⟨0, [], [], [], 0, 0, 0, none⟩

/-- A pulse output that is idle and low. -/
def PulseOut.zero : PulseOut := ⟨false, 0, 0, 0, false⟩

/-- A sector with every facet in service (11 R289). -/
def Sector.good : Sector := ⟨0, false, none, none, false, false, 0⟩

/-- Clocks before the root PLL locks (17 R393; log 4). -/
def Clk.reset : Clk := ⟨false, 0, 0, 0, 0, List.replicate 16 0, List.replicate 16 none, 0, 0, 0, false⟩

/-- Power-up state while POR_N is low (17 R398, log 5). -/
def Boot.reset : Boot :=
  ⟨false, 0, 0, 0, 0, false, false, 0, 0, 0, 0, 0, 0, 0, List.replicate 64 0, List.replicate 64 0, 0, 0, 0, 0, 0, 0, 0, [], 0, false,
   false, 0⟩

/-- The Helm complex (15 R370, 17 R397): no context, no ring, no Beacon raised, every Heading entry FREE (log 8). -/
def Helm.reset : Helm :=
  ⟨[], 63, [], List.replicate 8 ⟨false, false, false, false, 0, none⟩, [], [], [], [], [], [], [], [], [], [], [], 0, 0⟩

/-- Chart memory: every word 0 (17 R397), every window closed (log 9), every bank on. -/
def ChartSt.reset : ChartSt := ⟨[], [], [], [], [], [], [], [], false, 0, [], [], []⟩

/-- The Rose: accumulators empty, every facet in service. -/
def Rose.reset : Rose := ⟨[], [], [], [], [], [], [], [], [], [], List.replicate 16 Sector.good, [], [], []⟩

/-- The Logbook when VDD_SI and VDD_LOG have been applied: the first record carries index 1 (16 R387). -/
def LogSt.reset : LogSt := ⟨[], [], [], [], 1, [], [], 0, 0⟩

/-- The Binnacle: SAFE_N low, ALERT_N released (19 R441), the regulator at 0.75 V (21 R452). -/
def Bin.reset : Bin :=
  ⟨false, false, true, 0, [], 0, [], false, false, false, false, false, [], 0, 750, 750, 0, 0, 0, [], false, [], [], false, false⟩

/-- The servo FREE with y = 0 (13 R317). -/
def MerSt.reset : MerSt :=
  ⟨.free, 0, 0, [], false, 0, false, 0, 0, false, List.replicate 2 Slot.zero, none, false, false, none, 0, List.replicate 4 [],
   List.replicate 8 PulseOut.zero, List.replicate 4 ⟨[], none⟩⟩

/-- The I3C target without a dynamic address (19 R430, R431). -/
def I3cSt.reset : I3cSt := ⟨0, 0, none, false, 260, 260, []⟩

/-- The machine right after reset: POR_N low, the always-on supplies just applied, the flash erased (log 6), nothing commanded. -/
def State.reset : State :=
  { clk := Clk.reset, regs := [], boot := Boot.reset, flash := ⟨[], [], none, none⟩,
    mbx := ⟨0, false, 0, [0, 0, 0, 0], [], 0, none, none, 0⟩, helm := Helm.reset, cmds := [], runs := [], batches := [],
    chart := ChartSt.reset, rose := Rose.reset, log := LogSt.reset, bin := Bin.reset, ms := MerSt.reset, streams := [],
    csi := List.replicate 4 ⟨0, 0, 0, false⟩, fleet := ⟨[], 0, none, none, false⟩, fns := List.replicate 64 ⟨false, false, false⟩,
    msix := [], pci := ⟨false, 0, 0, 0⟩, i3c := I3cSt.reset,
    pel := ⟨[], [], [], [], [], 0, 0, 0, [], [], 0, false⟩, out := [], free := 0, pending := [] }

end Sys2Proof.Machine
end

