-- ==== Sys2Proof/Machine/Updates.lean ====
section
/-! DEFINITION. One update of State for each of its groups. -/

namespace Sys2Proof.Machine
open Sys2Proof

/-- s with its group clk replaced. -/
def State.setClk (s : State) (v : Clk) : State := { s with clk := v }
/-- s with its group regs replaced. -/
def State.setRegs (s : State) (v : Map Word) : State := { s with regs := v }
/-- s with its group boot replaced. -/
def State.setBoot (s : State) (v : Boot) : State := { s with boot := v }
/-- s with its group flash replaced. -/
def State.setFlash (s : State) (v : Flash) : State := { s with flash := v }
/-- s with its group mbx replaced. -/
def State.setMbx (s : State) (v : Mbx) : State := { s with mbx := v }
/-- s with its group helm replaced. -/
def State.setHelm (s : State) (v : Helm) : State := { s with helm := v }
/-- s with its group cmds replaced. -/
def State.setCmds (s : State) (v : List Cmd) : State := { s with cmds := v }
/-- s with its group runs replaced. -/
def State.setRuns (s : State) (v : List Run) : State := { s with runs := v }
/-- s with its group batches replaced. -/
def State.setBatches (s : State) (v : List Batch) : State := { s with batches := v }
/-- s with its group chart replaced. -/
def State.setChart (s : State) (v : ChartSt) : State := { s with chart := v }
/-- s with its group rose replaced. -/
def State.setRose (s : State) (v : Rose) : State := { s with rose := v }
/-- s with its group log replaced. -/
def State.setLog (s : State) (v : LogSt) : State := { s with log := v }
/-- s with its group bin replaced. -/
def State.setBin (s : State) (v : Bin) : State := { s with bin := v }
/-- s with its group ms replaced. -/
def State.setMs (s : State) (v : MerSt) : State := { s with ms := v }
/-- s with its group streams replaced. -/
def State.setStreams (s : State) (v : Map Stream) : State := { s with streams := v }
/-- s with its group csi replaced. -/
def State.setCsi (s : State) (v : List CsiTx) : State := { s with csi := v }
/-- s with its group fleet replaced. -/
def State.setFleet (s : State) (v : Fleet) : State := { s with fleet := v }
/-- s with its group fns replaced. -/
def State.setFns (s : State) (v : List Fn) : State := { s with fns := v }
/-- s with its group msix replaced. -/
def State.setMsix (s : State) (v : Map MsixEnt) : State := { s with msix := v }
/-- s with its group pci replaced. -/
def State.setPci (s : State) (v : Pci) : State := { s with pci := v }
/-- s with its group i3c replaced. -/
def State.setI3c (s : State) (v : I3cSt) : State := { s with i3c := v }
/-- s with its group pel replaced. -/
def State.setPel (s : State) (v : Pel) : State := { s with pel := v }
/-- s with its group out replaced. -/
def State.setOut (s : State) (v : List Output) : State := { s with out := v }
/-- s with its group free replaced. -/
def State.setFree (s : State) (v : Nat) : State := { s with free := v }
/-- s with its command queue replaced. -/
def State.setPending (s : State) (v : List Instr) : State := { s with pending := v }

end Sys2Proof.Machine
end

