-- ==== Sys2Proof/Machine/Ops.lean ====
section
/-! DEFINITION. The operations every command shares: Meridian arithmetic and stamps, register fields, counters, trace
records, MSI-X and alerts, events and the Logbook, look-up of contexts, rings, commands and Heading entries. -/

namespace Sys2Proof.Machine
open Sys2Proof

/-! ### Meridian time (13 R314, R319, R321) -/

/-- 1 ns in units of 2^-32 ns. -/
def nsU : Nat := 2 ^ 32
/-- 1 µs. -/
def usU : Nat := 1000 * nsU
/-- 1 s. -/
def secU : Nat := 1000000000 * nsU

/-- A Meridian value from its SEC, NS and FRAC (13 R314). -/
def merOf (sec ns frac : Nat) : Mer := (sec * 1000000000 + ns) * nsU + frac * 2 ^ 16
/-- SEC. -/
def merSec (m : Mer) : Nat := m / secU
/-- NS. -/
def merNs (m : Mer) : Nat := m / nsU % 1000000000
/-- FRAC, truncated to 2^-16 ns. -/
def merFrac (m : Mer) : Nat := m / 2 ^ 16 % 2 ^ 16

/-- INC of 13 R315: 5 ns × (1 + y), in 2^-32 ns. -/
def merInc (s : State) : Nat := (5 * (nsU : Int) + s.ms.freq + s.ms.phase).toNat

/-- Did the first MK edge at or after a Meridian time pass at least n AK cycles ago (04 R96, 11 R291)? -/
def edgePassed (s : State) (t : Mer) (n : Nat) : Bool :=
  (decide (t ≤ s.clk.mer) && decide (s.clk.mkAk + n ≤ s.clk.chipAk)) ||
  (decide (t + merInc s ≤ s.clk.mer) && decide (s.clk.mkPrev + n ≤ s.clk.chipAk)) || decide (t + 2 * merInc s ≤ s.clk.mer)

/-- Is this AK cycle the nth after the first MK edge at or after a Meridian time? -/
def edgeNow (s : State) (t : Mer) (n : Nat) : Bool :=
  (decide (t ≤ s.clk.mer) && decide (s.clk.mer < t + merInc s) && decide (s.clk.mkAk + n = s.clk.chipAk)) ||
  (decide (t + merInc s ≤ s.clk.mer) && decide (s.clk.mer < t + 2 * merInc s) && decide (s.clk.mkPrev + n = s.clk.chipAk))

/-- The stamp of an AK event (13 R319): the Meridian value of the latest MK edge plus the root periods since. -/
def stamp (s : State) : Mer := s.clk.mer + s.clk.rootPhase * merInc s / 16

/-- The stamp as it is reported, truncated to 2^-16 ns. -/
def stampR (s : State) : Mer := stamp s / 2 ^ 16 * 2 ^ 16

/-- The longest AK cycles of 13 R321: n cycles of a run whose margin is given, in Meridian time. -/
def longAk (s : State) (margin n : Nat) : Mer :=
  match s.ms.servo with
  | .acquire | .slewing => n * 251325 * nsU / 100000
  | _ => if margin < 65536 then n * 5 * nsU / 2 else n * 2501 * nsU / 1000

/-- Completion of a time given by the low 32 bits of its seconds (09 R231). -/
def completeTime (s : State) (secLo ns : Nat) : Mer :=
  let cur := merSec s.clk.mer
  let sec := cur / 2 ^ 32 * 2 ^ 32 + secLo
  let sec := if cur > sec + 2 ^ 31 then sec + 2 ^ 32 else sec
  merOf sec ns 0

/-- AK cycles × 1.25 ns, the nominal length (01 R27). -/
def nominalAk (n : Nat) : Mer := n * 5 * nsU / 4

/-! ### Facet numbering (00 R12, 05 R124) -/

/-- Die row of a global facet. -/
def dieRow (g : Nat) : Nat := 4 * (g / 16 / 4) + g % 16 / 4
/-- Die column of a global facet. -/
def dieCol (g : Nat) : Nat := 4 * (g / 16 % 4) + g % 16 % 4
/-- The global facet at a die row and column. -/
def facetAt (r c : Nat) : Nat := 16 * (4 * (r / 4) + c / 4) + 4 * (r % 4) + c % 4
/-- The sector of a global facet. -/
def sectorOf (g : Nat) : Nat := g / 16

/-- Does a berth stay on the 16 × 16 die grid with its origin in range? -/
def Berth.onDie (b : Berth) : Bool :=
  decide (b.origin < 256) && decide (1 ≤ b.h) && decide (1 ≤ b.w) &&
  decide (dieRow b.origin + b.h ≤ 16) && decide (dieCol b.origin + b.w ≤ 16)

/-- Insert into a rising list of distinct numbers. -/
def insSorted (n : Nat) : List Nat → List Nat
  | [] => [n]
  | m :: ms => if n < m then n :: m :: ms else if n = m then m :: ms else m :: insSorted n ms

/-- Sort into a rising list of distinct numbers. -/
def sortNat (ns : List Nat) : List Nat := ns.foldr insSorted []

/-- The facets of a berth, by rising global number (05 R124). -/
def Berth.facets (b : Berth) : List Nat :=
  sortNat (((List.range b.h).map (fun i => (List.range b.w).map (fun j =>
    facetAt (dieRow b.origin + i) (dieCol b.origin + j)))).flatten)

/-- The sectors of a berth, rising. -/
def Berth.sectors (b : Berth) : List Nat := sortNat (b.facets.map sectorOf)

/-- The number of facets. -/
def Berth.size (b : Berth) : Nat := b.h * b.w

/-! ### Registers (20 R442, R443) -/

/-- The stored word of a register instance; one never written holds its reset value (20 R444). -/
def regRaw (s : State) (copy off : Nat) : Nat :=
  match mget s.regs (regKey copy off) with
  | some w => w.toNat
  | none => match regInfo off with
    | some ri => ri.reset
    | none => 0

/-- The stored word of a register that exists once. -/
def rget (s : State) (off : Nat) : Nat := regRaw s 0 off

/-- Store a word in a register instance. -/
def regPut (s : State) (copy off v : Nat) : State := s.setRegs (mset s.regs (regKey copy off) (BitVec.ofNat 32 v))

/-- Store a word in a register that exists once. -/
def rput (s : State) (off v : Nat) : State := regPut s 0 off v

/-- Bits [hi:lo] of a number. -/
def nbits (v hi lo : Nat) : Nat := (v >>> lo) % 2 ^ (hi + 1 - lo)

/-- Replace the bits of a mask (both below 2^32). -/
def maskIn (old new mask : Nat) : Nat := ((old &&& (0xFFFFFFFF - mask % 2 ^ 32)) ||| (new &&& mask)) % 2 ^ 32

/-- Set flag bit i of a register that exists once. -/
def rflag (s : State) (off i : Nat) : State := rput s off (rget s off ||| 2 ^ i)

/-- Add to an RC counter that fills bits [hi:lo] and saturates. -/
def rcount (s : State) (off hi lo n : Nat) : State :=
  let v := rget s off
  let c := satTo (2 ^ (hi + 1 - lo) - 1) (nbits v hi lo + n)
  rput s off (maskIn v (c <<< lo) ((2 ^ (hi + 1 - lo) - 1) <<< lo))

/-! ### Counters of Pelorus (18 R412, R413) -/

/-- Add to a global counter, saturating at 2^64 - 1. -/
def gcount (s : State) (id n : Nat) : State :=
  s.setPel { s.pel with gblCnt := mupd s.pel.gblCnt id 0 (fun c => satTo (2 ^ 64 - 1) (c + n)) }

/-- The key of a context counter. -/
def ctxCntKey (ctx id : Nat) : Nat := ctx * 65536 + id

/-- Add to a context counter, saturating at 2^64 - 1. -/
def ccount (s : State) (ctx id n : Nat) : State :=
  s.setPel { s.pel with ctxCnt := mupd s.pel.ctxCnt (ctxCntKey ctx id) 0 (fun c => satTo (2 ^ 64 - 1) (c + n)) }

/-- Add several context counts at once (18 R413). -/
def ccounts (s : State) (ctx : Nat) : List (Nat × Nat) → State
  | [] => s
  | (id, n) :: cs => ccounts (if n = 0 then s else ccount s ctx id n) ctx cs

/-! ### Trace records (18 R416, R417) -/

/-- The class bit of PEL_TRACE_CTL that admits a record kind: none for the kinds that are always written. -/
def traceClass (kind : Nat) : Option Nat :=
  if kind < 0x10 then some 24
  else if kind < 0x20 then some 25
  else if kind < 0x30 then some 26
  else if kind = 0x31 ∨ kind = 0x32 ∨ kind = 0x33 then some 27
  else none

/-- Is a record wanted under PEL_TRACE_CTL? -/
def traceWanted (s : State) (r : TraceRec) : Bool :=
  let c := rget s 0xC0040
  c.testBit 31 &&
  (match traceClass r.kind with
   | none => true
   | some b => c.testBit b && (!c.testBit 28 || decide (r.ctx % 4096 = c % 4096)))

/-- Write a trace record through the queue of 1,024; a record that meets a full queue, or a ring that has stopped under
MODE 1, is dropped and counted (18 R417). -/
def trace (s : State) (r : TraceRec) : State :=
  if !traceWanted s r then s
  else if (rget s 0xC0040).testBit 29 || decide (s.pel.queue.length ≥ 1024) then
    (rcount s 0xC0048 31 0 1).setPel { s.pel with lostRun := s.pel.lostRun + 1 }
  else s.setPel { s.pel with queue := s.pel.queue ++ [r] }

/-- The CTX word of a trace record or scan slot: context and ring (18 R416). -/
def ctxWord (k : CmdKey) : Nat := k.ctx % 4096 + (k.ring % 8) * 4096

/-- A trace record of a command from a unit, stamped now. -/
def traceCmd (s : State) (kind flags unitNo : Nat) (k : CmdKey) (ak arg0 arg1 : Nat) : State :=
  trace s ⟨kind, flags, unitNo, ctxWord k, k.seq, stampR s, ak % 2 ^ 32, arg0, arg1⟩

/-! ### Functions, MSI-X, alerts (10 R255, 19 R426 to R429, 15 R357) -/

/-- The range of contexts of a function, from HELM_FN_CTX (10 R255): FIRST and COUNT. -/
def fnRange (s : State) (f : Nat) : Nat × Nat :=
  let v := rget s (0x10100 + 4 * f)
  (nbits v 11 0, nbits v 28 16)

/-- Does function f own context c? -/
def ownsCtx (s : State) (f c : Nat) : Bool :=
  let (first, count) := fnRange s f
  decide (first ≤ c) && decide (c < first + count)

/-- The function that owns a context, searching from f up. -/
def fnOfFrom (s : State) (c : Nat) : Nat → Nat → Option Nat
  | 0, _ => none
  | n + 1, f => if ownsCtx s f c then some f else fnOfFrom s c n (f + 1)

/-- The function that owns a context. -/
def fnOf (s : State) (c : Nat) : Option Nat := fnOfFrom s c 64 0

/-- Is function f present and enabled: the physical function, or a virtual one with VF Enable and an index below NUM_VF
(19 R427)? -/
def fnEnabled (s : State) (f : Nat) : Bool :=
  decide (f = 0) || ((match s.fns[0]? with | some p => p.vfEn | none => false) && decide (f ≤ s.boot.numVf))

/-- Can function f master the bus (19 R429): from READY on (17 R407)? -/
def canMaster (s : State) (f : Nat) : Bool :=
  (decide (s.boot.state = 1) || decide (s.boot.state = 3)) && fnEnabled s f && s.pci.dlUp &&
  (match s.fns[f]? with | some p => p.bme && !p.d3 | none => false)

/-- The size of a function's MSI-X table (19 R426). -/
def msixSize (s : State) (f : Nat) : Nat := if f = 0 then 2048 - 32 * s.boot.numVf else 32

/-- The key of an MSI-X entry. -/
def msixKey (f e : Nat) : Nat := f * 2048 + e

/-- Payload bytes that an output sends over PCIe (18, counter 0x3F01). -/
def pcieBytes : Output → Nat
  | .memWrite _ _ d => d.length
  | .msix _ _ => 4
  | .regRead path _ _ => if path < 64 then 4 else 0
  | _ => 0

/-- Payload bytes received over PCIe (18, counter 0x3F00). -/
def pcieIn (s : State) (n : Nat) : State := gcount s 0x3F00 n

/-- One more thing leaves the device; PCIe payload is counted. -/
def emit (s : State) (o : Output) : State :=
  let s := if pcieBytes o = 0 then s else gcount s 0x3F01 (pcieBytes o)
  s.setOut (s.out ++ [o])

/-- Raise an MSI-X entry: a masked entry becomes pending, any other sends its message (19 R426); a function that cannot
master sends nothing and keeps the entry pending. -/
def raiseMsix (s : State) (f e : Nat) : State :=
  let ent := mgetD s.msix (msixKey f e) ⟨true, false⟩
  if ent.masked || !canMaster s f then s.setMsix (mset s.msix (msixKey f e) { ent with pend := true })
  else emit s (.msix f e)

/-- Raise an in-band interrupt while ENEC has enabled them: merged with a pending one of its kind, the newest payload kept (19 R434). -/
def raiseIbi (s : State) (kind payload : Nat) : State :=
  if !s.i3c.ibiEn then s
  else
    let was := (mget s.i3c.ibis kind).isSome
    let s := s.setI3c { s.i3c with ibis := mset s.i3c.ibis kind (BitVec.ofNat 32 payload) }
    if was then s else emit s (.ibi kind (BitVec.ofNat 32 payload))

/-- Report an event's class (15 R357): the class bit, TOP_ERR_LAST when a record was written, and for an enabled class
ALERT_N, the error vector and the in-band interrupt. DEVICE is always enabled. -/
def reportClass (s : State) (cls : Nat) (index : Option Nat) : State :=
  let s := rflag s 0x100 cls
  let s := match index with
    | some i => rput s 0x104 i
    | none => s
  if decide (cls = 5) || (rget s 0x108).testBit cls then
    let s := s.setBin { s.bin with alertN := false }
    let s := raiseMsix s 0 0
    raiseIbi s 1 (rget s 0x104)
  else s

/-! ### The Logbook (16 R387, R389; 15 R357) -/

/-- The event index after i: it wraps from 2^32 - 1 to 1 (16 R387). -/
def nextIndex (i : Nat) : Nat := if i + 1 ≥ 2 ^ 32 then 1 else i + 1

/-- The slot of an event record in the Logbook RAM (16 R387). -/
def eventSlot (i : Nat) : Nat := i % 1048512

/-- Write one event record. -/
def logEvent (s : State) (e : Event) : State :=
  let e := { e with index := s.log.next }
  gcount (s.setLog { s.log with events := mset s.log.events (eventSlot e.index) e, next := nextIndex e.index }) 0x2004 64

/-- The event record of an argument, stamped from the Binnacle's shadow time (13 R322). -/
def eventOf (s : State) (a : EvArg) : Event :=
  ⟨0, a.cls, a.cause, a.unitKind, a.unitNo, s.clk.shadow, bitAt s.clk.shadowMark 0 + bitAt (decide (a.originA ≠ 0xFFFF)) 2,
   (match a.key with | some k => k.ctx | none => 0), (match a.key with | some k => k.ring | none => 0),
   (match a.key with | some k => k.seq | none => 0), a.originA, a.originB, s.clk.chipAk % 2 ^ 32, a.detail⟩

/-- Raise an event of class CORRECTED or above: its fault record first, then the report (15 R357). -/
def raiseEvent (s : State) (a : EvArg) : State :=
  let i := s.log.next
  reportClass (logEvent s (eventOf s a)) a.cls (some i)

/-- Raise a NOTICE of a source: logged when its count passes from 0 to 1, or always for the sources R357 names. -/
def raiseNotice (s : State) (src : Nat) (always : Bool) (a : EvArg) : State :=
  let n := mgetD s.log.notices src 0
  let i := s.log.next
  let s' := s.setLog { s.log with notices := mset s.log.notices src (n + 1) }
  if always || decide (n = 0) then reportClass (logEvent s' (eventOf s' { a with cls := 0, cause := 0x30 })) 0 (some i)
  else reportClass s' 0 none

/-- NOTICE sources of 15 R356 and the other chapters: a number for each, DB_OVERRUN and FETCH_ERR one per ring. -/
def srcDegraded : Nat := 1
def srcMember : Nat := 2
def srcLateFix : Nat := 3
def srcScrub : Nat := 4
def srcTemp : Nat := 5
def srcTrace : Nat := 6
def srcBank : Nat := 7
def srcResumed : Nat := 8
def srcMissed : Nat := 9
def srcPmb : Nat := 10
def srcOverrun (ringKey : Nat) : Nat := 0x10000 + ringKey
def srcFetch (ringKey : Nat) : Nat := 0x20000 + ringKey

/-! ### Contexts, rings, commands (09, 10) -/

/-- The key of a ring: 8 × context + ring. -/
def ringKey (ctx ring : Nat) : Nat := 8 * ctx + ring

/-- A defined context. -/
def ctxOf (s : State) (c : Nat) : Option Ctx := mget s.helm.ctxs c

/-- The ring-table row that a ring has before its first enable. -/
def Ring.zero : Ring := ⟨0, 0, 0, 0, false, 0, false, false, false, false, false, false, 0, 0, 0, 0, false⟩

/-- A ring-table row. -/
def ringOf (s : State) (ctx ring : Nat) : Ring := mgetD s.helm.rings (ringKey ctx ring) Ring.zero

/-- Write a ring-table row, both copies (15 R366). -/
def setRing (s : State) (ctx ring : Nat) (r : Ring) : State :=
  s.setHelm { s.helm with rings := mset s.helm.rings (ringKey ctx ring) r }

/-- The accepted, uncommitted command of a key. -/
def findCmd (s : State) (k : CmdKey) : Option Cmd := s.cmds.find? (fun c => c.key == k)

/-- Replace a command by its key. -/
def putCmd (s : State) (c : Cmd) : State := s.setCmds (s.cmds.map (fun d => if d.key == c.key then c else d))

/-- Remove a command. -/
def dropCmd (s : State) (k : CmdKey) : State := s.setCmds (s.cmds.filter (fun d => !(d.key == k)))

/-- The runs of a key (one; two berths of a DUAL command are one run). -/
def findRun (s : State) (k : CmdKey) : Option Run := s.runs.find? (fun r => r.key == k)

/-- The runs that hold facets: a SAFE run past its commit point keeps its Plot alone (16 R378). -/
def liveRuns (s : State) : List Run := s.runs.filter (fun r => decide (r.phase ≠ .done))

/-- Replace a run by its key. -/
def putRun (s : State) (r : Run) : State := s.setRuns (s.runs.map (fun d => if d.key == r.key then r else d))

/-- Remove a run. -/
def dropRun (s : State) (k : CmdKey) : State := s.setRuns (s.runs.filter (fun d => !(d.key == k)))

/-- Does ring r hold an accepted command that has not committed (HELM_RING_CTL ACTIVE)? -/
def ringActive (s : State) (ctx ring : Nat) : Bool :=
  s.cmds.any (fun c => c.key.ctx == ctx && c.key.ring == ring)

/-- Is a earlier than b on a ring, both outstanding (09 R222)? -/
def seqBefore (a b : Word) : Bool := ahead b a

/-- The earlier uncommitted commands of a command's ring. -/
def earlier (s : State) (k : CmdKey) : List Cmd :=
  s.cmds.filter (fun c => c.key.ctx == k.ctx && c.key.ring == k.ring && seqBefore c.key.seq k.seq)

/-- OPCODE of a descriptor (09 R228). -/
def opOf (d : Line) : Nat := leField d 0 1

/-- A Heading entry. -/
def hdgOf (s : State) (h : Nat) : Hdg := mgetD s.helm.heading h Hdg.zero

/-- Write a Heading entry and its Logbook shadow image (02 R56, 15 R367). -/
def setHdg (s : State) (h : Nat) (e : Hdg) : State :=
  let s := s.setHelm { s.helm with heading := mset s.helm.heading h e }
  s.setLog { s.log with shadow := mset s.log.shadow h e }

/-- Write a Heading entry's STATE without a commit (02 R55). -/
def setHdgState (s : State) (h st : Nat) : State :=
  s.setHelm { s.helm with heading := mset s.helm.heading h { hdgOf s h with state := st } }

/-- Are the setup registers open to writes (17 R396, R407): from READY on, the warm reset too? -/
def pfOpen (s : State) : Bool := decide (s.boot.state = 1) || decide (s.boot.state = 3)

/-- Is the host's side of the device at work: STATE is READY, and the Binnacle holds no safe state? -/
def ready (s : State) : Bool := decide (s.boot.state = 1) && !s.bin.safe

end Sys2Proof.Machine
end

