-- ==== Sys2Proof/Machine/Records.lean ====
section
/-! DEFINITION. The byte layouts of every structure the T9 writes, little-endian, in address order (09 R221). -/

namespace Sys2Proof.Machine
open Sys2Proof



/-- Bytes padded with zeros to a multiple of k. -/
def padTo (k : Nat) (bs : List Byte) : List Byte := bs ++ zeros ((k - bs.length % k) % k)

/-- One byte. -/
def b1 (v : Nat) : List Byte := leBytes 1 v
/-- Two bytes. -/
def b2 (v : Nat) : List Byte := leBytes 2 v
/-- Four bytes. -/
def b4 (v : Nat) : List Byte := leBytes 4 v
/-- Eight bytes. -/
def b8 (v : Nat) : List Byte := leBytes 8 v

/-- Heading entry image (02 R53). -/
def hdgBytes (e : Hdg) : List Byte :=
  b1 e.state ++ b1 e.lastStatus ++ b2 (e.ctx % 4096) ++ b2 (e.model % 4096) ++ b2 (e.flags % 64) ++ b8 e.sig.toNat ++
  b4 e.lastSeq.toNat ++ b1 (e.ring % 8) ++ b1 e.lastIter ++ b2 (e.stream % 64) ++ b8 (merSec e.commit) ++
  b4 (merNs e.commit) ++ b2 (merFrac e.commit) ++ b2 0 ++ b4 e.warmAddr ++ b4 e.warmCap ++ b4 e.merit ++
  b4 e.commitCount ++ zeros 8

/-- The fields of a completion record (09 R241). -/
structure CplRec where
  seq : Word
  status : Nat
  flags : Nat
  numFlags : Nat
  rflags : Nat
  handle : Nat
  iterRun : Nat
  res0 : Nat
  res1 : Nat
  res2 : Nat
  res3 : Nat
  elapsed : Nat
deriving DecidableEq, Repr

/-- Completion record (09 R241). -/
def cplBytes (r : CplRec) : List Byte :=
  b4 r.seq.toNat ++ b1 r.status ++ b1 r.flags ++ b1 r.numFlags ++ b1 r.rflags ++ b2 r.handle ++ b2 r.iterRun ++
  b4 r.res0 ++ b4 r.res1 ++ b4 r.res2 ++ b4 r.res3 ++ b4 r.elapsed

/-- PHASE of a completion record (09 R241). -/
def phaseBit (seq seq0 : Word) (log2e : Nat) : Nat := 1 - ((seq - seq0).toNat / 2 ^ log2e) % 2

/-- The fields of a Fix header (04 R104). -/
structure FixHdr where
  status : Nat
  flags : Nat
  bestIter : Nat
  iterRun : Nat
  handle : Nat
  seq : Word
  sig : Word64
  merit : Nat
  rhoP : Nat
  rhoD : Nat
  rhoG : Nat
  commit : Mer
  outFmt : Nat
  payloadLen : Nat
deriving DecidableEq, Repr

/-- Fix header (04 R104). -/
def fixHdrBytes (h : FixHdr) : List Byte :=
  b4 0x74394658 ++ b1 h.status ++ b1 h.flags ++ b2 h.bestIter ++ b2 h.iterRun ++ b2 h.handle ++ b4 h.seq.toNat ++
  b8 h.sig.toNat ++ b4 h.merit ++ b4 h.rhoP ++ b4 h.rhoD ++ b4 h.rhoG ++ b8 (merSec h.commit) ++ b4 (merNs h.commit) ++
  b2 (merFrac h.commit) ++ b1 h.outFmt ++ b1 0 ++ b4 h.payloadLen ++ b4 0

/-- Trap record (06 R168). -/
def trapBytes (t : TrapRec) : List Byte :=
  b4 0x74395452 ++ b1 t.kind ++ b1 t.unitK ++ b1 t.opcode ++ b1 (satTo 255 t.count) ++ b4 (t.routeAddr % 2 ^ 29) ++
  b4 t.step ++ b2 t.facet ++ b1 t.strip ++ b1 t.pos ++ b4 t.row ++ b4 t.col ++ b1 t.fmtA ++ b1 t.fmtB ++ b1 t.fmtR ++
  b1 t.pass ++ b8 t.ak ++ b8 t.opndA ++ b8 t.opndB ++ b8 t.result

/-- Journal entry (16 R388); a "committed" entry fills bytes 0 to 31 and the CRC. -/
def jBytes (e : JEntry) : List Byte :=
  let head := b1 e.kind ++ b1 e.eflags ++ b2 (e.ctx % 4096) ++ b4 e.seq.toNat ++ b1 e.ring ++ b1 0 ++ b2 e.slot ++
    b2 e.beacon ++ b2 e.handle2 ++ b8 (merSec e.mer) ++ b4 (merNs e.mer) ++ b2 (merFrac e.mer) ++ b2 0
  let body :=
    if e.kind = 2 ∨ e.kind = 4 then zeros 220
    else fitTo 32 e.record ++ fitTo 64 e.image1 ++ fitTo 64 e.image2 ++ zeros 60
  let all := head ++ body
  all ++ b4 (crc32 all).toNat

/-- Event record (16 R389). -/
def eventBytes (e : Event) : List Byte :=
  let all := b4 e.index ++ b1 e.cls ++ b1 e.cause ++ b1 e.unitKind ++ b1 e.unitNo ++ b8 (merSec e.mer) ++ b4 (merNs e.mer) ++
    b2 (merFrac e.mer) ++ b2 e.mflags ++ b2 (e.ctx % 4096) ++ b1 (e.ring % 8) ++ b1 0 ++ b4 e.seq.toNat ++ b2 e.originA ++
    b2 e.originB ++ b4 e.ak ++ fitTo 20 e.detail
  all ++ b4 (crc32 all).toNat

/-- Trace record (18 R416). -/
def traceBytes (t : TraceRec) : List Byte :=
  b1 t.kind ++ b1 t.flags ++ b1 t.unitNo ++ b1 0 ++ b2 t.ctx ++ b2 (merFrac t.mer) ++ b4 t.seq.toNat ++ b4 (merSec t.mer) ++
  b4 (merNs t.mer) ++ b4 t.ak ++ b4 t.arg0 ++ b4 t.arg1

/-- Warm-store header (04 R107). -/
def warmHdrBytes (c : Chart) (content : Nat) (seq : Word) : List Byte :=
  b2 c.nVar ++ b2 c.mIneq ++ b2 c.pEq ++ b2 c.horizon ++ b2 c.nx ++ b2 c.nu ++ b1 c.method ++ b1 (c.formats.getD 6 0) ++
  b2 content ++ b4 seq.toNat ++ zeros 44

/-- LADDER_AK of a berth of F facets (11 R284). -/
def ladderAk (f : Nat) : Nat := 32 * (ceilDiv f 4 - 1)

/-- The count of 04 R113 at iteration limit l; `own` says the command states its own ADMM penalty. -/
def routeCount (r : Route) (l : Nat) (own : Bool) : Nat :=
  r.setupAk + (if own then r.setupExtra else 0) + l * r.iterAk + l / 25 * (r.refactorAk - r.iterAk) + r.commitAk

/-- MARGIN_AK (04 R95): one tick takes the place of the 96 cycles on a batch route. -/
def marginAk (r : Route) : Nat := r.commitAk + (if r.batch then r.iterAk else 96) + 6 + 128

/-- A route is sealed when it has no VARY step (11 R279); one with cross-chip exchanges never is (14 R350). -/
def sealedRoute (r : Route) : Bool := r.vary.isEmpty && !r.consensus

/-- FLAGS of a certificate (04 R112): sealed, spans sectors, spill streaming, batch route (R116). -/
def certFlags (r : Route) : Nat :=
  bitAt (sealedRoute r) 0 + bitAt r.spans 1 + bitAt r.spillStream 2 + bitAt r.batch 3

/-- ROUTE_DIGEST (04 R112). -/
def routeDigest (r : Route) : List Byte := shake256 r.code 32

/-- Bytes 0 to 127 of a latency certificate (04 R112). -/
def certHead (model : Nat) (sig : Word64) (r : Route) (issue : Mer) (fwDigest : List Byte) (nonce : Nat) : List Byte :=
  b4 0x74394C43 ++ b2 1 ++ b2 (model % 4096) ++ b8 sig.toNat ++ fitTo 32 (routeDigest r) ++ b1 r.berthW ++ b1 r.berthH ++
  b1 r.vernier ++ b1 r.rounds ++ b4 r.setupAk ++ b4 r.iterAk ++ b4 r.refactorAk ++ b4 r.commitAk ++ b4 (marginAk r) ++
  b4 r.setupExtra ++ b2 (ladderAk (r.berthW * r.berthH)) ++ b2 r.iterLimit ++ b8 (routeCount r r.iterLimit false) ++
  b1 r.sweeps ++ b1 (certFlags r) ++ b2 r.mask ++ b4 (merNs issue) ++ b8 (merSec issue) ++ fitTo 16 fwDigest ++ b8 nonce

/-- A latency certificate of 256 B: signed with the Lodestone key when a nonce is given (04 R115). DESIGN CHOICE (log 146): SIGN gives one, whatever
its value, so a NONCE of 0 is signed as the nonce 0. -/
def certBytes (s : State) (model : Nat) (sig : Word64) (r : Route) (sign : Bool) (nonce : Nat) : List Byte :=
  let head := certHead model sig r s.clk.mer s.boot.fwDigest (if sign then nonce else 0)
  let sg := if sign then fitTo 114 (Config.ed448Sign (Config.lodestoneKey s.boot.serial.toNat) head) else zeros 114
  head ++ sg ++ zeros 14

/-- The fields of a fit report (02 R58). -/
structure FitReport where
  coreShort : Nat
  plotShort : Nat
  spillShort : Nat
  headingShort : Nat
  sectorShort : List Nat
  sig : Word64
  coreFree : Nat
deriving DecidableEq, Repr

/-- Fit report (02 R58). -/
def fitBytes (f : FitReport) : List Byte :=
  let mask := (List.range 16).foldl (fun a i => a + bitAt (decide (0 < f.sectorShort.getD i 0)) i) 0
  b4 f.coreShort ++ b4 f.plotShort ++ b4 f.spillShort ++ b2 f.headingShort ++ b2 mask ++
  ((List.range 16).map (fun i => b4 (f.sectorShort.getD i 0))).flatten ++ b8 f.sig.toNat ++ b4 f.coreFree ++ b4 0

/-- Watch header (18 R420). -/
def watchHdrBytes (w : Watch) (notReached killed : Bool) (copied : Nat) : List Byte :=
  b4 0x74395744 ++ b1 (if w.dump then 0 else 1) ++
  b1 (bitAt w.fired 0 + bitAt w.torn.isSome 1 + bitAt notReached 2 + bitAt killed 3 + bitAt w.truncated 4) ++ b2 w.run ++
  b4 w.target.seq.toNat ++ b2 (ctxWord w.target) ++ b2 w.origin ++ b4 w.step ++ b4 w.addr ++ b4 copied ++
  b4 (w.torn.getD 0xFFFFFFFF) ++ b8 (merSec w.firedAt) ++ b4 (merNs w.firedAt) ++ b2 (merFrac w.firedAt) ++ b2 0 ++
  b4 w.firedAk ++ zeros 12

/-- Fix frame header line (12 R297). -/
def fixLineBytes (f : FixFrame) : List Byte :=
  b4 0x74394646 ++ b2 f.streamId ++ b1 f.format ++ b1 f.kind ++ b4 f.seq.toNat ++ b4 f.elems ++ b8 f.capSec ++ b4 f.capNs ++
  b2 f.capFrac ++ b1 f.status ++ b1 f.flags ++ b8 (merSec f.emit) ++ b4 (merNs f.emit) ++ b2 (merFrac f.emit) ++
  b1 f.holdReason ++ b1 f.fflags ++ b4 f.missFirst.toNat ++ b2 f.missCount ++ b2 0 ++ b4 f.merit ++ b4 f.fixCount.toNat

/-- TYPE code of a Rastan header (14 R342). -/
def RType.code : RType → Nat
  | .hello => 1 | .write => 2 | .beacon => 3 | .ack => 4 | .ask => 5 | .stop => 6 | .resume => 7 | .refused => 8

/-- Rastan header (14 R342). -/
def rastanHdrBytes (f : RFrame) : List Byte :=
  b1 1 ++ b1 f.kind.code ++ b2 f.fleet ++ b1 f.src ++ b1 (f.dst % 32 + bitAt f.all 7) ++
  b2 (bitAt f.alt 0 + bitAt f.retry 1 + bitAt f.raise 2 + bitAt f.streams 3) ++ b4 f.lseq.toNat ++ b4 f.ack.toNat ++
  b2 (f.winId % 1024) ++ b1 f.rows.length ++ b1 f.reason ++ b4 f.addr ++ b4 f.value.toNat ++ b4 f.aux

/-- Source address of a Rastan frame (14 R341): 02-54-39-HH-LL-CC. -/
def rastanSource (fleet chip : Nat) : List Byte := [0x02#8, 0x54#8, 0x39#8] ++ b1 (fleet / 256) ++ b1 fleet ++ b1 chip

/-- Multicast address of a Rastan frame to every member (14 R341): 03-54-39-HH-LL-FF. -/
def rastanMulticast (fleet : Nat) : List Byte := [0x03#8, 0x54#8, 0x39#8] ++ b1 (fleet / 256) ++ b1 fleet ++ [0xFF#8]

/-- The whole Ethernet frame without FCS (14 R341): addresses, EtherType 0x88B5, header, rows, padding to the 64-byte
minimum (60 B without FCS). -/
def rastanFrameBytes (f : RFrame) : List Byte :=
  let dst := if f.all then rastanMulticast f.fleet else rastanSource f.fleet (f.dst % 32)
  let body := dst ++ rastanSource f.fleet f.src ++ [0x88#8, 0xB5#8] ++ rastanHdrBytes f ++ (f.rows.map (fitTo 512)).flatten
  body ++ zeros (60 - body.length)

/-- Scan slot (18 R423): header, accumulators in W48 containers with bit 63 set for an empty one, panel, sequencer. -/
def scanBytes (f : Nat) (t : ScanSlot) : List Byte :=
  let head := b4 0x74395343 ++ b2 f ++ b1 (bitAt t.held 0 + bitAt t.lateStop 1) ++ b1 0 ++ b2 t.origin ++ b2 t.ctx ++
    b4 t.seq.toNat ++ b8 (merSec t.stop) ++ b4 (merNs t.stop) ++ b2 (merFrac t.stop) ++ b2 0 ++ b4 t.ak ++ b4 t.step ++
    b4 t.routeAddr ++ b4 t.index ++ zeros 16
  let acc := ((List.range 1024).map (fun i => b8 (match mget t.acc i with | some v => v.toNat | none => 2 ^ 63))).flatten
  let panel := ((List.range 1024).map (fun i => b8 (mgetD t.panel i 0).toNat)).flatten
  head ++ acc ++ panel ++ fitTo 256 (Config.sequencerState f t.index)

/-- Records the trace ring holds (18 R415). -/
def traceCap (wakeMib : Nat) : Nat := (wakeMib * 2 ^ 20 - 0x415000) / 32

/-- Wake header (18 R415). -/
def wakeHdrBytes (s : State) : List Byte :=
  b4 0x7439574B ++ b4 s.boot.wakeMib ++ b4 s.pel.stopIndex ++ b4 (traceCap s.boot.wakeMib)

/-! ### Reading fields -/

/-- n bytes at an offset of a byte list, as a number. -/
def fieldOf (bs : List Byte) (off n : Nat) : Nat := leNat ((bs.drop off).take n)

/-- Fields of the ring record (09 R221). -/
def recSq (r : Rec) : Nat := leField r 0 8
def recCq (r : Rec) : Nat := leField r 8 8
def recSeq0 (r : Rec) : Word := BitVec.ofNat 32 (leField r 16 4)
def recLog2E (r : Rec) : Nat := leField r 20 1
def recRctl (r : Rec) : Nat := leField r 21 1
def recVector (r : Rec) : Nat := leField r 22 2
def recRsv (r : Rec) : Nat := leField r 24 8

/-- Fields of the descriptor header (09 R228). -/
def dCflags (d : Line) : Nat := leField d 1 1
def dCtx (d : Line) : Nat := leField d 2 2
def dSeq (d : Line) : Word := BitVec.ofNat 32 (leField d 4 4)
def dHandle (d : Line) : Nat := leField d 8 2
def dBeacon (d : Line) : Nat := leField d 10 2
def dModel (d : Line) : Nat := leField d 12 2
def dOutLen (d : Line) : Nat := leField d 14 2
def dInAddr (d : Line) : Nat := leField d 16 8
def dOutAddr (d : Line) : Nat := leField d 24 8
/-- Fields of the solve body (09 R230). -/
def dInLen (d : Line) : Nat := leField d 32 2
def dSched (d : Line) : Nat := leField d 34 1
def dClass (d : Line) : Nat := dSched d % 4
def dMode (d : Line) : Nat := dSched d / 4 % 4
def dDual (d : Line) : Bool := (dSched d).testBit 4
def dPolicy (d : Line) : Nat := dSched d / 32 % 4
def dWarm (d : Line) : Nat := leField d 35 1
def dWarmMode (d : Line) : Nat := dWarm d % 4
def dAllowPrimal (d : Line) : Bool := (dWarm d).testBit 2
def dWarmSrcEn (d : Line) : Bool := (dWarm d).testBit 3
def dShiftK (d : Line) : Nat := leField d 36 1
def dNumCtl (d : Line) : NumCtl := numCtlOf (leField d 37 1)
def dEpsP (d : Line) : Nat := leField d 38 2
def dEpsD (d : Line) : Nat := leField d 40 2
def dEpsG (d : Line) : Nat := leField d 42 2
def dIterLimit (d : Line) : Nat := leField d 44 2
def dRho (d : Line) : Nat := leField d 46 2
def dDlSec (d : Line) : Nat := leField d 48 4
def dDlNs (d : Line) : Nat := leField d 52 4
def dBudget (d : Line) : Nat := leField d 56 4
def dWarmSrc (d : Line) : Nat := leField d 60 2
/-- Is the opcode a solve command (09 R230)? -/
def isSolve (d : Line) : Bool := decide (opOf d = 0x10) || decide (opOf d = 0x11) || decide (opOf d = 0x12)
/-- BEACON field in use (09 R229)? -/
def dBcnEn (d : Line) : Bool := (dCflags d).testBit 1
def dIrq (d : Line) : Bool := (dCflags d).testBit 0

end Sys2Proof.Machine
end

