-- ==== Sys2Proof/Machine/Charts.lean ====
section
/-! DEFINITION. Charts and their dimensions: the canonical descriptor (02 R46, R473), class and method rules (R35, R45,
R48), derived dimensions, payload and warm-store sizes (04 R105, R472). -/

namespace Sys2Proof.Machine
open Sys2Proof

/-- The stage numbers of a stage-map section. -/
def stageNums : Nat → List Byte → List Nat
  | 0, _ => []
  | n + 1, bs => leNat (bs.take 2) :: stageNums n (bs.drop 2)

/-- Bytes [lo, hi) of a list are all 0. -/
def zeroRange (bs : List Byte) (lo hi : Nat) : Bool := ((bs.drop lo).take (hi - lo)).all (fun b => b == 0)

/-- Read a canonical chart descriptor (02 R46). -/
def parseChart (bs : List Byte) : Chart :=
  let f := fieldOf bs
  let pl := f 44 4
  let sl := f 48 4
  { magic := f 0 4, version := f 4 2, cls := f 6 1, method := f 7 1, nVar := f 8 2, mIneq := f 10 2, pEq := f 12 2,
    horizon := f 14 2, nx := f 16 2, nu := f 18 2, stageRows := f 20 2, ny := f 22 2,
    formats := (List.range 8).map (fun i => f (24 + i) 1), flags := f 32 4, layers := f 36 1, act := f 37 1,
    width := f 38 2, tangents := f 40 1, vernier := f 41 1, termRows := f 42 2, patternLen := pl, stagemapLen := sl,
    reservedZero := zeroRange bs 52 64, pattern := (bs.drop 64).take pl,
    stageMap := stageNums (sl / 2) (bs.drop (64 + pl)) }

/-- Staged classes (02 R473). -/
def Chart.staged (c : Chart) : Bool := decide (c.cls = 1) || decide (c.cls = 5) || decide (c.cls = 6)
/-- Kalman family: classes 0x2, 0x3, 0x4 (02 R35). -/
def Chart.kalman (c : Chart) : Bool := decide (c.cls = 2) || decide (c.cls = 3) || decide (c.cls = 4)
/-- Does the chart carry a network (02 R473)? -/
def Chart.network (c : Chart) : Bool := decide (c.cls = 6) || (decide (c.cls = 3) && c.flags.testBit 3)
/-- STAGE_MAP. -/
def Chart.hasStageMap (c : Chart) : Bool := c.flags.testBit 6

/-- n (02 R473): the stacked dimension for a staged chart. -/
def Chart.n (c : Chart) : Nat :=
  if c.staged then (c.horizon + 1) * c.nx + c.horizon * c.nu
  else if c.kalman then c.nx else c.nVar
/-- m. -/
def Chart.m (c : Chart) : Nat :=
  if c.staged then c.horizon * c.stageRows + c.termRows else if c.kalman then 0 else c.mIneq
/-- p. -/
def Chart.p (c : Chart) : Nat :=
  if c.cls = 5 then c.horizon * c.nx
  else if c.staged then (c.horizon + 1) * c.nx
  else if c.kalman then 0 else c.pEq

/-- May a class name a method (02 R35)? -/
def methodAllowed (cls method : Nat) : Bool :=
  match cls with
  | 0 => decide (method = 0) || decide (method = 1) || decide (method = 2)
  | 1 => decide (method = 0) || decide (method = 1) || decide (method = 3)
  | 2 | 3 | 4 => decide (method = 4)
  | 5 => decide (method = 0) || decide (method = 1)
  | 6 => decide (method = 0)
  | _ => false

/-- The dimension limits of 02 R45. -/
def withinLimits (c : Chart) : Bool :=
  let le (a b : Nat) : Bool := decide (a ≤ b)
  (match c.cls with
   | 0 => le c.nVar 4096 && le c.mIneq 8192 && le c.pEq (if c.nVar < 4096 then c.nVar else 4096) &&
          (!c.hasStageMap || (le c.horizon 256 && le c.nx 256 && le c.nu 128))
   | 1 | 6 => le c.horizon 256 && le c.nx 256 && le c.nu 128 && le c.stageRows 512 && le c.termRows 512
   | 2 | 3 | 4 => le c.nx 1024 && le c.ny 512 && le c.nu 256
   | 5 => le c.horizon 256 && le c.nx 256 && le c.nu 128 && le c.ny 256 && le c.stageRows 512 && le c.termRows 512
   | _ => true) &&
  (!c.network || (le c.layers 8 && le c.width 512 && le c.tangents 64))

/-- A field the class does not use is 0 (02 R46, R473). -/
def fieldsUsed (c : Chart) : Bool :=
  let z (a : Nat) : Bool := decide (a = 0)
  let dims := z c.nVar && z c.mIneq && z c.pEq
  let hnn := z c.horizon && z c.nx && z c.nu
  let rows := z c.stageRows && z c.termRows
  (match c.cls with
   | 0 => (c.hasStageMap || hnn) && rows && z c.ny
   | 1 | 6 => dims && z c.ny
   | 2 | 3 => dims && z c.horizon && rows
   | 4 => dims && z c.horizon && z c.nu && rows
   | 5 => dims
   | _ => true) &&
  (if c.network then !(z c.layers) && !(z c.width) && !(z c.tangents) else z c.layers && z c.act && z c.width && z c.tangents)

/-- The flag rules of 02 R46, R48 and R473. -/
def flagsLegal (c : Chart) : Bool :=
  decide (c.flags < 128) && !c.flags.testBit 5 &&
  (decide (c.termRows ≠ 0) == c.flags.testBit 1) && (!c.flags.testBit 1 || c.staged) &&
  (!c.flags.testBit 3 || decide (c.cls = 3)) && (!c.flags.testBit 2 || c.network)

/-- Length of the pattern and stage-map sections against the descriptor (02 R46). -/
def lengthsLegal (c : Chart) (bs : List Byte) : Bool :=
  decide (bs.length = 64 + c.patternLen + c.stagemapLen) &&
  decide (c.stagemapLen = if c.hasStageMap then 2 * (c.nVar + c.mIneq + c.pEq) else 0)

/-- Is the descriptor canonical (02 R46, R473)? DESIGN CHOICE (log 144): R46 ties neither PATTERN_LEN nor the padding bits of the tile bitmaps to
the class, so any length and any bits are accepted. -/
def canonical (c : Chart) (bs : List Byte) : Bool :=
  decide (c.magic = 0x74394348) && decide (c.version = 1) && c.reservedZero && fieldsUsed c && flagsLegal c && lengthsLegal c bs

/-- Format codes are legal: at most 0xA, K4b only in byte [3] (02 R46). -/
def formatsLegal (c : Chart) : Bool :=
  c.formats.all (fun f => decide (f ≤ 10)) &&
  (List.range 8).all (fun i => decide (i = 3) || !(decide (c.formats.getD i 0 = 1) || decide (c.formats.getD i 0 = 2)))

/-- The codes of 02 R48: class, method, activation and format inside the tables, a method the class allows, STAGE_MAP on
class 0x0 only, stage numbers at most HORIZON, VERNIER 1 to 3. -/
def codesLegal (c : Chart) : Bool :=
  decide (c.cls ≤ 6) && decide (c.method ≤ 4) && decide (c.act ≤ 3) && formatsLegal c && methodAllowed c.cls c.method &&
  (!c.hasStageMap || decide (c.cls = 0)) && c.stageMap.all (fun k => decide (k ≤ c.horizon)) &&
  decide (1 ≤ c.vernier) && decide (c.vernier ≤ 3)

/-- The signature of 02 R47 over bytes 0 to 63 + PATTERN_LEN + STAGEMAP_LEN. -/
def signatureOf (c : Chart) (bs : List Byte) : Word64 :=
  BitVec.ofNat 64 (leNat (shake256 (bs.take (64 + c.patternLen + c.stagemapLen)) 8))

/-- Bytes of n elements in a chart format code, packed back to back; K8b payloads are laid out by 04 R105. -/
def fmtBytes (code n : Nat) : Nat :=
  match fmtOfCode code with
  | some f => n * f.bytes
  | none => 0

/-- The block length of a block format code (02 R46), 0 for the others. -/
def blockOf (code : Nat) : Nat :=
  if code = 1 ∨ code = 4 then 16 else if code = 2 ∨ code = 5 then 32 else 0

/-- Elements of the Fix payload (04 R105). -/
def payloadElems (c : Chart) : Nat :=
  if c.kalman then
    c.nx + c.nx * (c.nx + 1) / 2 + (if decide (c.cls = 4) && c.flags.testBit 4 then c.nx else 0)
  else c.n + c.m + c.p

/-- PAYLOAD_LEN of a payload of l elements in a format code (04 R105). -/
def payloadLen (code l : Nat) : Nat :=
  let b := blockOf code
  if b = 0 then fmtBytes code l
  else ceilDiv (ceilDiv l b * b) 512 * 512 + ceilDiv l b

/-- Values that a warm store holds (04 R472). -/
def warmElems (c : Chart) : Nat :=
  let xh := if c.staged || (decide (c.cls = 0) && c.hasStageMap) then c.nx else 0
  match c.method with
  | 0 => c.n + 2 * c.m + c.p + 2 * c.m + xh
  | 1 => c.n + 2 * (c.m + c.p) + xh
  | 2 => c.n + c.m + c.p + xh
  | 3 => c.n + xh
  | _ => payloadElems c

/-- CONTENT of a warm-store header (04 R107, R472). -/
def warmContent (c : Chart) : Nat :=
  let xh := c.staged || (decide (c.cls = 0) && c.hasStageMap)
  match c.method with
  | 0 | 1 => 7 + bitAt xh 3
  | 2 => 3 + bitAt xh 3
  | 3 => 1 + bitAt xh 3
  | _ => 1

/-- The occupied size of one warm store (04 R472): 64 B plus the stored values, in whole rows. -/
def warmSize (c : Chart) : Nat := ceilDiv (64 + payloadLen (c.formats.getD 6 0) (warmElems c)) 512 * 512

/-- A model by number, when it is loaded. -/
def modelOf (s : State) (n : Nat) : Option Model :=
  match mget s.helm.models n with
  | some m => if m.loaded then some m else none
  | none => none

/-- The berth route of a model, which SOLVE, ESTIMATE and bindings run (04 R116). -/
def berthRoute (m : Model) : Option Route := m.routes.find? (fun r => !r.batch)
/-- The batch route. -/
def batchRoute (m : Model) : Option Route := m.routes.find? (fun r => r.batch)

end Sys2Proof.Machine
end

