-- ==== Sys2Proof/Machine/Solve.lean ====
section
/-! DEFINITION. What every solve shares (03, 04): bound treatment (02 R37), equilibration and the cost scale (03 R62, R63),
residuals and merit (R65), the tests of R60 (R67, R85), warm stores and shifts (04 R107 to R110, R472), the Fix payload (04 R105). -/

namespace Sys2Proof.Machine
open Sys2Proof

/-! ### Vectors -/

/-- The binary64 pattern of a value. -/
def w64 (v : Num) : Word64 := BitVec.ofNat 64 (patOf .b64 v)

/-- The values of a list of patterns. -/
def vals (ws : List Word64) : List Num := ws.map f64

/-- The values of a matrix. -/
def matVals (m : List (List Word64)) : List (List Num) := m.map vals

/-! ### Bounds (02 R37) -/

/-- How a row is treated. -/
inductive RowKind where
  | twoSided | upper | lower | inactive | equal | impossible
deriving DecidableEq, Repr

/-- The treatment of a bound pair. -/
def rowKind (lb ub : Num) : RowKind :=
  if ltX ub lb || (lb.isInf && !lb.neg) || (ub.isInf && ub.neg) then .impossible
  else if lb.isInf && ub.isInf then .inactive
  else if lb.isInf then .upper
  else if ub.isInf then .lower
  else if cmpX lb ub = some .eq then .equal
  else .twoSided

/-- The kinds of every row. -/
def rowKinds (p : ProbData) : List RowKind := List.zipWith (fun l u => rowKind (f64 l) (f64 u)) p.lb p.ub

/-- Does some bound pair end the command (02 R37)? -/
def boundsImpossible (p : ProbData) : Bool := (rowKinds p).any (fun k => decide (k = .impossible))

/-! ### Equilibration (03 R62, R63) -/

/-- round(½ log₂ c), half away from zero, of a positive finite value. -/
def halfLog (c : Num) : Int :=
  match c with
  | .fin _ m e =>
    let t := topExp m e
    let exact := decide (m = 2 ^ Nat.log2 m)
    if t % 2 = 0 then t / 2
    else if exact && decide (t < 0) then (t - 1) / 2
    else (t + 1) / 2
  | _ => 0

/-- The larger magnitude. -/
def maxMag (a b : Num) : Num := if ltX a.abs b.abs then b.abs else a.abs

/-- The largest magnitude of a row whose elements are scaled by exponents. -/
def scaledMax (xs : List Num) (es : List Int) : Num :=
  (List.zipWith (fun x k => scaleX x k) xs es).foldl maxMag (.zero false)

/-- One pass: variable exponents d and row exponents f (rows of A, then of E). -/
def ruizPass (n : Nat) (h rows : List (List Num)) (d f : List Int) : List Int × List Int :=
  let colMax (j : Nat) : Num :=
    let dj := d.getD j 0
    let a := scaledMax (h.getD j []) (d.map (· + dj))
    let b := (List.zipWith (fun r k => scaleX ((r : List Num).getD j (.zero false)) (k + dj)) rows f).foldl maxMag (.zero false)
    maxMag a b
  let rowMax (i : Nat) : Num := scaledMax (rows.getD i []) (d.map (· + f.getD i 0))
  ((List.range n).map (fun j => d.getD j 0 - halfLog (colMax j)),
   (List.range rows.length).map (fun i => f.getD i 0 - halfLog (rowMax i)))

/-- Passes of equilibration. -/
def ruiz : Nat → Nat → List (List Num) → List (List Num) → List Int × List Int → List Int × List Int
  | 0, _, _, _, s => s
  | k + 1, n, h, rows, s => ruiz k n h rows (ruizPass n h rows s.1 s.2)

/-- D and F as exponents of two, by eight passes (03 R62). -/
def equilibrate (p : ProbData) : List Int × List Int :=
  let n := p.h.length
  let rows := matVals p.a ++ matVals p.e
  ruiz 8 n (mSym n (matVals p.h)) rows (List.replicate n 0, List.replicate rows.length 0)

/-- ⌈log₂ v⌉ of a positive finite value. -/
def ceilLog (v : Num) : Int :=
  match v with
  | .fin _ m e => if m = 2 ^ Nat.log2 m then topExp m e else topExp m e + 1
  | _ => 0

/-- The exponent of the cost scale c (03 R63). -/
def costExp (p : ProbData) (d : List Int) : Int :=
  let n := p.h.length
  let h := mSym n (matVals p.h)
  let hm := (List.range n).foldl (fun a i => maxMag a (scaledMax (h.getD i []) (d.map (· + d.getD i 0)))) (.zero false)
  let qm := scaledMax (vals p.q) d
  (0 : Int) - ceilLog (maxMag (maxMag (.fin false 1 0) hm) qm)

/-! ### Residuals (03 R65) -/

/-- Everything R65 gives for an iterate. -/
structure ResidOut where
  rp : Num
  rd : Num
  rg : Num
  merit : Num
deriving DecidableEq, Repr

/-- The distance of a row value from its interval. -/
def rowDist (A : Arith) (v lb ub : Num) : Work Num :=
  if v.isNan then pure v
  else if ltX v lb then sSub A lb v
  else if ltX ub v then sSub A v ub
  else pure nz

/-- The positive part. -/
def posPart (v : Num) : Num := maxX v (.zero false)

/-- The support term of one row: 0 for a zero part or an infinite bound. -/
def rowSupport (A : Arith) (y lb ub : Num) : Work Num := do
  let yp := posPart y
  let ym := posPart y.opp
  let a ← if yp.isZero || ub.isInf then pure nz else sMul A ub yp
  let b ← if ym.isZero || lb.isInf then pure nz else sMul A lb ym
  sSub A a b

/-- |y| of a row whose multiplier presses on an infinite bound. -/
def rowPress (y lb ub : Num) : Num :=
  if (ltX (.zero false) y && ub.isInf) || (ltX y (.zero false) && lb.isInf) then y.abs else nz

/-- The rows that take part: 0 in place of an inactive row's value (02 R37). -/
def onActive (kinds : List RowKind) (v : Vec) : Vec := List.zipWith (fun k x => if k = RowKind.inactive then nz else x) kinds v

/-- The residuals and merit value of an iterate over the unscaled problem; scalar sums run over the lanes and their tree, row values
inside a lane (05 R141; log 46). -/
def residuals (A : Arith) (p : ProbData) (x y nu : Vec) : Work ResidOut := do
  let kinds := rowKinds p
  let n := p.h.length
  let a := matVals p.a
  let e := matVals p.e
  let lb := vals p.lb
  let ub := vals p.ub
  let q := vals p.q
  let ev := vals p.ev
  let y := onActive kinds y
  let ax := onActive kinds (← sMatVec A a x)
  let ex ← sMatVec A e x
  let hx ← sMatVec A (mSym n (matVals p.h)) x
  let aty ← sMatTVec A n a y
  let etn ← sMatTVec A n e nu
  let dist ← (kinds.zip (ax.zip (lb.zip ub))).mapM (fun r => if r.1 = RowKind.inactive then pure nz else rowDist A r.2.1 r.2.2.1 r.2.2.2)
  let eqd ← vSub A ex ev
  let rp := maxX (vNorm dist) (vNorm eqd)
  let grad ← vAdd A (← vAdd A (← vAdd A hx q) aty) etn
  let press ← sLaneSum A ((y.zip (lb.zip ub)).map (fun r => rowPress r.1 r.2.1 r.2.2))
  let rd ← sAdd A (vNorm grad) press
  let xhx ← sLaneDot A hx x
  let qx ← sLaneDot A q x
  let sup ← sLaneSum A (← (y.zip (lb.zip ub)).mapM (fun r => rowSupport A r.1 r.2.1 r.2.2))
  let en ← sLaneDot A ev nu
  let half ← sScale A xhx (-1)
  let pobj ← sAdd A half qx
  let dv ← sSub A (← sSub A half.opp sup) en
  let g ← sAdd A (← sAdd A (← sAdd A xhx qx) sup) en
  let rhoP ← sDiv A rp (← sAdd A n1 (maxX (vNorm ax) (vNorm ex)))
  let rhoD ← sDiv A rd (← sAdd A n1 (maxX (maxX (maxX (vNorm hx) (vNorm q)) (vNorm aty)) (vNorm etn)))
  let rhoG ← sDiv A g.abs (← sAdd A n1 (maxX pobj.abs dv.abs))
  return ⟨rhoP, rhoD, rhoG, maxX (maxX rhoP rhoD) rhoG⟩

/-- The stored form of residuals. -/
def ResidOut.store (r : ResidOut) : Resid := ⟨w64 r.rp, w64 r.rd, w64 r.rg, w64 r.merit⟩

/-- A tolerance field: K16, 0 for 2^-20 (03 R66). -/
def epsOf (v : Nat) : Num := if v = 0 then .fin false 1 (-20) else (decode .k16 v).1

/-- The convergence test (03 R67). -/
def converged (r : Resid) (d : Line) : Bool :=
  !(f64 r.merit).isNan && leX (f64 r.rp) (epsOf (dEpsP d)) && leX (f64 r.rd) (epsOf (dEpsD d)) && leX (f64 r.rg) (epsOf (dEpsG d))

/-- Is a candidate strictly better than the best so far (04 R102)? A NaN merit never ranks (03 R68). -/
def better (c : Cand) : Option Cand → Bool
  | none => !(f64 c.res.merit).isNan
  | some b => ltX (f64 c.res.merit) (f64 b.res.merit)

/-! ### Infeasibility (03 R85) -/

/-- ε_inf × v. -/
def epsInf (v : Num) : Num := scaleX v (-24)

/-- The support term of a candidate's row, with every term whose part is 0 counted as 0. -/
def candTerm (A : Arith) (w lb ub : Num) : Work Num := do
  let wp := posPart w
  let wm := posPart w.opp
  let a ← if wp.isZero then pure nz else sMul A ub wp
  let c ← if wm.isZero then pure nz else sMul A lb wm
  sSub A a c

/-- The primal test on a candidate (w, v). -/
def primalInfeasible (A : Arith) (p : ProbData) (w v : Vec) : Work Bool := do
  let n := p.h.length
  let w := onActive (rowKinds p) w
  let nrm := maxX (vNorm w) (vNorm v)
  let lhs := vNorm (← vAdd A (← sMatTVec A n (matVals p.a) w) (← sMatTVec A n (matVals p.e) v))
  let terms ← (w.zip ((vals p.lb).zip (vals p.ub))).mapM (fun r => candTerm A r.1 r.2.1 r.2.2)
  let sum ← sAdd A (← sLaneSum A terms) (← sLaneDot A (vals p.ev) v)
  return !nrm.isZero && !nrm.isNan && leX lhs (epsInf nrm) && leX sum (epsInf nrm).opp

/-- The dual test on a candidate d. -/
def dualInfeasible (A : Arith) (p : ProbData) (d : Vec) : Work Bool := do
  let n := p.h.length
  let nrm := vNorm d
  let e := epsInf nrm
  let ad ← sMatVec A (matVals p.a) d
  let hd ← sMatVec A (mSym n (matVals p.h)) d
  let ed ← sMatVec A (matVals p.e) d
  let qd ← sLaneDot A (vals p.q) d
  let rows := List.zipWith (fun (kv : RowKind × Num) (b : Num × Num) =>
    decide (kv.1 = RowKind.inactive) || ((b.2.isInf || leX kv.2 e) && (b.1.isInf || leX e.opp kv.2)))
    ((rowKinds p).zip ad) ((vals p.lb).zip (vals p.ub))
  return !nrm.isZero && !nrm.isNan && leX (vNorm hd) e && leX qd e.opp && leX (vNorm ed) e && rows.all (fun b => b)

/-- A candidate scaled to norm 1 (03 R86). -/
def unitNorm (A : Arith) (xs : Vec) : Work Vec := do
  let n := vNorm xs
  xs.mapM (fun x => sDiv A x n)

/-! ### ADMM penalty (03 R76, R77; 09 R231) -/

/-- The exponent of a stated RHO: the nearest power of two, ties up. -/
def rhoStated (v : Nat) : Int := ((v / 512 : Nat) : Int) - 31 + (if v % 512 ≥ 256 then 1 else 0)

/-- The power of two nearest a positive finite value, as an exponent; midway it is the larger one (log 123). -/
def nearestPow (v : Num) : Int :=
  match v with
  | .fin _ m e => if 2 * m ≥ 3 * 2 ^ Nat.log2 m then topExp m e + 1 else topExp m e
  | _ => 0

/-- The exponent by which R77 changes the penalty at a 25th iteration, 0 for none: t = √((ρ_p ‖Ā‖) / (ρ_d ‖Ā‖)) against [2^-2, 2^2];
a t that is 0, infinite or a NaN changes nothing (log 123). -/
def rhoShift (A : Arith) (na : Num) (r : Resid) : Work Int := do
  let t ← sSqrt A (← sDiv A (← sMul A (f64 r.rp) na) (← sMul A (f64 r.rd) na))
  match t with
  | .fin false _ _ => return if ltX t (.fin false 1 (-2)) || ltX (.fin false 1 2) t then nearestPow t else 0
  | _ => return 0

/-! ### Warm stores (04 R107 to R110, R472) -/

/-- The exact width of a block code's element array over l elements, and where its exponents begin (06 R146, 04 R105). -/
def blockOff (code l : Nat) : Nat :=
  let b := blockOf code
  let w := ceilDiv l b * b
  ceilDiv (if code = 1 ∨ code = 2 then w / 2 else w) 512 * 512

/-- The raw pattern of element i of a byte string in a chart format code: K4b packs two elements a byte, the even one low. -/
def rawElem (code i : Nat) (bs : List Byte) : Nat :=
  if code = 1 ∨ code = 2 then leNat ((bs.drop (i / 2)).take 1) / (if i % 2 = 0 then 1 else 16) % 16
  else if blockOf code ≠ 0 then leNat ((bs.drop i).take 1)
  else match fmtOfCode code with
    | some f => leNat ((bs.drop (f.bytes * i)).take f.bytes)
    | none => 0

/-- Values of l elements of a byte string in a chart format code; block formats keep their exponents after the elements (04 R105,
06 R146). -/
def readVals (code l : Nat) (bs : List Byte) : List Num :=
  let b := blockOf code
  if b = 0 then
    match fmtOfCode code with
    | some f => (List.range l).map (fun i => (decode f (rawElem code i bs)).1)
    | none => []
  else
    let w := if code = 1 ∨ code = 2 then 4 else 8
    (List.range l).map (fun i => decodeBlock w (rawElem code i bs) (leNat ((bs.drop (blockOff code l + i / b)).take 1)))

/-- The subnormal patterns of a long format among l elements, which a load flushes (06 R144, R145). -/
def readFlushes (code l : Nat) (bs : List Byte) : Nat :=
  match fmtOfCode code with
  | some f => if blockOf code = 0 then ((List.range l).filter (fun i => (decode f (rawElem code i bs)).2)).length else 0
  | none => 0

/-- Elements of a plain format, converted one by one. -/
def storePlain (f : Fmt) (rm : RMode) (strict : Bool) : List Num → List Byte × NumEv
  | [] => ([], {})
  | v :: vs =>
    let (p, e) := convert v f rm strict
    let (bs, es) := storePlain f rm strict vs
    (leBytes f.bytes p ++ bs, e.add es)

/-- Blocks of a K8b vector: exponents, elements, events (06 R148). -/
def storeBlocks (b : Nat) (rm : RMode) (strict : Bool) : Nat → List Num → List Byte × List Byte × NumEv
  | 0, _ => ([], [], {})
  | k + 1, vs =>
    let blk := vs.take b
    let (E, qs, e) := storeK8b (blk ++ List.replicate (b - blk.length) (Num.zero false)) rm strict
    let (es, bs, ev) := storeBlocks b rm strict k (vs.drop b)
    (b1 E ++ es, (qs.map (fun q => BitVec.ofNat 8 q)) ++ bs, e.add ev)

/-- The bytes of a vector in a chart format code (04 R105), with its numeric events. -/
def storeVals (code : Nat) (rm : RMode) (strict : Bool) (vs : List Num) : List Byte × NumEv :=
  let b := blockOf code
  if b = 0 then
    match fmtOfCode code with
    | some f => storePlain f rm strict vs
    | none => ([], {})
  else
    let (es, bs, ev) := storeBlocks b rm strict (ceilDiv vs.length b) vs
    (padTo 512 bs ++ es, ev)

/-- The first element whose conversion overflows under STRICT, with its index and result pattern. -/
def firstOverflow (code : Nat) (rm : RMode) (vs : List Num) : Option (Nat × Num × Nat) :=
  match fmtOfCode code with
  | some f => (vs.zipIdx.find? (fun x => decide (0 < (convert x.1 f rm true).2.strictOvf))).map (fun x =>
      (x.2, x.1, (convert x.1 f rm true).1))
  | none => none

/-- The first element of a K8b block whose conversion overflows under STRICT, with its value and its result (06 R148, R169). -/
def blockFirst (rm : RMode) (b : Nat) (blk : List Num) : Option (Nat × Num × Nat) :=
  let (E, _, _) := storeK8b (blk ++ List.replicate (b - blk.length) (Num.zero false)) rm true
  (blk.zipIdx.find? (fun x => decide (0 < (k8bElem x.1 E rm true).2.strictOvf))).map (fun x => (x.2, x.1, (k8bElem x.1 E rm true).1))

/-- The parts of an iterate in the order of 04 R472. -/
def warmParts (c : Chart) (it : Iter) : List Word64 :=
  let xh := if c.staged || (decide (c.cls = 0) && c.hasStageMap) then it.xhat else []
  let pair (a b : List Word64) : List Word64 := (List.zipWith (fun u v => [u, v]) a b).flatten
  match c.method with
  | 0 => it.x ++ pair it.lamL it.lamU ++ it.nu ++ pair it.sL it.sU ++ xh
  | 1 => it.x ++ it.y ++ it.nu ++ it.z ++ xh
  | 2 => it.x ++ it.y ++ it.nu ++ xh
  | 3 => it.x ++ xh
  | _ => it.x ++ it.z ++ (if decide (c.cls = 4) && c.flags.testBit 4 then it.xhat else [])

/-- The even and odd elements of a list. -/
def unpair : List Word64 → List Word64 × List Word64
  | a :: b :: r => let (x, y) := unpair r; (a :: x, b :: y)
  | _ => ([], [])

/-- An iterate from the values of a warm store of a chart. -/
def warmIter (c : Chart) (ws : List Word64) : Iter :=
  let n := c.n
  let m := c.m
  let p := c.p
  let at0 (off k : Nat) : List Word64 := (ws.drop off).take k
  match c.method with
  | 0 =>
    let (ll, lu) := unpair (at0 n (2 * m))
    let (sl, su) := unpair (at0 (n + 2 * m + p) (2 * m))
    { x := at0 0 n, y := [], nu := at0 (n + 2 * m) p, lamL := ll, lamU := lu, sL := sl, sU := su, z := [], xhat := ws.drop (n + 4 * m + p) }
  | 1 => { x := at0 0 n, y := at0 n m, nu := at0 (n + m) p, lamL := [], lamU := [], sL := [], sU := [], z := at0 (n + m + p) (m + p), xhat := ws.drop (n + 2 * (m + p)) }
  | 2 => { x := at0 0 n, y := at0 n m, nu := at0 (n + m) p, lamL := [], lamU := [], sL := [], sU := [], z := [], xhat := ws.drop (n + m + p) }
  | 3 => { x := at0 0 n, y := [], nu := [], lamL := [], lamU := [], sL := [], sU := [], z := [], xhat := ws.drop n }
  | _ => { x := at0 0 n, y := [], nu := [], lamL := [], lamU := [], sL := [], sU := [], z := ws.drop n, xhat := [] }

/-- The outcome of the decision table of 04 R108. -/
inductive WarmStart where
  | cold (rejected : Bool)
  | stored (shift primal : Bool)
deriving DecidableEq, Repr

/-- Decide the warm start from the mode, k, ALLOW_PRIMAL_ONLY, WARM_VALID, and the matches (04 R108). -/
def warmDecision (mode k n : Nat) (allow valid full part : Bool) : WarmStart :=
  let shifts := decide (mode = 2) && decide (1 ≤ k) && decide (k < n)
  if mode = 0 then .cold false
  else if !valid then .cold true
  else if full then
    if mode = 1 then .stored false false
    else if mode = 3 then .stored false true
    else if shifts then .stored true false
    else if k = 0 then .stored false false
    else .cold true
  else if part && allow then .stored shifts true
  else .cold true

/-- The stage of element i of a list of stage numbers, by index. -/
def sameStage (stages : List Nat) (i target : Nat) : Nat :=
  -- the position, among the elements of stage `target`, that element i has among those of its own stage
  let own := stages.getD i 0
  let rank := ((stages.take i).filter (fun s => s = own)).length
  ((stages.zipIdx.filter (fun x => x.1 = target)).map (·.2)).getD rank i

/-- Shift values by k stages (04 R109): stage j takes stage j + k, the last k stages repeat the last stage; elements of
stage N (terminal rows) keep their values. -/
def shiftVals (stages : List Nat) (n k : Nat) (vs : List Word64) : List Word64 :=
  vs.zipIdx.map (fun x =>
    let j := stages.getD x.2 0
    if j ≥ n then x.1
    else vs.getD (sameStage stages x.2 (if j + k < n then j + k else n - 1)) x.1)

/-- Stage numbers of the stacked variables of a staged chart: x_0, u_0, x_1, u_1, …, x_N, each u with its stage; x_N is
stage N. -/
def stagedVars (c : Chart) : List Nat :=
  ((List.range c.horizon).map (fun k => List.replicate (c.nx + c.nu) k)).flatten ++ List.replicate c.nx c.horizon

/-- Stage numbers of the inequality rows of a staged chart. -/
def stagedRows (c : Chart) : List Nat :=
  ((List.range c.horizon).map (fun k => List.replicate c.stageRows k)).flatten ++ List.replicate c.termRows c.horizon

/-- Stage numbers of the equality rows of a staged chart: the initial-state rows, which no shift moves, stand as rows beyond the
last stage; then the dynamics rows of each stage; a class 0x5 chart has dynamics rows only. -/
def stagedEqs (c : Chart) : List Nat :=
  (if c.cls = 5 then [] else List.replicate c.nx c.horizon) ++ ((List.range c.horizon).map (fun k => List.replicate c.nx k)).flatten

/-- Stage numbers of variables, inequality rows and equality rows of a chart that keeps its stages. -/
def stagesOf (c : Chart) : List Nat × List Nat × List Nat :=
  if c.staged then (stagedVars c, stagedRows c, stagedEqs c)
  else (c.stageMap.take c.nVar, (c.stageMap.drop c.nVar).take c.mIneq, c.stageMap.drop (c.nVar + c.mIneq))

/-- State x_k and input u_k of stacked variables. -/
def stageX (c : Chart) (x : List Word64) (k : Nat) : List Word64 := (x.drop (k * (c.nx + c.nu))).take c.nx
def stageU (c : Chart) (x : List Word64) (k : Nat) : List Word64 := (x.drop (k * (c.nx + c.nu) + c.nx)).take c.nu

/-- Replace a segment of a list. -/
def splice (xs : List Word64) (off : Nat) (ys : List Word64) : List Word64 := xs.take off ++ ys ++ xs.drop (off + ys.length)

/-- Extrapolate the last states of stacked variables, state j + 1 from state j and input j through the model (04 R109). -/
def extrapolate (c : Chart) (next : Nat → List Word64 → List Word64 → Work (List Word64)) : Nat → Nat → List Word64 → Work (List Word64)
  | 0, _, x => pure x
  | cnt + 1, j, x => do
    let v ← next j (stageX c x j) (stageU c x j)
    extrapolate c next cnt (j + 1) (splice x ((j + 1) * (c.nx + c.nu)) v)

/-- The shifted x of a chart that keeps its stages. -/
def shiftX (c : Chart) (next : Nat → List Word64 → List Word64 → Work (List Word64)) (xhat : List Word64) (k : Nat) (x : List Word64) :
    Work (List Word64) := do
  let (vs, _, _) := stagesOf c
  if !c.staged then return shiftVals vs c.horizon k x
  else
    -- the terminal state takes its place as the state of stage N: stage j takes x_{j+k} for j + k ≤ N
    let n := c.horizon
    let w := c.nx + c.nu
    let base := (List.range n).foldl (fun acc j =>
      let u := stageU c x (if j + k < n then j + k else n - 1)
      let s := if j + k ≤ n then stageX c x (j + k) else stageX c x n
      splice acc (j * w) (s ++ u)) x
    let base := splice base 0 xhat
    let ext ← extrapolate c next k (n - k) base
    return splice ext 0 xhat

/-- Slacks of an x (04 R109): s_l = Ax − lb, s_u = ub − Ax, 0 on an infinite or inactive side. -/
def slacks (A : Arith) (p : ProbData) (x : List Word64) : Work (List Word64 × List Word64) := do
  let ax ← sMatVec A (matVals p.a) (vals x)
  let lo ← (ax.zip p.lb).mapM (fun v => do if (f64 v.2).isInf then return w64 nz else return w64 (← sSub A v.1 (f64 v.2)))
  let hi ← (ax.zip p.ub).mapM (fun v => do if (f64 v.2).isInf then return w64 nz else return w64 (← sSub A (f64 v.2) v.1))
  return (lo, hi)

/-- z = A x over the inequality and the equality rows (04 R109). -/
def admmZ (A : Arith) (p : ProbData) (x : List Word64) : Work (List Word64) := do
  return (← sMatVec A (matVals p.a ++ matVals p.e) (vals x)).map w64

/-- Does a side of a row of this kind carry a slack and a multiplier of interior point: finite, and no equality row (02 R37)? -/
def RowKind.hasLo (k : RowKind) : Bool := decide (k = .twoSided) || decide (k = .lower)
def RowKind.hasUp (k : RowKind) : Bool := decide (k = .twoSided) || decide (k = .upper)

/-- Raise a value to at least a floor. -/
def floorAt (fl v : Num) : Word64 := if ltX v fl then w64 fl else w64 v

/-- The θ floor of R75 on slacks and multipliers: 2^-7 in scaled units, where s̄ = F s and λ̄ = c λ / F (R63, R64). -/
def thetaFloor (p : ProbData) (f : List Int) (c : Int) (it : Iter) : Iter :=
  let sf (i : Nat) : Num := .fin false 1 (-7 - f.getD i 0)
  let lf (i : Nat) : Num := .fin false 1 (-7 + f.getD i 0 - c)
  let up (has : RowKind → Bool) (vs : List Word64) (fl : Nat → Num) : List Word64 :=
    ((rowKinds p).zip vs).zipIdx.map (fun x => if has x.1.1 then floorAt (fl x.2) (f64 x.1.2) else x.1.2)
  { it with
    sL := up RowKind.hasLo it.sL sf
    sU := up RowKind.hasUp it.sU sf
    lamL := up RowKind.hasLo it.lamL lf
    lamU := up RowKind.hasUp it.lamU lf }

/-- One in scaled units as an unscaled multiplier of row i: F / c (04 R110, 03 R64). -/
def unitMult (f : List Int) (c : Int) (i : Nat) : Word64 := w64 (.fin false 1 (f.getD i 0 - c))

/-- An iterate with 0 for every infinite side and every inactive row (04 R472). -/
def clearIdle (p : ProbData) (it : Iter) : Iter :=
  let ks := rowKinds p
  let side (bs vs : List Word64) : List Word64 :=
    (ks.zip (bs.zip vs)).map (fun x => if x.1 = RowKind.inactive || (f64 x.2.1).isInf then (0 : Word64) else x.2.2)
  let row (vs : List Word64) : List Word64 := (ks.zip vs).map (fun x => if x.1 = RowKind.inactive then (0 : Word64) else x.2)
  { it with
    lamL := side p.lb it.lamL, lamU := side p.ub it.lamU, sL := side p.lb it.sL, sU := side p.ub it.sU
    y := row it.y, z := row it.z ++ it.z.drop ks.length }

/-- y = λ_u − λ_l (03, interior point). -/
def ipY (A : Arith) (it : Iter) : Work (List Word64) :=
  (it.lamU.zip it.lamL).mapM (fun x => do return w64 (← sSub A (f64 x.1) (f64 x.2)))

/-- The multipliers that R65 reads from an iterate of a method. -/
def yOf (A : Arith) (c : Chart) (it : Iter) : Work (List Word64) := if c.method = 0 then ipY A it else pure it.y

/-- The starting point from a stored iterate (04 R108 to R110, 03 R75). -/
def warmPoint (A : Arith) (c : Chart) (next : Nat → List Word64 → List Word64 → Work (List Word64)) (p : ProbData) (f : List Int) (cs : Int)
    (xhat : List Word64) (k : Nat) (shift primal : Bool) (st : Iter) : Work Iter := do
  let (_, rs, es) := stagesOf c
  let x ← if shift then shiftX c next xhat k st.x else pure st.x
  let sh (stages : List Nat) (vs : List Word64) : List Word64 := if shift then shiftVals stages c.horizon k vs else vs
  let m := p.lb.length
  let ones (off cnt : Nat) : List Word64 := (List.range cnt).map (fun i => unitMult f cs (off + i))
  let y := if primal then ones 0 m else sh rs st.y
  let nu := if primal then ones m p.ev.length else sh es st.nu
  let lamL := if primal then ones 0 m else sh rs st.lamL
  let lamU := if primal then ones 0 m else sh rs st.lamU
  let fresh := shift || primal
  let (sl, su) ← if fresh && decide (c.method = 0) then slacks A p x else pure (st.sL, st.sU)
  let z ← if fresh && decide (c.method = 1) then admmZ A p x else pure st.z
  let it := clearIdle p { x := x, y := y, nu := nu, lamL := lamL, lamU := lamU, sL := sl, sU := su, z := z, xhat := xhat }
  return if c.method = 0 then thetaFloor p f cs it else it

/-! ### The Fix payload (04 R105) -/

/-- The values of the payload of a returned iterate; the multiplier of an inactive row is 0. -/
def payloadVals (A : Arith) (c : Chart) (p : ProbData) (it : Iter) (cert : Option (List Word64)) : Work Vec := do
  if c.kalman then return vals (it.x ++ it.z ++ (if decide (c.cls = 4) && c.flags.testBit 4 then it.xhat else []))
  else
    match cert with
    | some d => return vals (it.x ++ d)
    | none => return vals it.x ++ onActive (rowKinds p) (vals (← yOf A c it)) ++ vals it.nu

end Sys2Proof.Machine
end

