-- ==== Sys2Proof/Machine/Problem.lean ====
section
/-! DEFINITION. The quadratic problem that setup forms from model and instance data: the condensed class (02 R36), staged MPC
(R39), moving-horizon estimation (R42), the subproblem of a real-time SQP step (R43; 03 R83), stacked in the order of 03 R65. -/

namespace Sys2Proof.Machine
open Sys2Proof

/-- The operands of a command: the instance's where it gives them, else the model's (02 R49). -/
def allParts (model inst : PartData) : PartData := inst ++ model

/-- Patterns of a vector and of a matrix. -/
def packVec (v : Vec) : List Word64 := v.map w64
def packMat (m : Mat) : List (List Word64) := m.map packVec

/-- One stage of a staged problem (02 R39). -/
structure StageBlk where
  qxx : Mat
  qxu : Mat
  quu : Mat
  qx : Vec
  qu : Vec
  a : Mat
  b : Mat
  c : Vec
  cx : Mat
  du : Mat
  lb : Vec
  ub : Vec
deriving DecidableEq, Repr

/-- The terminal stage. -/
structure TermBlk where
  q : Mat
  lin : Vec
  c : Mat
  lb : Vec
  ub : Vec
deriving DecidableEq, Repr

/-- Stage k of an operand of `len` elements a stage: one copy serves every stage where only one is given (02 R39); under FLAGS [0]
the stage matrices have one copy each. -/
def stageVals (v : Vec) (len k : Nat) : Vec := if len < v.length then vSeg v (k * len) len else vSeg v 0 len

/-- The stage matrices' copy: their own under time-varying stages, the first one otherwise (02 R46 FLAGS [0]). -/
def stageMat (vary : Bool) (v : Vec) (r c k : Nat) : Mat := rowsOf r c (if vary then stageVals v (r * c) k else vSeg v 0 (r * c))

/-- FLAGS [0]: time-varying stages. -/
def Chart.varies (c : Chart) : Bool := c.flags.testBit 0

/-- Stage k of a staged MPC problem (02 R39). -/
def mpcStage (c : Chart) (ps : PartData) (k : Nat) : StageBlk :=
  let p := partVec ps
  let v := c.varies
  { qxx := stageMat v (p .qxx) c.nx c.nx k, qxu := stageMat v (p .qxu) c.nx c.nu k, quu := stageMat v (p .quu) c.nu c.nu k,
    qx := stageVals (p .qx) c.nx k, qu := stageVals (p .qu) c.nu k,
    a := stageMat v (p .sA) c.nx c.nx k, b := stageMat v (p .sB) c.nx c.nu k,
    c := (if v then stageVals (p .sc) c.nx k else vSeg (p .sc) 0 c.nx),
    cx := stageMat v (p .sC) c.stageRows c.nx k, du := stageMat v (p .sD) c.stageRows c.nu k,
    lb := stageVals (p .slb) c.stageRows k, ub := stageVals (p .sub) c.stageRows k }

/-- The terminal stage. -/
def mpcTerm (c : Chart) (ps : PartData) : TermBlk :=
  let p := partVec ps
  { q := rowsOf c.nx c.nx (p .qN), lin := vSeg (p .qNlin) 0 c.nx, c := rowsOf c.termRows c.nx (p .cN), lb := vSeg (p .lbN) 0 c.termRows,
    ub := vSeg (p .ubN) 0 c.termRows }

/-- A row of the stacked variables: x_k and u_k coefficients of stage k, x_{k+1} coefficients. -/
def stackRow (c : Chart) (k : Nat) (x u next : Vec) : Vec :=
  let w := c.nx + c.nu
  List.replicate (k * w) nz ++ vSeg x 0 c.nx ++ (if k < c.horizon then vSeg u 0 c.nu ++ vSeg next 0 c.nx else []) ++
  List.replicate (c.n - (k * w + c.nx + (if k < c.horizon then c.nu + c.nx else 0))) nz

/-- H by rows of the stacked variables, one stage. -/
def stackHess (c : Chart) (k : Nat) (g : StageBlk) : Mat :=
  ((List.range c.nx).map (fun i => stackRow c k (g.qxx.getD i []) (g.qxu.getD i []) [])) ++
  ((List.range c.nu).map (fun i => stackRow c k (mCol g.qxu i) (g.quu.getD i []) []))

/-- The stacked problem (03 R65): rows of E are the initial-state rows x_0 = x̂, where the class has them, then the dynamics rows
x_{k+1} − A_k x_k − B_k u_k = c_k, stage by stage (log 122). -/
def stackProb (c : Chart) (gs : List StageBlk) (t : TermBlk) (xhat : Vec) : ProbData :=
  let ks := gs.zipIdx
  let n := c.horizon
  let init : Mat := if c.cls = 5 then [] else (mEye c.nx c.nx).map (fun r => stackRow c 0 r [] [])
  { h := packMat ((ks.map (fun g => stackHess c g.2 g.1)).flatten ++ t.q.map (fun r => stackRow c n r [] []))
    a := packMat ((ks.map (fun g => (List.range c.stageRows).map (fun i => stackRow c g.2 (g.1.cx.getD i []) (g.1.du.getD i []) []))).flatten ++
      t.c.map (fun r => stackRow c n r [] []))
    e := packMat (init ++ (ks.map (fun g => (List.range c.nx).map (fun i =>
      stackRow c g.2 (vNeg (g.1.a.getD i [])) (vNeg (g.1.b.getD i [])) ((mEye c.nx c.nx).getD i [])))).flatten)
    q := packVec ((ks.map (fun g => g.1.qx ++ g.1.qu)).flatten ++ t.lin)
    lb := packVec ((ks.map (fun g => g.1.lb)).flatten ++ t.lb)
    ub := packVec ((ks.map (fun g => g.1.ub)).flatten ++ t.ub)
    ev := packVec ((if c.cls = 5 then [] else vSeg xhat 0 c.nx) ++ (ks.map (fun g => g.1.c)).flatten) }

/-- A vector plus a matrix times another, where the matrix is given. -/
def addMap (A : Arith) (base : Vec) (m : Vec) (th : Vec) : Work Vec :=
  if m.isEmpty ∨ th.isEmpty then pure base
  else base.zipIdx.mapM (fun b => (((vSeg m (b.2 * th.length) th.length).zip th)).foldlM (fun a x => sFma A x.1 x.2 a) b.1)

/-- The condensed problem (02 R36, R49): the model's maps carry the instance's parameters into q and the bounds. -/
def denseProb (A : Arith) (c : Chart) (ps : PartData) : Work ProbData := do
  let p := partVec ps
  let th := p .params
  let q ← addMap A (vSeg (p .lin) 0 c.nVar) (p .linMap) th
  let lb ← addMap A (vSeg (p .lb) 0 c.mIneq) (p .bndMap) th
  let ub ← addMap A (vSeg (p .ub) 0 c.mIneq) (p .bndMap) th
  return { h := packMat (rowsOf c.nVar c.nVar (p .hess)), a := packMat (rowsOf c.mIneq c.nVar (p .ineq)),
           e := packMat (rowsOf c.pEq c.nVar (p .eq)), q := packVec q, lb := packVec lb, ub := packVec ub,
           ev := packVec (vSeg (p .eqRhs) 0 c.pEq) }

/-- Twice a value. -/
def twice (v : Num) : Num := scaleX v 1

/-- Moving-horizon estimation as a staged QP (02 R42): the noise w_j is the stage input, ‖v‖²_M = vᵀ M v enters ½ xᵀHx doubled. -/
def mheProb (A : Arith) (c : Chart) (ps : PartData) : Work ProbData := do
  let p := partVec ps
  let nx := c.nx
  let cm := rowsOf c.ny nx (p .kC)
  let vinv := rowsOf c.ny c.ny (p .kVinv)
  let ct := mTr nx cm
  let ctv ← rMul A ct (mTr c.ny vinv)
  let w ← rMul A ctv (mTr nx cm)
  let gm := rowsOf nx ((p .kG).length / nx) (p .kG)
  let nuIn := (p .kG).length / nx
  let meas (j : Nat) : Work Vec := do
    let r ← vSub A (vSeg (p .ywin) (j * c.ny) c.ny) (vSeg (p .dwin) (j * c.ny) c.ny)
    return (← sMatVec A ctv r).map (fun v => (twice v).opp)
  let arr := rowsOf nx nx (p .arrival)
  let arrLin ← sMatVec A (mSym nx arr) (vSeg (p .xbar) 0 nx)
  let zero := rowsOf nx c.nu []
  let stages ← (List.range c.horizon).mapM (fun j => do
    let lin ← meas j
    let cst ← sMatVec A gm (vSeg (p .uwin) (j * nuIn) nuIn)
    let qxx ← if j = 0 then (w.zip (mSym nx arr)).mapM (fun r => vAdd A r.1 r.2) else pure w
    let qx ← if j = 0 then vSub A lin (arrLin.map twice) else pure lin
    return { qxx := qxx.map (fun r => r.map twice), qxu := zero, quu := (rowsOf c.nu c.nu (p .wInv)).map (fun r => r.map twice), qx := qx,
             qu := vSeg [] 0 c.nu, a := rowsOf nx nx (p .kF), b := mEye nx c.nu, c := cst,
             cx := rowsOf c.stageRows nx (p .sC), du := rowsOf c.stageRows c.nu (p .sD), lb := stageVals (p .slb) c.stageRows j,
             ub := stageVals (p .sub) c.stageRows j })
  let lin ← meas c.horizon
  let t : TermBlk :=
    ⟨w.map (fun r => r.map twice), lin, rowsOf c.termRows nx (p .cN), vSeg (p .lbN) 0 c.termRows, vSeg (p .ubN) 0 c.termRows⟩
  return stackProb c stages t []

/-- The network of a class 0x6 chart at a stage's state and input. -/
def sqpNet (A : Arith) (c : Chart) (ps : PartData) (x u : Vec) : Work Sweep :=
  netAt A c.act (c.flags.testBit 2) (layersOf ps c.layers .netW .netB) x u

/-- Stage k of an SQP subproblem about x̄, ū (02 R43): A_k and B_k from the tangents, c_k = f_θ(x̄_k, ū_k) − x̄_{k+1}, the cost's
gradient and the bounds moved to the step. -/
def sqpStage (A : Arith) (c : Chart) (ps : PartData) (base : Vec) (k : Nat) : Work StageBlk := do
  let g := mpcStage c ps k
  let w := c.nx + c.nu
  let x := vSeg base (k * w) c.nx
  let u := vSeg base (k * w + c.nx) c.nu
  let f ← sqpNet A c ps x u
  let jac := mTr c.nx f.tangents
  let qxx := mSym c.nx g.qxx
  let quu := mSym c.nu g.quu
  let qx ← vAdd A g.qx (← vAdd A (← sMatVec A qxx x) (← sMatVec A g.qxu u))
  let qu ← vAdd A g.qu (← vAdd A (← sMatTVec A c.nu g.qxu x) (← sMatVec A quu u))
  let at0 ← vAdd A (← sMatVec A g.cx x) (← sMatVec A g.du u)
  return { g with
    qx := qx, qu := qu, a := jac.map (fun r => vSeg r 0 c.nx), b := jac.map (fun r => vSeg r c.nx c.nu),
    c := ← vSub A f.primal (vSeg base ((k + 1) * w) c.nx), lb := ← vSub A g.lb at0, ub := ← vSub A g.ub at0 }

/-- The subproblem of a real-time SQP step (03 R83), in the step from x̄. -/
def sqpProb (A : Arith) (c : Chart) (ps : PartData) (base : Vec) (xhat : Vec) : Work ProbData := do
  let gs ← (List.range c.horizon).mapM (sqpStage A c ps base)
  let t := mpcTerm c ps
  let xN := vSeg base (c.horizon * (c.nx + c.nu)) c.nx
  let lin ← vAdd A t.lin (← sMatVec A (mSym c.nx t.q) xN)
  let at0 ← sMatVec A t.c xN
  let dx0 ← vSub A (vSeg xhat 0 c.nx) (vSeg base 0 c.nx)
  return stackProb c gs { t with lin := lin, lb := ← vSub A t.lb at0, ub := ← vSub A t.ub at0 } dx0

/-- The problem of a QP-type chart; `base` is the iterate that a class 0x6 chart expands about. -/
def formProb (A : Arith) (c : Chart) (ps : PartData) (base : Vec) : Work ProbData :=
  if c.cls = 0 then denseProb A c ps
  else if c.cls = 5 then mheProb A c ps
  else if c.cls = 6 then sqpProb A c ps base (partVec ps .xhat)
  else pure (stackProb c ((List.range c.horizon).map (mpcStage c ps)) (mpcTerm c ps) (partVec ps .xhat))

/-- Does the instance bring H, A or E, so that setup computes D and F (03 R62)? -/
def scalesOwn (c : Chart) (inst : PartData) : Bool :=
  c.varies || decide (c.cls = 6) ||
  inst.any (fun x => [Part.hess, .ineq, .eq, .qxx, .qxu, .quu, .sA, .sB, .sC, .sD, .qN, .cN, .kF, .kC, .kVinv, .wInv, .arrival].contains x.1)

end Sys2Proof.Machine
end

