-- ==== Sys2Proof/Machine/Kalman.lean ====
section
/-! DEFINITION. The direct updates of the Kalman family (02 R40, R41; 03 R82): products on the Rose into W48, vectors in the
Sextant, each solve a refined one. -/

namespace Sys2Proof.Machine
open Sys2Proof

/-- A symmetric matrix of n rows: all its elements row by row, or its lower triangle row by row. -/
def symOf (n : Nat) (v : Vec) : Mat :=
  if v.length = n * n then mSym n (rowsOf n n v)
  else mSym n ((List.range n).map (fun i => vSeg v (i * (i + 1) / 2) (i + 1)))

/-- The lower triangle by rows (04 R105). -/
def lowTri (m : Mat) : Vec := (m.zipIdx.map (fun r => r.1.take (r.2 + 1))).flatten

/-- The iterate of an update: x⁺ or y⁺, the triangle of P⁺ or Y⁺, the recovered x⁺. -/
def updateIter (x : Vec) (m : Mat) (back : Vec) : Iter :=
  { x := packVec x, y := [], nu := [], lamL := [], lamU := [], sL := [], sU := [], z := packVec (lowTri m), xhat := packVec back }

/-- What a prediction and an innovation rest on: x⁻, F, the predicted measurement, C. -/
structure Predict where
  xm : Vec
  f : Mat
  ym : Vec
  c : Mat
deriving DecidableEq, Repr

/-- The prediction of a filter (02 R40): with the matrices of the model or the instance, or, under FLAGS [3], with f and h as
networks in tangent mode, f at x and u, h at x⁻ (log 125). -/
def predict (A : Arith) (c : Chart) (ps : PartData) (x : Vec) : Work Predict := do
  let p := partVec ps
  let u := vSeg (p .input) 0 c.nu
  if c.cls = 3 ∧ c.flags.testBit 3 then
    let f ← netAt A c.act (c.flags.testBit 2) (layersOf ps c.layers .netW .netB) x u
    let h ← netAt A c.act false (layersOf ps c.layers .obsW .obsB) f.primal []
    return ⟨f.primal, (mTr c.nx f.tangents).map (fun r => vSeg r 0 c.nx), h.primal, mTr c.ny h.tangents⟩
  else
    let f := rowsOf c.nx c.nx (p .kF)
    let cm := rowsOf c.ny c.nx (p .kC)
    let fx ← sMatVec A f x
    let gu ← sMatVec A (rowsOf c.nx c.nu (p .kG)) u
    let xm ← vAdd A (← vAdd A fx gu) (vSeg (p .kc) 0 c.nx)
    return ⟨xm, f, ← sMatVec A cm xm, cm⟩

/-- One prediction and one update (02 R40): S factored by Cholesky, K from a refined solve for each row of P⁻Cᵀ, P⁺ in Joseph
form, its lower triangle alone. -/
def kalmanUpdate (A : Arith) (c : Chart) (ps : PartData) : Work Iter := do
  let p := partVec ps
  let n := c.nx
  let x := vSeg (p .state) 0 n
  let P := symOf n (p .cov)
  let k ← predict A c ps x
  let fp ← rMul A k.f P
  let Pm ← rSymAdd A (← mRose A (symOf n (p .kW))) fp k.f
  let cp ← rMul A k.c Pm
  let V := symOf c.ny (p .kV)
  let S ← rSymAdd A (← mRose A V) cp k.c
  let L ← factorise A .chol S (List.replicate c.ny nz) []
  let K ← (mTr n cp).mapM (fun col => refinedSolve A L S col)
  let d ← vSub A (vSeg (p .ym) 0 c.ny) k.ym
  let xp ← vAdd A k.xm (← sMatVec A K d)
  let ikc ← rMulAdd A (mEye n n) (K.map vNeg) (mTr n k.c)
  let t ← rMul A ikc Pm
  let kv ← rMul A K V
  let base ← rSymAdd A (rowsOf n n []) t ikc
  let Pp ← rSymAdd A base kv K
  return updateIter xp Pp []

/-- The measurement update in information form (02 R41): the rows of C in order, so that the sensors' blocks sum in the chart's
order; x⁺ by a refined solve with Y⁺ under the state-recovery flag. -/
def infoUpdate (A : Arith) (c : Chart) (ps : PartData) : Work Iter := do
  let p := partVec ps
  let n := c.nx
  let cm := rowsOf c.ny n (p .kC)
  let ct := mTr n cm
  let cv ← rMul A ct (symOf c.ny (p .kVinv))
  let Y ← rSymAdd A (← mRose A (symOf n (p .cov))) cv ct
  let y ← vAdd A (vSeg (p .info) 0 n) (← sMatVec A cv (vSeg (p .ym) 0 c.ny))
  if c.flags.testBit 4 then
    let L ← factorise A .chol Y (List.replicate n nz) []
    return updateIter y Y (← refinedSolve A L Y y)
  else return updateIter y Y []

/-- The direct update of a Kalman-family chart. -/
def directUpdate (A : Arith) (c : Chart) (ps : PartData) : Work Iter := if c.cls = 4 then infoUpdate A c ps else kalmanUpdate A c ps

/-- The merit value of a direct update: the largest ‖r‖ / ‖b‖ of its linear solves (03 R82). -/
def kalmanMerit (A : Arith) (ss : List (Num × Num)) : Work Num :=
  ss.foldlM (fun a x => do return maxX a (← sDiv A x.1 x.2)) nz

end Sys2Proof.Machine
end

