-- ==== Sys2Proof/Machine/Methods.lean ====
section
/-! DEFINITION. One iteration of each method (03): the scaled problem (R63, R64), the Newton systems of the condensed and the staged
classes (R70, R74, R81), interior point (R73 to R75), ADMM (R76 to R78), primal active set (R79, R80), Riccati recursion (R81).
The order of the operations that 03 writes as formulas is that of the formulas, left to right (log 46). -/

namespace Sys2Proof.Machine
open Sys2Proof

/-! ### The scaled problem (03 R63) -/

/-- A problem in scaled units: H̄, q̄, Ā, Ē, bounds and e, the kinds of the rows, the chart for its stages. -/
structure Qp where
  chart : Chart
  n : Nat
  h : Mat
  a : Mat
  e : Mat
  q : Vec
  lb : Vec
  ub : Vec
  ev : Vec
  kinds : List RowKind
deriving DecidableEq, Repr

/-- Values put back into their operand group's storage format; an absent group leaves them as they are (03 R63). -/
def restore (A : Arith) (code : Nat) (v : Vec) : Work Vec :=
  if code = 0 then pure v
  else do
    let bs ← note (storeVals code A.num.rm A.num.strict v)
    return readVals code v.length bs

/-- A matrix scaled by row and column exponents, in its format. -/
def scaleMat (A : Arith) (code : Nat) (m : Mat) (row col : List Int) (c : Int) : Work Mat :=
  m.zipIdx.mapM (fun r => restore A code ((r.1.zip col).map (fun x => scaleX x.1 (x.2 + row.getD r.2 0 + c))))

/-- A vector scaled by exponents, in its format. -/
def scaleVec (A : Arith) (code : Nat) (v : Vec) (es : List Int) (c : Int) : Work Vec :=
  restore A code (v.zipIdx.map (fun x => scaleX x.1 (es.getD x.2 0 + c)))

/-- The scaled problem: H̄ = cDHD, q̄ = cDq, Ā = FAD, Ē = FED, the bounds and e by F. -/
def scaledQp (A : Arith) (ch : Chart) (p : ProbData) (d f : List Int) (c : Int) : Work Qp := do
  let m := p.lb.length
  let n := p.h.length
  let fe := f.drop m
  let fm (i : Nat) : Nat := ch.formats.getD i 0
  return {
    chart := ch, n := n
    h := ← scaleMat A (fm 0) (mSym n (matVals p.h)) d d c
    a := ← scaleMat A (fm 1) (matVals p.a) f d 0
    e := ← scaleMat A (fm 1) (matVals p.e) fe d 0
    q := ← scaleVec A (fm 2) (vals p.q) d c
    lb := ← scaleVec A (fm 2) (vals p.lb) f 0
    ub := ← scaleVec A (fm 2) (vals p.ub) f 0
    ev := ← scaleVec A (fm 2) (vals p.ev) fe 0
    kinds := rowKinds p }

/-- A problem in its own units, in which phase 1 of active set runs (03 R79; log 128). -/
def plainQp (ch : Chart) (p : ProbData) : Qp :=
  { chart := ch, n := p.h.length, h := mSym p.h.length (matVals p.h), a := matVals p.a, e := matVals p.e, q := vals p.q, lb := vals p.lb,
    ub := vals p.ub, ev := vals p.ev, kinds := rowKinds p }

/-- Exponents added to a vector of patterns (03 R64): exact unless the value leaves binary64. -/
def shiftVec (A : Arith) (v : List Word64) (es : Nat → Int) : Work Vec := v.zipIdx.mapM (fun x => sScale A (f64 x.1) (es x.2))

/-- An iterate in scaled units. -/
structure Pt where
  x : Vec
  y : Vec
  nu : Vec
  lamL : Vec
  lamU : Vec
  sL : Vec
  sU : Vec
  z : Vec
deriving DecidableEq, Repr

/-- Into scaled units: x̄ = x / D, ȳ = c y / F, s̄ = F s. -/
def toScaled (A : Arith) (d f : List Int) (c : Int) (m : Nat) (it : Iter) : Work Pt := do
  let fi (i : Nat) : Int := f.getD i 0
  return { x := ← shiftVec A it.x (fun i => -d.getD i 0), y := ← shiftVec A it.y (fun i => c - fi i),
           nu := ← shiftVec A it.nu (fun i => c - fi (m + i)), lamL := ← shiftVec A it.lamL (fun i => c - fi i),
           lamU := ← shiftVec A it.lamU (fun i => c - fi i), sL := ← shiftVec A it.sL fi, sU := ← shiftVec A it.sU fi,
           z := ← shiftVec A it.z fi }

/-- Back: x = D x̄, y = F ȳ / c, ν = F ν̄ / c (03 R64). -/
def toUnscaled (A : Arith) (d f : List Int) (c : Int) (m : Nat) (xhat : List Word64) (p : Pt) : Work Iter := do
  let fi (i : Nat) : Int := f.getD i 0
  let up (v : Vec) (es : Nat → Int) : Work (List Word64) := v.zipIdx.mapM (fun x => do return w64 (← sScale A x.1 (es x.2)))
  return { x := ← up p.x (fun i => d.getD i 0), y := ← up p.y (fun i => fi i - c), nu := ← up p.nu (fun i => fi (m + i) - c),
           lamL := ← up p.lamL (fun i => fi i - c), lamU := ← up p.lamU (fun i => fi i - c), sL := ← up p.sL (fun i => -fi i),
           sU := ← up p.sU (fun i => -fi i), z := ← up p.z (fun i => -fi i), xhat := xhat }

/-! ### The Riccati recursion (03 R81) -/

/-- A stage of the recursion: weights, linear terms, dynamics. -/
structure RicStage where
  qxx : Mat
  qxu : Mat
  quu : Mat
  qx : Vec
  qu : Vec
  a : Mat
  b : Mat
  c : Vec
deriving DecidableEq, Repr

/-- What the backward pass leaves of a stage: K, k, and the P and p it was reached with. -/
structure RicGain where
  k : Mat
  kf : Vec
  pNext : Mat
  qNext : Vec
deriving DecidableEq, Repr

/-- One stage backward: Q̂_uu factored on the Rose, a refined solve for each column of Q̂_ux and for q̂_u; P symmetrised by keeping its
lower triangle. -/
def ricBack (A : Arith) (g : RicStage) (P : Mat) (p : Vec) : Work (RicGain × Mat × Vec) := do
  let nx := g.qxx.length
  let nu := g.quu.length
  let at0 := mTr nx g.a
  let bt := mTr nu g.b
  let P := mSym nx P
  let btP ← rMul A bt P
  let atP ← rMul A at0 P
  let quu ← rSymAdd A (← mRose A g.quu) btP bt
  let qux ← rMulAdd A (← mRose A (mTr nu g.qxu)) btP at0
  let pc ← vAdd A (← sMatVec A P g.c) p
  let qu ← vAdd A g.qu (← sMatVec A bt pc)
  let f ← factorise A .chol quu (List.replicate nu nz) []
  let cols ← (mTr nx qux).mapM (fun c => refinedSolve A f quu c)
  let k := mTr nu (cols.map vNeg)
  let kf := vNeg (← refinedSolve A f quu qu)
  let base ← rSymAdd A (← mRose A g.qxx) atP at0
  let quxT := mTr nx qux
  let Pn ← rSymAdd A base quxT (mTr nx k)
  let pn ← vAdd A (← vAdd A g.qx (← sMatVec A at0 pc)) (← sMatVec A quxT kf)
  return (⟨k, kf, P, p⟩, Pn, pn)

/-- The backward pass from the last stage; the gains come out in stage order. -/
def ricBackward (A : Arith) (gs : List RicStage) (P : Mat) (p : Vec) : Work (List RicGain × Mat × Vec) :=
  gs.reverse.foldlM (fun s g => do
    let (r, P, p) ← ricBack A g s.2.1 s.2.2
    return (r :: s.1, P, p)) ([], P, p)

/-- The forward pass: u_k = K_k x_k + k_k, x_{k+1} = A_k x_k + B_k u_k + c_k; the costates P_{k+1} x_{k+1} + p_{k+1}. -/
def ricForward (A : Arith) (gs : List (RicStage × RicGain)) (x0 : Vec) : Work (Vec × Mat) := do
  let (xs, x, ls) ← gs.foldlM (fun (s : Vec × Vec × Mat) g => do
    let u ← vAdd A (← sMatVec A g.2.k s.2.1) g.2.kf
    let x ← vAdd A (← vAdd A (← sMatVec A g.1.a s.2.1) (← sMatVec A g.1.b u)) g.1.c
    let l ← vAdd A (← sMatVec A g.2.pNext x) g.2.qNext
    return (s.1 ++ s.2.1 ++ u, x, s.2.2 ++ [l])) ([], x0, [])
  return (xs ++ x, ls)

/-- The stages of a stacked problem with weights M and gradient g; each dynamics row divided by its coefficient of x_{k+1}. -/
def ricStages (A : Arith) (q : Qp) (m : Mat) (g re : Vec) : Work (List RicStage) := do
  let c := q.chart
  let w := c.nx + c.nu
  let o := if c.cls = 5 then 0 else c.nx
  (List.range c.horizon).mapM (fun k => do
    let r0 := o + k * c.nx
    let coef (i : Nat) : Num := mat q.e (r0 + i) ((k + 1) * w + i)
    let block (j0 cols : Nat) : Work Mat := (List.range c.nx).mapM (fun i => (List.range cols).mapM (fun j => do
      return (← sDiv A (mat q.e (r0 + i) (j0 + j)) (coef i)).opp))
    return { qxx := mBlock m (k * w) c.nx (k * w) c.nx, qxu := mBlock m (k * w) c.nx (k * w + c.nx) c.nu,
             quu := mBlock m (k * w + c.nx) c.nu (k * w + c.nx) c.nu, qx := vSeg g (k * w) c.nx, qu := vSeg g (k * w + c.nx) c.nu,
             a := ← block (k * w) c.nx, b := ← block (k * w + c.nx) c.nu,
             c := ← (List.range c.nx).mapM (fun i => sDiv A (re.getD (r0 + i) nz) (coef i)) })

/-- Minimise ½ xᵀMx + gᵀx under E x = re of a stacked problem: x, and ν with M x + g + Eᵀν = 0. A class 0x5 problem has no
initial-state rows, and its x_0 solves P_0 x_0 = −p_0. -/
def ricSolve (A : Arith) (q : Qp) (m : Mat) (g re : Vec) : Work (Vec × Vec) := do
  let c := q.chart
  let w := c.nx + c.nu
  let n0 := c.horizon * w
  let gs ← ricStages A q m g re
  let (gains, P, p) ← ricBackward A gs (mBlock m n0 c.nx n0 c.nx) (vSeg g n0 c.nx)
  let free := decide (c.cls = 5)
  let x0 ← if free then do
      let f ← factorise A .chol P (List.replicate c.nx nz) []
      refinedSolve A f P (vNeg p)
    else (List.range c.nx).mapM (fun i => sDiv A (re.getD i nz) (mat q.e i i))
  let (x, ls) ← ricForward A (gs.zip gains) x0
  let l0 ← vAdd A (← sMatVec A P x0) p
  let o := if free then 0 else c.nx
  let nu0 ← if free then pure [] else (List.range c.nx).mapM (fun i => do return (← sDiv A (l0.getD i nz) (mat q.e i i)).opp)
  let nus ← ls.zipIdx.mapM (fun l => (List.range c.nx).mapM (fun i => do
    return (← sDiv A (l.1.getD i nz) (mat q.e (o + l.2 * c.nx + i) ((l.2 + 1) * w + i))).opp))
  return (x, nu0 ++ nus.flatten)

/-! ### Newton systems -/

/-- M + Āᵀ diag(w) Ā, w by rows of A, formed on the Rose into W48 (03 R70): H̄ preloaded, then the rows in increasing order. -/
def formM (A : Arith) (q : Qp) (h : Mat) (w : Vec) : Work Mat := do
  let wa ← (q.a.zip w).mapM (fun r => r.1.mapM (fun v => do toRose A (← sMul A r.2 v)))
  rSymAdd A (← mRose A h) (mTr q.n q.a) (mTr q.n wa)

/-- δ_x = δ_e = 2^-24 (03 R74). -/
def delta : Num := .fin false 1 (-24)

/-- A formed linear system: dense, factored with its regularisation, with the border rows; or a staged one. -/
inductive Kkt where
  | dense (f : Factor) (m : Mat) (border : Nat)
  | staged (m : Mat)
deriving DecidableEq, Repr

/-- The quasi-definite matrix [M, Bᵀ; B, corner] in W48. -/
def bordered (A : Arith) (n : Nat) (m b : Mat) (corner : Vec) : Work Mat := do
  let bw ← mRose A b
  let low ← (bw.zip corner).zipIdx.mapM (fun r => do
    return vSeg r.1.1 0 n ++ (List.range r.2).map (fun _ => nz) ++ [← toRose A r.1.2])
  return mSym (n + b.length) (m ++ low)

/-- The rows that a dense Newton system borders: E, then the rows of A whose bounds are equal (02 R37). -/
def borderRows (q : Qp) : Mat := q.e ++ ((q.a.zip q.kinds).filter (fun r => decide (r.2 = RowKind.equal))).map (·.1)

/-- M of an interior-point iteration, factored (03 R74); on a staged chart the rows with equal bounds enter with the weight 1/δ_e. -/
def newtonSystem (A : Arith) (q : Qp) (sigma : Vec) : Work Kkt := do
  if q.chart.staged then
    let w := (q.kinds.zip sigma).map (fun x => if x.1 = RowKind.equal then Num.fin false 1 24 else x.2)
    return .staged (← formM A q q.h w)
  else
    let m ← formM A q q.h sigma
    let b := borderRows q
    if b.isEmpty then
      return .dense (← factorise A .chol m (List.replicate q.n delta) []) m 0
    else
      let k ← bordered A q.n m b (List.replicate b.length nz)
      let reg := List.replicate q.n delta ++ List.replicate b.length delta.opp
      let neg := List.replicate q.n false ++ List.replicate b.length true
      return .dense (← factorise A .ldl k reg neg) k b.length

/-- Solve M dx + Ēᵀ dν + (equal rows)ᵀ dw = rx, Ē dx = re, equal rows dx = rw: dx, dν, and dw by rows of A (0 elsewhere). -/
def solveNewton (A : Arith) (q : Qp) (k : Kkt) (rx re rw : Vec) : Work (Vec × Vec × Vec) := do
  match k with
  | .dense f m _ =>
    let eqs := (rw.zip q.kinds).filter (fun r => decide (r.2 = RowKind.equal))
    let s ← refinedSolve A f m (rx ++ re ++ eqs.map (·.1))
    let p := q.e.length
    let dw := q.kinds.zipIdx.map (fun x => if x.1 = RowKind.equal then
      s.getD (q.n + p + ((q.kinds.take x.2).filter (fun t => decide (t = RowKind.equal))).length) nz else nz)
    return (vSeg s 0 q.n, vSeg s q.n p, dw)
  | .staged m =>
    -- the equal rows' right-hand side enters the gradient with the weight 2^24
    let lift := (q.kinds.zip rw).map (fun x => if x.1 = RowKind.equal then scaleX x.2 24 else nz)
    let g ← vAdd A (vNeg rx) (vNeg (← sMatTVec A q.n q.a lift))
    let (dx, dnu) ← ricSolve A q m g re
    let adx ← sMatVec A q.a dx
    let dw ← ((q.kinds.zip (adx.zip rw))).mapM (fun x => do
      if x.1 = RowKind.equal then return scaleX (← sSub A x.2.1 x.2.2) 24 else return nz)
    return (dx, dnu, dw)

/-! ### Interior point (03 R73 to R75) -/

/-- One value for each side: the lower sides and the upper sides, by rows. -/
structure Sides where
  lo : Vec
  up : Vec
deriving DecidableEq, Repr

/-- A computation for each side that a row has, 0 elsewhere. -/
def onSides (q : Qp) (f : Bool → Nat → Work Num) : Work Sides := do
  let lo ← q.kinds.zipIdx.mapM (fun k => if k.1.hasLo then f false k.2 else pure nz)
  let up ← q.kinds.zipIdx.mapM (fun k => if k.1.hasUp then f true k.2 else pure nz)
  return ⟨lo, up⟩

/-- A side's value. -/
def Sides.get (s : Sides) (up : Bool) (i : Nat) : Num := (if up then s.up else s.lo).getD i nz

/-- The values of the sides that rows have, row by row, lower before upper. -/
def Sides.list (q : Qp) (s : Sides) : Vec :=
  (q.kinds.zipIdx.map (fun k => (if k.1.hasLo then [s.lo.getD k.2 nz] else []) ++ (if k.1.hasUp then [s.up.getD k.2 nz] else []))).flatten

/-- A Newton step: dx, ds, dλ, dν and the change of the equal rows' multipliers. -/
structure NewtonStep where
  dx : Vec
  ds : Sides
  dlam : Sides
  dnu : Vec
  dw : Vec
deriving DecidableEq, Repr

/-- The residuals of the Newton system: of the sides' slack rows, of E, of the equal rows, of the gradient. -/
structure NewtonRes where
  prim : Sides
  eq : Vec
  eqRow : Vec
  dual : Vec
deriving DecidableEq, Repr

/-- r_prim and r_dual at a point. -/
def newtonRes (A : Arith) (q : Qp) (p : Pt) : Work NewtonRes := do
  let ax ← sMatVec A q.a p.x
  let s : Sides := ⟨p.sL, p.sU⟩
  let prim ← onSides q (fun up i => do
    let gap ← if up then sSub A (q.ub.getD i nz) (ax.getD i nz) else sSub A (ax.getD i nz) (q.lb.getD i nz)
    sSub A gap (s.get up i))
  let eq ← vSub A (← sMatVec A q.e p.x) q.ev
  let eqRow ← q.kinds.zipIdx.mapM (fun k => if k.1 = RowKind.equal then sSub A (ax.getD k.2 nz) (q.lb.getD k.2 nz) else pure nz)
  let y ← vSub A p.lamU p.lamL
  let grad ← vAdd A (← vAdd A (← sMatVec A q.h p.x) q.q) (← sMatTVec A q.n q.a y)
  return ⟨prim, eq, eqRow, ← vAdd A grad (← sMatTVec A q.n q.e p.nu)⟩

/-- newton(): the full system reduced to M, one refined solve, then ds and dλ side by side (03, after the pseudocode); `comp` is
the complementarity term of each side. -/
def newton (A : Arith) (q : Qp) (k : Kkt) (p : Pt) (r : NewtonRes) (comp : Sides) : Work NewtonStep := do
  let lam : Sides := ⟨p.lamL, p.lamU⟩
  let s : Sides := ⟨p.sL, p.sU⟩
  -- (−comp − λ r) / s on each side
  let t ← onSides q (fun up i => do
    let v ← sSub A (comp.get up i).opp (← sMul A (lam.get up i) (r.prim.get up i))
    sDiv A v (s.get up i))
  let w ← vSub A t.up t.lo
  let rx ← vSub A (vNeg r.dual) (← sMatTVec A q.n q.a w)
  let (dx, dnu, dw) ← solveNewton A q k rx (vNeg r.eq) (vNeg r.eqRow)
  let adx ← sMatVec A q.a dx
  let ds ← onSides q (fun up i => sAdd A (if up then (adx.getD i nz).opp else adx.getD i nz) (r.prim.get up i))
  let dlam ← onSides q (fun up i => do
    let v ← sSub A (comp.get up i).opp (← sMul A (lam.get up i) (ds.get up i))
    sDiv A v (s.get up i))
  return ⟨dx, ds, dlam, dnu, dw⟩

/-- step_to_boundary (03 R73): the largest a ≤ 1 with v + a dv ≥ (1 − f) v for every slack and multiplier; an element whose change is
not negative places no bound. -/
def stepToBoundary (A : Arith) (f : Num) (v dv : Vec) : Work Num :=
  (v.zip dv).foldlM (fun a x => do
    if ltX x.2 nz then
      let b ← sDiv A (← sMul A f x.1) x.2.opp
      return if ltX b a then b else a
    else return a) n1

/-- 0.99 in binary64. -/
def f99 : Num := f64 0x3FEFAE147AE147AE

/-- What an iteration gives: the new point, and the predictor's dx. -/
structure StepOut where
  pt : Pt
  pred : Vec
deriving DecidableEq, Repr

/-- ip_iteration (03). Without a finite side there is no μ, and the corrector's term is empty. -/
def ipIteration (A : Arith) (q : Qp) (p : Pt) : Work StepOut := do
  let lam : Sides := ⟨p.lamL, p.lamU⟩
  let s : Sides := ⟨p.sL, p.sU⟩
  let sw ← onSides q (fun up i => sDiv A (lam.get up i) (s.get up i))
  let k ← newtonSystem A q (← vAdd A sw.lo sw.up)
  let r ← newtonRes A q p
  let sl ← onSides q (fun up i => sMul A (s.get up i) (lam.get up i))
  let af ← newton A q k p r sl
  let vs := s.list q ++ lam.list q
  let aa ← stepToBoundary A n1 vs (af.ds.list q ++ af.dlam.list q)
  let count := (s.list q).length
  let comp ← if count = 0 then pure sl else do
    let mAct := Num.fin false count 0
    let mu ← sDiv A (← sLaneDot A (s.list q) (lam.list q)) mAct
    let s1 ← vAxpy A aa (af.ds.list q) (s.list q)
    let l1 ← vAxpy A aa (af.dlam.list q) (lam.list q)
    let muA ← sDiv A (← sLaneDot A s1 l1) mAct
    let t ← sDiv A muA mu
    let sig ← sMul A (← sMul A t t) t
    let sm ← sMul A sig mu
    onSides q (fun up i => do
      let v ← sAdd A (sl.get up i) (← sMul A (af.ds.get up i) (af.dlam.get up i))
      sSub A v sm)
  let st ← newton A q k p r comp
  let a ← stepToBoundary A f99 vs (st.ds.list q ++ st.dlam.list q)
  let move (has : RowKind → Bool) (d v : Vec) : Work Vec :=
    (q.kinds.zip (d.zip v)).mapM (fun x => if has x.1 then sFma A a x.2.1 x.2.2 else pure nz)
  let lo ← move RowKind.hasLo st.dlam.lo p.lamL
  let up ← move RowKind.hasUp st.dlam.up p.lamU
  -- an equal row's multiplier is held as the positive and the negative part of y
  let eqY ← (q.kinds.zip (st.dw.zip (p.lamU.zip p.lamL))).mapM (fun x => do
    if x.1 = RowKind.equal then sFma A a x.2.1 (← sSub A x.2.2.1 x.2.2.2) else return nz)
  let part (neg : Bool) (v : Vec) : Vec := (q.kinds.zip (v.zip eqY)).map (fun x =>
    if x.1 = RowKind.equal then posPart (if neg then x.2.2.opp else x.2.2) else x.2.1)
  return { pt := { p with
    x := ← vAxpy A a st.dx p.x, nu := ← vAxpy A a st.dnu p.nu, lamL := part true lo, lamU := part false up,
    sL := ← move RowKind.hasLo st.ds.lo p.sL, sU := ← move RowKind.hasUp st.ds.up p.sU }, pred := af.dx }

/-- x of the cold start (03 R75): the refined solution of (H̄ + ĀᵀĀ + δ_x I) x = −q̄. -/
def coldX (A : Arith) (q : Qp) : Work Vec := do
  let m ← formM A q q.h (List.replicate q.a.length n1)
  let f ← factorise A .chol m (List.replicate q.n delta) []
  refinedWith A (roseSolve A f) (fun x => do vAxpy A delta x (← sMatVec A m x)) (vNeg q.q)

/-- The cold-start point of interior point (03 R75): each slack at least 1, each multiplier 1. -/
def ipCold (A : Arith) (q : Qp) : Work Pt := do
  let x ← coldX A q
  let ax ← sMatVec A q.a x
  let s ← onSides q (fun up i => do
    let v ← if up then sSub A (q.ub.getD i nz) (ax.getD i nz) else sSub A (ax.getD i nz) (q.lb.getD i nz)
    return maxX v n1)
  let ones (has : RowKind → Bool) : Vec := q.kinds.map (fun k => if has k || decide (k = RowKind.equal) then n1 else nz)
  return { x := x, y := [], nu := List.replicate q.e.length n1, lamL := ones RowKind.hasLo, lamU := ones RowKind.hasUp, sL := s.lo,
           sU := s.up, z := [] }

/-- The cold-start point of a method: R75's x and multipliers 1, for ADMM with z = Ā x (04 R109; log 124). -/
def coldPt (A : Arith) (q : Qp) : Work Pt := do
  if q.chart.method = 0 then ipCold A q
  else
    let x ← coldX A q
    let y := q.kinds.map (fun k => if k = RowKind.inactive then nz else n1)
    let z ← if q.chart.method = 1 then sMatVec A (q.a ++ q.e) x else pure []
    return { x := x, y := y, nu := List.replicate q.e.length n1, lamL := [], lamU := [], sL := [], sU := [], z := z }

/-! ### ADMM (03 R76 to R78) -/

/-- sg = 2^-20 and al = 1.625. -/
def admmSg : Num := .fin false 1 (-20)
def admmAl : Num := .fin false 13 (-3)

/-- The penalty exponent of a row: equality rows take 2^10 times the inequality penalty, 2^7 with the default 2^-3. -/
def admmRho (rho : Int) (eq : Bool) : Int := if eq then rho + 10 else rho

/-- The rows of ADMM: A then E, with bounds, each with its penalty exponent. -/
def admmRows (q : Qp) (rho : Int) : List (Vec × Num × Num × Int) :=
  ((q.a.zip (q.lb.zip q.ub)).zip q.kinds).map (fun r => (r.1.1, r.1.2.1, r.1.2.2, admmRho rho (decide (r.2 = RowKind.equal)))) ++
  (q.e.zip q.ev).map (fun r => (r.1, r.2, r.2, admmRho rho true))

/-- K_admm factored (03 R76): H̄ + sg I + rho ĀᵀĀ without equality rows, the quasi-definite matrix with them; on a staged chart the
penalty enters the stage weights. -/
def admmSystem (A : Arith) (q : Qp) (rho : Int) : Work Kkt := do
  let hs ← q.h.zipIdx.mapM (fun r => r.1.zipIdx.mapM (fun v => if r.2 = v.2 then sAdd A v.1 admmSg else pure v.1))
  let w : Vec := q.kinds.map (fun k => pow2 (admmRho rho (decide (k = RowKind.equal))))
  if q.chart.staged then return .staged (← formM A q hs w)
  else if q.e.isEmpty then
    let m ← formM A q hs w
    return .dense (← factorise A .chol m (List.replicate q.n nz) []) m 0
  else
    let rows := admmRows q rho
    let k ← bordered A q.n (← mRose A hs) (rows.map (·.1)) (rows.map (fun r => Num.fin true 1 (-r.2.2.2)))
    let neg := List.replicate q.n false ++ List.replicate rows.length true
    return .dense (← factorise A .ldl k (List.replicate (q.n + rows.length) nz) neg) k rows.length

/-- A row of C = Ā, stacked as ADMM takes it, times a vector. -/
def admmMul (A : Arith) (q : Qp) (x : Vec) : Work Vec := sMatVec A (q.a ++ q.e) x

/-- x̃ of an iteration: the refined solve with K_admm; on a staged chart also the multipliers of E. -/
def admmSolve (A : Arith) (q : Qp) (k : Kkt) (rho : Int) (p : Pt) : Work (Vec × Option Vec) := do
  let rows := admmRows q rho
  let yz := p.y ++ p.nu
  let base ← (p.x.zip q.q).mapM (fun x => sFma A admmSg x.1 x.2.opp)
  let m := q.a.length
  match k with
  | .dense f mt 0 =>
    let t ← (rows.zip (p.z.zip yz)).mapM (fun r => sFma A (pow2 r.1.2.2.2) r.2.1 r.2.2.opp)
    let rhs ← vAdd A base (← sMatTVec A q.n (q.a ++ q.e) t)
    return (← refinedSolve A f mt rhs, none)
  | .dense f mt _ =>
    let low ← (rows.zip (p.z.zip yz)).mapM (fun r => do sSub A r.2.1 (scaleX r.2.2 (-r.1.2.2.2)))
    let s ← refinedSolve A f mt (base ++ low)
    return (vSeg s 0 q.n, none)
  | .staged mt =>
    let t ← ((rows.take m).zip (p.z.zip p.y)).mapM (fun r => sFma A (pow2 r.1.2.2.2) r.2.1 r.2.2.opp)
    let rhs ← vAdd A base (← sMatTVec A q.n q.a t)
    let (x, nu) ← ricSolve A q mt (vNeg rhs) q.ev
    return (x, some nu)

/-- admm_iteration (03). -/
def admmIteration (A : Arith) (q : Qp) (k : Kkt) (rho : Int) (p : Pt) : Work StepOut := do
  let (xt, nu) ← admmSolve A q k rho p
  let zt ← admmMul A q xt
  let be : Num := .fin true 5 (-3)
  let mix (a b : Vec) : Work Vec := (a.zip b).mapM (fun v => do sFma A admmAl v.1 (← sMul A be v.2))
  let x ← mix xt p.x
  let zm ← mix zt p.z
  let rows := admmRows q rho
  let yz := p.y ++ p.nu
  let zn ← (rows.zip (zm.zip yz)).mapM (fun r => do
    let v ← sAdd A r.2.1 (scaleX r.2.2 (-r.1.2.2.2))
    return minX (maxX v r.1.2.1) r.1.2.2.1)
  let yn ← (rows.zip ((zm.zip zn).zip yz)).mapM (fun r => do sFma A (pow2 r.1.2.2.2) (← sSub A r.2.1.1 r.2.1.2) r.2.2)
  let m := q.a.length
  return { pt := { p with x := x, z := zn, y := yn.take m, nu := match nu with | some v => v | none => yn.drop m }, pred := [] }

/-! ### Primal active set (03 R79, R80) -/

/-- A constraint side held: a row of A at its upper or lower bound. -/
abbrev Held := Nat × Bool

/-- The problem that the active-set iteration works on: the scaled problem, or that of phase 1 with t as the last variable. -/
def phase1Qp (q : Qp) : Qp :=
  let ext (s : Num) (r : Vec) : Vec := r ++ [s]
  -- rows: A x + t ≥ lb, A x − t ≤ ub, t ≥ 0
  let inf (neg : Bool) : Num := .inf neg
  { q with
    n := q.n + 1, h := rowsOf (q.n + 1) (q.n + 1) [], q := List.replicate q.n nz ++ [n1]
    a := q.a.map (ext n1) ++ q.a.map (ext n1.opp) ++ [List.replicate q.n nz ++ [n1]]
    e := q.e.map (ext nz)
    lb := q.lb ++ q.lb.map (fun _ => inf true) ++ [nz]
    ub := q.ub.map (fun _ => inf false) ++ q.ub ++ [inf false]
    kinds := q.kinds.map (fun k => if k = .inactive ∨ k = .upper then .inactive else .lower) ++
      q.kinds.map (fun k => if k = .inactive ∨ k = .lower then .inactive else .upper) ++ [.lower] }

/-- The rows held: E, the rows with equal bounds, and the working set, with their right-hand sides. -/
def heldRows (q : Qp) (w : List Held) : List (Vec × Num) :=
  q.e.zip q.ev ++
  ((q.a.zip (q.lb.zip q.kinds)).filter (fun r => decide (r.2.2 = RowKind.equal))).map (fun r => (r.1, r.2.1)) ++
  w.map (fun h => (q.a.getD h.1 [], if h.2 then q.ub.getD h.1 nz else q.lb.getD h.1 nz))

/-- The null-space step that minimises the model with the rows of W held, from a QR factor of those rows and a Cholesky factor of
ZᵀHZ: the step, R and the reflectors. -/
def nullStep (A : Arith) (q : Qp) (x : Vec) (rows : List (Vec × Num)) : Work (Vec × Mat × List Reflector) := do
  let r := rows.length
  let (R, hs) ← qrFactor A q.n (rows.map (·.1))
  -- the part in the range of the held rows: Rᵀ v = b − C x, sweeps of the pivot units in decreasing and increasing order
  let gap ← rows.mapM (fun c => do sSub A c.2 (← sDot A c.1 x))
  let v ← (List.range r).foldlM (fun (vs : Vec) k => do
    let acc ← (List.range k).foldlM (fun a j => sFma A (mat R k j).opp (vs.getD j nz) a) (gap.getD k nz)
    return vs ++ [← sDiv A acc (mat R k k)]) []
  let py ← applyQ A hs (← mapRose A (vSeg v 0 q.n))
  let g ← vAdd A (← vAdd A (← sMatVec A q.h x) q.q) (← sMatVec A q.h py)
  let nz0 := q.n - r
  if nz0 = 0 then return (py, R, hs)
  else
    let zs ← (List.range nz0).mapM (fun j => applyQ A hs ((mEye q.n q.n).getD (r + j) []))
    let hz ← rMul A q.h zs
    let red ← rSymAdd A (rowsOf nz0 nz0 []) zs (mTr nz0 hz)
    let zg ← zs.mapM (fun z => sDot A z g)
    let f ← factorise A .chol red (List.replicate nz0 nz) []
    let d ← refinedSolve A f red (vNeg zg)
    let pz ← sMatTVec A q.n zs d
    return (← vAdd A py pz, R, hs)
where
  /-- Values rounded to W48. -/
  mapRose (A : Arith) (v : Vec) : Work Vec := v.mapM (toRose A)

/-- The multipliers of the held rows: R y = −Yᵀ g, a refined solve in binary64 residuals (03). -/
def heldMults (A : Arith) (q : Qp) (x : Vec) (rows : List (Vec × Num)) (R : Mat) (hs : List Reflector) : Work Vec := do
  let r := rows.length
  let g ← vAdd A (← sMatVec A q.h x) q.q
  let back (b : Vec) : Work Vec := do
    let t ← applyQt A hs (← b.mapM (toRose A))
    let ys ← (List.range r).foldlM (fun (ys : Vec) i => do
      let k := r - 1 - i
      let acc ← (List.range i).foldlM (fun a t => note (fusedSub A.num.strict a (mat R (r - 1 - t) k) (ys.getD t nz))) (t.getD k nz)
      return ys ++ [← note (divR .w48 A.num.strict acc (mat R k k))]) []
    return ys.reverse
  refinedWith A back (fun y => sMatTVec A q.n (rows.map (·.1)) y) (vNeg g)

/-- The largest step in [0, 1] that keeps every row within its bounds, and the side that blocks first: the lowest row on ties. -/
def blockingStep (A : Arith) (q : Qp) (x p : Vec) (w : List Held) (cap : Num) : Work (Num × Option Held) := do
  let ax ← sMatVec A q.a x
  let ap ← sMatVec A q.a p
  (q.kinds.zipIdx).foldlM (fun (s : Num × Option Held) k => do
    let i := k.2
    let v := ax.getD i nz
    let d := ap.getD i nz
    if w.any (fun h => h.1 = i) || decide (k.1 = RowKind.inactive) || decide (k.1 = RowKind.equal) then return s
    else if ltX nz d && k.1.hasUp then
      let a ← sDiv A (← sSub A (q.ub.getD i nz) v) d
      let a := maxX a nz
      return if ltX a s.1 then (a, some (i, true)) else s
    else if ltX d nz && k.1.hasLo then
      let a ← sDiv A (← sSub A (q.lb.getD i nz) v) d
      let a := maxX a nz
      return if ltX a s.1 then (a, some (i, false)) else s
    else return s) (cap, none)

/-- What an active-set iteration leaves: x, y by rows, ν, the working set, whether x is optimal, the direction of an unbounded
problem. -/
structure ActStep where
  x : Vec
  y : Vec
  nu : Vec
  work : List Held
  optimal : Bool
  unbounded : Option Vec
deriving DecidableEq, Repr

/-- The side with the wrong-signed multiplier of largest magnitude, the lowest row on ties; a multiplier of 0 is never dropped (R80). -/
def worstSide (w : List Held) (ys : Vec) : Option Held :=
  let wrong := (w.zip ys).filter (fun h => if h.1.2 then ltX h.2 nz else ltX nz h.2)
  match wrong with
  | [] => none
  | h :: hs => some (hs.foldl (fun (b : Held × Num) c =>
      if ltX b.2.abs c.2.abs || (!ltX c.2.abs b.2.abs && decide (c.1.1 < b.1.1)) then c else b) h).1

/-- as_iteration (03). -/
def asIteration (A : Arith) (q : Qp) (x : Vec) (w : List Held) (y nu : Vec) : Work ActStep := do
  let rows := heldRows q w
  let (p, R, hs) ← nullStep A q x rows
  let lim ← sAdd A n1 (vNorm x)
  if leX (vNorm p) (scaleX lim (-40)) then
    let ys ← heldMults A q x rows R hs
    let pe := q.e.length
    let eqs := (q.kinds.zipIdx.filter (fun k => decide (k.1 = RowKind.equal))).map (·.2)
    let wy := ys.drop (pe + eqs.length)
    let full := q.kinds.zipIdx.map (fun k =>
      match eqs.findIdx? (fun e => e = k.2), w.findIdx? (fun h => h.1 = k.2) with
      | some t, _ => ys.getD (pe + t) nz
      | none, some t => wy.getD t nz
      | none, none => nz)
    match worstSide w wy with
    | none => return ⟨x, full, ys.take pe, w, true, none⟩
    | some h => return ⟨x, full, ys.take pe, w.filter (fun k => k ≠ h), false, none⟩
  else
    let hp ← sMatVec A q.h p
    let curv ← sLaneDot A p hp
    let slope ← sLaneDot A p (← vAdd A (← sMatVec A q.h x) q.q)
    let flat := curv.isZero && ltX slope nz
    let (a, b) ← blockingStep A q x p w (if flat then .inf false else n1)
    match flat, b with
    | true, none => return ⟨x, y, nu, w, false, some p⟩
    | _, some h => return ⟨← vAxpy A a p x, y, nu, w ++ [h], false, none⟩
    | _, none => return ⟨← vAxpy A a p x, y, nu, w, false, none⟩

/-- The rows that a point holds at a bound (04 R109), as a working set; no row more than the variables can hold. -/
def rowsAtBound (A : Arith) (q : Qp) (x : Vec) : Work (List Held) := do
  let ax ← sMatVec A q.a x
  let at0 := q.kinds.zipIdx.filterMap (fun k =>
    let v := ax.getD k.2 nz
    if k.1.hasUp && decide (cmpX v (q.ub.getD k.2 nz) = some .eq) then some (k.2, true)
    else if k.1.hasLo && decide (cmpX v (q.lb.getD k.2 nz) = some .eq) then some (k.2, false)
    else none)
  return at0.take (q.n - q.e.length)

end Sys2Proof.Machine
end

