-- ==== Sys2Proof/Machine/Cached.lean ====
section
/-! DEFINITION. What LOAD_MODEL computes from an image's numbers (02 R49, R474; 03 R62, R76): the operands of its items, the scaling,
and the ADMM factor for the default penalty, which is one more item. -/

namespace Sys2Proof.Machine
open Sys2Proof

/-- The operands that an image's items hold; items of one operand follow each other. -/
def imageParts (im : Image) : PartData :=
  im.items.foldl (fun a it => if it.part = .other then a else addPart a it.part ((readVals it.fmt it.count it.data).map w64)) []

/-- The side S of a route's super-tile: its berth's (07 R177), or the 128 of the facet-batched mapping (R189). -/
def routeSide (r : Route) : Nat := if r.batch then 128 else 32 * (if r.berthH < r.berthW then r.berthH else r.berthW)

/-- A route under its chart, which fixes its Vernier mode (05 R129) and its tangent sweeps a stage (02 R44, 04 R112). -/
def chartRoute (c : Chart) (r : Route) : Route :=
  { r with vernier := c.vernier, sweeps := if c.network then stageSweeps c.nx c.nu else 0 }

/-- The arithmetic of LOAD_MODEL, which carries no NUMCTL and no pivot policy: their default codes (log 126). -/
def loadArith (r : Route) : Arith := ⟨{}, r.vernier, r.rounds, 0, r.tau, routeSide r⟩

/-- The problem of model data alone, instance operands +0. -/
def modelProb (A : Arith) (c : Chart) (ps : PartData) : ProbData := ((formProb A c ps (List.replicate c.n nz)).run {}).1

/-- D and F of a model (03 R62); none for a chart whose setup computes its own, and none for the Kalman family. -/
def modelScales (A : Arith) (c : Chart) (ps : PartData) : List Int × List Int :=
  if c.kalman || scalesOwn c [] then ([], []) else equilibrate (modelProb A c ps)

/-- The elements of the cached factor: of a dense system its lower triangle by rows (for LDLᵀ with D on the diagonal), of a staged one
K by rows and then the lower triangle of P of every stage (log 126). -/
def admmElems (A : Arith) (c : Chart) (ps : PartData) : Work Vec := do
  let p := modelProb A c ps
  let (d, f) := equilibrate p
  let q ← scaledQp A c p d f (costExp p d)
  match ← admmSystem A q (-3) with
  | .dense g _ _ => return lowTri g.l
  | .staged m =>
    let z := List.replicate q.n nz
    let n0 := c.horizon * (c.nx + c.nu)
    let gs ← ricStages A q m z (List.replicate q.e.length nz)
    let (gains, _, _) ← ricBackward A gs (mBlock m n0 c.nx n0 c.nx) (vSeg z n0 c.nx)
    return (gains.map (fun g => g.k.flatten ++ lowTri g.pNext)).flatten

/-- The ADMM factor as an item, in W48. -/
def admmItem (c : Chart) (im : Image) : List (Region × List Byte) :=
  match c.method, im.routes with
  | 1, r :: _ => [(im.admmRegion, (storeVals 9 .rne false ((admmElems (loadArith (chartRoute c r)) c (imageParts im)).run {}).1).1)]
  | _, _ => []

/-- The items of a load, in the order in which they are placed. -/
def loadItems (im : Image) : List (Region × List Byte) :=
  im.items.map (fun i => (i.region, i.data)) ++ admmItem (parseChart im.desc) im

end Sys2Proof.Machine
end

