-- ==== Sys2Proof/Machine/Rings.lean ====
section
/-! DEFINITION. Rings: doorbells, enable and disable, fetch, field checks and acceptance (09 R221 to R240), and the
queueing of a commit request that needs no run. -/

namespace Sys2Proof.Machine
open Sys2Proof

/-! ### Helm cores (18 R422) -/

/-- Is the Helm core that serves a context halted or draining? With no core halted no assignment is consulted. -/
def servedHalted (s : State) (ctx : Nat) : Bool :=
  if s.helm.cores.any (fun c => c.halted || c.draining) then
    match s.helm.cores[Config.helmCoreOf ctx % 8]? with
    | some c => c.halted || c.draining
    | none => false
  else false

/-! ### Commit requests (09 R248) -/

/-- The result words of a solve command that did not launch (09 R243). -/
def noRunWord : Nat := 0x7F800000

/-- A request with a status and result words, stamped now, for a command that did not launch. -/
def plainReq (s : State) (status r0 r1 r2 r3 : Nat) : CommitReq :=
  ⟨status, 0, 0, 0, r0, r1, r2, r3, stamp s, s.clk.chipAk, false, s.helm.requests, false, false, 0, 0, 0, none, false, 0, 0,
   false, 0, RunCounts.zero, 0⟩

/-- Put a command's commit request into the Binnacle's journal queue (09 R248): from here on nothing withdraws it. -/
def fileReq (s : State) (c : Cmd) (r : CommitReq) : State :=
  let s := putCmd s { c with phase := .requested, req := some { r with order := s.helm.requests } }
  let s := s.setHelm { s.helm with requests := s.helm.requests + 1 }
  s.setLog { s.log with queue := s.log.queue ++ [c.key] }

/-- File a request of a command that did not launch, with the result words of 09 R243's first matching row. -/
def fileStatus (s : State) (c : Cmd) (status : Nat) : State :=
  if isSolve c.desc then fileReq s c (plainReq s status noRunWord noRunWord noRunWord noRunWord)
  else if opOf c.desc = 1 then
    fileReq s c (plainReq s status (dModel c.desc % 4096)
      (match c.image with | some i => (signatureOf (parseChart i.desc) i.desc).toNat % 2 ^ 32 | none => 0)
      (match c.image with | some i => (signatureOf (parseChart i.desc) i.desc).toNat / 2 ^ 32 | none => 0) 0)
  else fileReq s c (plainReq s status 0 0 0 0)

/-- File FIELD_ERROR with the offset, the reason and the aligned word that holds the field (09 R243). -/
def fileFieldError (s : State) (c : Cmd) (off reason : Nat) : State :=
  fileReq s c (plainReq s 0x32 (off + reason * 256) (leField c.desc (off / 4 * 4) 4) 0 0)

/-! ### Fetching (09 R225, R226) -/

/-- May the device read slot `seq` of a ring now: enabled, or holding an accepted command that is fetched again (R250), and not
stopped, its context resident, its function able to master, its Helm core running, the device READY and not stopped by a global stop
(14 R353: doorbells are then only recorded)? -/
def canFetch (s : State) (ctx ring : Nat) (r : Ring) (seq : Word) : Bool :=
  ready s && (r.enable || (findCmd s ⟨ctx, ring, seq⟩).isSome) && !r.stopped && !s.fleet.stopped &&
  (match ctxOf s ctx with | some c => c.resident | none => false) &&
  (match fnOf s ctx with | some f => canMaster s f | none => false) && !servedHalted s ctx

/-- Is slot `next` announced and inside the reorder window of 09 R247, so that it can be requested (10 R257)? -/
def wantsFetch (r : Ring) : Bool :=
  decide ((r.tail - r.next).toNat < 2 ^ 31) && decide ((r.next - r.done).toNat < 32)

/-- Request slots in sequence order, never one twice (09 R225 case 4): one 64-byte read for each (log 27). -/
def pumpN : Nat → State → Nat → Nat → State
  | 0, s, _, _ => s
  | n + 1, s, ctx, ring =>
    let r := ringOf s ctx ring
    if canFetch s ctx ring r r.next && wantsFetch r then
      let slot := (r.next - r.seq0).toNat % 2 ^ r.log2e
      let f := (fnOf s ctx).getD 0
      let s := setRing s ctx ring { r with next := r.next + 1 }
      pumpN n (emit s (.hostRead f (r.sqBase + 64 * slot) 64)) ctx ring
    else s

/-- Request every slot that can be requested: at most the 32 of the reorder window. -/
def pump (s : State) (ctx ring : Nat) : State := pumpN 32 s ctx ring

/-- Request for all eight rings of a context. -/
def pumpCtx (s : State) (ctx : Nat) : State := (List.range 8).foldl (fun s r => pump s ctx r) s

/-- The context of a doorbell page of a function (10 R255, 09 R223). -/
def pageCtx (s : State) (fn page : Nat) : Option Nat :=
  let (first, count) := fnRange s fn
  if page < count ∧ (fn = 0 ∨ page < 256) then some (first + page) else none

/-- HELM_RING_CTL as it reads (09 R223). -/
def ringCtlWord (s : State) (ctx ring : Nat) (r : Ring) : Word :=
  BitVec.ofNat 32 (bitAt (ringActive s ctx ring) 0 + bitAt r.recordErr 1 + bitAt r.dbOverrun 2 + bitAt r.dbIgnored 3 +
    bitAt r.fetchErr 4 + bitAt r.enableRefused 5 + bitAt r.enable 31)

/-- A word of a context's doorbell page as a read returns it (09 R223, R225): HELM_DB is write-only and reads 0, as every reserved offset does; HEAD
and DONE of a context that is not resident are its saved queue pointers, which the ring table holds. -/
def pageRead (s : State) (ctx off : Nat) : Word :=
  let r := ringOf s ctx (off / 16)
  if 128 ≤ off then 0
  else if off % 16 = 4 then r.head
  else if off % 16 = 8 then r.done
  else if off % 16 = 12 then ringCtlWord s ctx (off / 16) r
  else 0

/-- Raise a ring's vector when IRQ_EN is 1 (09 R245). -/
def raiseRing (s : State) (ctx : Nat) (r : Ring) : State :=
  if r.irqEn then raiseMsix s ((fnOf s ctx).getD 0) r.vector else s

/-! ### Doorbell (09 R225, R254; 19 R427; 15 R362) -/

/-- The first case of 09 R225 that applies to a doorbell value. -/
inductive DbCase where
  | ignored | stale | overrun | announce
deriving DecidableEq, Repr

/-- Decide a doorbell value (09 R225). -/
def dbCase (r : Ring) (tail : Word) : DbCase :=
  if !r.enable then .ignored
  else if (tail - r.head).toNat ≥ 2 ^ 31 then .stale
  else if (tail - r.done).toNat ≥ 2 ^ r.log2e then .overrun
  else .announce

/-- The newest sequence number announced (09 R225): a doorbell behind an earlier one takes back no slot that the earlier one announced. -/
def newerTail (r : Ring) (tail : Word) : Word := if ahead tail r.tail then tail else r.tail

/-- Act on a doorbell value of a defined context. -/
def doorbellAct (s : State) (ctx ring : Nat) (tail : Word) : State :=
  let r := ringOf s ctx ring
  match dbCase r tail with
  | .ignored => setRing s ctx ring { r with dbIgnored := true }
  | .stale => s
  | .overrun =>
    let s := setRing s ctx ring { r with dbOverrun := true }
    let s := raiseNotice s (srcOverrun (ringKey ctx ring)) false { cls := 0, cause := 0x30, key := some ⟨ctx, ring, tail⟩ }
    raiseRing s ctx r
  | .announce => pump (setRing s ctx ring { r with tail := newerTail r tail }) ctx ring

/-- DOORBELL: a write of TAIL to HELM_DB of a ring of a function's page. -/
def doDoorbell (s : State) (fn page ring : Nat) (tail : Word) (ep : Bool) : State :=
  if ep then s.setPci { s.pci with epDropped := s.pci.epDropped + 1 }
  else if !decide (ring < 8) || !fnEnabled s fn then s
  else match pageCtx s fn page with
    | none => s
    | some ctx =>
      let s := pcieIn s 4
      if (ctxOf s ctx).isNone then
        setRing s ctx ring { ringOf s ctx ring with dbIgnored := true }
      else doorbellAct s ctx ring tail

/-! ### Enable and disable (09 R224) -/

/-- Does a ring record keep 09 R221 and 19 R426? -/
def recordOk (s : State) (fn : Nat) (r : Rec) : Bool :=
  decide (recSq r % 4096 = 0) && decide (recCq r % 4096 = 0) && decide (6 ≤ recLog2E r) && decide (recLog2E r ≤ 16) &&
  decide (recRctl r < 2) && decide (recVector r < 2048) && decide (recVector r < msixSize s fn) && decide (recRsv r = 0)

/-- Clear the W1C bits of HELM_RING_CTL that a write names. -/
def ringW1c (r : Ring) (w : Word) : Ring :=
  { r with
    enableRefused := r.enableRefused && !bit w 5
    fetchErr := r.fetchErr && !bit w 4
    dbIgnored := r.dbIgnored && !bit w 3
    dbOverrun := r.dbOverrun && !bit w 2
    recordErr := r.recordErr && !bit w 1 }

/-- The row of a ring just enabled from its record (09 R224): HEAD and DONE at SEQ0, TAIL one behind. -/
def enabledRing (r : Ring) (rec : Rec) : Ring :=
  { r with
    sqBase := recSq rec, cqBase := recCq rec, seq0 := recSeq0 rec, log2e := recLog2E rec,
    irqEn := (recRctl rec).testBit 0, vector := recVector rec, enable := true,
    head := recSeq0 rec, done := recSeq0 rec, tail := recSeq0 rec - 1, next := recSeq0 rec, stopped := false }

/-- RING_ENABLE: a write of HELM_RING_CTL with ENABLE 1; `rec` is the ring record as the device reads it. -/
def doRingEnable (s : State) (fn page ring : Nat) (w : Word) (rec : Rec) : State :=
  if !decide (ring < 8) || !fnEnabled s fn then s
  else match pageCtx s fn page with
    | none => s
    | some ctx =>
      let s := pcieIn s 4
      let r := ringW1c (ringOf s ctx ring) w
      if (ctxOf s ctx).isNone || ringActive s ctx ring then setRing s ctx ring { r with enableRefused := true }
      else if recordOk s fn rec then setRing (pcieIn s 32) ctx ring (enabledRing r rec)
      else setRing (pcieIn s 32) ctx ring { r with recordErr := true, enable := false }

/-- RING_DISABLE: a write of HELM_RING_CTL with ENABLE 0: fetching stops, accepted commands run on. -/
def doRingDisable (s : State) (fn page ring : Nat) (w : Word) : State :=
  if !decide (ring < 8) || !fnEnabled s fn then s
  else match pageCtx s fn page with
    | none => s
    | some ctx => setRing (pcieIn s 4) ctx ring { ringW1c (ringOf s ctx ring) w with enable := false }

/-! ### Journal rows of the device report (17 R410, R411) -/

/-- The ring keys that the journal store holds an entry for, in increasing context and then ring. -/
def journalRings (s : State) : List Nat :=
  sortNat (s.log.last.map (·.1) ++ (s.log.journal.filter (fun e => decide (e.2.kind ≤ 2))).map (fun e => ringKey e.2.ctx e.2.ring))

/-- The pending "committing" entry of a ring. -/
def pendingEntry (s : State) (rk : Nat) : Option JEntry :=
  (s.log.journal.find? (fun e => decide (ringKey e.2.ctx e.2.ring = rk) && decide (e.2.kind = 1))).map (·.2)

/-- A journal row. -/
def journalRow (s : State) (rk : Nat) : List Byte :=
  let p := pendingEntry s rk
  b2 (rk / 8) ++ b1 (rk % 8) ++ b1 (bitAt p.isSome 0) ++ b4 (mgetD s.log.last rk 0).toNat ++
  b4 (match p with | some e => e.seq.toNat | none => 0) ++ b4 0 ++
  (match p with | some e => fitTo 32 e.record | none => zeros 32) ++ zeros 16

/-- The journal rows that a function sees: all for the physical function, those of its own contexts for a virtual one. -/
def journalRows (s : State) (fn : Nat) : List (List Byte) :=
  ((journalRings s).filter (fun rk => decide (fn = 0) || ownsCtx s fn (rk / 8))).map (journalRow s)

/-! ### Field checks (09 R240) -/

/-- One check: the offset of the field, the reason, whether it failed. -/
abbrev Check := Nat × Nat × Bool

/-- The first failed check. -/
def firstFail : List Check → Option (Nat × Nat)
  | [] => none
  | (off, reason, failed) :: cs => if failed then some (off, reason) else firstFail cs

/-- The opcode is one of 09 R229. -/
def knownOp (op : Nat) : Bool :=
  [0x01, 0x02, 0x10, 0x11, 0x12, 0x20, 0x21, 0x30, 0x40, 0x41, 0x42, 0x50, 0x60].contains op

/-- HANDLE used (09 R229); LOAD_MODEL's is checked at BIND_COUNT. -/
def usesHandle (op : Nat) : Bool := [0x10, 0x11, 0x12, 0x20, 0x21].contains op
/-- MODEL used. -/
def usesModel (op : Nat) : Bool := [0x01, 0x02, 0x10, 0x11, 0x12, 0x20].contains op
/-- IN_ADDR used. -/
def usesIn (op : Nat) : Bool := [0x01, 0x10, 0x11, 0x12].contains op
/-- OUT_ADDR and OUT_LEN used. -/
def usesOut (op : Nat) : Bool := [0x01, 0x10, 0x11, 0x12, 0x50, 0x60].contains op

/-- Is a Beacon in a range (20 R448)? -/
def inRange (r : BcnRange) (b : Nat) : Bool := r.en && decide (r.first ≤ b) && decide (b ≤ r.last)

/-- A context's signal range. -/
def sigRange (s : State) (ctx : Nat) : BcnRange := mgetD s.helm.sig ctx ⟨false, 0, 0⟩
/-- A context's wait range. -/
def waitRange (s : State) (ctx : Nat) : BcnRange := mgetD s.helm.wait ctx ⟨false, 0, 0⟩

/-- Is a Heading entry in the context's range (02 R53, 20 R450)? -/
def inHdgRange (s : State) (ctx h : Nat) : Bool :=
  let (first, count) := mgetD s.helm.hdgRange ctx (0, 0)
  decide (first ≤ h) && decide (h < first + count)

/-- A tolerance is 0 or a positive normal K16 from 2^-30 to 2^-4 (03 R66). -/
def epsOk (v : Nat) : Bool := decide (v = 0) || (decide (0x0200 ≤ v) && decide (v ≤ 0x3600))

/-- RHO is 0 or a positive normal K16 (09 R230). -/
def rhoOk (v : Nat) : Bool := decide (v = 0) || (decide (0x0200 ≤ v) && decide (v ≤ 0x7DFF))

/-- Checks of a host address field: needed and used, or 0. -/
def addrChecks (off a : Nat) (used : Bool) : List Check :=
  if used then [(off, 0x08, decide (a % 64 ≠ 0) || decide (a = 0))] else [(off, 0x01, decide (a ≠ 0))]

/-- Is the device, with TRACE_SAFE 0, without traceability after having lost it (16 R383)? -/
def traceBarred (s : State) : Bool := s.bin.noLateMer && !s.ms.traceable

/-- DEBUG_EN of BIN_CFG. -/
def debugEn (s : State) : Bool := (rget s 0xD0004).testBit 3

/-- Bytes a Fix of this chart needs: 64 B of header and the larger of its padded payload and the trap record (09 R240). -/
def fixNeed (c : Chart) : Nat :=
  let pl := ceilDiv (payloadLen (c.formats.getD 7 0) (payloadElems c)) 4 * 4
  64 + (if pl < 64 then 64 else pl)

/-- Is the result buffer of a device report shorter than LEN (17 R410)? -/
def reportShort (s : State) (k : CmdKey) (d : Line) : Bool :=
  decide (dOutLen d * 64 < 384 + 64 * (journalRows s ((fnOf s k.ctx).getD 0)).length + 128)

/-- Header checks, offsets 0 to 31. -/
def headerChecks (s : State) (k : CmdKey) (d : Line) (covered : Bool) (m : Option Model) : List Check :=
  let op := opOf d
  let fixShort := match m with
    | some m => isSolve d && decide (dOutLen d * 64 < fixNeed m.chart)
    | none => false
  [(0, 0x07, !knownOp op), (0, 0x0A, covered && !isSolve d),
   (1, 0x01, decide (dCflags d ≥ 4)),
   (2, 0x03, decide (dCtx d % 4096 ≠ k.ctx)), (2, 0x01, decide (dCtx d ≥ 4096)),
   (4, 0x06, decide (dSeq d ≠ k.seq)),
   (8, 0x04, usesHandle op && !inHdgRange s k.ctx (dHandle d)),
   (8, 0x01, !usesHandle op && decide (op ≠ 0x01) && decide (dHandle d ≠ 0)),
   (10, 0x05, dBcnEn d && !inRange (sigRange s k.ctx) (dBeacon d % 32768)),
   (10, 0x01, !dBcnEn d && decide (dBeacon d % 32768 ≠ 0)), (10, 0x01, decide (dBeacon d ≥ 32768)),
   (12, 0x01, !usesModel op && decide (op ≠ 0x60) && decide (dModel d % 4096 ≠ 0)), (12, 0x01, decide (dModel d ≥ 4096)),
   (14, 0x09, decide (op = 0x01) && decide (dOutLen d < 4)), (14, 0x09, fixShort),
   (14, 0x09, decide (op = 0x60) && decide (leField d 34 1 = 0) && reportShort s k d),
   (14, 0x01, !usesOut op && decide (dOutLen d ≠ 0))] ++
  addrChecks 16 (dInAddr d) (usesIn op) ++ addrChecks 24 (dOutAddr d) (usesOut op)

/-- Checks of the class, mode, DUAL and policy bits of SCHED (09 R240); `stream` is a bind. -/
def schedChecks (s : State) (d : Line) (m : Option Model) (stream : Bool) : List Check :=
  let cls := dClass d
  let mode := dMode d
  let dualLate := match m with
    | some m => (match berthRoute m with
      | some r => decide (r.firstRose < 32 * (ceilDiv (2 * r.berthW * r.berthH) 4 - 1))
      | none => false)
    | none => false
  [(34, 0x02, decide (cls = 3)),
   (34, 0x0A, decide (cls = 2) && debugEn s),
   (34, 0x0A, decide (cls = 0) && decide (mode ≠ 0)), (34, 0x0A, decide (cls ≠ 0) && decide (mode = 0)),
   (34, 0x0A, stream && decide (mode ≠ 2)),
   (34, 0x0A, decide (cls = 2) && (decide (mode = 1) || decide (mode = 3)) && traceBarred s),
   (34, 0x0A, dDual d && (decide (cls ≠ 2) || stream)), (34, 0x0A, dDual d && dualLate),
   (34, 0x02, decide (dPolicy d = 3)), (34, 0x01, (dSched d).testBit 7)]

/-- Checks of bytes 35 to 47 that solve commands and binds share. -/
def tuneChecks (d : Line) (m : Option Model) (stream : Bool) : List Check :=
  let kal := match m with | some m => m.chart.kalman | none => false
  let notAdmm := match m with | some m => decide (m.chart.method ≠ 1) | none => false
  [(35, 0x0A, kal && decide (dWarmMode d ≠ 0)), (35, 0x01, stream && dWarmSrcEn d), (35, 0x01, decide (dWarm d ≥ 16)),
   (37, 0x01, decide (leField d 37 1 ≥ 16)),
   (38, 0x02, !epsOk (dEpsP d)), (40, 0x02, !epsOk (dEpsD d)), (42, 0x02, !epsOk (dEpsG d)),
   (46, 0x02, !rhoOk (dRho d)), (46, 0x0A, decide (dRho d ≠ 0) && notAdmm)]

/-- Checks of a time at offsets 48 and 52, used or 0. -/
def timeChecks (d : Line) (used : Bool) : List Check :=
  [(48, 0x01, !used && decide (dDlSec d ≠ 0)),
   (52, 0x01, !used && decide (dDlNs d % 2 ^ 30 ≠ 0)), (52, 0x02, used && decide (dDlNs d % 2 ^ 30 ≥ 1000000000)),
   (52, 0x01, decide (dDlNs d ≥ 2 ^ 30))]

/-- A body range that must be 0. -/
def zeroCheck (d : Line) (off n : Nat) : Check := (off, 0x01, decide (leField d off n ≠ 0))

/-- Checks of the solve body (09 R230, R231). -/
def solveChecks (s : State) (k : CmdKey) (d : Line) (m : Option Model) : List Check :=
  let mode := dMode d
  let usesMer := decide (mode = 1) || decide (mode = 3)
  let usesBud := decide (mode = 2) || decide (mode = 3)
  let short := match m with | some m => decide (dInLen d * 64 < m.instBytes) | none => false
  let srcBad := !inHdgRange s k.ctx (dWarmSrc d) || decide ((hdgOf s (dWarmSrc d)).state = 0)
  [(32, 0x09, short)] ++ schedChecks s d m false ++ tuneChecks d m false ++ timeChecks d usesMer ++
  [(56, 0x02, usesBud && decide (dBudget d = 0)), (56, 0x01, !usesBud && decide (dBudget d ≠ 0)),
   (60, 0x04, dWarmSrcEn d && srcBad), (60, 0x01, !dWarmSrcEn d && decide (dWarmSrc d ≠ 0)), zeroCheck d 62 2]

/-- Checks of the LOAD_MODEL body (09 R232). -/
def loadChecks (s : State) (k : CmdKey) (d : Line) : List Check :=
  let n := leField d 40 2
  let h := dHandle d
  let outside := !inHdgRange s k.ctx h || !inHdgRange s k.ctx (h + n - 1)
  [(32, 0x01, decide (dInLen d ≠ 0)), (34, 0x01, decide (leField d 34 1 ≥ 2)), zeroCheck d 35 1,
   (36, 0x02, decide (leField d 36 4 = 0) || decide (leField d 36 4 % 512 ≠ 0)),
   (40, 0x04, decide (0 < n) && outside), (40, 0x01, decide (n = 0) && decide (h ≠ 0)), zeroCheck d 42 6,
   (48, 0x01, !(leField d 34 1).testBit 0 && decide (leField d 48 8 ≠ 0)), zeroCheck d 56 8]

/-- Worst-case AK cycles of a route at its default limit (04 R113). -/
def worstAk (r : Route) : Nat := routeCount r r.iterLimit false

/-- T_J of 12 R299: 600 ns, and the recheck time for SAFE. -/
def tJ (safe : Bool) (r : Route) : Mer :=
  600 * nsU + (if safe then 1000 * nsU + (match r.recheck with | some c => c.w | none => 0) * 5 * nsU / 2 else 0)

/-- R299: does the budget, or FIX_DELAY, fall short of what the two certificates need? -/
def bindShort (s : State) (d : Line) (em cm : Option Model) : Bool :=
  match em.bind berthRoute, cm.bind berthRoute with
  | some e, some c =>
    let need := worstAk e + c.setupAk + marginAk c
    let rx := leField d 48 1
    let fixDelay := nbits (rget s (0x80100 + 4 * (16 * (rx / 16 % 4) + rx % 16))) 15 0 * 10 * nsU
    decide (leField d 56 4 < need) ||
    decide (200 * nsU + nominalAk need + tJ (decide (dClass d = 2)) c > fixDelay)
  | _, _ => false

/-- Checks of the STREAM_BIND body (09 R233, 12 R298, R299). -/
def bindChecks (s : State) (k : CmdKey) (d : Line) (m : Option Model) : List Check :=
  let rx := leField d 48 1
  let tx := leField d 49 1
  let em := modelOf s (leField d 54 2 % 4096)
  [(32, 0x01, decide (dInLen d ≠ 0))] ++ schedChecks s d m true ++ tuneChecks d m true ++
  [(48, 0x0A, (mget s.streams (rx % 64)).any (fun st => !(st.key == k))), (48, 0x01, decide (rx ≥ 64)),
   (49, 0x0A, s.streams.any (fun e => e.2.tx == tx % 64 && !(e.2.key == k))), (49, 0x01, decide (tx ≥ 64)),
   (50, 0x01, decide (leField d 50 2 ≥ 1024)),
   (52, 0x04, !inHdgRange s k.ctx (leField d 52 2)), (54, 0x01, decide (leField d 54 2 ≥ 4096)),
   (56, 0x02, decide (leField d 56 4 = 0)), (56, 0x02, bindShort s d em m), zeroCheck d 62 2]

/-- Checks of the bodies of the remaining commands (09 R232 to R239). -/
def otherChecks (s : State) (k : CmdKey) (d : Line) : List Check :=
  let op := opOf d
  let b34 := leField d 34 1
  let b35 := leField d 35 1
  let target := leField d 36 2
  if op = 0x02 then [zeroCheck d 32 32]
  else if op = 0x21 then [zeroCheck d 32 16, (48, 0x01, decide (leField d 48 1 ≥ 64)), zeroCheck d 49 15]
  else if op = 0x30 then
    [zeroCheck d 32 2, (34, 0x02, decide (b34 = 0) || decide (b34 > 32)), zeroCheck d 35 13] ++ timeChecks d true ++
    [zeroCheck d 56 8]
  else if op = 0x40 then
    [zeroCheck d 32 2, (34, 0x02, decide (b34 > 1)), (35, 0x01, !b35.testBit 7 && decide (b35 % 32 ≠ 0)),
     (35, 0x01, decide (b35 / 32 % 4 ≠ 0)),
     (36, 0x05, !b35.testBit 7 && !inRange (sigRange s k.ctx) (target % 32768)), (36, 0x01, decide (target ≥ 32768)),
     zeroCheck d 38 2, zeroCheck d 44 20]
  else if op = 0x41 then
    [zeroCheck d 32 2, (34, 0x01, decide (b34 ≥ 2)), zeroCheck d 35 1,
     (36, 0x05, !inRange (waitRange s k.ctx) (target % 32768)), (36, 0x01, decide (target ≥ 32768)),
     zeroCheck d 38 2, zeroCheck d 44 4] ++ timeChecks d (b34.testBit 0) ++ [zeroCheck d 56 8]
  else if op = 0x42 then [zeroCheck d 32 2, (34, 0x01, decide (b34 ≥ 2)), zeroCheck d 35 29]
  else if op = 0x50 then
    let len := leField d 48 4
    [zeroCheck d 32 2, (34, 0x02, decide (b34 > 1)), (34, 0x0B, decide (b34 = 1) && decide (fnOf s k.ctx ≠ some 0)),
     (34, 0x09, decide (b34 = 1) && decide (dOutLen d < 2)),
     (35, 0x01, decide (b35 ≥ 8)), (44, 0x01, decide (leField d 44 4 ≥ 2 ^ 29)),
     (48, 0x02, decide (len = 0) || decide (len % 64 ≠ 0) || decide (len > dOutLen d * 64)), zeroCheck d 52 12]
  else if op = 0x60 then
    [zeroCheck d 32 2, (34, 0x02, decide (b34 > 1)), (34, 0x01, decide (b34 = 0) && decide (dModel d % 4096 ≠ 0)),
     (35, 0x01, if b34 = 0 then decide (b35 ≠ 0) else decide (b35 ≥ 2)), zeroCheck d 36 4,
     (40, 0x02, decide (leField d 40 8 = 0)), zeroCheck d 48 16]
  else []

/-- Every field check of a descriptor in the order of 09 R240; an unknown opcode has no body to check. -/
def fieldChecks (s : State) (k : CmdKey) (d : Line) (covered : Bool) : Option (Nat × Nat) :=
  let m := modelOf s (dModel d % 4096)
  let op := opOf d
  firstFail (headerChecks s k d covered m ++
    (if isSolve d then solveChecks s k d m
     else if op = 0x01 then loadChecks s k d
     else if op = 0x20 then bindChecks s k d m
     else otherChecks s k d))

/-! ### Acceptance (09 R226, 02 R54, R55) -/

/-- The Heading entries a command names (02 R55, 04 R111, 12 R300). -/
def namedEntries (d : Line) : List Nat :=
  if isSolve d then dHandle d :: (if dWarmSrcEn d then [dWarmSrc d] else [])
  else if opOf d = 0x20 then [dHandle d, leField d 52 2]
  else if opOf d = 0x21 then [dHandle d]
  else []

/-- Did a command name an entry that was FREE at its acceptance (02 R54)? -/
def Cmd.freeEntry (c : Cmd) : Bool := !c.freeAt.isEmpty

/-- The named entries that a command holds BUSY while it stands: those BOUND at its acceptance (02 R54, R55). -/
def heldEntries (c : Cmd) : List Nat := (namedEntries c.desc).filter (fun h => !c.freeAt.contains h)

/-- Did a command's own field checks fail, so that it counts under no rule of 09 R247 and holds no entry? -/
def fieldFailed (c : Cmd) : Bool :=
  match c.req with
  | some r => decide (r.status = 0x32)
  | none => false

/-- Does another accepted, uncommitted command, or a binding, hold an entry (02 R55, 12 R300)? -/
def namedByOther (s : State) (k : CmdKey) (h : Nat) : Bool :=
  s.cmds.any (fun e => !(e.key == k) && !fieldFailed e && (heldEntries e).contains h) ||
  s.streams.any (fun e => decide (e.2.ctlHandle = h) || decide (e.2.estHandle = h))

/-- The accepted TIMED_LAUNCH that covers a sequence number (09 R234). -/
def coveringOf (s : State) (k : CmdKey) : Option Cmd :=
  s.cmds.find? (fun c => c.key.ctx == k.ctx && c.key.ring == k.ring && decide (opOf c.desc = 0x30) &&
    (match c.req with | some r => decide (r.status ≠ 0x32) | none => true) &&
    decide (1 ≤ (k.seq - c.key.seq).toNat) && decide ((k.seq - c.key.seq).toNat ≤ leField c.desc 34 1))

/-- Was the command covered by a TIMED_LAUNCH whose launch is already fixed or late (09 R234)? -/
def lateCovered (s : State) (k : CmdKey) : Bool := s.helm.lateCover.contains (ringKey k.ctx k.ring, k.seq)

/-- The Meridian deadline T_d of a solve command (09 R231). -/
def deadlineOf (s : State) (d : Line) : Option Mer :=
  if isSolve d && (decide (dMode d = 1) || decide (dMode d = 3)) then some (completeTime s (dDlSec d) (dDlNs d)) else none

/-- SHIFT with k ≥ 1 on a class 0x0 chart without a stage map (04 R108). -/
def shiftMismatch (s : State) (d : Line) : Bool :=
  isSolve d && decide (dWarmMode d = 2) && decide (1 ≤ dShiftK d) &&
  (match modelOf s (dModel d % 4096) with
   | some m => decide (m.chart.cls = 0) && !m.chart.hasStageMap
   | none => false)

/-- A command as it stands at acceptance. -/
def newCmd (s : State) (k : CmdKey) (d : Line) : Cmd :=
  let named := namedEntries d
  { key := k, desc := d, acceptedAt := stamp s, order := s.helm.accepts, phase := .accepted,
    freeAt := named.filter (fun h => decide ((hdgOf s h).state = 0)),
    deadline := deadlineOf s d, faultKills := 0, rerun := false, avoid := [], inputIn := false, raw := [], instOff := 0, inst := [],
    nanElem := none, nanCount := 0, image := none, since := s.clk.mer, launchableAt := none,
    cover := (coveringOf s k).map (fun c => c.key.seq.toNat), req := none, waitRetry := 0, chargeDue := 0, faultIdx := 0, runs := 0,
    rows := if decide (opOf d = 0x60) && decide (leField d 34 1 = 0) then journalRows s ((fnOf s k.ctx).getD 0) else [],
    bcnOk := dBcnEn d && inRange (sigRange s k.ctx) (dBeacon d), watched := false }

/-- Set each named BOUND entry to BUSY; a FREE entry stays FREE (09 R226 step 3). -/
def busyNamed (s : State) : List Nat → State
  | [] => s
  | h :: hs => busyNamed (if (hdgOf s h).state = 1 then setHdgState s h 2 else s) hs

/-- The models a descriptor names (09 R229, R247): a STREAM_BIND names MODEL and EST_MODEL, a certificate ATTEST its MODEL. -/
def namedModels (d : Line) : List Nat :=
  if usesModel (opOf d) then
    dModel d % 4096 :: (if opOf d = 0x20 then [leField d 54 2 % 4096] else [])
  else if decide (opOf d = 0x60) && decide (leField d 34 1 = 1) then [dModel d % 4096]
  else []

/-- Was an UNLOAD_MODEL of a model this command names accepted before it and not yet committed (02 R50)? -/
def unloadStands (s : State) (c : Cmd) : Bool :=
  s.cmds.any (fun u => decide (opOf u.desc = 0x02) && decide (u.order < c.order) && !fieldFailed u &&
    (namedModels c.desc).contains (dModel u.desc % 4096))

/-- Does the loaded model have the route that the opcode runs (04 R116, 09 R230)? -/
def hasRoute (m : Model) (op : Nat) : Bool := m.routes.any (fun r => r.batch == decide (op = 0x11))

/-- Does a SAFE command name a model whose route has no recheck program (16 R378)? -/
def noRecheck (s : State) (d : Line) : Bool :=
  decide (dClass d = 2) &&
  (match modelOf s (dModel d % 4096) with
   | some m => (m.routes.filter (fun r => r.batch == decide (opOf d = 0x11))).all (fun r => r.recheck.isNone)
   | none => false)

/-- Does a solve command commit STRUCTURE_MISMATCH when the Helm core comes to allocate its berth (02 R50, R51; 09 R230, R240; 04 R108): its model is not
loaded, lacks its route, or has an UNLOAD_MODEL standing, or a SHIFT meets no stage map? The model decides it there and not at acceptance (DEDUCED, log 47), so a
LATE of acceptance wins over it (DESIGN CHOICE, log 143); a solve opcode that does not suit its chart's class is no mismatch here: the device runs the
chart's own method (DESIGN CHOICE, log 138). -/
def modelMissing (s : State) (c : Cmd) : Bool :=
  unloadStands s c || noRecheck s c.desc || shiftMismatch s c.desc || (namedModels c.desc).any (fun m => match modelOf s m with
    | some mm => !hasRoute mm (opOf c.desc)
    | none => true)

/-- Decide the command that has just been accepted or fetched again: LATE of a covered command before any STRUCTURE_MISMATCH (DESIGN CHOICE,
log 143). -/
def settleAccepted (s : State) (c : Cmd) : State :=
  match fieldChecks s c.key c.desc c.cover.isSome with
  | some (off, reason) => fileFieldError s c off reason
  | none =>
    let s := busyNamed s (heldEntries c)
    if c.faultKills ≥ 2 then fileReq s c { plainReq s 0x50 c.faultIdx 0 0 0 with charge := c.chargeDue }
    else if lateCovered s c.key then fileStatus s c 0x40
    else if c.freeEntry then fileStatus s c 0x31
    else s

/-- A failed descriptor read (09 R226): nothing accepted, fetching stops at the slot, FETCH_ERR, a NOTICE, the vector. -/
def fetchFailed (s : State) (ctx ring : Nat) : State :=
  let r := ringOf s ctx ring
  let s := setRing s ctx ring { r with fetchErr := true, stopped := true, next := r.head }
  let s := raiseNotice s (srcFetch (ringKey ctx ring)) false { cls := 0, cause := 0x30, key := some ⟨ctx, ring, r.head⟩ }
  raiseRing s ctx r

/-- Is a descriptor read of this ring outstanding? -/
def fetching (r : Ring) : Bool := decide (r.next ≠ r.head)

/-- A command whose descriptor has been read again (09 R227): the bytes read last govern all that follows from them. Its place in the order of
acceptance, its fault kills, its charges and its covering TIMED_LAUNCH stay; unchanged bytes change nothing. -/
def refetched (s : State) (c : Cmd) (d : Line) : Cmd :=
  let c := { c with phase := .accepted, inputIn := false, raw := [], inst := [] }
  let n := newCmd s c.key d
  if d = c.desc then c
  else { c with desc := d, freeAt := n.freeAt, deadline := n.deadline, rows := n.rows, bcnOk := n.bcnOk, image := none }

/-- Entries that the bytes read before named and that no command holds any more go back to BOUND (02 R55). -/
def freeDropped (s : State) (k : CmdKey) : List Nat → State
  | [] => s
  | h :: hs =>
    let mine := match findCmd s k with | some c => !fieldFailed c && (heldEntries c).contains h | none => false
    freeDropped (if !mine && !namedByOther s k h && decide ((hdgOf s h).state = 2) then setHdgState s h 1 else s) k hs

/-- Accept the descriptor of the slot at HEAD, or take its bytes again for a command that is being fetched again. -/
def acceptDesc (s : State) (ctx ring : Nat) (d : Line) : State :=
  let r := ringOf s ctx ring
  let k : CmdKey := ⟨ctx, ring, r.head⟩
  let s := setRing s ctx ring { r with head := r.head + 1 }
  match findCmd s k with
  | some c =>
    if c.phase ≠ .refetch then s
    else
      let c' := refetched s c d
      freeDropped (settleAccepted (putCmd s c') c') c.key (heldEntries c)
  | none =>
    let c := newCmd s k d
    let s := s.setCmds (s.cmds ++ [c])
    let s := s.setHelm { s.helm with accepts := s.helm.accepts + 1 }
    settleAccepted s c

/-- DESCRIPTOR_ACCEPT: `badCopies` counts the copies of the ring record that held an uncorrectable error when the Helm core
read it (15 R366): one is served from the other, both raise a CONTEXT event. -/
def doDescriptorAccept (s : State) (ctx ring badCopies : Nat) (res : FetchRes) : State :=
  let r := ringOf s ctx ring
  if !canFetch s ctx ring r r.head || !fetching r then s
  else if badCopies ≥ 2 then
    raiseEvent (s.setHelm { s.helm with ctxResetDue := s.helm.ctxResetDue ++ [ctx] })
      { cls := 4, cause := 0x21, unitKind := 4, key := some ⟨ctx, ring, r.head⟩ }
  else
    let s := if badCopies = 1 then
        raiseEvent s { cls := 1, cause := 0x31, unitKind := 4, key := some ⟨ctx, ring, r.head⟩ }
      else s
    match res with
    | .failed => fetchFailed s ctx ring
    | .bytes d => pump (acceptDesc (pcieIn s 64) ctx ring d) ctx ring

/-- PCIE_COMPLETION_TIMEOUT of a descriptor fetch (19 R424): it ends as a failed read. -/
def timeoutFetch (s : State) (ctx ring : Nat) : State :=
  let r := ringOf s ctx ring
  if fetching r then fetchFailed s ctx ring else s

def execDoorbell (fn page ring : Nat) (tail : Word) (ep : Bool) (s : State) : Res := .next (doDoorbell s fn page ring tail ep)
def execRingEnable (fn page ring : Nat) (w : Word) (rec : Rec) (s : State) : Res := .next (doRingEnable s fn page ring w rec)
def execRingDisable (fn page ring : Nat) (w : Word) (s : State) : Res := .next (doRingDisable s fn page ring w)
def execDescriptorAccept (ctx ring badCopies : Nat) (res : FetchRes) (s : State) : Res :=
  .next (doDescriptorAccept s ctx ring badCopies res)

end Sys2Proof.Machine
end

