-- ==== Sys2Proof/Machine/Windows.lean ====
section
/-! DEFINITION. Window descriptors and the window check (08 R212 to R217), the Almanac boundary (R194), banks and their
power (R218 to R220), the scrubber (R206, R208), sector gating (01 R29, 13 R320, 08 R201) and droop stretching
(01 R28, 21 R457). -/

namespace Sys2Proof.Machine
open Sys2Proof

/-! ### The Almanac boundary -/

/-- ALM_LINES of sector block b (08 R194). -/
def almLines (s : State) (b : Nat) : Nat := nbits (rget s (0x30100 + 4 * b)) 13 0

/-- Plot lines of sector block b. -/
def plotLines (s : State) (b : Nat) : Nat := 8192 - almLines s b

/-- Is a bank other than plainly on (08 R218, R220)? -/
def bankNotOn (s : State) (n : Nat) : Bool := (mget s.chart.banks n).isSome

/-- Does a bank take no access: its windows closed and draining, off, or filling? A pending one still serves the live berth (R219). -/
def bankClosed (s : State) (n : Nat) : Bool := match mget s.chart.banks n with | none | some .pending => false | _ => true

/-- Has a sector block a bank off or pending, or is it about to be gated (08 R219)? -/
def sectorBankOff (s : State) (b : Nat) : Bool := s.chart.gating.contains b || (List.range 32).any (fun i => bankNotOn s (32 * b + i))

/-! ### Windows -/

/-- A window descriptor that nothing has written. -/
def Window.zero : Window := ⟨0, 0, false, 0, false, false, 0, [0, 0, 0, 0], 0, 0, 0⟩

/-- Window descriptor i. -/
def winOf (s : State) (i : Nat) : Window := mgetD s.chart.wins i Window.zero

/-- Write a window descriptor. -/
def setWin (s : State) (i : Nat) (w : Window) : State := s.setChart { s.chart with wins := mset s.chart.wins i w }

/-- Is a writer slot legal (08 R213, R215)? -/
def writerOk (w : Nat) : Bool := decide (w / 4096 < 5) && (decide (w / 4096 ≠ 0) || decide (w % 4096 = 0))

/-- Do the banks of a row range include one that a test names? -/
def rowsOnBank (s : State) (test : State → Nat → Bool) (base len : Nat) : Bool :=
  let b := base / 0x1000000
  (List.range (if len / 512 < 4 then len / 512 else 4)).any (fun i =>
    let g := (base / 512 + i) % 4
    (List.range 8).any (fun j => test s (32 * b + 8 * g + j)))

/-- The causes of 08 R215 other than an overlap with an open window. -/
def windowBad (s : State) (w : Window) : Bool :=
  let b := w.base / 0x1000000
  decide (w.base % 512 ≠ 0) || decide (w.len % 512 ≠ 0) || decide (w.len = 0) || decide (w.len > 0x1000000) ||
  decide (w.base ≥ 0x10000000) || decide (w.base % 0x1000000 + w.len > 0x1000000) ||
  decide (w.base % 0x1000000 + w.len > plotLines s b * 2048) || rowsOnBank s bankNotOn w.base w.len ||
  s.chart.gating.contains b || (s.clk.gated.getD b none).isSome ||
  !w.writers.all writerOk || (w.expires && decide (w.expNs ≥ 1000000000))

/-- Does the range of window i overlap another open window? -/
def windowOverlaps (s : State) (i : Nat) (w : Window) : Bool :=
  s.chart.wins.any (fun e => decide (e.1 ≠ i) && e.2.isOpen && decide (e.2.base < w.base + w.len) &&
    decide (w.base < e.2.base + e.2.len))

/-- Can window i open (08 R215)? -/
def windowOpens (s : State) (i : Nat) (w : Window) : Bool := !(windowOverlaps s i w || windowBad s w)

/-- Open window i with a descriptor's content: REFUSED is cleared. -/
def openWin (s : State) (i : Nat) (w : Window) : State := setWin s i { w with isOpen := true, refused := 0 }

/-- Close window i: CLOSE, commit, kill, expiry, revocation. -/
def closeWin (s : State) (i : Nat) : State :=
  if (winOf s i).isOpen then setWin s i { winOf s i with isOpen := false } else s

/-- Close several windows. -/
def closeWins (s : State) : List Nat → State
  | [] => s
  | i :: is => closeWins (closeWin s i) is

/-- WINDOW_OPEN: OPEN through CHM_WIN_CTL. -/
def doWindowOpen (s : State) (win : Nat) : State :=
  let i := win % 1024
  let w := winOf s i
  if w.isOpen ∨ !pfOpen s then s
  else
    let ov := windowOverlaps s i w
    let bad := windowBad s w
    let s := if ov then rflag s 0x30014 2 else s
    let s := if bad then rflag s 0x30014 1 else s
    if ov || bad then s else openWin s i w

/-- WINDOW_CLOSE: CLOSE through CHM_WIN_CTL. -/
def doWindowClose (s : State) (win : Nat) : State := if pfOpen s then closeWin s (win % 1024) else s

/-- The Meridian time of a window's expiry: the high 32 bits of the seconds are the current ones (08 R216). -/
def winExpiry (s : State) (w : Window) : Mer := merOf (merSec s.clk.mer / 2 ^ 32 * 2 ^ 32 + w.expSec) w.expNs 0

/-- Has an open window expired (08 R216)? The close holds from the AK cycle after the edge is synchronised into AK, which takes 2. -/
def winExpired (s : State) (w : Window) : Bool := w.expires && edgePassed s (winExpiry s w) 3

/-- WINDOW_EXPIRY: the window closes itself at the first MK edge at or after its expiry. -/
def doWindowExpiry (s : State) (win : Nat) : State :=
  let w := winOf s win
  if w.isOpen && winExpired s w then closeWin s win else s

/-- A descriptor with one of its eight words rewritten; OPEN and REFUSED are the device's (08 R213). -/
def winWord (w : Window) (i v : Nat) : Window :=
  match i with
  | 0 => { w with base := v % 2 ^ 29 }
  | 1 => { w with len := v }
  | 2 => { w with kind := v / 2 % 4, expires := v.testBit 3, closeOnCommit := v.testBit 4, owner := v / 65536 % 4096 }
  | 3 => { w with writers := [v % 65536, v / 65536, w.writers.getD 2 0, w.writers.getD 3 0] }
  | 4 => { w with writers := [w.writers.getD 0 0, w.writers.getD 1 0, v % 65536, v / 65536] }
  | 5 => { w with expSec := v }
  | 6 => { w with expNs := v % 2 ^ 30 }
  | _ => w

/-- The word a read of descriptor word i returns. -/
def winRead (w : Window) (i : Nat) : Nat :=
  match i with
  | 0 => w.base
  | 1 => w.len
  | 2 => bitAt w.isOpen 0 + w.kind * 2 + bitAt w.expires 3 + bitAt w.closeOnCommit 4 + w.owner * 65536
  | 3 => w.writers.getD 0 0 + w.writers.getD 1 0 * 65536
  | 4 => w.writers.getD 2 0 + w.writers.getD 3 0 * 65536
  | 5 => w.expSec
  | 6 => w.expNs
  | _ => w.refused

/-- WINDOW_DESCRIPTOR_WRITE: a host write of one word of a descriptor. -/
def doWindowDescriptorWrite (s : State) (win word : Nat) (v : Word) : State :=
  if win ≥ 1024 ∨ word ≥ 8 ∨ !pfOpen s then s
  else if (winOf s win).isOpen then rflag s 0x30014 1
  else setWin s win (winWord (winOf s win) word v.toNat)

/-- The open window whose range holds a row. -/
def windowAt (s : State) (row : Nat) : Option (Nat × Window) :=
  s.chart.wins.find? (fun e => e.2.isOpen && decide (e.2.base ≤ row) && decide (row + 512 ≤ e.2.base + e.2.len))

/-- Does the check of 08 R212 admit a row of a writer? `closing` says that the window closes in this AK cycle. -/
def admits (s : State) (row writer : Nat) (closing : Bool) : Bool :=
  match windowAt s row with
  | some (_, w) => !closing && decide (writer ≠ 0) && w.writers.contains writer && !winExpired s w &&
      (s.clk.gated.getD (row / 0x1000000) none).isNone && !rowsOnBank s bankClosed row 512
  | none => false

/-- Count a refused write (08 R213, R217). -/
def countRefused (s : State) (row : Nat) : State :=
  let s := match windowAt s row with
    | some (i, w) => setWin s i { w with refused := satTo (2 ^ 32 - 1) (w.refused + 1) }
    | none => s
  gcount (rflag s 0x30014 3) (0x1050 + row / 0x1000000 % 16) 1

/-! ### Chart bytes -/

/-- Write bytes of Chart memory; every word read before it is written is 0 (17 R397). -/
def chartPut (s : State) (a : Nat) (bs : List Byte) : State :=
  s.setChart { s.chart with mem := memWriteBytes 0#8 s.chart.mem a bs }

/-- Read bytes of Chart memory. -/
def chartGet (s : State) (a n : Nat) : List Byte := memReadBytes 0#8 s.chart.mem a n

/-- Clear [lo, hi) to zero. -/
def chartClear (s : State) (lo hi : Nat) : State := s.setChart { s.chart with mem := memClear s.chart.mem lo hi }

/-- Count bytes written to a Chart region by any traffic (18 R413). -/
def countChartWr (s : State) (a n : Nat) : State :=
  if a < 0x10000000 then gcount s (0x1010 + a / 0x1000000) n else gcount s 0x1021 n

/-- Bytes read from Chart memory, counted for their sector block or the core (18 R413). -/
def countChartRd (s : State) (a n : Nat) : State :=
  if a < 0x10000000 then gcount s (0x1000 + a / 0x1000000) n else gcount s 0x1020 n

/-- The sector, group of 8 banks and bank number of a Chart row (08 R195, R196). -/
def rowBanks (row : Nat) : List Nat :=
  if row < 0x10000000 then
    (List.range 8).map (fun j => 32 * (row / 0x1000000) + 8 * (row / 512 % 4) + j)
  else (List.range 8).map (fun j => 512 + 8 * (row / 512 % 8) + j)

/-! ### Bank cycles (08 R202, R203) -/

/-- The distance class latency of two sectors, in AK cycles (08 R202). -/
def sectorLatency (a b : Nat) : Nat :=
  let d (x y : Nat) : Nat := if x < y then y - x else x - y
  let r := d (a / 4) (b / 4)
  let c := d (a % 4) (b % 4)
  let mx := if r < c then c else r
  let mn := if r < c then r else c
  match mx, mn with
  | 0, _ => 6
  | 1, 0 => 9
  | 1, _ => 11
  | 2, 0 => 14
  | 2, 1 => 18
  | 3, 0 => 18
  | _, _ => 22

/-- The Almanac core latency from a sector (08 R202). -/
def coreLatency (k : Nat) : Nat :=
  if [5, 6, 9, 10].contains k then 12 else if [0, 3, 12, 15].contains k then 18 else 15

/-- The latency of a checked write: a berth's by distance; the DMA's and the ports' is the own-sector figure, as the example
of 08 R220 counts it. -/
def writeLatency (row writer : Nat) : Nat :=
  if writer / 4096 = 2 then sectorLatency (writer % 256 / 16) (row / 0x1000000) else sectorLatency 0 0

/-- Bytes admitted now, which hold their bank cycle at issue + latency − 4 (08 R203). -/
def admitBytes (s : State) (a writer latency : Nat) (data : List Byte) : State :=
  s.setChart { s.chart with admitted := s.chart.admitted ++ [⟨a, s.clk.chipAk + latency - 4, writer, data⟩] }

/-- A row admitted now. -/
def admitRow (s : State) (row writer : Nat) (data : List Byte) : State :=
  admitBytes s row writer (writeLatency row writer) (fitTo 512 data)

/-- Bank-plan triples in use: the block number of each is absolute (0 to 15 a sector, 16 the core). -/
def heldTriples (s : State) : List Triple :=
  ((liveRuns s).map (·.triples)).flatten ++ (s.batches.map (fun b => (b.units.map (·.triples)).flatten)).flatten ++
  (s.streams.map (fun e => e.2.triples)).flatten

/-- The bank number of a triple (08 R195, R199). -/
def tripleBank (t : Triple) : Nat := if t.block = 16 then 512 + t.bank % 64 else 32 * t.block + t.bank % 32

/-- Is a bank free of every plan held, on each of its lanes that a test names, at the phase of this AK cycle (08 R199, R200)? -/
def lanesFree (s : State) (banks : List Nat) (lane : Nat → Bool) : Bool :=
  (heldTriples s).all (fun t => decide (t.phase ≠ s.clk.chipAk % 32) || !banks.contains (tripleBank t) || !lane t.lane)

/-- Is an admitted write one of a route's plan: made under a berth's writer ID? -/
def inPlan (w : Admitted) : Bool := decide (w.writer / 4096 = 2)

/-- One admitted write at its bank cycle or after it: it lands, or, outside every plan, waits for free lanes (08 R200, R203). The second
component holds the banks that rows of this cycle have taken, the third the writes that stay. -/
def landOne (x : State × List Nat × List Admitted) (w : Admitted) : State × List Nat × List Admitted :=
  let (s, taken, rest) := x
  let banks := rowBanks w.row
  if s.clk.chipAk < w.ak || (!inPlan w && (!lanesFree s banks (fun _ => true) || banks.any taken.contains)) then (s, taken, rest ++ [w])
  else (countChartWr (chartPut s w.row w.data) w.row w.data.length, if inPlan w then taken else taken ++ banks, rest)

/-- Admitted writes whose bank cycle has come land, in the order in which they were issued. -/
def landRows (s : State) : State :=
  let (s, _, rest) := s.chart.admitted.foldl landOne (s, [], [])
  s.setChart { s.chart with admitted := rest }

/-! ### ALM_LINES_WRITE (08 R194) -/

/-- Bytes that models hold in sector block b: the lowest such block offset. -/
def lowestItem (s : State) (b : Nat) : Nat :=
  let spans := (s.helm.models.map (fun e => e.2.places ++ [(e.2.warmBase, e.2.count * e.2.warmSize)])).flatten
  (spans.filter (fun x => decide (0 < x.2) && decide (x.1 / 0x1000000 = b))).foldl (fun a x =>
    if x.1 % 0x1000000 < a then x.1 % 0x1000000 else a) 0x1000000

/-- Does an open window or the Plot of a live berth use a byte of block b at or above an offset? -/
def plotAbove (s : State) (b off : Nat) : Bool :=
  s.chart.wins.any (fun e => e.2.isOpen && decide (e.2.base / 0x1000000 = b) && decide (off < e.2.base % 0x1000000 + e.2.len)) ||
  (let ps := (s.runs.map (·.plots)).flatten ++ (s.batches.map (fun x => (x.units.map (·.plots)).flatten)).flatten ++
     (s.streams.map (fun e => e.2.plots)).flatten
   ps.any (fun p => decide (p.sector = b) && decide (off < (p.line + p.lines) * 2048)))

/-- ALM_LINES_WRITE: a write of CHM_SECT_ALM of sector block b. -/
def doAlmLinesWrite (s : State) (b : Nat) (v : Word) : State :=
  if b ≥ 16 ∨ !pfOpen s then s
  else
    let off := 0x30100 + 4 * b
    let lines := v.toNat % 2 ^ 14
    let edge := (8192 - lines) * 2048
    let err := bitAt ((rget s off).testBit 31 && !bit v 31) 31
    if lines > 8192 || decide (lowestItem s b < edge) || (decide (almLines s b < lines) && plotAbove s b edge) then
      rput s off (almLines s b + 2 ^ 31)
    else rput s off (lines + err)

/-! ### Bank power (08 R218 to R220) -/

/-- The CHM_BANK_PWR register of a bank number, and the bank's bit in it. -/
def bankReg (n : Nat) : Nat × Nat := (0x30200 + 4 * (n / 32), n % 32)

/-- Is a power-down of a bank refused under 08 R219: its block's Almanac lines, or for the core the bank, hold an item? -/
def powerRefused (s : State) (n : Nat) : Bool :=
  let spans := (s.helm.models.map (fun e => e.2.places ++ [(e.2.warmBase, e.2.count * e.2.warmSize)])).flatten
  let held := spans.filter (fun x => decide (0 < x.2))
  if n < 512 then held.any (fun x => decide (x.1 / 0x1000000 = n / 32))
  else
    let g := (n - 512) / 8
    held.any (fun x => decide (0x10000000 ≤ x.1) &&
      (List.range (if x.2 / 512 < 8 then x.2 / 512 else 8)).any (fun i => decide ((x.1 / 512 + i) % 8 = g)))

/-- Is a bank in the Plot of a live berth? A Plot line crosses every bank of its block (08 R195). -/
def bankLive (s : State) (n : Nat) : Bool := decide (n < 512) && plotAbove s (n / 32) 0 &&
  ((s.runs.map (·.plots)).flatten ++ (s.batches.map (fun x => (x.units.map (·.plots)).flatten)).flatten ++
     (s.streams.map (fun e => e.2.plots)).flatten).any (fun p => decide (p.sector = n / 32))

/-- Set or clear the OFF_REQ bit of a bank. -/
def setOffReq (s : State) (n : Nat) (on : Bool) : State :=
  let (off, b) := bankReg n
  let v := rget s off
  rput s off (maskIn v (bitAt on b) (2 ^ b))

/-- Set the state of a bank. -/
def setBank (s : State) (n : Nat) (b : Option BankState) : State :=
  s.setChart { s.chart with banks := match b with | some x => mset s.chart.banks n x | none => mdel s.chart.banks n }

/-- Close every open window with a row striped on a bank (08 R220 step 2). -/
def closeOnBank (s : State) (n : Nat) : State :=
  closeWins s ((s.chart.wins.filter (fun e => e.2.isOpen && decide (e.2.base / 0x1000000 = n / 32) &&
    (List.range (if e.2.len / 512 < 4 then e.2.len / 512 else 4)).any (fun i => decide ((e.2.base / 512 + i) % 4 = n % 32 / 8)))).map (·.1))

/-- Steps 1 and 2 of 08 R220 for a bank. -/
def startPowerDown (s : State) (n : Nat) : State := closeOnBank (setBank s n (some (.draining s.clk.chipAk))) n

/-- BANK_POWER_DOWN_REQUEST: OFF_REQ of bank n is set. -/
def doBankPowerDownRequest (s : State) (n : Nat) : State :=
  if n ≥ 576 ∨ !pfOpen s then s
  else if powerRefused s n then setOffReq (rflag s 0x30014 5) n false
  else
    let s := setOffReq s n true
    match mget s.chart.banks n with
    | none => if bankLive s n then setBank s n (some .pending) else startPowerDown s n
    | some (.filling _) => startPowerDown s n
    | _ => s

/-- BANK_POWER_DOWN_START: no live berth holds the bank any more. -/
def doBankPowerDownStart (s : State) (n : Nat) : State :=
  if mget s.chart.banks n = some .pending ∧ !bankLive s n then startPowerDown s n else s

/-- The bytes of a bank in a canonical memory. -/
def inBank (n a : Nat) : Bool :=
  if n < 512 then decide (a / 0x1000000 = n / 32) && decide (a / 64 % 32 = n % 32)
  else decide (0x10000000 ≤ a) && decide (a / 64 % 64 = n - 512)

/-- Has firmware retired a bank: all 16 spare rows used, and one more word failed (15 R365)? Such a bank keeps no power. -/
def bankRetired (s : State) (n : Nat) : Bool := decide (16 < mgetD s.chart.spareRows n 0)

/-- OFF_REQ of a bank. -/
def offReq (s : State) (n : Nat) : Bool := (rget s (bankReg n).1).testBit (bankReg n).2

/-- BANK_DRAIN_END: every admitted write has held its bank cycle; the bank loses power and content. A request that was cleared meanwhile
restores the power at once. -/
def doBankDrainEnd (s : State) (n : Nat) : State :=
  match mget s.chart.banks n with
  | some (.draining _) =>
    if s.chart.admitted.any (fun w => (rowBanks w.row).any (fun b => decide (b / 32 = n / 32))) then s
    else
      let s := setBank s n (some (if bankRetired s n then .retired else if offReq s n then .off else .filling s.clk.chipAk))
      s.setChart { s.chart with mem := s.chart.mem.filter (fun e => !inBank n e.1) }
  | _ => s

/-- BANK_POWER_RESTORE: OFF_REQ of bank n is cleared: the zero fill starts. -/
def doBankPowerRestore (s : State) (n : Nat) : State :=
  if !pfOpen s then s else
  let s := setOffReq s n false
  match mget s.chart.banks n with
  | some .off => setBank s n (some (.filling s.clk.chipAk))
  | some .pending => if bankRetired s n then s else setBank s n none
  | _ => s

/-- AK cycles from clearing OFF_REQ to the end of the fill (08 R220). -/
def fillAk (n : Nat) : Nat := 64 + (if n < 512 then 8192 else 16384)

/-- BANK_ZERO_FILL_END: every line of the bank is zero; placement is allowed again. -/
def doBankZeroFillEnd (s : State) (n : Nat) : State :=
  match mget s.chart.banks n with
  | some (.filling t) => if t + fillAk n ≤ s.clk.chipAk then setBank s n none else s
  | _ => s

/-- The OFF word of CHM_BANK_STAT: banks off, or with power but not yet filled. -/
def bankStat (s : State) (blk : Nat) : Nat :=
  (List.range 32).foldl (fun a i => a + (match mget s.chart.banks (32 * blk + i) with
    | some .off => 2 ^ i
    | some (.filling _) => 2 ^ i
    | some .retired => 2 ^ i
    | _ => 0)) 0

/-- PWR_PENDING of CHM_STAT; gating runs the same steps for a whole block (08 R219). -/
def powerPending (s : State) : Bool := !s.chart.gating.isEmpty || s.chart.banks.any (fun e => match e.2 with
  | .pending => true
  | .draining _ => true
  | _ => false)

/-! ### Scrubber (08 R206, R208) -/

/-- The bank of a Chart byte (08 R195), and its lane and line. -/
def bankOf (a : Nat) : Nat := if a < 0x10000000 then 32 * (a / 0x1000000) + a / 64 % 32 else 512 + a / 64 % 64
def laneOfByte (a : Nat) : Nat := a / 8 % 8
def lineOfByte (a : Nat) : Nat := if a < 0x10000000 then a / 2048 % 8192 else a / 4096 % 16384

/-- A correctable error met by a read of the word at an address (R206): counted against its bank and its block, logged, its line queued. -/
def eccCorrected (s : State) (a : Nat) : State :=
  let s := s.setChart { s.chart with
    eccLog := s.chart.eccLog ++ [a], scrubQ := s.chart.scrubQ ++ [a / 8 * 8]
    eccBank := mset s.chart.eccBank (bankOf a) (mgetD s.chart.eccBank (bankOf a) 0 + 1) }
  let s := gcount s (if a < 0x10000000 then 0x1030 + a / 0x1000000 else 0x1040) 1
  let u := if a < 0x10000000 then a / 0x1000000 else 16
  raiseEvent s { cls := 1, cause := 0x31, unitKind := 3, unitNo := u, detail := leBytes 4 a }

/-- Words that the Chart reads of a unit or of a transfer corrected (08 R206). -/
def feedEcc (s : State) (words : List Nat) : State := words.foldl eccCorrected s

/-- SCRUB_REWRITE: in a free lane cycle the scrubber rewrites the oldest queued word with its corrected value, which is the word's value. -/
def doScrubRewrite (s : State) : State :=
  match s.chart.scrubQ with
  | [] => s
  | a :: rest =>
    if !lanesFree s [bankOf a] (fun l => decide (l = laneOfByte a)) then s
    else
      let s := s.setChart { s.chart with scrubQ := rest }
      countChartWr (chartPut s a (chartGet s a 8)) a 8

/-- SCRUB_PERIOD: a 64 ms patrol period ends; `covered` says that the patrol covered all retained space. -/
def doScrubPeriod (s : State) (covered : Bool) : State :=
  if s.clk.mer < s.chart.patrolMer + 64000000 * nsU then s
  else
    let s := s.setChart { s.chart with patrolled := covered, patrolMer := s.clk.mer }
    if covered then s
    else raiseNotice (gcount s 0x1060 1) srcScrub false { cls := 0, cause := 0x30 }

/-! ### Gating and droop -/

/-- Does any berth use a sector? -/
def sectorBusy (s : State) (b : Nat) : Bool :=
  ((liveRuns s).map (·.berths)).flatten.any (fun x => x.sectors.contains b) ||
  s.batches.any (fun x => x.units.any (fun u => u.berth.sectors.contains b)) ||
  s.streams.any (fun e => e.2.berth.sectors.contains b)

/-- Is a write admitted into a sector block still to hold its bank cycle? -/
def undrained (s : State) (b : Nat) : Bool :=
  s.chart.admitted.any (fun w => decide (w.row / 0x1000000 = b))

/-- SECTOR_GATE: an idle sector closes its windows and drains, steps 1 to 3 of 08 R220; drained, its AK clock and count stop. -/
def doSectorGate (s : State) (b : Nat) : State :=
  if b ≥ 16 ∨ sectorBusy s b ∨ (s.clk.gated.getD b none).isSome then s
  else
    let s := closeWins s ((s.chart.wins.filter (fun e => e.2.isOpen && decide (e.2.base / 0x1000000 = b))).map (·.1))
    let others := s.chart.gating.filter (fun x => decide (x ≠ b))
    if undrained s b then s.setChart { s.chart with gating := others ++ [b] }
    else
      let s := s.setChart { s.chart with gating := others }
      s.setClk { s.clk with gated := lset s.clk.gated b (some (stampR s)) }

/-- The count a gated sector resumes at: the next value congruent to the chip AK count modulo 32 (08 R201). -/
def resumeCount (old chip : Nat) : Nat := old + (chip % 32 + 32 - old % 32) % 32

/-- SECTOR_RESTART: the sector resumes its count and writes one GATED record (13 R320). -/
def doSectorRestart (s : State) (b : Nat) : State :=
  match s.clk.gated.getD b none with
  | none => s
  | some t =>
    let n := resumeCount (s.clk.sectorAk.getD b 0) s.clk.chipAk
    let s := s.setClk { s.clk with gated := lset s.clk.gated b none, sectorAk := lset s.clk.sectorAk b n }
    trace s ⟨0x30, 8, b, 0, 0, stampR s, n % 2 ^ 32, merSec t % 2 ^ 32, merNs t⟩

/-- Root periods of stretch by millivolts of droop (21 R457). -/
def stretchOf (mv : Nat) : Nat :=
  if mv < 15 then 0 else if mv < 25 then 1 else if mv < 35 then 2 else if mv < 45 then 3 else 4

/-- DROOP_STRETCH: the deepest droop seen in this cycle stretches the next AK cycle. -/
def doDroopStretch (s : State) (mv : Nat) : State :=
  let k := stretchOf mv
  if s.clk.stretch < k then s.setClk { s.clk with stretch := k } else s

def execWindowOpen (win : Nat) (s : State) : Res := .next (doWindowOpen s win)
def execWindowClose (win : Nat) (s : State) : Res := .next (doWindowClose s win)
def execWindowExpiry (win : Nat) (s : State) : Res := .next (doWindowExpiry s win)
def execWindowDescriptorWrite (win word : Nat) (v : Word) (s : State) : Res := .next (doWindowDescriptorWrite s win word v)
def execAlmLinesWrite (b : Nat) (v : Word) (s : State) : Res := .next (doAlmLinesWrite s b v)
def execBankPowerDownRequest (n : Nat) (s : State) : Res := .next (doBankPowerDownRequest s n)
def execBankPowerDownStart (n : Nat) (s : State) : Res := .next (doBankPowerDownStart s n)
def execBankDrainEnd (n : Nat) (s : State) : Res := .next (doBankDrainEnd s n)
def execBankPowerRestore (n : Nat) (s : State) : Res := .next (doBankPowerRestore s n)
def execBankZeroFillEnd (n : Nat) (s : State) : Res := .next (doBankZeroFillEnd s n)
def execScrubRewrite (s : State) : Res := .next (doScrubRewrite s)
def execScrubPeriod (covered : Bool) (s : State) : Res := .next (doScrubPeriod s covered)
def execSectorGate (b : Nat) (s : State) : Res := .next (doSectorGate s b)
def execSectorRestart (b : Nat) (s : State) : Res := .next (doSectorRestart s b)
def execDroopStretch (mv : Nat) (s : State) : Res := .next (doDroopStretch s mv)

end Sys2Proof.Machine
end

