-- ==== Sys2Proof/Machine/Place.lean ====
section
/-! DEFINITION. Placement: model items in the Almanac (02 R52, R57, R58, R474), berths on the die (10 R264, 05 R124,
R125, 08 R199, R210, R215, R218), the ladder (11 R284, R287, R291) and the launch order of a ring (09 R247). -/

namespace Sys2Proof.Machine
open Sys2Proof

/-! ### The Almanac (02 R474) -/

/-- First byte of the Almanac core (08 R192). -/
def coreBase : Nat := 0x10000000
/-- First byte past the Almanac core. -/
def coreEnd : Nat := 0x14000000

/-- The Almanac region of index r: 0 to 15 the sector blocks, 16 the core. -/
def regionSpan (s : State) (r : Nat) : Nat × Nat :=
  if r = 16 then (coreBase, coreEnd) else (r * 0x1000000 + plotLines s r * 2048, (r + 1) * 0x1000000)

/-- The index of a region. -/
def regionIdx : Region → Nat
  | .core => 16
  | .sector b => b % 16

/-- Whole rows of a size in bytes (02 R52). -/
def wholeRows (n : Nat) : Nat := ceilDiv n 512 * 512

/-- Has half h of the core a bank off? -/
def coreHalfOff (s : State) (h : Nat) : Bool := (List.range 32).any (fun i => bankNotOn s (512 + 32 * h + i))

/-- Intervals that items of a region must avoid for banks that are off: rows striped on such a bank, or a whole half of
the core (08 R218). -/
def offSpans (s : State) (r : Nat) : List (Nat × Nat) :=
  if r = 16 then
    ((List.range 2).map (fun h => if coreHalfOff s h then
      (List.range 16384).map (fun i => (coreBase + 4096 * i + 2048 * h, 2048)) else [])).flatten
  else
    ((List.range 4).map (fun g => if (List.range 8).any (fun i => bankNotOn s (32 * r + 8 * g + i)) then
      (List.range (almLines s r)).map (fun i => ((regionSpan s r).1 + 2048 * i + 512 * g, 512)) else [])).flatten

/-- Intervals (address, bytes) that resident or reserved models hold. -/
def heldSpans (s : State) : List (Nat × Nat) :=
  (s.helm.models.map (fun e => e.2.places ++
    (if e.2.count * e.2.warmSize = 0 then [] else [(e.2.warmBase, e.2.count * e.2.warmSize)]))).flatten

/-- Insert an interval by its address. -/
def insSpan (x : Nat × Nat) : List (Nat × Nat) → List (Nat × Nat)
  | [] => [x]
  | y :: ys => if x.1 ≤ y.1 then x :: y :: ys else y :: insSpan x ys

/-- Free runs of [lo, hi) beside intervals in rising order. -/
def freeRuns (lo hi : Nat) : List (Nat × Nat) → List (Nat × Nat)
  | [] => if lo < hi then [(lo, hi - lo)] else []
  | (a, n) :: ys =>
    if a + n ≤ lo then freeRuns lo hi ys
    else if hi ≤ a then (if lo < hi then [(lo, hi - lo)] else [])
    else (if lo < a then [(lo, a - lo)] else []) ++ freeRuns (a + n) hi ys

/-- The free runs of a region, rising. -/
def regionRuns (s : State) (r : Nat) (extra : List (Nat × Nat)) : List (Nat × Nat) :=
  let (lo, hi) := regionSpan s r
  freeRuns lo hi ((extra ++ heldSpans s ++ offSpans s r).foldr insSpan [])

/-- The total of a list of runs. -/
def runsTotal (rs : List (Nat × Nat)) : Nat := rs.foldl (fun a x => a + x.2) 0
/-- The largest run. -/
def runsMax (rs : List (Nat × Nat)) : Nat := rs.foldl (fun a x => if a < x.2 then x.2 else a) 0

/-- The start of an item in a region (02 R474): the lowest-addressed run in the core, the highest-addressed run in a
sector block, at its top. -/
def findRun474 (r n : Nat) (runs : List (Nat × Nat)) : Option Nat :=
  if r = 16 then (runs.find? (fun x => decide (n ≤ x.2))).map (·.1)
  else (runs.reverse.find? (fun x => decide (n ≤ x.2))).map (fun x => x.1 + x.2 - n)

/-- The outcome of a fit check's placement: places in order, and shortfalls of the 17 regions. -/
structure FitAlm where
  places : List (Nat × Nat)
  short : List Nat
deriving DecidableEq, Repr

/-- Place items (region, bytes) in order; a region that falls short keeps its first shortfall (02 R58). -/
def placeItems (s : State) : List (Nat × Nat) → FitAlm → FitAlm
  | [], f => f
  | (r, n) :: its, f =>
    if f.short.getD r 0 ≠ 0 ∨ n = 0 then placeItems s its { f with places := f.places ++ [(0, 0)] }
    else
      let runs := regionRuns s r f.places
      match findRun474 r n runs with
      | some a => placeItems s its { f with places := f.places ++ [(a, n)] }
      | none => placeItems s its { places := f.places ++ [(0, 0)], short := lset f.short r (n - runsMax runs) }

/-- The sizes of a load in placement order: items, the ADMM factor, the warm-store run (02 R474). -/
def loadSizes (im : Image) (warm count : Nat) : List (Nat × Nat) :=
  (loadItems im).map (fun i => (regionIdx i.1, wholeRows i.2.length)) ++
  [(regionIdx im.warmRegion, count * warm)]

/-- The fit check of the Almanac regions (02 R57, R58). -/
def fitAlmanac (s : State) (im : Image) (warm count : Nat) : FitAlm :=
  let sizes := loadSizes im warm count
  let need (r : Nat) : Nat := sizes.foldl (fun a x => if x.1 = r then a + x.2 else a) 0
  let short := (List.range 17).map (fun r => need r - runsTotal (regionRuns s r []))
  placeItems s sizes ⟨[], short⟩

/-! ### Spill (19 R436, R437) -/

/-- MiB of raw capacity per controller of a CAP code. -/
def capMib (c : Nat) : Nat := [4096, 8192, 12288, 16384, 24576, 32768].getD c 0

/-- Usable LPDDR5X MiB of a MEM_PROFILE. -/
def usableMib (p : Nat) : Nat :=
  let raw := capMib (p % 8) * (if p.testBit 5 then 1 else 2)
  if p.testBit 3 then raw * 7 / 8 else raw

/-- Bytes of the spill area: what the firmware copy, the Almanac shadow and the Wake region leave. -/
def spillBytes (s : State) : Nat := (usableMib s.boot.memProfile - 16 - 320 - s.boot.wakeMib) * 2 ^ 20

/-- Bytes of it that models hold. -/
def spillHeld (s : State) : Nat := s.helm.models.foldl (fun a e => a + e.2.spill) 0

/-! ### Berths (10 R264) -/

/-- Has a facet position a working facet: not failed, or with the spare standing in (05 R125, 11 R289)? -/
def facetAvail (s : State) (g : Nat) : Bool :=
  match s.rose.sectors[sectorOf g]? with
  | some x => !x.failed.testBit (g % 16) || decide (x.subPos = some (g % 16))
  | none => false

/-- Is the position out of placement: no facet, waiting for a substitution, or under a targeted LBIST (15 R365)? -/
def facetBarred (s : State) (g : Nat) : Bool :=
  !facetAvail s g || s.rose.lbist.contains g || s.rose.lbist.contains (256 + sectorOf g) ||
  (match s.rose.sectors[sectorOf g]? with | some x => decide (x.pendingSub = some (g % 16)) || x.sxtFailed | none => true)

/-- Facets held by runs, batches and stream bindings. -/
def heldFacets (s : State) : List Nat :=
  ((liveRuns s).map (fun r => (r.berths.map Berth.facets).flatten)).flatten ++
  (s.batches.map (fun b => (b.units.map (fun u => u.berth.facets)).flatten)).flatten ++
  (s.streams.map (fun e => e.2.berth.facets)).flatten

/-- The Plot lines that a watch's copy still reads (18 R418). -/
def watchPlots (s : State) : List PlotRange :=
  (s.pel.watches.filter (·.copying)).filterMap (fun w => w.plot.map (fun p =>
    ⟨p.1 / 0x1000000, p.1 % 0x1000000 / 2048, ceilDiv (p.1 % 2048 + p.2) 2048⟩))

/-- Plot ranges in use. -/
def heldPlots (s : State) : List PlotRange :=
  watchPlots s ++
  (s.runs.map (·.plots)).flatten ++ (s.batches.map (fun b => (b.units.map (·.plots)).flatten)).flatten ++
  (s.streams.map (fun e => e.2.plots)).flatten

/-- A plan laid on a berth: block i is the i-th sector of the berth in rising order; the core stays the core. -/
def layTriples (b : Berth) (plan : List Triple) : List Triple :=
  plan.map (fun t => { t with block := if t.block = 16 then 16 else b.sectors.getD t.block 16 })

/-- The lowest contiguous range of n Plot lines of a sector block that no range of `held` meets (08 R210). -/
def freePlot (lines n : Nat) (held : List (Nat × Nat)) : Option Nat :=
  (freeRuns 0 lines (held.foldr insSpan [])).find? (fun x => decide (n ≤ x.2)) |>.map (·.1)

/-- Open windows of a sector block as line ranges (08 R213): Plot is not laid over an open window of another owner. -/
def openLines (s : State) (b : Nat) : List (Nat × Nat) :=
  (s.chart.wins.filter (fun e => e.2.isOpen && decide (e.2.base / 0x1000000 = b))).map (fun e =>
    (e.2.base % 0x1000000 / 2048, ceilDiv (e.2.base % 2048 + e.2.len) 2048))

/-- Allocate the route's Plot in each sector of a berth, beside ranges already taken. -/
def allocPlots (s : State) (held : List PlotRange) : List (Nat × Nat) → Option (List PlotRange)
  | [] => some []
  | (sec, bytes) :: rest =>
    let n := ceilDiv bytes 2048
    if n = 0 then allocPlots s held rest
    else
      let here := (held.filter (fun p => decide (p.sector = sec))).map (fun p => (p.line, p.lines))
      match freePlot (plotLines s sec) n (here ++ openLines s sec), allocPlots s held rest with
      | some l, some ps => some (⟨sec, l, n⟩ :: ps)
      | _, _ => none

/-- What a placement decision leaves out of account: the facets, triples and Plot of runs that it would kill. -/
structure Occupancy where
  facets : List Nat
  triples : List Triple
  plots : List PlotRange
deriving DecidableEq, Repr

/-- What is held now. -/
def occupancy (s : State) : Occupancy := ⟨heldFacets s, heldTriples s, heldPlots s⟩

/-- The Chart address of a Plot range's first byte. -/
def plotBase (p : PlotRange) : Nat := p.sector * 0x1000000 + p.line * 2048

/-- The writer ID of a berth (08 R213). -/
def berthWriter (b : Berth) : Nat := 0x2000 + b.origin

/-- Is a descriptor free for a berth window: closed, and either never written or last used for one (08 R213, R214; log 35)? -/
def winFree (s : State) (taken : List Nat) (i : Nat) : Bool :=
  !taken.contains i && (match mget s.chart.wins i with | some w => !w.isOpen && decide (w.kind = 1) | none => true)

/-- The n highest free descriptors below i, fewer when there are not so many. -/
def pickWins (s : State) (taken : List Nat) : Nat → Nat → List Nat
  | 0, _ | _, 0 => []
  | i + 1, n + 1 => if winFree s taken i then i :: pickWins s taken i n else pickWins s taken i (n + 1)

/-- The Plot ranges of each berth: a placement lists the first berth's, one for each sector block that needs one. -/
def splitPlots (r : Route) (bs : List Berth) (ps : List PlotRange) : List (Berth × List PlotRange) :=
  match bs with
  | [b] => [(b, ps)]
  | bs => (bs.foldl (fun (a : List (Berth × List PlotRange) × List PlotRange) b =>
      let n := ((b.sectors.zip r.plotNeed).filter (fun x => decide (0 < x.2))).length
      (a.1 ++ [(b, a.2.take n)], a.2.drop n)) ([], ps)).1

/-- A berth window: it covers one Plot range and names its berth alone (08 R214). -/
def berthWindow (ctx : Nat) (b : Berth) (p : PlotRange) : Window :=
  { base := plotBase p, len := p.lines * 2048, isOpen := true, kind := 1, expires := false, closeOnCommit := true, owner := ctx,
    writers := [berthWriter b, 0, 0, 0], expSec := 0, expNs := 0, refused := 0 }

/-- A receive window, at its place in the Plot of the berth's lowest sector. -/
def recvWindow (ctx : Nat) (p : PlotRange) (w : RecvWin) : Window :=
  { base := plotBase p + w.base, len := w.len, isOpen := true, kind := 2, expires := false, closeOnCommit := w.closeOnCommit, owner := ctx,
    writers := w.writers, expSec := 0, expNs := 0, refused := 0 }

/-- The windows a run opens (08 R214): a berth window on each Plot when its route writes another sector's Plot, and the receive windows it
declares. -/
def runWindows (s : State) (ctx : Nat) (r : Route) (bs : List Berth) (ps : List PlotRange) : List (Nat × Window) :=
  let own := ((splitPlots r bs ps).map (fun x => x.2.map (berthWindow ctx x.1))).flatten
  (if r.writesPlot then (pickWins s (r.recv.map (·.win)) 1024 own.length).zip own else []) ++
  (match ps with
   | [] => []
   | p :: _ => r.recv.map (fun w => (w.win, recvWindow ctx p w)))

/-- Can windows open, one after another (08 R215)? -/
def winsCanOpen (s : State) : List (Nat × Window) → Bool
  | [] => true
  | (i, w) :: ws => !(winOf s i).isOpen && windowOpens s i w && winsCanOpen (openWin s i w) ws

/-- Can every window that a run needs open, a descriptor for each? -/
def runWinsOpen (s : State) (r : Route) (bs : List Berth) (ps : List PlotRange) : Bool :=
  let ws := runWindows s 0 r bs ps
  decide (ws.length = (if r.writesPlot then ps.length else 0) + (if ps.isEmpty then 0 else r.recv.length)) && winsCanOpen s ws

/-- Is a berth inside the route's mask and, unless it may span, in one sector (10 R264)? -/
def maskOk (r : Route) (b : Berth) : Bool :=
  b.sectors.all (fun k => r.mask.testBit k) && (r.spans || decide (b.sectors.length = 1))

/-- Does a berth meet every condition of 10 R264 under an occupancy, its Plot included? -/
def berthFits (s : State) (o : Occupancy) (r : Route) (avoid : List Nat) (b : Berth) : Option (List PlotRange) :=
  let fs := b.facets
  let ts := layTriples b r.plan
  if b.onDie && maskOk r b && fs.all (fun g => !facetBarred s g && !o.facets.contains g && !avoid.contains g) &&
     b.sectors.all (fun k => !sectorBankOff s k && (s.clk.gated.getD k none).isNone) &&
     ts.all (fun t => !o.triples.contains t)
  then
    match allocPlots s o.plots (b.sectors.zip r.plotNeed) with
    | some ps => if runWinsOpen s r [b] ps then some ps else none
    | none => none
  else none

/-- A placement: its berths, triples and Plot. -/
structure Placement where
  berths : List Berth
  triples : List Triple
  plots : List PlotRange
deriving DecidableEq, Repr

/-- Take a berth out of what is free. -/
def Occupancy.take (o : Occupancy) (b : Berth) (r : Route) (ps : List PlotRange) : Occupancy :=
  ⟨o.facets ++ b.facets, o.triples ++ layTriples b r.plan, o.plots ++ ps⟩

/-- The first origin of a list at which a berth fits. -/
def firstBerth (s : State) (o : Occupancy) (r : Route) (avoid : List Nat) : List Nat → Option (Berth × List PlotRange)
  | [] => none
  | g :: gs =>
    let b : Berth := ⟨g, r.berthH, r.berthW⟩
    match berthFits s o r avoid b with
    | some ps => some (b, ps)
    | none => firstBerth s o r avoid gs

/-- The placement at a given first origin: one berth, or two disjoint ones for DUAL, the second at its lowest origin; with
DUAL_SPLIT no sector holds facets of both (16 R386). -/
def placeAt (s : State) (o : Occupancy) (r : Route) (dual : Bool) (avoid : List Nat) (g : Nat) : Option Placement :=
  match firstBerth s o r avoid [g] with
  | none => none
  | some (b, ps) =>
    if !dual then some ⟨[b], layTriples b r.plan, ps⟩
    else
      let o' := o.take b r ps
      let split := (rget s 0xD0004).testBit 1
      let gs := (List.range 256).filter (fun g' =>
        !split || (⟨g', r.berthH, r.berthW⟩ : Berth).sectors.all (fun k => !b.sectors.contains k))
      match firstBerth s o' r avoid gs with
      | none => none
      | some (b', ps') => some ⟨[b, b'], layTriples b r.plan ++ layTriples b' r.plan, ps ++ ps'⟩

/-- The lowest-origin placement under an occupancy (10 R264). -/
def findPlacement (s : State) (o : Occupancy) (r : Route) (dual : Bool) (avoid : List Nat) : Option Placement :=
  (List.range 256).findSome? (fun g => placeAt s o r dual avoid g)

/-- A rerun after a fault kill first looks for facets disjoint from the failed run's (15 R364). -/
def placementFor (s : State) (o : Occupancy) (r : Route) (dual : Bool) (avoid : List Nat) : Option Placement :=
  match (if avoid.isEmpty then none else findPlacement s o r dual avoid) with
  | some p => some p
  | none => findPlacement s o r dual []

/-- PLOT_SHORT of a route (02 R58): over every placement within the mask, the smallest sum of positive shortfalls. -/
def plotShort (s : State) (r : Route) : Nat :=
  let one (b : Berth) : Nat :=
    (b.sectors.zip r.plotNeed).foldl (fun a x => a + (x.2 - plotLines s x.1 * 2048)) 0
  let all := ((List.range 256).map (fun g => (⟨g, r.berthH, r.berthW⟩ : Berth))).filter (fun b => b.onDie && maskOk r b)
  match all with
  | [] => 0
  | b :: bs => bs.foldl (fun a x => if one x < a then one x else a) (one b)

/-! ### The ladder (11 R283 to R287, R291) -/

/-- Starts of each ladder step of a berth of F facets, or of two berths for DUAL. -/
def ladderPattern (f : Nat) : List Nat :=
  (List.range (ceilDiv f 4)).map (fun i => if 4 * (i + 1) ≤ f then 4 else f - 4 * i)

/-- Facets of a placement. -/
def Placement.size (p : Placement) : Nat := p.berths.foldl (fun a b => a + b.size) 0

/-- E_min and E_max of an armed launch whose start is not yet fixed (11 R291), as chip AK counts. -/
def holdSpan (s : State) (a : Armed) : Nat × Nat :=
  let left := a.tl - s.clk.mer
  let soonest := s.clk.chipAk + left * 2 / (5 * nsU)
  let latest := s.clk.chipAk + ceilDiv (left * 4) (5 * nsU) + 4 + 2 + 31 + 32 * (a.steps - 1)
  (soonest, latest)

/-- Is a ladder step inside the range that an armed launch holds (11 R291)? -/
def stepHeld (s : State) (k : Nat) : Bool :=
  s.helm.armed.any (fun a => match a.startAk with
    | some _ => false
    | none => let (lo, hi) := holdSpan s a; decide (lo ≤ k) && decide (k ≤ hi))

/-- Does a pattern fit from ladder step k on? -/
def patternFits (s : State) (k : Nat) : List Nat → Bool
  | [] => true
  | n :: ns => decide (mgetD s.helm.ladder k 0 + n ≤ 4) && !stepHeld s k && decide (k ≤ s.clk.chipAk + 16384) &&
      patternFits s (k + 32) ns

/-- The first ladder step at least 64 AK cycles ahead. -/
def firstStep (s : State) : Nat := ceilDiv (s.clk.chipAk + 64) 32 * 32

/-- The earliest ladder step from which a pattern fits, within the 16,384 AK cycles of the table. -/
def findStep (s : State) (pat : List Nat) : Option Nat :=
  ((List.range 512).map (fun i => firstStep s + 32 * i)).find? (fun k => patternFits s k pat)

/-- Reserve a pattern from a step. -/
def reserve (s : State) (k : Nat) : List Nat → State
  | [] => s
  | n :: ns => reserve (s.setHelm { s.helm with ladder := mupd s.helm.ladder k 0 (· + n) }) (k + 32) ns

/-- Return a pattern's reservations on steps after now (11 R287). -/
def unreserve (s : State) (k : Nat) : List Nat → State
  | [] => s
  | n :: ns =>
    unreserve (if s.clk.chipAk < k then s.setHelm { s.helm with ladder := mupd s.helm.ladder k 0 (· - n) } else s) (k + 32) ns

/-- The starts of a run's pattern. -/
def runPattern (r : Run) : List Nat := ladderPattern (r.berths.foldl (fun a b => a + b.size) 0)

/-- Facets of a run that have left idle by an AK cycle: 4 on each step from its launch cycle (11 R284, R285). -/
def startedFacets (r : Run) (ak : Nat) : Nat :=
  let f := r.berths.foldl (fun a b => a + b.size) 0
  if r.launchAk = 0 ∨ ak < r.launchAk then 0
  else let n := 4 * ((ak - r.launchAk) / 32 + 1); if f < n then f else n

/-- RUNNING of GOV_STAT (11 R287): positions out of idle. -/
def runningFacets (s : State) : Nat :=
  (liveRuns s).foldl (fun a r => if r.stream.isSome || r.slot.isSome then a else a + startedFacets r s.clk.chipAk) 0 +
  s.batches.foldl (fun a b => a + b.units.foldl (fun a u => a + u.berth.size) 0) 0 +
  s.streams.foldl (fun a e => a + (if s.clk.chipAk < e.2.startAk then 0 else
    let n := 4 * ((s.clk.chipAk - e.2.startAk) / 32 + 1)
    if e.2.berth.size < n then e.2.berth.size else n)) 0

/-- Record in GOV_STAT and GOV_DEFER_CNT how long a launch waited for room (11 R287). -/
def noteWait (s : State) (waited : Nat) : State :=
  let v := rget s 0x50000
  let s := if nbits v 23 16 < satTo 255 waited then rput s 0x50000 (maskIn v (satTo 255 waited <<< 16) 0xFF0000) else s
  if waited = 0 then s else rcount s 0x50004 31 0 1

/-! ### Launch order (09 R247, 02 R55) -/

/-- Is a command past its field checks and still to launch or to reach its commit point? -/
def waitingToRun (c : Cmd) : Bool := decide (c.phase = .accepted) || decide (c.phase = .ready)

/-- Does an earlier command of the ring hold this one back (09 R247)? -/
def heldBack (s : State) (c : Cmd) : Bool :=
  (earlier s c.key).any (fun e => !fieldFailed e &&
    (decide (opOf e.desc = 0x42) || decide (opOf e.desc = 0x41) ||
     (decide (opOf e.desc = 0x30) && decide (c.cover ≠ some e.key.seq.toNat)) ||
     ((decide (opOf e.desc = 0x01) || decide (opOf e.desc = 0x02)) &&
       (namedModels c.desc).contains (dModel e.desc % 4096))))

/-- Does a command accepted earlier name one of this command's Heading entries, or a binding hold one (02 R55, 04 R111,
12 R300)? A STREAM_UNBIND
acts on the entries of its binding notwithstanding that (12 R301). -/
def entryBusy (s : State) (c : Cmd) : Bool :=
  decide (opOf c.desc ≠ 0x21) &&
  (s.streams.any (fun e => (namedEntries c.desc).contains e.2.ctlHandle || (namedEntries c.desc).contains e.2.estHandle) ||
   s.cmds.any (fun e => decide (e.key.ctx = c.key.ctx) && decide (e.order < c.order) && !fieldFailed e &&
    (namedEntries e.desc).any (fun h => (namedEntries c.desc).contains h)))

/-- Is the command inside its ring's reorder window? -/
def inWindow (s : State) (k : CmdKey) : Bool := decide ((k.seq - (ringOf s k.ctx k.ring).done).toNat < 32)

/-- May a command launch, or reach its commit point without launching (09 R247)? -/
def mayStart (s : State) (c : Cmd) : Bool := inWindow s c.key && !heldBack s c && !entryBusy s c

/-- Is a context resident and served by a running Helm core, in a device that is READY? -/
def canServe (s : State) (ctx : Nat) : Bool :=
  ready s && (match ctxOf s ctx with | some c => c.resident | none => false) && !servedHalted s ctx

/-- A command of an opcode that may run now. -/
def runnable (s : State) (k : CmdKey) (op : Nat) : Option Cmd :=
  match findCmd s k with
  | some c => if decide (opOf c.desc = op) && waitingToRun c && canServe s k.ctx && mayStart s c then some c else none
  | none => none

/-- Has every earlier command of the ring committed (09 R236)? -/
def ringHead (s : State) (k : CmdKey) : Bool := (earlier s k).isEmpty

end Sys2Proof.Machine
end

