-- ==== Sys2Proof/Machine/Kill.lean ====
section
/-! DEFINITION. Stopping a run: what a kill gives back (10 R268, 05 R127), what it charges (10 R261, R262), the fault
kill and FAILED_FAULT (15 R363), and the partition reset (10 R273). -/

namespace Sys2Proof.Machine
open Sys2Proof

/-- The facets of a run. -/
def runFacets (r : Run) : List Nat := (r.berths.map Berth.facets).flatten

/-- The number of facets of a run. -/
def runSize (r : Run) : Nat := r.berths.foldl (fun a b => a + b.size) 0

/-- The origin of a run's first berth. -/
def runOrigin (r : Run) : Nat := match r.berths with | b :: _ => b.origin | [] => 0xFFFF

/-- The origin of a DUAL run's second berth. -/
def runOrigin2 (r : Run) : Nat := match r.berths with | _ :: b :: _ => b.origin | _ => 0xFFFF

/-- The lead conductor of a run: the lowest sector of its first berth (01 R23). -/
def leadSector (r : Run) : Nat := match r.berths with | b :: _ => b.sectors.headD 0 | [] => 0

/-- Has the run reached its launch cycle? -/
def launched (s : State) (r : Run) : Bool := decide (r.launchAk ≠ 0) && decide (r.launchAk ≤ s.clk.chipAk) && decide (r.phase ≠ .placed)

/-- AK cycles from the launch cycle. -/
def sinceLaunch (s : State) (r : Run) : Nat := if launched s r then s.clk.chipAk - r.launchAk else 0

/-- Facet-nanoseconds that a run has accrued, truncated once (10 R261); a batch slot accrues half a facet. -/
def accrued (s : State) (r : Run) : Nat :=
  if r.phase = .placed ∧ r.armedOff = none then 0
  else
    let d := stampR s - r.chargeFrom
    match r.slot with
    | some _ => d / (2 * nsU)
    | none => runSize r * d / nsU

/-- The slot of its facet that a run works in: 0 outside a batch (07 R189). -/
def runSlot (r : Run) : Nat := match r.slot with | some x => x.2 % 2 | none => 0

/-- The number under which a facet's content for one of its slots is kept. -/
def facetKey (slot g : Nat) : Nat := 256 * slot + g

/-- The number under which a kernel on a run's berth keeps its permutation, dmax and vector: the facet of its origin. -/
def kernelKey (r : Run) : Nat := facetKey (runSlot r) (runOrigin r % 256)

/-- Discard what a predicate on facet keys selects: accumulators, chunks in passage, panel buffers, kernel data. -/
def emptyKeys (s : State) (p : Nat → Bool) : State :=
  let keep {α : Type} (m : Map α) : Map α := m.filter (fun e => !p (e.1 / 1024))
  let kern {α : Type} (m : Map α) : Map α := m.filter (fun e => !p e.1)
  s.setRose { s.rose with
    acc := keep s.rose.acc, panel := keep s.rose.panel
    east := s.rose.east.filter (fun e => !p (e.1 / 1024 % 512)), south := s.rose.south.filter (fun e => !p (e.1 / 1024 % 512))
    rowZ := keep s.rose.rowZ, perm := kern s.rose.perm, dmax := kern s.rose.dmax, vec := kern s.rose.vec }

/-- Discard every accumulator, panel buffer and permutation of some facets (05 R118, R127; 07 R171). -/
def emptyFacets (s : State) (fs : List Nat) : State := emptyKeys s (fun k => fs.contains (k % 256))

/-- The same for one slot of a facet of a batch unit, whose other slot keeps its content (01 R16, 05 R118). -/
def emptySlot (s : State) (r : Run) : State := emptyKeys s (fun k => (runFacets r).any (fun g => decide (k = facetKey (runSlot r) g)))

/-- Discard what a run's facets hold of it. -/
def emptyRun (s : State) (r : Run) : State := if r.slot.isSome then emptySlot s r else emptyFacets s (runFacets r)

/-- Free the batch slot of a problem. -/
def freeSlot (s : State) (k : CmdKey) : State :=
  s.setBatches (s.batches.map (fun b => { b with units := b.units.map (fun u =>
    { u with slots := u.slots.map (fun x => if x = some k then none else x) }) }))

/-- The live counter set of an origin is discarded, its tag cleared (15 R361). -/
def dropLive (s : State) (org : Nat) (k : CmdKey) : State :=
  s.setPel { s.pel with bsets := mupd s.pel.bsets org ⟨none, [], none⟩ (fun b => if b.live = some k then { b with live := none } else b) }

/-- Add to a context's balance. -/
def addBalance (s : State) (ctx : Nat) (n : Int) : State :=
  match ctxOf s ctx with
  | some c => s.setHelm { s.helm with ctxs := mset s.helm.ctxs ctx { c with balance := c.balance + n } }
  | none => s

/-- Frames of a command that have not started on the wire are discarded (14 R348). -/
def dropFrames (s : State) (k : CmdKey) : State :=
  s.setFleet { s.fleet with peers := s.fleet.peers.map (fun e =>
    (e.1, { e.2 with sent := e.2.sent.filter (fun f => f.started || !(f.key == some k)) })) }

/-- A write of a watch's header to its result buffer. -/
def emitWatchHdr (s : State) (w : Watch) (notReached killed : Bool) (copied : Nat) : State :=
  emit s (.memWrite ((fnOf s w.key.ctx).getD 0) w.outAddr (watchHdrBytes w notReached killed copied))

/-- Watches on a killed run: a header already written is written again with KILLED set; a copy still under way runs on to
its end (18 R418, R420). -/
def killWatches (s : State) (k : CmdKey) : State :=
  let hit (w : Watch) : Bool := w.target == k && w.fired && !w.killed
  let s := s.pel.watches.foldl (fun s w => if hit w && !w.copying then emitWatchHdr s w false true w.copied else s) s
  s.setPel { s.pel with watches := s.pel.watches.map (fun w =>
    if w.target == k then { w with taps := [], killed := w.killed || hit w } else w) }

/-- Causes of a kill (18 R416). -/
def causePreempt : Nat := 1
def causeEvict : Nat := 2
def causeFault : Nat := 3
def causeStop : Nat := 4
def causeReset : Nat := 5
def causeCtx : Nat := 6

/-- Give back what a run holds: windows, facets, triples, ladder reservations, counter set, slot. -/
def releaseRun (s : State) (r : Run) : State :=
  let s := closeWins s r.wins
  let s := emptyRun (if r.slot.isSome then freeSlot s r.key else s) r
  let s := if r.launchAk ≠ 0 ∧ r.slot = none ∧ r.stream = none then unreserve s r.launchAk (runPattern r) else s
  let s := r.berths.foldl (fun s b => dropLive s b.origin r.key) s
  dropFrames (dropRun s r.key) r.key

/-- The command of a killed run goes back to its ring's launch order, accepted, to read its input again. -/
def returnCmd (s : State) (k : CmdKey) (charge : Nat) (ran : Bool) : State :=
  match findCmd s k with
  | some c =>
    let c := { c with phase := .ready, rerun := c.rerun || ran, inputIn := false, raw := [], inst := [], launchableAt := none }
    putCmd s { c with chargeDue := c.chargeDue + charge }
  | none => s

/-- The unit of a binding whose run was killed waits for its launch again (12 R304): it is no longer bound to the cycle of its
frame-complete event. -/
def returnUnit (s : State) (n : Nat) : State :=
  match mget s.streams n with
  | some st => s.setStreams (mset s.streams n { st with unit := st.unit.map (fun u =>
      { u with complete := none, launchAk := none, estStatus := none, estStore := none }) })
  | none => s

/-- Kill a run (10 R268): one whose commit point is this AK cycle commits instead (01 R26), and so does one
that has passed it (phase done). `charged` says that the run
is charged to its context; else its facet time is counted as lost and a SOFT command gets its whole expected cost back. -/
def killRun (s : State) (r : Run) (cause : Nat) (charged : Bool) : State :=
  if r.commitAt = some s.clk.chipAk ∨ r.phase = .done then s
  else
    let n := accrued s r
    let ran := launched s r || r.slot.isSome
    let s := traceCmd s 3 (bitAt ((findCmd s r.key).any (·.rerun)) 2) (leadSector r) r.key (s.clk.sectorAk.getD (leadSector r) 0)
      (runOrigin r + cause * 256) (sinceLaunch s r)
    let s := if cause = causePreempt ∨ cause = causeEvict then
        logEvent s (eventOf s { cls := 0, cause := 0x30, key := some r.key, originA := runOrigin r, detail := [0x41#8] })
      else s
    let s := killWatches s r.key
    let s := releaseRun s r
    let s := if charged then s else gcount s 0x6000 n
    let s := if r.isSoft then addBalance s r.key.ctx ((r.cost : Int) - (if charged then (n : Int) else 0)) else s
    match r.stream with
    | some k => returnUnit s k
    | none => returnCmd s r.key (if charged then n else 0) ran

/-- Kill every run a test names. -/
def killRuns (s : State) (p : Run → Bool) (cause : Nat) : State :=
  (s.runs.filter p).foldl (fun s r => killRun s r cause false) s

/-- Commit FAILED_FAULT, RES0 the Logbook index of the fault record (15 R363). -/
def fileFault (s : State) (c : Cmd) (idx : Nat) : State :=
  fileReq s c { plainReq s 0x50 idx 0 0 0 with charge := c.chargeDue }

/-- Count a fault kill of a command that is not running any more: the second one commits it FAILED_FAULT. -/
def countFault (s : State) (k : CmdKey) (avoid : List Nat) (idx : Nat) : State :=
  match findCmd s k with
  | none => s
  | some c =>
    if c.phase = .requested then s
    else
      let c := { c with faultKills := c.faultKills + 1, faultIdx := idx, avoid := avoid, rerun := true }
      if c.faultKills ≥ 2 then fileFault (putCmd s c) c idx else putCmd s c

/-- A request of a stream unit (12 R306) goes into the journal queue under its binding's key. -/
def fileUnit (s : State) (n : Nat) (r : CommitReq) : State :=
  match mget s.streams n with
  | some st =>
    let s := s.setStreams (mset s.streams n { st with unit := st.unit.map (fun u =>
      { u with req := some { r with order := s.helm.requests } }) })
    let s := s.setHelm { s.helm with requests := s.helm.requests + 1 }
    s.setLog { s.log with queue := s.log.queue ++ [st.key] }
  | none => s

/-- A fault kill of a run (15 R363): the first reruns, the second commits FAILED_FAULT. -/
def faultKill (s : State) (r : Run) (idx : Nat) : State :=
  if r.commitAt = some s.clk.chipAk ∨ r.phase = .done then s
  else
    let s := killRun s r causeFault true
    match r.stream with
    | none => countFault s r.key (runFacets r) idx
    | some n =>
      match mget s.streams n with
      | none => s
      | some st =>
        let k := st.faultKills + 1
        let s := s.setStreams (mset s.streams n { st with faultKills := k })
        if k ≥ 2 then fileUnit s n (plainReq s 0x50 idx 0 0 0) else s

/-- The event of a job fault of a run (10 R273): recorded against the command, or against none when its commit point is
this AK cycle (15 R371). -/
def jobFaultEvent (s : State) (r : Run) (kind unitNo : Nat) (detail : List Byte) : State :=
  let commits := decide (r.commitAt = some s.clk.chipAk) || decide (r.phase = .done)
  raiseEvent s { cls := 3, cause := 0x20, unitKind := kind, unitNo := unitNo % 256,
                 key := (if commits then none else some r.key), originA := runOrigin r, originB := runOrigin2 r,
                 detail := detail }

/-- A job fault that kills and reruns: parity and ECC (10 R274). -/
def jobFault (s : State) (r : Run) (kind unitNo : Nat) (detail : List Byte) : State :=
  let idx := s.log.next
  faultKill (jobFaultEvent s r kind unitNo detail) r idx

/-- A refused write of a route: the run ends and its command commits WINDOW_FAULT in its place, charged (10 R274). -/
def windowFault (s : State) (r : Run) (row writer : Nat) : State :=
  if r.commitAt = some s.clk.chipAk ∨ r.phase = .done then jobFaultEvent s r 1 (runOrigin r) (leBytes 4 row)
  else
    let s := jobFaultEvent s r 1 (runOrigin r) (leBytes 4 row)
    let s := killRun s r causeFault true
    match r.stream with
    | some n => fileUnit s n (plainReq s 0x51 row writer 0 0)
    | none => match findCmd s r.key with
      | some c => fileReq s c { plainReq s 0x51 row writer 0 0 with charge := c.chargeDue }
      | none => s

/-- A COMMAND event against a command that has no run (15 R362, R363). -/
def commandFault (s : State) (k : CmdKey) (detail : List Byte) : State :=
  let idx := s.log.next
  let s := raiseEvent s { cls := 2, cause := 0x21, key := some k, detail := detail }
  match findRun s k with
  | some r => faultKill s r idx
  | none =>
    match findCmd s k with
    | some c => countFault (if c.phase = .requested then s else putCmd s { c with inputIn := false, raw := [], inst := [], launchableAt := none }) k c.avoid idx
    | none => s

end Sys2Proof.Machine
end

