-- ==== Sys2Proof/Machine/Models.lean ====
section
/-! DEFINITION. LOAD_MODEL, FIT_CHECK, UNLOAD_MODEL, UNLOAD_COMPLETE (02 R45 to R58, R474; 04 R112, R115, R116; 09 R232;
08 R193, R211; 16 R378). -/

namespace Sys2Proof.Machine
open Sys2Proof

/-! ### The image -/

/-- Is a route refused: it addresses the reserved range (08 R193), reads Plot it has not written (R211), or has a recheck
program that breaks 16 R378? -/
def routeRefused (r : Route) : Bool :=
  r.reserved || r.readsUnwritten ||
  (match r.recheck with
   | some c => c.writesInstance || c.writesFixLate
   | none => false)

/-- Does an image break its structure: not canonical, a code or dimension outside the tables, another signature than the
device computes, a refused route (02 R45, R48)? -/
def imageBroken (im : Image) : Bool :=
  let c := parseChart im.desc
  !canonical c im.desc || !codesLegal c || !withinLimits c || decide (signatureOf c im.desc ≠ im.sig) ||
  im.routes.any routeRefused || im.routes.isEmpty || decide (2 < im.routes.length)

/-- The NaNs of the operands of an image: item, element, format code and pattern of each, in the image's order (02 R38). -/
def imageNans (im : Image) : List (Nat × Nat × Nat × Nat) :=
  (im.items.zipIdx.map (fun it =>
    ((readVals it.1.fmt it.1.count it.1.data).zipIdx.filter (fun v => v.1.isNan)).map (fun v =>
      (it.2, v.2, it.1.fmt, rawElem it.1.fmt v.2 it.1.data)))).flatten

/-- The trap record of a NaN in model data (06 R168): item, element, format code and pattern of the first, and the count. -/
def modelTrap (im : Image) (item elem fmt pat : Nat) : TrapRec :=
  { kind := 3, unitK := 4, opcode := 0x21, count := satTo 255 (imageNans im).length, routeAddr := 0, step := 0, facet := 0, strip := 0, pos := 0,
    row := item, col := elem, fmtA := fmt, fmtB := 0, fmtR := 0, pass := 0, ak := 0, opndA := pat, opndB := 0, result := 0 }

/-- The signature the device computes. -/
def imageSig (im : Image) : Word64 := signatureOf (parseChart im.desc) im.desc

/-- The function that writes for a context. -/
def fnFor (s : State) (ctx : Nat) : Nat := (fnOf s ctx).getD 0

/-- Write bytes to the result buffer of a command, in host memory (19 R428). -/
def hostWrite (s : State) (c : Cmd) (bs : List Byte) : State := emit s (.memWrite (fnFor s c.key.ctx) (dOutAddr c.desc) bs)

/-- File a LOAD_MODEL outcome with its result words (09 R243). -/
def fileLoad (s : State) (c : Cmd) (im : Image) (status written : Nat) : State :=
  let sig := (imageSig im).toNat
  fileReq s c { plainReq s status (dModel c.desc % 4096) (sig % 2 ^ 32) (sig / 2 ^ 32) written with
    sig := imageSig im, charge := c.chargeDue }

/-- Does a model number hold space that this LOAD_MODEL itself reserved, before a reset made it run again (02 R57)? -/
def ownReserve (s : State) (c : Cmd) : Bool :=
  match mget s.helm.models (dModel c.desc % 4096) with
  | some m => !m.loaded && m.loader == c.key
  | none => false

/-- LOAD_MODEL before its fit check: the refusals of R116, R50, R48 and R38, in that order (log 28). One that runs again after a reset keeps its
reservation (R57); an image that is another one then has that reservation given up and is checked anew (DESIGN CHOICE, log 137). -/
def startLoad (s : State) (c : Cmd) (im : Image) : State :=
  let own := ownReserve s c
  if own && decide (c.image = some im) then putCmd (pcieIn s (leField c.desc 36 4)) { c with phase := .fitted, inputIn := true }
  else
  let s := pcieIn s (leField c.desc 36 4)
  let s := if own then s.setHelm { s.helm with models := mdel s.helm.models (dModel c.desc % 4096) } else s
  let c := { c with image := some im, inputIn := true }
  if im.routes.length = 2 ∧ dOutLen c.desc < 8 then fileFieldError s c 14 0x09
  else if (mget s.helm.models (dModel c.desc % 4096)).isSome || imageBroken im then fileLoad s c im 0x31 0
  else match (imageNans im).head? with
    | some (item, elem, fmt, pat) =>
      fileLoad (hostWrite s c (trapBytes (modelTrap im item elem fmt pat))) c im 0x21 64
    | none => putCmd s { c with phase := .awaitFit }

/-! ### The fit check -/

/-- First entry and count that a LOAD_MODEL binds. -/
def bindOf (d : Line) : Nat × Nat := (dHandle d, leField d 40 2)

/-- Is an entry held by a resident or reserved model? -/
def entryHeld (s : State) (h : Nat) : Bool :=
  s.helm.models.any (fun e => decide (e.2.first ≤ h) && decide (h < e.2.first + e.2.count))

/-- HEADING_SHORT (02 R58). -/
def headingShort (s : State) (ctx first count : Nat) : Nat :=
  ((List.range count).filter (fun i => !inHdgRange s ctx (first + i) || entryHeld s (first + i) ||
    decide ((hdgOf s (first + i)).state ≠ 0))).length

/-- SPILL_SHORT. -/
def spillShort (s : State) (im : Image) : Nat := im.spill - (spillBytes s - spillHeld s)

/-- The Plot shortfall over the routes of the image: the larger one (R57 measures the berth the route is compiled for, R116
counts both routes; log 29). -/
def imagePlotShort (s : State) (im : Image) : Nat :=
  im.routes.foldl (fun a r => let p := plotShort s r; if a < p then p else a) 0

/-- The whole fit check: the placement and the report. -/
def fitCheck (s : State) (c : Cmd) (im : Image) : FitAlm × FitReport :=
  let (first, count) := bindOf c.desc
  let f := fitAlmanac s im (warmSize (parseChart im.desc)) count
  (f, { coreShort := f.short.getD 16 0, plotShort := imagePlotShort s im, spillShort := spillShort s im,
        headingShort := headingShort s c.key.ctx first count, sectorShort := f.short.take 16, sig := imageSig im,
        coreFree := runsTotal (regionRuns s 16 []) })

/-- Does a report show no shortfall? -/
def fits (f : FitAlm) (r : FitReport) : Bool :=
  f.short.all (fun n => decide (n = 0)) && decide (r.plotShort = 0) && decide (r.spillShort = 0) && decide (r.headingShort = 0)

/-- The model that a fitting image becomes: reserved now, loaded at the commit. -/
def reservedModel (c : Cmd) (im : Image) (f : FitAlm) : Model :=
  let ch := parseChart im.desc
  let (first, count) := bindOf c.desc
  let warm := f.places.getLast?.getD (0, 0)
  let ps := imageParts im
  let (d, g) := match im.routes with | r :: _ => modelScales (loadArith (chartRoute ch r)) ch ps | [] => ([], [])
  { owner := c.key.ctx, loader := c.key, chart := ch, sig := im.sig,
    routes := im.routes.map (chartRoute ch), places := f.places.dropLast, first := first,
    count := count, warmBase := warm.1, warmSize := warmSize ch, spill := im.spill, instBytes := im.instBytes,
    scaleD := d, scaleF := g, parts := ps, layout := im.layout, smap := im.smap, loaded := false }

/-- Put a model under its number. -/
def setModel (s : State) (n : Nat) (m : Model) : State := s.setHelm { s.helm with models := mset s.helm.models n m }

/-- The LOAD_MODEL whose fit check is next: the first accepted of those that still await theirs (02 R57). -/
def nextFit (s : State) : Option Cmd :=
  let waits := s.cmds.filter (fun c => decide (opOf c.desc = 0x01) && (waitingToRun c || decide (c.phase = .awaitFit) || decide (c.phase = .refetch)))
  match waits with
  | [] => none
  | c :: cs => some (cs.foldl (fun a b => if b.order < a.order then b else a) c)

/-- FIT_CHECK: check the next image, one at a time in acceptance order. -/
def doFitCheck (s : State) : State :=
  match nextFit s with
  | none => s
  | some c =>
    match c.image with
    | none => s
    | some im =>
      if c.phase ≠ .awaitFit ∨ ready s = false then s
      else
        let n := dModel c.desc % 4096
        if (mget s.helm.models n).isSome then fileLoad s c im 0x31 0
        else
          let (f, rep) := fitCheck s c im
          if fits f rep then setModel (putCmd s { c with phase := .fitted }) n (reservedModel c im f)
          else fileLoad (hostWrite s c (fitBytes rep)) c im 0x30 96

/-! ### Loading -/

/-- Write one item where the check placed it, and into the Almanac shadow (08 R207). -/
def writeItem (s : State) (a : Nat) (data : List Byte) : State :=
  let bs := padTo 512 data
  let s := countChartWr (chartPut s a bs) a bs.length
  s.setChart { s.chart with shadow := memWriteBytes 0#8 s.chart.shadow a bs }

/-- Write every item. -/
def writeItems (s : State) : List (Nat × List Byte) → State
  | [] => s
  | (a, bs) :: r => writeItems (writeItem s a bs) r

/-- The certificates of a model, one for each route in the image's order (04 R116). -/
def certsOf (s : State) (n : Nat) (m : Model) (sign : Bool) (nonce : Nat) : List Byte :=
  (m.routes.map (fun r => certBytes s n m.sig r sign nonce)).flatten

/-- The rest of a LOAD_MODEL that fits: write the image, then the certificates, then ask for the commit. -/
def finishLoad (s : State) (c : Cmd) (im : Image) (n : Nat) (m : Model) : State :=
  let s := writeItems s ((m.places.map (·.1)).zip ((loadItems im).map (·.2)))
  let cert := certsOf s n m ((leField c.desc 34 1).testBit 0) (leField c.desc 48 8)
  fileLoad (hostWrite s c cert) c im 0 cert.length

/-- LOAD_MODEL: the image arrives, or the load after its fit check ends. -/
def doLoadModel (s : State) (k : CmdKey) (im : Image) : State :=
  match runnable s k 0x01 with
  | some c => startLoad s c im
  | none =>
    match findCmd s k with
    | none => s
    | some c =>
      let n := dModel c.desc % 4096
      match c.image, mget s.helm.models n with
      | some im', some m => if c.phase = .fitted ∧ opOf c.desc = 0x01 ∧ ready s then finishLoad s c im' n m else s
      | _, _ => s

/-! ### Unloading (02 R50, R54) -/

/-- Must an UNLOAD_MODEL wait: does an accepted command that names the model, accepted before it, stand uncommitted? A
binding holds its two models until its unbind commits (12). -/
def unloadWaits (s : State) (c : Cmd) (n : Nat) : Bool :=
  s.cmds.any (fun e => decide (e.order < c.order) && !fieldFailed e && (namedModels e.desc).contains n) ||
  s.streams.any (fun e => decide (e.2.ctlModel = n) || decide (e.2.estModel = n))

/-- UNLOAD_MODEL: a model that is not loaded, or that an earlier UNLOAD_MODEL takes, is a mismatch; else the wait begins. -/
def doUnloadModel (s : State) (k : CmdKey) : State :=
  match runnable s k 0x02 with
  | none => s
  | some c =>
    let n := dModel c.desc % 4096
    if (modelOf s n).isNone || unloadStands s c then fileStatus s c 0x31 else putCmd s { c with phase := .unloading }

/-- Almanac bytes a model holds. -/
def modelBytes (m : Model) : Nat := m.places.foldl (fun a x => a + x.2) 0 + m.count * m.warmSize

/-- UNLOAD_COMPLETE: the last command that names the model has committed: UNLOAD_MODEL asks for its commit. -/
def doUnloadComplete (s : State) (k : CmdKey) : State :=
  match findCmd s k with
  | none => s
  | some c =>
    let n := dModel c.desc % 4096
    match mget s.helm.models n with
    | some m => if c.phase = .unloading ∧ !unloadWaits s c n ∧ ready s then
        fileReq s c { plainReq s 0 (modelBytes m) 0 0 0 with charge := c.chargeDue } else s
    | none => s

/-- Return a model's entries to FREE, each and its shadow image 0 in every field (02 R54). -/
def freeEntries (s : State) (first : Nat) : Nat → State
  | 0 => s
  | n + 1 => freeEntries (setHdg s (first + n) Hdg.zero) first n

/-- Bind entries to a model: BOUND, WARM_ADDR and WARM_CAP of each (02 R54, R474). -/
def bindEntries (s : State) (n : Nat) (m : Model) : Nat → State
  | 0 => s
  | i + 1 =>
    bindEntries (setHdg s (m.first + i) { Hdg.zero with
      state := 1, ctx := m.owner, model := n, warmAddr := m.warmBase + i * m.warmSize, warmCap := m.warmSize }) n m i

/-- What the commit of a successful LOAD_MODEL does in its Heading step (02 R51, R54). -/
def commitLoad (s : State) (n : Nat) : State :=
  match mget s.helm.models n with
  | some m => bindEntries (setModel s n { m with loaded := true }) n m m.count
  | none => s

/-- What the commit of a successful UNLOAD_MODEL does (02 R54, R57): entries FREE, every reservation released. -/
def commitUnload (s : State) (n : Nat) : State :=
  match mget s.helm.models n with
  | some m => freeEntries (s.setHelm { s.helm with models := mdel s.helm.models n }) m.first m.count
  | none => s

def execLoadModel (k : CmdKey) (im : Image) (s : State) : Res := .next (doLoadModel s k im)
def execFitCheck (s : State) : Res := .next (doFitCheck s)
def execUnloadModel (k : CmdKey) (s : State) : Res := .next (doUnloadModel s k)
def execUnloadComplete (k : CmdKey) (s : State) : Res := .next (doUnloadComplete s k)

end Sys2Proof.Machine
end

