-- ==== Sys2Proof/Machine/RegView.lean ====
section
/-! DEFINITION. What a read of each setup register returns, before any effect of the read (20 R442 to R451 and the
register tables of the other chapters): stored words, and the fields that the device computes from its state. -/

namespace Sys2Proof.Machine
open Sys2Proof

/-! ### TOP_, ROSE_, CHM_, GOV_, SXT_ -/

/-- TOP_BOOT_STAT (17 R398). -/
def bootStat (s : State) : Nat :=
  s.boot.state % 16 * 2 ^ 28 + s.boot.stage % 16 * 2 ^ 24 + s.boot.fail % 256 * 2 ^ 16 + s.boot.mode % 4 * 2 ^ 14 +
  bitAt s.boot.lodestone 13 + bitAt s.boot.degraded 12 + s.boot.helmOk % 256

/-- Local positions of a sector that have a facet (11 R289). -/
def sectorAvail (x : Sector) : Nat :=
  if x.sxtFailed then 0
  else ((List.range 16).filter (fun l => !x.failed.testBit l || decide (x.subPos = some l))).length

/-- ROSE_SECT_MAP of a sector (11 R289; 17 R399): its reset word until firmware writes it at step 7. -/
def sectMap (s : State) (k : Nat) : Nat :=
  if s.boot.passed < 7 then 0x1F000000
  else match s.rose.sectors[k]? with
    | none => 0x1F000000
    | some x =>
      bitAt x.spareFail 31 + bitAt (decide (sectorAvail x < 16)) 30 + (x.subPos.getD 31) % 32 * 2 ^ 24 +
      sectorAvail x * 2 ^ 16 + x.failed % 2 ^ 16

/-- SXT_STAT of a sector (20): BUSY while a berth's route holds the Sextant. -/
def sxtStat (s : State) (k : Nat) : Nat :=
  let busy := (liveRuns s).any (fun r => decide (r.phase ≠ .placed) && r.berths.any (fun b => b.sectors.contains k))
  match s.rose.sectors[k]? with
  | none => 0
  | some x => bitAt x.sxtFailed 31 + bitAt busy 30 + bitAt x.laneValid 6 + x.lane % 64

/-! ### Beacons, Heading entries, models: what an instance may see -/

/-- Is a path the physical function or I3C, which see every tenant? -/
def pathAll (path : Nat) : Bool := decide (path = 0) || decide (path = i3cPath)

/-- Does a path's function own a context? -/
def pathOwns (s : State) (path ctx : Nat) : Bool := pathAll path || ownsCtx s path ctx

/-- The contexts in a map's keys that a function owns. -/
def bcnReadable (s : State) (path b : Nat) : Bool :=
  pathAll path ||
  (s.helm.sig ++ s.helm.wait).any (fun e => ownsCtx s path e.1 && inRange e.2 b)

/-- Is a Heading entry readable by a path (20 R451)? -/
def hdgReadable (s : State) (path h : Nat) : Bool :=
  pathAll path || s.helm.hdgRange.any (fun e => ownsCtx s path e.1 && decide (e.2.1 ≤ h) && decide (h < e.2.1 + e.2.2))

/-- The loaded route that PEL_MODEL_SEL of an instance selects, when a context of the instance's function loaded it
(18 R421). -/
def selRoute (s : State) (copy : Nat) : Option Route :=
  let v := regRaw s copy 0xC0060
  match modelOf s (v % 4096) with
  | some m => if copy = i3cPath ∨ ownsCtx s copy m.owner then (if v.testBit 12 then batchRoute m else berthRoute m) else none
  | none => none

/-! ### MER_, FLT_, MEM_, PEL_, BIN_, PCI_, I3C_ -/

/-- The servo's state code (13 R329). -/
def servoCode : Servo → Nat
  | .free => 0 | .acquire => 1 | .locked => 2 | .slewing => 3 | .holdover => 4

/-- MER_STAT (13): its W1C flags are the stored word; SLEWING says that the phase term is beyond ±100 ppm. -/
def merStat (s : State) : Nat :=
  s.ms.utcOff % 2 ^ 16 * 2 ^ 16 + bitAt s.ms.utcValid 15 + servoCode s.ms.servo * 2 ^ 12 + bitAt s.ms.traceable 11 +
  bitAt s.ms.primaryB 10 + bitAt (decide (500 * nsU < 1000000 * s.ms.phase.natAbs)) 9 + rget s 0x90004 % 64

/-- The oldest entry of a capture FIFO. -/
def capHead (s : State) (i : Nat) : Mer × Bool :=
  match s.ms.ins[i]? with
  | some c => c.fifo.headD (0, false)
  | none => (0, false)

/-- A word of the MER_IN_ group of input i (13 R338). -/
def capWord (s : State) (i w raw : Nat) : Nat :=
  let (t, rise) := capHead s i
  match w with
  | 0 => raw + (match s.ms.ins[i]? with | some c => c.fifo.length % 8 | none => 0)
  | 1 => merSec t % 2 ^ 32
  | 2 => merNs t
  | _ => merFrac t + bitAt rise 16

/-- FLT_PEER of chip c: MEMBER, ALT_EN and the ports are stored, UP is the link's. -/
def peerWord (s : State) (c raw : Nat) : Nat :=
  raw + bitAt (match mget s.fleet.peers c with | some p => p.up | none => false) 30

/-- DEVICE events in the last 10 s (16 R385). -/
def devIn10s (s : State) : Nat := (s.bin.devTimes.filter (fun t => decide (s.clk.shadow < t + 10 * secU))).length

/-- Is a request in the journal queue waiting for its recheck (16 R379)? -/
def awaitsRecheck (s : State) (k : CmdKey) : Bool :=
  match findCmd s k with
  | some c => (match c.req with | some r => decide (dClass c.desc = 2) && r.fixWritten && !r.recheckDone | none => false)
  | none => s.streams.any (fun e => e.2.key == k && e.2.safe &&
      (match e.2.unit with
       | some u => (match u.req with | some r => r.fixWritten && !r.recheckDone | none => false)
       | none => false))

/-- BIN_STAT (16). -/
def binStat (s : State) : Nat :=
  bitAt s.bin.safe 31 + bitAt s.bin.safeN 30 + bitAt s.bin.fallback 29 + bitAt (debugEn s) 28 +
  satTo 255 (devIn10s s) * 2 ^ 16 + s.bin.cause % 256 * 2 ^ 8 +
  satTo 255 (s.log.queue.filter (awaitsRecheck s)).length

/-- PCI_LINK_STAT (19). -/
def pciStat (s : State) : Nat := s.pci.width % 16 * 2 ^ 16 + s.pci.speed % 16 * 2 ^ 12 + bitAt s.pci.dlUp 11

/-- I3C_STAT (19 R430). -/
def i3cStat (s : State) : Nat :=
  (match s.i3c.da with | some a => 2 ^ 31 + a % 128 * 2 ^ 24 | none => 0) + bitAt s.i3c.ibiEn 23 + rget s 0xF0100 % 32

/-- Is a receive or transmit port, or a channel, held by a binding (12)? -/
def rxLocked (s : State) (p : Nat) : Bool := s.streams.any (fun e => decide (e.1 / 16 = p))
def txLocked (s : State) (p : Nat) : Bool := s.streams.any (fun e => decide (e.2.tx / 16 = p))

/-- HALTED of HELM_DBG_CTL (18 R422). -/
def haltedMask (s : State) : Nat := (s.helm.cores.zipIdx.map (fun x => bitAt x.1.halted x.2)).foldl (· + ·) 0

/-! ### The read value -/

/-- Word i of 2^k-spaced arrays: the index of an offset. -/
def arrIdx (off base step : Nat) : Nat := (off - base) / step

/-- Registers below 0x80000 that the device computes. -/
def lowView (s : State) (copy off raw : Nat) : Nat :=
  if off = 0x4 then s.boot.serial.toNat % 2 ^ 32
  else if off = 0x10 then s.boot.fwVersion
  else if off = 0x20 then bootStat s
  else if off = 0x24 then s.boot.readyUs
  else if off = 0x10600 then raw + haltedMask s * 2 ^ 16
  else if inArray off 0x20100 4 16 then sectMap s (arrIdx off 0x20100 4)
  else if off = 0x30014 then raw + bitAt (powerPending s) 4
  else if inArray off 0x30280 4 18 then bankStat s (arrIdx off 0x30280 4)
  else if inArray off 0x40000 4 8192 then
    let i := arrIdx off 0x40000 4
    winRead (winOf s (i / 8)) (i % 8) % 2 ^ 32
  else if off = 0x50000 then raw + runningFacets s % 512
  else if inArray off 0x60000 4 16 then sxtStat s (arrIdx off 0x60000 4)
  else if off = 0x70010 then raw + bitAt (bcnReadable s copy (raw % 32768)) 31
  else if off = 0x70014 then
    let b := regRaw s copy 0x70010 % 32768
    if bcnReadable s copy b then (mgetD s.helm.beacons b 0).toNat else 0
  else raw

/-- Registers from 0x80000 up that the device computes. -/
def highView (s : State) (copy off raw : Nat) : Nat :=
  if inArray off 0x80000 4 4 then raw + bitAt (rxLocked s (arrIdx off 0x80000 4)) 29
  else if inArray off 0x80010 4 4 then raw + bitAt (txLocked s (arrIdx off 0x80010 4)) 29
  else if inArray off 0x80100 4 64 then raw + bitAt (mget s.streams (arrIdx off 0x80100 4)).isSome 31
  else if off = 0x90004 then merStat s
  else if decide (0x90200 ≤ off) && decide (off < 0x90240) then capWord s (arrIdx off 0x90200 16) (off / 4 % 4) raw
  else if off = 0x90300 then merSec s.clk.mer % 2 ^ 32
  else if inArray off 0xA0100 4 32 then peerWord s (arrIdx off 0xA0100 4) raw
  else if off = 0xA0008 then raw + bitAt s.fleet.stopped 28
  else if off = 0xB0000 then
    bitAt s.boot.trained1 9 + bitAt s.boot.trained0 8 + (if s.boot.passed < 7 then 0 else s.boot.memProfile % 256)
  else if off = 0xC0044 then s.pel.wp % 2 ^ 32
  else if off = 0xC0054 then (if s.boot.passed < 7 then 0 else s.boot.wakeMib % 2 ^ 13)
  else if off = 0xC0064 then (match selRoute s copy with | some r => 2 ^ 31 + r.base % 2 ^ 29 | none => 0)
  else if off = 0xC0068 then (match selRoute s copy with | some r => fieldOf (routeDigest r) 0 4 | none => 0)
  else if off = 0xD0000 then binStat s
  else if off = 0xF0000 then pciStat s
  else if off = 0xF0100 then i3cStat s
  else raw

/-- The value that a read of a register instance returns. -/
def regView (s : State) (copy off : Nat) : Nat :=
  let raw := regRaw s copy off
  if off < 0x80000 then lowView s copy off raw else highView s copy off raw

/-! ### The device report (17 R410, R411) -/

/-- Bytes 0 to 383 of the report with J rows to follow. -/
def reportFixed (s : State) (nonce j : Nat) : List Byte :=
  b4 0x74394152 ++ b2 1 ++ b2 0x00B0 ++ b4 (384 + 64 * j + 128) ++ b4 s.boot.fwVersion ++ fitTo 64 s.boot.fwDigest ++
  fitTo 64 s.boot.cfgDigest ++ b8 nonce ++ b8 (merSec s.clk.mer) ++ b4 (merNs s.clk.mer) ++ b2 (merFrac s.clk.mer) ++
  b2 (merStat s % 2 ^ 16) ++ b4 (rget s 0xD0004) ++ b4 (bootStat s) ++ b8 s.boot.serial.toNat ++
  ((List.range 16).map (fun k => b4 (sectMap s k))).flatten ++ ((List.range 18).map (fun k => b4 (bankStat s k))).flatten ++
  b4 s.boot.bootCount ++ b2 j ++ zeros 58

/-- The signed report: its rows, the Lodestone signature over everything before it, and 14 zero bytes. -/
def reportSigned (s : State) (nonce : Nat) (rows : List (List Byte)) : List Byte :=
  let head := reportFixed s nonce rows.length ++ rows.flatten
  head ++ fitTo 114 (Config.ed448Sign (Config.lodestoneKey s.boot.serial.toNat) head) ++ zeros 14

end Sys2Proof.Machine
end

