-- ==== Sys2Proof/Machine/Commands.lean ====
section
/-! DEFINITION. Commands that run on the Helm cores: SOLVE, SOLVE_BATCH and ESTIMATE becoming launchable (09 R230, R247),
Beacons and waits (R235, R236), FENCE (R237), WATCH (R238, 18 R418 to R420), ATTEST (R239). -/

namespace Sys2Proof.Machine
open Sys2Proof

/-- The trace unit of the Helm core that serves a context (18 R416). -/
def helmUnit (ctx : Nat) : Nat := 0x10 + Config.helmCoreOf ctx % 8

/-! ### Solve commands -/

/-- A solve command becomes launchable: its ring, window and Heading entries let it launch (09 R247). A batch problem's
input is read now; a berth command's when its berth is placed. -/
def takeSolve (s : State) (k : CmdKey) (op : Nat) : State :=
  match runnable s k op with
  | none => s
  | some c =>
    if c.launchableAt.isSome ∨ c.cover.isSome then s
    else
      let s := putCmd s { c with phase := .ready, launchableAt := some s.clk.mer }
      if op = 0x11 then emit s (.hostRead (fnFor s k.ctx) (dInAddr c.desc) (dInLen c.desc * 64)) else s

/-- SOLVE. -/
def doSolve (s : State) (k : CmdKey) : State := takeSolve s k 0x10
/-- SOLVE_BATCH. -/
def doSolveBatch (s : State) (k : CmdKey) : State := takeSolve s k 0x11
/-- ESTIMATE. -/
def doEstimate (s : State) (k : CmdKey) : State := takeSolve s k 0x12

/-! ### Beacons (09 R235, R245) -/

/-- The value of a Beacon. -/
def beaconOf (s : State) (b : Nat) : Word := mgetD s.helm.beacons b 0

/-- SET or RAISE a Beacon: the value after it. -/
def beaconNext (s : State) (b : Nat) (v : Word) (raise : Bool) : Word :=
  if raise && !ahead v (beaconOf s b) then beaconOf s b else v

/-- Signal a Beacon: who signalled is kept for the record of a wait that it ends (18 R416). -/
def signalBeacon (s : State) (b : Nat) (v : Word) (raise : Bool) (who : Nat) (seq : Word) (remote : Bool) : State :=
  let n := beaconNext s b v raise
  let by0 := if n = beaconOf s b then s.helm.bcnBy else mset s.helm.bcnBy b (who, seq, remote)
  s.setHelm { s.helm with beacons := mset s.helm.beacons b n, bcnBy := by0 }

/-- ARG0 of a KIND 0x12 record. -/
def signalArg (s : State) (b : Nat) (v : Word) (raise : Bool) : Nat :=
  b % 32768 + bitAt raise 15 + bitAt (decide (beaconNext s b v raise ≠ beaconOf s b)) 16

/-- A command's own Beacon signal in the Beacon step of its commit, with its trace record from the Binnacle. -/
def commitSignal (s : State) (k : CmdKey) (b : Nat) (v : Word) (raise : Bool) : State :=
  let s := traceCmd s 0x12 0 0x20 k s.clk.chipAk (signalArg s b v raise) (beaconNext s b v raise).toNat
  signalBeacon s b v raise k.ctx k.seq false

/-! ### BEACON_WAIT (09 R236) -/

/-- The Beacon and the value that a BEACON_WAIT names. -/
def waitTarget (d : Line) : Nat := leField d 36 2 % 32768
def waitValue (d : Line) : Word := BitVec.ofNat 32 (leField d 40 4)

/-- Is a value equal to or ahead of the one awaited? -/
def waitMet (s : State) (d : Line) : Bool :=
  let v := beaconOf s (waitTarget d)
  decide (v = waitValue d) || ahead v (waitValue d)

/-- The timeout of a BEACON_WAIT. -/
def waitTimeout (s : State) (d : Line) : Option Mer :=
  if (leField d 34 1).testBit 0 then some (completeTime s (dDlSec d) (dDlNs d)) else none

/-- Meridian nanoseconds since a moment, truncated and saturating. -/
def nsSince (s : State) (t : Mer) : Nat := satTo (2 ^ 32 - 1) ((stamp s - t) / nsU)

/-- BEACON_WAIT: every earlier command of the ring has committed, and the wait begins. -/
def doBeaconWait (s : State) (k : CmdKey) : State :=
  match runnable s k 0x41 with
  | none => s
  | some c =>
    if !ringHead s k then s
    else
      let s := traceCmd s 0x10 0 (helmUnit k.ctx) k s.clk.chipAk (waitTarget c.desc) (waitValue c.desc).toNat
      putCmd s { c with phase := .waiting, since := stamp s }

/-- The waiting command of an opcode, on a served context. -/
def waitingCmd (s : State) (k : CmdKey) (op : Nat) : Option Cmd :=
  match findCmd s k with
  | some c => if decide (opOf c.desc = op) && decide (c.phase = .waiting) && canServe s k.ctx then some c else none
  | none => none

/-- Who made the last change of a Beacon. -/
def signaller (s : State) (b : Nat) : Nat × Word × Bool := mgetD s.helm.bcnBy b (0, 0, false)

/-- BEACON_WAIT_SATISFIED: the value is met and every earlier command has committed. -/
def doBeaconWaitSatisfied (s : State) (k : CmdKey) : State :=
  match waitingCmd s k 0x41 with
  | none => s
  | some c =>
    let late := match waitTimeout s c.desc with | some t => decide (t ≤ s.clk.mer) | none => false
    if !waitMet s c.desc || !ringHead s k || late then s
    else
      let b := waitTarget c.desc
      let (who, seq, remote) := signaller s b
      let s := traceCmd s 0x11 (bitAt remote 1) (helmUnit k.ctx) k s.clk.chipAk (b + who * 2 ^ 16) seq.toNat
      fileReq s c { plainReq s 0 (beaconOf s b).toNat (nsSince s c.since) 0 0 with charge := c.chargeDue }

/-- BEACON_WAIT_TIMEOUT: the timeout passes first, whether the wait has begun or not. -/
def doBeaconWaitTimeout (s : State) (k : CmdKey) : State :=
  match findCmd s k with
  | none => s
  | some c =>
    let began := decide (c.phase = .waiting)
    let due := match waitTimeout s c.desc with | some t => decide (t ≤ s.clk.mer) | none => false
    if opOf c.desc ≠ 0x41 ∨ !(began || waitingToRun c) ∨ !due ∨ !ready s ∨ servedHalted s k.ctx then s
    else
      let b := waitTarget c.desc
      let v := (beaconOf s b).toNat
      let s := if began then traceCmd s 0x11 1 (helmUnit k.ctx) k s.clk.chipAk b v else s
      fileReq s c { plainReq s 0x40 v (if began then nsSince s c.since else 0) 0 0 with charge := c.chargeDue }

/-! ### FENCE (09 R237) -/

/-- FENCE: the command takes its place and waits for its condition. -/
def doFence (s : State) (k : CmdKey) : State :=
  match runnable s k 0x42 with
  | some c => putCmd s { c with phase := .waiting, since := stamp s }
  | none => s

/-- Does a fence's condition hold: every earlier command of its ring, and with SCOPE 1 of its context, has committed? -/
def fenceHolds (s : State) (c : Cmd) : Bool :=
  ringHead s c.key &&
  (!(leField c.desc 34 1).testBit 0 || s.cmds.all (fun e => decide (e.key.ctx ≠ c.key.ctx) || decide (c.order ≤ e.order)))

/-- FENCE_COMPLETE. -/
def doFenceComplete (s : State) (k : CmdKey) : State :=
  match waitingCmd s k 0x42 with
  | some c => if fenceHolds s c then fileReq s c { plainReq s 0 0 0 0 0 with charge := c.chargeDue } else s
  | none => s

/-! ### WATCH (09 R238; 18 R418 to R420) -/

/-- A watch just armed from its descriptor. -/
def newWatch (k : CmdKey) (d : Line) : Watch :=
  { key := k, target := ⟨k.ctx, leField d 35 1 % 8, BitVec.ofNat 32 (leField d 36 4)⟩, dump := decide (leField d 34 1 = 0),
    step := leField d 40 4, addr := leField d 44 4 % 2 ^ 29, len := leField d 48 4, outAddr := dOutAddr d,
    outLen := dOutLen d, run := 0, fired := false, copying := false, firedAt := 0, firedAk := 0, torn := none,
    killed := false, origin := 0xFFFF, plot := none, copied := 0, truncated := false, taps := [] }

/-- WATCH: arm, when one of the 64 watches is free; a target already behind DONE is reported at once. -/
def doWatch (s : State) (k : CmdKey) : State :=
  match runnable s k 0x50 with
  | none => s
  | some c =>
    if s.pel.watches.length ≥ 64 then s
    else
      let w := newWatch k c.desc
      if ahead (ringOf s w.target.ctx w.target.ring).done w.target.seq then
        let s := emitWatchHdr s w true false 0
        fileReq s c { plainReq s 0 64 0 0 0 with charge := c.chargeDue }
      else
        let s := s.setPel { s.pel with watches := s.pel.watches ++ [w] }
        fileReq s c { plainReq s 0 0 0 0 0 with charge := c.chargeDue }

/-- Replace an armed watch. -/
def putWatch (s : State) (w : Watch) : State :=
  s.setPel { s.pel with watches := s.pel.watches.map (fun x => if x.key == w.key then w else x) }

/-- The armed watch of a WATCH command. -/
def findWatch (s : State) (k : CmdKey) : Option Watch := s.pel.watches.find? (fun w => w.key == k)

/-- COPIED: LEN cut to the buffer and to the watched run's Plot (18 R418). -/
def watchLen (w : Watch) (plotLen : Nat) : Nat :=
  let room := w.outLen * 64 - 64
  let n := if w.len < room then w.len else room
  if plotLen - w.addr < n then plotLen - w.addr else n

/-- The value of a tapped element (18 R419, 06 R145). -/
def tapVal (x : Tap) : Num :=
  if 0 < blockOf x.code then decodeBlock 8 (leNat x.bytes) x.blockExp
  else match fmtOfCode x.code with
    | some f => (decode f (leNat x.bytes)).1
    | none => .nan

/-- A STATS block (18 R419) of the elements that the step stored, in increasing address order; FMT is 0 when it stored none (log 142). -/
def statsBytes (xs : List Tap) : List Byte :=
  let vs := xs.map tapVal
  let ns := vs.filter (fun v => !v.isNan)
  let pat (v : Num) : Nat := patOf .b64 v
  let mn := match ns with | [] => Num.nan | v :: r => r.foldl minX v
  let mx := match ns with | [] => Num.nan | v :: r => r.foldl maxX v
  let sum := ns.foldl (fun a v => (addR .b64 false a v).1) (Num.zero false)
  let mean := if ns.isEmpty then Num.nan else (divR .b64 false sum (.fin false ns.length 0)).1
  b1 ((xs.head?.map (·.code)).getD 0) ++ zeros 3 ++ b4 vs.length ++ b4 (vs.length - ns.length) ++ b4 0 ++ b8 (pat mn) ++ b8 (pat mx) ++ b8 (pat mean) ++
  shake256 ((xs.map (·.bytes)).flatten) 8 ++ zeros 16

/-- The payload of a watch's result, behind the header's place in its buffer. -/
def watchPayload (s : State) (w : Watch) (bs : List Byte) : State :=
  emit s (.memWrite (fnFor s w.key.ctx) (w.outAddr + 64) bs)

/-- The first Plot range of the berth of a run with an origin: where it begins and its lines. -/
def plotOf (r : Run) (org : Nat) : Option (Nat × Nat) :=
  match (splitPlots r.route r.berths r.plots).find? (fun x => decide (x.1.origin = org)) with
  | some (_, p :: _) => some (plotBase p, p.lines)
  | _ => none

/-- WATCH_FIRE: the berth of the watched run with an origin ends route step `step`. When that is STEP, a DUMP copy starts, whose first reads
may correct words, or the summary of what STEP stored is written. -/
def doWatchFire (s : State) (k : CmdKey) (step org : Nat) (words : List Nat) : State :=
  match findWatch s k with
  | none => s
  | some w =>
    match findRun s w.target, findCmd s w.target with
    | some r, some c =>
      if !launched s r || decide (r.phase = .done) || (w.fired && !w.killed) || decide (step ≠ w.step) ||
          !r.berths.any (fun b => decide (b.origin = org)) then s
      else
        let s := if w.dump then feedEcc s words else s
        let (base, lines) := (plotOf r org).getD (0, 0)
        let n := watchLen w (lines * 2048)
        let w := { w with
          fired := true, killed := false, run := c.runs, firedAt := stampR s, firedAk := sinceLaunch s r,
          origin := org, torn := none, truncated := false, copying := w.dump,
          plot := some (base + w.addr, n), copied := if w.dump then n else 64 }
        if w.dump then putWatch s w
        else
          putWatch (emitWatchHdr (watchPayload s w (statsBytes w.taps)) w false false 64) { w with taps := [] }
    | _, _ => s

/-- End a copy after n bytes, as the Chart holds them now (log 142): the bytes, then the header. -/
def endCopy (s : State) (w : Watch) (n : Nat) (cut : Bool) : State :=
  let n := if n < w.copied then n else w.copied
  let base := (w.plot.map (·.1)).getD 0
  let torn := match w.torn with | some o => if o < n then some o else none | none => none
  let w := { w with copying := false, torn := torn, truncated := cut, copied := n }
  putWatch (emitWatchHdr (watchPayload (countChartRd s base n) w (chartGet s base n)) w false w.killed n) w

/-- WATCH_COPY_END: the copy has read all its bytes, or met an uncorrectable word `lost` bytes after its start, which ends the transfer
(08 R206, R207). DESIGN CHOICE (log 142): chapter 18 gives such a copy no status, and the model shows it as cut there. -/
def doWatchCopyEnd (s : State) (k : CmdKey) (words : List Nat) (lost : Option Nat) : State :=
  match findWatch s k with
  | some w => if w.copying then endCopy (feedEcc s words) w (lost.getD w.copied) lost.isSome else s
  | none => s

/-- WATCH_TRUNCATE: 10 ms after its step a copy that has not finished stops, after n bytes. -/
def doWatchTruncate (s : State) (k : CmdKey) (n : Nat) (words : List Nat) : State :=
  match findWatch s k with
  | some w => if w.copying ∧ n < w.copied ∧ w.firedAt + 10000000 * nsU ≤ s.clk.mer then endCopy (feedEcc s words) w n true else s
  | none => s

/-- Does a watch still copy the run that now commits? Its buffer must be whole before the record is posted (18 R420). -/
def watchCopying (s : State) (k : CmdKey) : Bool :=
  s.pel.watches.any (fun w => w.target == k && w.copying && !w.killed)

/-- The watches of a committing command expire: one whose last run never reached STEP reports NOT_REACHED (18 R420). -/
def expireWatches (s : State) (k : CmdKey) (runs : Nat) (origin : Nat) : State :=
  let s := s.pel.watches.foldl (fun s w =>
    if w.target == k && !(w.fired && !w.killed) then
      let org := if runs = 0 then 0xFFFF else origin
      emitWatchHdr s { w with fired := false, torn := none, truncated := false, run := runs, origin := org } true false 0
    else s) s
  s.setPel { s.pel with watches := s.pel.watches.filter (fun w => !(w.target == k)) }

/-! ### ATTEST (09 R239, 17 R410, 04 R115) -/

/-- ATTEST: the device report, or a certificate signed afresh. -/
def doAttest (s : State) (k : CmdKey) : State :=
  match runnable s k 0x60 with
  | none => s
  | some c =>
    let nonce := leField c.desc 40 8
    let finish (bs : List Byte) : State :=
      fileReq (hostWrite s c bs) c { plainReq s 0 bs.length 0 0 0 with charge := c.chargeDue }
    if leField c.desc 34 1 = 0 then
      finish (reportSigned s nonce c.rows)
    else
      let n := dModel c.desc % 4096
      let route := match modelOf s n with
        | some m => if (leField c.desc 35 1).testBit 0 then batchRoute m else berthRoute m
        | none => none
      match modelOf s n, route with
      | some m, some r => if unloadStands s c then fileStatus s c 0x31 else finish (certBytes s n m.sig r true nonce)
      | _, _ => fileStatus s c 0x31

def execSolveCmd (k : CmdKey) (s : State) : Res := .next (doSolve s k)
def execSolveBatch (k : CmdKey) (s : State) : Res := .next (doSolveBatch s k)
def execEstimateCmd (k : CmdKey) (s : State) : Res := .next (doEstimate s k)
def execBeaconWait (k : CmdKey) (s : State) : Res := .next (doBeaconWait s k)
def execBeaconWaitSatisfied (k : CmdKey) (s : State) : Res := .next (doBeaconWaitSatisfied s k)
def execBeaconWaitTimeout (k : CmdKey) (s : State) : Res := .next (doBeaconWaitTimeout s k)
def execFenceCmd (k : CmdKey) (s : State) : Res := .next (doFence s k)
def execFenceComplete (k : CmdKey) (s : State) : Res := .next (doFenceComplete s k)
def execWatchCmd (k : CmdKey) (s : State) : Res := .next (doWatch s k)
def execWatchFire (k : CmdKey) (step org : Nat) (words : List Nat) (s : State) : Res := .next (doWatchFire s k step org words)
def execWatchCopyEnd (k : CmdKey) (words : List Nat) (lost : Option Nat) (s : State) : Res := .next (doWatchCopyEnd s k words lost)
def execWatchTruncate (k : CmdKey) (n : Nat) (words : List Nat) (s : State) : Res := .next (doWatchTruncate s k n words)
def execAttestCmd (k : CmdKey) (s : State) : Res := .next (doAttest s k)

end Sys2Proof.Machine
end

