-- ==== Sys2Proof/Machine/Schedule.lean ====
section
/-! DEFINITION. The Helm cores' scheduler: context states and residency (10 R257 to R259), share accounting (R261, R262),
the scheduling round (R263), quota placement with kills (R265), share pre-emption (R267), fixing a launch cycle with the
late check (04 R101, 11 R287), queued deadlines, and TIMED_LAUNCH (09 R234, 11 R291, R292). -/

namespace Sys2Proof.Machine
open Sys2Proof

/-! ### Costs and deadlines -/

/-- The route a solve command runs. -/
def cmdRoute (s : State) (d : Line) : Option (Model × Route) :=
  match modelOf s (dModel d % 4096) with
  | none => none
  | some m => ((if opOf d = 0x11 then batchRoute m else berthRoute m)).map (fun r => (m, r))

/-- Does a command state its own ADMM penalty (03 R76)? -/
def ownRho (d : Line) : Bool := decide (dRho d ≠ 0)

/-- The iteration limit in force (03 R87). -/
def limitOf (d : Line) (r : Route) : Nat := if dIterLimit d = 0 then r.iterLimit else dIterLimit d

/-- Twice the facets that a run of a command holds: half a facet for a batch slot (10 R261). -/
def halfFacets (d : Line) (r : Route) : Nat :=
  if opOf d = 0x11 then 1 else 2 * r.berthW * r.berthH * (if dDual d then 2 else 1)

/-- The expected cost of a command in whole facet-nanoseconds (10 R262). -/
def expectedCost (d : Line) (r : Route) : Nat := halfFacets d r * 5 * routeCount r (limitOf d r) (ownRho d) / 8

/-- AK cycles before the first candidate and the margin: SETUP_AK, SETUP_EXTRA_AK where it counts, MARGIN_AK (04 R101). -/
def needAk (d : Line) (r : Route) : Nat := r.setupAk + (if ownRho d then r.setupExtra else 0) + marginAk r

/-- Has a command a budget, a Meridian deadline (04 R93)? -/
def hasBudget (d : Line) : Bool := decide (dMode d = 2) || decide (dMode d = 3)
def hasMeridian (d : Line) : Bool := decide (dMode d = 1) || decide (dMode d = 3)

/-- The check of 04 R101 at a launch cycle of a given Meridian time. -/
def tooLate (c : Cmd) (r : Route) (launch : Mer) : Bool :=
  (hasBudget c.desc && decide (dBudget c.desc < needAk c.desc r)) ||
  (match c.deadline with
   | some t => decide (t < launch + needAk c.desc r * 5 * nsU / 2)
   | none => false)

/-- The effective deadline of a quota command (10 R265). -/
def effDeadline (s : State) (c : Cmd) : Mer :=
  match c.deadline with
  | some t => t
  | none => (c.launchableAt.getD s.clk.mer) + nominalAk (dBudget c.desc)

/-! ### Context states and residency (10 R257 to R259) -/

/-- Has a ring announced slots that it has not accepted? -/
def ringBehind (r : Ring) : Bool := decide ((r.tail - r.head).toNat < 2 ^ 31)

/-- Could a ring fetch, residency apart? -/
def couldFetch (r : Ring) : Bool := r.enable && !r.stopped && wantsFetch r

/-- The state that 10 R257 gives a context. -/
def stateOfCtx (s : State) (ctx : Nat) : CtxState :=
  let rings := (List.range 8).map (fun i => ringOf s ctx i)
  let active := s.cmds.any (fun c => decide (c.key.ctx = ctx))
  let launchable := s.cmds.any (fun c => decide (c.key.ctx = ctx) && waitingToRun c && mayStart s c)
  if launchable || rings.any couldFetch then .runnable
  else if active || rings.any ringBehind then .blocked
  else .idle

/-- The snapshot of a round: every context's state, and an UPDATE that now takes effect (10 R254). -/
def snapshotStates (s : State) : State :=
  s.setHelm { s.helm with ctxs := s.helm.ctxs.map (fun e =>
    let st := stateOfCtx s e.1
    let c := match e.2.upd with
      | some (sh, q) => { e.2 with shares := sh, quota := q, upd := none }
      | none => e.2
    (e.1, if st = c.st then c else { c with st := st, since := s.clk.mer })) }

/-- Does a context hold an accepted SAFE or FIRM command or a binding, so that it is never evicted (10 R258, 12 R300)? -/
def neverEvicted (s : State) (ctx : Nat) : Bool :=
  s.cmds.any (fun c => decide (c.key.ctx = ctx) && isSolve c.desc && decide (dClass c.desc ≠ 0)) ||
  s.streams.any (fun e => decide (e.2.key.ctx = ctx))

/-- Is context a the better victim: a lower balance, longer in its state, a lower number? -/
def victimBefore (a b : Nat × Ctx) : Bool :=
  if a.2.balance ≠ b.2.balance then decide (a.2.balance < b.2.balance)
  else if a.2.since ≠ b.2.since then decide (a.2.since < b.2.since)
  else decide (a.1 < b.1)

/-- The best victim of a list. -/
def bestVictim : List (Nat × Ctx) → Option (Nat × Ctx)
  | [] => none
  | a :: r => match bestVictim r with
    | none => some a
    | some b => some (if victimBefore a b then a else b)

/-- The resident contexts. -/
def residents (s : State) : List (Nat × Ctx) := s.helm.ctxs.filter (fun e => e.2.resident)

/-- The lowest free slot. -/
def freeSlotNo (s : State) : Option Nat := (List.range 64).find? (fun i => (residents s).all (fun e => decide (e.2.slot ≠ i)))

/-- EVICT_WAIT, in Meridian time. -/
def evictWait (s : State) : Mer := nbits (rget s 0x10008) 7 0 * 10 * usU

/-- The slot of 10 R258 for a runnable context: free, or another context's. -/
def chooseSlot (s : State) (c : Ctx) : Option (Nat × Option Nat) :=
  match freeSlotNo s with
  | some i => some (i, none)
  | none =>
    let rs := residents s
    let open0 := rs.filter (fun e => !neverEvicted s e.1)
    let take (l : List (Nat × Ctx)) : Option (Nat × Option Nat) := (bestVictim l).map (fun e => (e.2.slot, some e.1))
    let idle := open0.filter (fun e => decide (e.2.st = .idle))
    if !idle.isEmpty then take idle
    else if rs.all (fun e => decide (e.2.st = .blocked)) then take open0
    else if c.since + evictWait s < s.clk.mer then take (open0.filter (fun e => decide (e.2.st = .runnable)))
    else none

/-! ### Batch units (10 R270, R272) -/

/-- Kill a unit of a batch: every problem in it, then the unit (10 R272). -/
def killUnit (s : State) (bi : Nat) (u : BatchUnit) (cause : Nat) : State :=
  let s := (u.slots.filterMap id).foldl (fun s k => match findRun s k with
    | some r => killRun s r cause false
    | none => s) s
  match s.batches[bi]? with
  | none => s
  | some b =>
    match b.units.find? (fun v => v.berth == u.berth) with
    | none => s
    | some v =>
      if v.slots.any (·.isSome) then s
      else
        let s := emptyFacets (closeWins s v.wins) u.berth.facets
        s.setBatches (lset s.batches bi { b with units := b.units.filter (fun x => !(x.berth == u.berth)) })

/-- Drop batches that hold no unit and no problem. -/
def dropEmptyBatches (s : State) : State := s.setBatches (s.batches.filter (fun b => !b.units.isEmpty))

/-- Kill every unit of the batches that a test names. -/
def killBatches (s : State) (p : Batch → Bool) (cause : Nat) : State :=
  dropEmptyBatches ((s.batches.zipIdx.filter (fun x => p x.1)).foldl (fun s x =>
    x.1.units.foldl (fun s u => killUnit s x.2 u cause) s) s)

/-- The host address of a context's block (10 R251). -/
def blockAddr (s : State) (ctx : Nat) : Nat := rget s 0x10004 * 2 ^ 32 + rget s 0x10000 + 512 * ctx

/-- A signed 64-bit number as a pattern. -/
def pat64 (n : Int) : Nat := (BitVec.ofInt 64 n).toNat

/-- CONTEXT_EVICT (10 R259): kill its berths, save its balance and charged total, free its slot. -/
def evict (s : State) (ctx : Nat) : State :=
  let s := killBatches s (fun b => decide (b.ctx = ctx)) causeEvict
  let s := killRuns s (fun r => decide (r.key.ctx = ctx) && r.stream.isNone && r.slot.isNone) causeEvict
  match ctxOf s ctx with
  | none => s
  | some c =>
    let s := emit s (.memWrite 0 (blockAddr s ctx + 320) (b8 (pat64 c.balance) ++ b8 c.charged))
    let s := (List.range 8).foldl (fun s i => let r := ringOf s ctx i; setRing s ctx i { r with next := r.head }) s
    s.setHelm { s.helm with ctxs := mset s.helm.ctxs ctx { c with resident := false, saved := true } }

/-- CONTEXT_RESIDENCY: a runnable context gets a slot; `block` is what its block's SAVE_BALANCE and SAVE_CHARGED read as,
none for a read that fails (15 R356). -/
def doContextResidency (s : State) (ctx : Nat) (block : Option (Int × Nat)) : State :=
  match ctxOf s ctx with
  | none => s
  | some c =>
    if c.resident ∨ c.st ≠ .runnable ∨ !ready s ∨ s.fleet.stopped then s
    else match chooseSlot s c with
      | none => s
      | some (slot, victim) =>
        let s := match victim with | some v => evict s v | none => s
        match c.saved, block with
        | true, none =>
          raiseEvent (s.setHelm { s.helm with ctxResetDue := s.helm.ctxResetDue ++ [ctx] })
            { cls := 4, cause := 0x21, unitKind := 4, key := some ⟨ctx, 0, 0⟩ }
        | true, some (b, ch) =>
          let c' := { c with resident := true, slot := slot, balance := b, charged := ch, saved := false }
          pumpCtx (s.setHelm { s.helm with ctxs := mset s.helm.ctxs ctx c' }) ctx
        | false, _ =>
          pumpCtx (s.setHelm { s.helm with ctxs := mset s.helm.ctxs ctx { c with resident := true, slot := slot } }) ctx

/-! ### Fixing a launch cycle (04 R101, 11 R287) -/

/-- Withdraw a placement without a run: its command keeps its place. -/
def unplace (s : State) (r : Run) : State :=
  let s := releaseRun s r
  if r.isSoft then addBalance s r.key.ctx r.cost else s

/-- The Meridian time of a coming AK cycle, at the nominal clock. -/
def akTime (s : State) (ak : Nat) : Mer := stamp s + nominalAk (ak - s.clk.chipAk)

/-- Fix the launch cycle of a placed run: reserve the earliest pattern that fits; a command whose deadline the launch cannot
meet commits LATE; with no pattern in the table it waits. -/
def fixLaunch (s : State) (r : Run) : State :=
  match findCmd s r.key with
  | none => s
  | some c =>
    let first := if c.waitRetry = 0 then firstStep s else c.waitRetry
    match findStep s (runPattern r) with
    | none =>
      let s := if c.waitRetry = 0 then rcount s 0x50004 31 0 1 else s
      putCmd s { c with waitRetry := first }
    | some k =>
      if tooLate c r.route (akTime s k) then fileStatus (unplace s r) { c with waitRetry := 0 } 0x40
      else
        let s := if c.waitRetry = 0 then noteWait s ((k - first) / 32)
          else (let v := rget s 0x50000
                let w := satTo 255 ((k - first) / 32)
                if nbits v 23 16 < w then rput s 0x50000 (maskIn v (w <<< 16) 0xFF0000) else s)
        let s := reserve s k (runPattern r)
        putRun (putCmd s { c with waitRetry := 0 }) { r with launchAk := k }

/-- LADDER_RETRY: a placed command that found no room in the ladder table tries again. -/
def doLadderRetry (s : State) (k : CmdKey) : State :=
  match findRun s k, findCmd s k with
  | some r, some c =>
    if r.phase = .placed ∧ r.launchAk = 0 ∧ c.waitRetry ≠ 0 ∧ c.inputIn ∧ r.armedOff = none ∧ canServe s k.ctx ∧ !s.fleet.stopped
    then fixLaunch s r else s
  | _, _ => s

/-! ### Placing a command (10 R264, R265) -/

/-- The run that a placement makes of a command. -/
def placedRun (s : State) (c : Cmd) (m : Nat) (r : Route) (p : Placement) (off : Option Nat) : Run :=
  { key := c.key, stream := none, berths := p.berths, route := r, model := m, isSoft := decide (dClass c.desc = 0),
    launchAk := 0, launchMer := 0, armedOff := off, phase := .placed, plots := p.plots, triples := p.triples,
    wins := (runWindows s c.key.ctx r p.berths p.plots).map (·.1),
    cost := if dClass c.desc = 0 then expectedCost c.desc r else 0, iter := 0,
    limit := limitOf c.desc r, phaseStart := 0, phaseEnd := 0, abandoned := false, last := none, best := none,
    bestBuf := false, prob := none, base := [], scaleD := [], scaleF := [], work := [], phase1 := none, mark := RunCounts.zero, warmFlags := 0, infP := 0, infD := 0, cert := [], rhoExp := 0, status := none,
    trap := none, trig := none, commitAt := none, waits := [], waitAk := 0, counts := RunCounts.zero, slot := none,
    chargeFrom := stampR s }

/-- The instance rows of a run in the Plot of each of its berths, at an offset into the Plot of the berth's lowest sector (02 R49; log 131). -/
def writeInst (s : State) (r : Run) (bs : List Byte) (off : Nat) : State :=
  if bs.isEmpty then s
  else r.berths.foldl (fun s b => match r.plots.find? (fun p => b.sectors.contains p.sector) with
    | some p =>
      if off + bs.length ≤ p.lines * 2048 then countChartWr (chartPut s (plotBase p + off) bs) (plotBase p + off) bs.length else s
    | none => s) s

/-- Open a run's windows (08 R214): the placement was made where they can open, so none can fail. -/
def openWins (s : State) : List (Nat × Window) → State
  | [] => s
  | (i, w) :: ws => openWins (openWin s i w) ws

/-- Put a placement in force: the run stands, its windows are open, its input is read, a SOFT command's expected cost is debited; a command that
needs no input has its launch cycle fixed at once. -/
def place (s : State) (c : Cmd) (m : Nat) (r : Route) (p : Placement) (off : Option Nat) : State :=
  let run := placedRun s c m r p off
  let ws := runWindows s c.key.ctx r p.berths p.plots
  let need := decide (0 < dInLen c.desc)
  let s := putCmd s { c with phase := if off.isSome then .armed else .placed, inputIn := !need }
  let s := s.setRuns (s.runs ++ [run])
  let s := openWins s ws
  let s := if run.isSoft then addBalance s c.key.ctx (-(run.cost : Int)) else s
  let s := if need then emit s (.hostRead (fnFor s c.key.ctx) (dInAddr c.desc) (dInLen c.desc * 64)) else s
  if need || off.isSome then s else fixLaunch s run

/-- Facets that a context's SAFE and FIRM berths hold (10 R265). -/
def quotaHeld (s : State) (ctx : Nat) : Nat :=
  ((liveRuns s).filter (fun r => decide (r.key.ctx = ctx) && !r.isSoft && r.slot.isNone && r.stream.isNone)).foldl
    (fun a r => a + runSize r) 0 +
  (s.batches.filter (fun b => decide (b.ctx = ctx) && b.quota)).foldl (fun a b => a + b.units.foldl (fun a u => a + u.berth.size) 0) 0 +
  (s.streams.filter (fun e => decide (e.2.key.ctx = ctx))).foldl (fun a e => a + e.2.berth.size) 0

/-- Is there room for n facets more in a context's quota? -/
def quotaRoom (s : State) (ctx n : Nat) : Bool :=
  match ctxOf s ctx with
  | some c => decide (quotaHeld s ctx + n ≤ c.quota)
  | none => false

/-- SOFT runs that a quota command may kill: on a berth of their own, not held by an armed launch, not past their end. -/
def softRuns (s : State) : List Run :=
  s.runs.filter (fun r => r.isSoft && r.armedOff.isNone && r.slot.isNone && r.stream.isNone && decide (r.phase ≠ .done) &&
    decide (r.commitAt ≠ some s.clk.chipAk))

/-- SOFT batch units, with their batch. -/
def softUnits (s : State) : List (Nat × BatchUnit) :=
  ((s.batches.zipIdx.filter (fun x => !x.1.quota)).map (fun x => x.1.units.map (fun u => (x.2, u)))).flatten

/-- What is held with every SOFT berth that may be killed taken away. -/
def hardOccupancy (s : State) : Occupancy :=
  let sr := softRuns s
  let su := softUnits s
  let cut (f : Run → List Nat) (g : BatchUnit → List Nat) (l : List Nat) : List Nat :=
    let gone := (sr.map f).flatten ++ (su.map (fun x => g x.2)).flatten
    l.filter (fun x => !gone.contains x)
  let goneT := (sr.map (·.triples)).flatten ++ (su.map (fun x => x.2.triples)).flatten
  let goneP := (sr.map (·.plots)).flatten ++ (su.map (fun x => x.2.plots)).flatten
  { facets := cut runFacets (fun u => u.berth.facets) (heldFacets s)
    triples := (heldTriples s).filter (fun t => !goneT.contains t)
    plots := (heldPlots s).filter (fun p => !goneP.contains p) }

/-- Do two Plot ranges meet? -/
def plotsMeet (p q : PlotRange) : Bool := decide (p.sector = q.sector) && decide (p.line < q.line + q.lines) && decide (q.line < p.line + p.lines)

/-- Does a placement need what a berth holds? -/
def conflicts (p : Placement) (fs : List Nat) (ts : List Triple) (ps : List PlotRange) : Bool :=
  p.berths.any (fun b => b.facets.any (fun g => fs.contains g)) || p.triples.any (fun t => ts.contains t) ||
  p.plots.any (fun q => ps.any (plotsMeet q))

/-- The SOFT runs and units that a placement would kill. -/
def victimRuns (s : State) (p : Placement) : List Run := (softRuns s).filter (fun r => conflicts p (runFacets r) r.triples r.plots)
def victimUnits (s : State) (p : Placement) : List (Nat × BatchUnit) :=
  (softUnits s).filter (fun x => conflicts p x.2.berth.facets x.2.triples x.2.plots)

/-- Facets that a placement would kill. -/
def killSize (s : State) (p : Placement) : Nat :=
  (victimRuns s p).foldl (fun a r => a + runSize r) 0 + (victimUnits s p).foldl (fun a x => a + x.2.berth.size) 0

/-- The placement that kills the fewest facets, the lowest origin on ties (10 R265). -/
def killPlacement (s : State) (r : Route) (dual : Bool) (avoid : List Nat) : Option Placement :=
  let o := hardOccupancy s
  let all := (List.range 256).filterMap (fun g => placeAt s o r dual avoid g)
  match all with
  | [] => none
  | p :: ps => some (ps.foldl (fun a b => if killSize s b < killSize s a then b else a) p)

/-- Make room for a placement by killing SOFT berths. -/
def killFor (s : State) (p : Placement) : State :=
  let s' := (victimUnits s p).foldl (fun t x => killUnit t x.1 x.2 causePreempt) s
  (victimRuns s p).foldl (fun t r => killRun t r causePreempt false) (dropEmptyBatches s')

/-- The placement of a quota command, after any kill it takes (10 R265, 15 R364). -/
def quotaPlacement (s : State) (r : Route) (dual : Bool) (avoid : List Nat) : Option (State × Placement) :=
  match placementFor s (occupancy s) r dual avoid with
  | some p => some (s, p)
  | none =>
    let first := if avoid.isEmpty then none else killPlacement s r dual avoid
    match (match first with | some p => some p | none => killPlacement s r dual []) with
    | none => none
    | some p =>
      let s := killFor s p
      (placementFor s (occupancy s) r dual avoid).map (fun q => (s, q))

/-- Facets a command's berths need. -/
def needFacets (d : Line) (r : Route) : Nat := r.berthW * r.berthH * (if dDual d then 2 else 1)

/-- Place one quota command if its quota and the die allow. -/
def tryQuota (s : State) (k : CmdKey) : State :=
  match findCmd s k with
  | none => s
  | some c =>
    match cmdRoute s c.desc with
    | none => s
    | some (_, r) =>
      if !quotaRoom s k.ctx (needFacets c.desc r) then s
      else match quotaPlacement s r (dDual c.desc) c.avoid with
        | none => s
        | some (s, p) => match findCmd s k with
          | some c => place s c (dModel c.desc % 4096) r p none
          | none => s

/-! ### The scheduling round (10 R263) -/

/-- Does a taken solve command wait for its allocation: not covered, its context served? -/
def awaitsBerth (s : State) (c : Cmd) : Bool :=
  decide (c.phase = .ready) && c.launchableAt.isSome && c.cover.isNone && canServe s c.key.ctx && mayStart s c && isSolve c.desc

/-- Is a berth command launchable: taken by SOLVE or ESTIMATE, not covered, its context served? -/
def launchable (s : State) (c : Cmd) : Bool := awaitsBerth s c && decide (opOf c.desc ≠ 0x11)

/-- Commands that the Helm core finds without the model they name when it comes to allocate their berths (02 R50, R51). -/
def rejectMissing (s : State) : State :=
  (s.cmds.filter (fun c => awaitsBerth s c && modelMissing s c)).foldl (fun s c => fileStatus s c 0x31) s

/-- Order of quota commands: effective deadline, SAFE before FIRM, context, ring, sequence number (10 R265). -/
def quotaBefore (s : State) (a b : Cmd) : Bool :=
  let x := effDeadline s a
  let y := effDeadline s b
  if x ≠ y then decide (x < y)
  else if dClass a.desc ≠ dClass b.desc then decide (dClass b.desc < dClass a.desc)
  else if a.key.ctx ≠ b.key.ctx then decide (a.key.ctx < b.key.ctx)
  else if a.key.ring ≠ b.key.ring then decide (a.key.ring < b.key.ring)
  else decide (a.key.seq.toNat < b.key.seq.toNat)

/-- Insert by an order. -/
def insBy (lt : Cmd → Cmd → Bool) (c : Cmd) : List Cmd → List Cmd
  | [] => [c]
  | d :: ds => if lt c d then c :: d :: ds else d :: insBy lt c ds

/-- Sort by an order. -/
def sortBy (lt : Cmd → Cmd → Bool) (cs : List Cmd) : List Cmd := cs.foldr (insBy lt) []

/-- Order of SOFT commands of a context: lower ring, then ring order (09 R247, 10 R271). -/
def softBefore (a b : Cmd) : Bool :=
  if a.key.ring ≠ b.key.ring then decide (a.key.ring < b.key.ring) else seqBefore a.key.seq b.key.seq

/-- The launchable SOFT commands of a context. -/
def softQueue (s : State) (ctx : Nat) : List Cmd :=
  sortBy softBefore (s.cmds.filter (fun c => decide (c.key.ctx = ctx) && decide (dClass c.desc = 0) && launchable s c))

/-- MIN_RUN, in Meridian time. -/
def minRun (s : State) : Mer := nbits (rget s 0x10008) 15 8 * usU

/-- Running SOFT berths that shares may pre-empt (10 R267). -/
def shareVictims (s : State) : List Run :=
  (softRuns s).filter (fun r => launched s r && ((!r.waits.isEmpty && decide (r.phase = .iterating ∨ r.phase = .setup)) || decide (r.launchMer + minRun s ≤ stamp s)))

/-- The balance of a context. -/
def balanceOf (s : State) (ctx : Nat) : Int := match ctxOf s ctx with | some c => c.balance | none => 0

/-- Order of share victims: the lowest balance, then the youngest launch. -/
def shareBefore (s : State) (a b : Run) : Bool :=
  let x := balanceOf s a.key.ctx
  let y := balanceOf s b.key.ctx
  if x ≠ y then decide (x < y) else decide (b.launchAk < a.launchAk)

/-- Insert a run by the order of share victims. -/
def insVictim (s : State) (r : Run) : List Run → List Run
  | [] => [r]
  | x :: xs => if shareBefore s r x then r :: x :: xs else x :: insVictim s r xs

/-- What is held with some runs taken away. -/
def occupancyWithout (s : State) (rs : List Run) : Occupancy :=
  let gf := (rs.map runFacets).flatten
  let gt := (rs.map (·.triples)).flatten
  let gp := (rs.map (·.plots)).flatten
  { facets := (heldFacets s).filter (fun g => !gf.contains g)
    triples := (heldTriples s).filter (fun t => !gt.contains t)
    plots := (heldPlots s).filter (fun p => !gp.contains p) }

/-- The shortest run of victims, in order, without which a placement exists. -/
def shareKill (s : State) (r : Route) (avoid : List Nat) : List Run → List Run → Option (Placement × List Run)
  | _, [] => none
  | done, v :: vs =>
    match placementFor s (occupancyWithout s (done ++ [v])) r false avoid with
    | some p => some (p, (done ++ [v]).filter (fun x => conflicts p (runFacets x) x.triples x.plots))
    | none => shareKill s r avoid (done ++ [v]) vs

/-- The placement of a SOFT command: a free one, or one that shares may clear (10 R267). -/
def softPlacement (s : State) (c : Cmd) (r : Route) : Option (State × Placement) :=
  match placementFor s (occupancy s) r false c.avoid with
  | some p => some (s, p)
  | none =>
    if balanceOf s c.key.ctx ≤ 0 then none
    else match shareKill s r c.avoid [] ((shareVictims s).foldr (insVictim s) []) with
      | none => none
      | some (_, vs) =>
        let s := vs.foldl (fun t v => killRun t v causePreempt false) s
        (placementFor s (occupancy s) r false c.avoid).map (fun q => (s, q))

/-- The inner loop of a round over one context's SOFT commands: how many launched. -/
def softLoop : Nat → State → Nat → Nat → State × Nat
  | 0, s, _, n => (s, n)
  | fuel + 1, s, ctx, n =>
    match softQueue s ctx with
    | [] => (s, n)
    | c :: _ =>
      match cmdRoute s c.desc with
      | none => (s, n)
      | some (_, r) =>
        if balanceOf s ctx < (expectedCost c.desc r : Int) then (s, n)
        else match softPlacement s c r with
          | none => (s, n)
          | some (s, p) => softLoop fuel (place s c (dModel c.desc % 4096) r p none) ctx (n + 1)

/-- QUANTUM. -/
def quantum (s : State) : Nat := nbits (rget s 0x10008) 31 16

/-- Does a context wait with a SOFT problem of a batch (10 R271)? -/
def softBatchWaits (s : State) (ctx : Nat) : Bool :=
  s.cmds.any (fun c => decide (c.key.ctx = ctx) && decide (opOf c.desc = 0x11) && decide (dClass c.desc = 0) &&
    decide (c.phase = .ready) && c.launchableAt.isSome)

/-- Serve one resident slot. -/
def serveSlot (s : State) (i : Nat) : State :=
  match (residents s).find? (fun e => decide (e.2.slot = i)) with
  | none => s
  | some (ctx, c) =>
    let setBal (b : Int) : State := s.setHelm { s.helm with ctxs := mset s.helm.ctxs ctx { c with balance := b } }
    if (softQueue s ctx).isEmpty && !softBatchWaits s ctx then setBal (if c.balance < 0 then c.balance else 0)
    else
      let q : Int := (quantum s * c.shares : Nat)
      let s := setBal (if c.balance + q < 2 * q then c.balance + q else 2 * q)
      let (s, n) := softLoop s.cmds.length s ctx 0
      if n = 0 then s else s.setHelm { s.helm with lastSlot := i }

/-- SCHEDULING_ROUND. -/
def doSchedulingRound (s : State) : State :=
  if !ready s || s.fleet.stopped then s
  else
    let s := rejectMissing (snapshotStates s)
    let quota := sortBy (quotaBefore s) (s.cmds.filter (fun c => decide (dClass c.desc ≠ 0) && launchable s c))
    let s := quota.foldl (fun s c => tryQuota s c.key) s
    let start := s.helm.lastSlot + 1
    (List.range 64).foldl (fun s i => serveSlot s ((start + i) % 64)) s

/-- QUEUED_DEADLINE_EXPIRY: a Meridian deadline passes before the command's berth is allocated (04 R101). While its Helm core is
halted the Binnacle files the request itself, for a FIRM command (18 R422). -/
def doQueuedDeadlineExpiry (s : State) (k : CmdKey) : State :=
  match findCmd s k with
  | none => s
  | some c =>
    match c.deadline with
    | none => s
    | some t => if waitingToRun c ∧ t < s.clk.mer ∧ ready s ∧ (!servedHalted s k.ctx ∨ dClass c.desc = 1) then fileStatus s c 0x40 else s

/-! ### TIMED_LAUNCH (09 R234, 11 R291, R292) -/

/-- The launch time t_L. -/
def launchTime (s : State) (d : Line) : Mer := completeTime s (dDlSec d) (dDlNs d)

/-- TIMED_LAUNCH: the command takes its place and waits to arm. -/
def doTimedLaunch (s : State) (k : CmdKey) : State :=
  match runnable s k 0x30 with
  | some c => putCmd s { c with phase := .waiting, deadline := some (launchTime s c.desc) }
  | none => s

/-- The sequence numbers that a TIMED_LAUNCH covers. -/
def coveredSeqs (k : CmdKey) (d : Line) : List Word := (List.range (leField d 34 1)).map (fun i => k.seq + BitVec.ofNat 32 (i + 1))

/-- Mark covered sequence numbers that nothing has accepted yet: they commit LATE at acceptance. -/
def markLate (s : State) (k : CmdKey) (seqs : List Word) : State :=
  let miss := seqs.filter (fun q => (findCmd s ⟨k.ctx, k.ring, q⟩).isNone)
  s.setHelm { s.helm with lateCover := s.helm.lateCover ++ miss.map (fun q => (ringKey k.ctx k.ring, q)) }

/-- Ladder steps that a covered command takes: one without a berth. -/
def coveredSteps (s : State) (k : CmdKey) (q : Word) : Nat :=
  match findCmd s ⟨k.ctx, k.ring, q⟩ with
  | none => 1
  | some c =>
    if fieldFailed c || decide (opOf c.desc = 0x11) then 1
    else match cmdRoute s c.desc with
      | some (_, r) => ceilDiv (needFacets c.desc r) 4
      | none => 1

/-- Place one covered command at an offset of AK cycles from S; one without a placement commits LATE. A covered SOLVE_BATCH
takes its step and becomes launchable at S. DESIGN CHOICE (log 145): the deadline test of 04 R101 is made here alone, against t_L plus the nominal
ladder offset, and not again when S has fixed the launch cycle. -/
def armCovered (s : State) (k : CmdKey) (tl : Mer) (q : Word) (off : Nat) : State × List (CmdKey × Nat) :=
  let kk : CmdKey := ⟨k.ctx, k.ring, q⟩
  match findCmd s kk with
  | none => (s, [])
  | some c =>
    if !waitingToRun c then (s, [])
    else if mayStart s c && modelMissing s c then (fileStatus s c 0x31, [])
    else if opOf c.desc = 0x11 then (s, [(kk, off)])
    else match cmdRoute s c.desc with
      | none => (fileStatus s c 0x40, [])
      | some (_, r) =>
        let soft := decide (dClass c.desc = 0)
        let found := if !mayStart s c || tooLate c r (tl + nominalAk off) then none
          else if soft then (placementFor s (occupancy s) r false c.avoid).map (fun p => (s, p))
          else if quotaRoom s k.ctx (needFacets c.desc r) then quotaPlacement s r (dDual c.desc) c.avoid
          else none
        match found with
        | none => (fileStatus s c 0x40, [])
        | some (s, p) => match findCmd s kk with
          | some c => (place s c (dModel c.desc % 4096) r p (some off), [(kk, off)])
          | none => (s, [])

/-- Place every covered command in sequence order: the placements and the steps taken. -/
def armAll (s : State) (k : CmdKey) (tl : Mer) : List Word → Nat → List (CmdKey × Nat) → State × List (CmdKey × Nat) × Nat
  | [], n, acc => (s, acc, n)
  | q :: qs, n, acc =>
    let steps := coveredSteps s k q
    let (s, got) := armCovered s k tl q (32 * n)
    armAll s k tl qs (n + steps) (acc ++ got)

/-- TIMED_LAUNCH_ARM: at t_L − 10 µs, or at acceptance if that is later. -/
def doTimedLaunchArm (s : State) (k : CmdKey) : State :=
  match waitingCmd s k 0x30 with
  | none => s
  | some c =>
    match c.deadline with
    | none => s
    | some tl =>
      if s.clk.mer + 10 * usU < tl ∨ s.fleet.stopped then s
      else
        let seqs := coveredSeqs k c.desc
        if tl < s.clk.mer + 160 * nsU then
          let s := seqs.foldl (fun s q => match findCmd s ⟨k.ctx, k.ring, q⟩ with
            | some e => if waitingToRun e then fileStatus s e 0x40 else s
            | none => s) s
          let s := markLate s k seqs
          fileReq s c { plainReq s 0x40 0 0 0 0 with charge := c.chargeDue }
        else
          let (s, got, n) := armAll s k tl seqs 0 []
          let s := markLate s k seqs
          let s := s.setHelm { s.helm with armed := s.helm.armed ++ [⟨k, tl, got, n, none, stampR s⟩] }
          putCmd s { c with phase := .armed }

/-- Give a covered run its launch cycle, S plus its offset, and hold its starts in the ladder table. -/
def fixCovered (s : State) (start : Nat) (x : CmdKey × Nat) : State :=
  match findRun s x.1 with
  | some r =>
    if r.phase = .placed ∧ r.armedOff.isSome then
      putRun (reserve s (start + x.2) (runPattern r)) { r with launchAk := start + x.2 }
    else s
  | none =>
    match findCmd s x.1 with
    | some c =>
      if opOf c.desc = 0x11 ∧ waitingToRun c then
        emit (putCmd s { c with phase := .ready, cover := none, launchableAt := some s.clk.mer })
          (.hostRead (fnFor s x.1.ctx) (dInAddr c.desc) (dInLen c.desc * 64))
      else s
    | none => s

/-- LAUNCH_TRIGGER: the trigger of the first MK edge at or after t_L reaches AK 2 cycles later and fixes S, the first ladder
step at or after it; every covered launch cycle follows. -/
def doLaunchTrigger (s : State) (k : CmdKey) : State :=
  match s.helm.armed.find? (fun a => a.key == k) with
  | none => s
  | some a =>
    if a.startAk.isSome ∨ !edgePassed s a.tl 2 ∨ s.bin.frozen then s
    else
      let start := ceilDiv s.clk.chipAk 32 * 32
      let s := s.setHelm { s.helm with armed := s.helm.armed.map (fun x => if x.key == k then { x with startAk := some start } else x) }
      a.covered.foldl (fun s x => fixCovered s start x) s

def execSchedulingRound (s : State) : Res := .next (doSchedulingRound s)
def execLadderRetry (k : CmdKey) (s : State) : Res := .next (doLadderRetry s k)
def execContextResidency (ctx : Nat) (block : Option (Int × Nat)) (s : State) : Res := .next (doContextResidency s ctx block)
def execQueuedDeadlineExpiry (k : CmdKey) (s : State) : Res := .next (doQueuedDeadlineExpiry s k)
def execTimedLaunch (k : CmdKey) (s : State) : Res := .next (doTimedLaunch s k)
def execTimedLaunchArm (k : CmdKey) (s : State) : Res := .next (doTimedLaunchArm s k)
def execLaunchTrigger (k : CmdKey) (s : State) : Res := .next (doLaunchTrigger s k)

end Sys2Proof.Machine
end

