-- ==== Sys2Proof/Machine/Rastan.lean ====
section
/-! DEFINITION. The Rastan engine's queues (14 R343 to R348): fleet settings, members, frames queued for a peer, their start
on the wire with LSEQ and ACK, and the requests of a rerun (R351). -/

namespace Sys2Proof.Machine
open Sys2Proof

/-! ### Settings -/

/-- EN, CHIP_ID and FLEET_ID of FLT_CFG. -/
def fltEn (s : State) : Bool := (rget s 0xA0000).testBit 31
def chipId (s : State) : Nat := nbits (rget s 0xA0000) 20 16
def fleetId (s : State) : Nat := nbits (rget s 0xA0000) 15 0

/-- HELLO_US and RETRY of FLT_LINK, as times. -/
def helloTime (s : State) : Mer := nbits (rget s 0xA0004) 31 16 * usU
def retryTime (s : State) : Mer := nbits (rget s 0xA0004) 15 0 * 10 * nsU

/-- FLT_PEER of chip c. -/
def peerCfg (s : State) (c : Nat) : Nat := rget s (0xA0100 + 4 * (c % 32))

/-- Is chip c a member, another chip than this one? -/
def isMember (s : State) (c : Nat) : Bool := decide (c < 32) && decide (c ≠ chipId s) && (peerCfg s c).testBit 31

/-- The members. -/
def members (s : State) : List Nat := (List.range 32).filter (isMember s)

/-- PORT, ALT_PORT and ALT_EN of a member. -/
def peerPort (s : State) (c : Nat) (alt : Bool) : Nat := if alt then nbits (peerCfg s c) 5 4 else nbits (peerCfg s c) 1 0
def altEn (s : State) (c : Nat) : Bool := (peerCfg s c).testBit 29

/-- A peer that nothing was sent to or heard from. -/
def Peer.zero : Peer := ⟨false, 0, 0, 0, [], [], [], 0, false, []⟩

/-- The link state of a chip. -/
def peerOf (s : State) (c : Nat) : Peer := mgetD s.fleet.peers c Peer.zero

/-- Replace the link state of a chip. -/
def setPeer (s : State) (c : Nat) (p : Peer) : State := s.setFleet { s.fleet with peers := mset s.fleet.peers c p }

/-- Does the Rastan engine send and accept frames: EN, and the links neither silenced (16 R384) nor in reset? -/
def fleetOn (s : State) : Bool := fltEn s && decide (s.boot.state = 1) && !s.bin.linksDown

/-! ### Frames -/

/-- A frame of this chip to another, every field that its kind does not use 0. -/
def newFrame (s : State) (kind : RType) (c : Nat) : RFrame :=
  ⟨kind, fleetId s, chipId s, c % 32, false, false, false, false, false, 0, 0, 0, 0, 0, 0, 0, []⟩

/-- The bytes of a frame on the wire, FCS included (14 R341). -/
def frameBytes (f : RFrame) : Nat := (rastanFrameBytes f).length + 4

/-- Is an Ethernet port among those that PORT_EN names (17 R397, R402)? -/
def ethOn (s : State) (port : Nat) : Bool := s.boot.portEn.testBit (port % 4)

/-- Send a frame on a port: the bytes are counted (18 R413); nothing leaves on a port that is not enabled. -/
def putOnWire (s : State) (port : Nat) (f : RFrame) : State :=
  if !ethOn s port then s else emit (gcount s (0x4000 + port % 4) (frameBytes f)) (.rastan (port % 4) f)

/-- Queue a frame for a member; one for a member that is DOWN is discarded and counted (14 R343). -/
def queueFrame (s : State) (c : Nat) (f : RFrame) (key : Option CmdKey) : State :=
  if !isMember s c then s
  else
    let p := peerOf s c
    if p.up then setPeer s c { p with sent := p.sent ++ [⟨f, 0, 0, false, key⟩] }
    else setPeer s c { p with discarded := p.discarded + 1 }

/-- Start the oldest queued frame of a peer on the wire: it takes the next LSEQ of the pair and carries the ACK (14 R344). -/
def startFrame (s : State) (c : Nat) : State :=
  let p := peerOf s c
  match p.sent.find? (fun f => !f.started) with
  | none =>
    if p.ackDue && fleetOn s && isMember s c then
      putOnWire (setPeer s c { p with ackDue := false }) (peerPort s c false) { newFrame s .ack c with ack := p.applied }
    else s
  | some _ =>
    if !fleetOn s then s
    else
      let seq := p.lseq + 1
      let out := p.sent.filter (fun f => f.started)
      match p.sent.filter (fun f => !f.started) with
      | [] => s
      | f :: rest =>
        let g := { f.frame with lseq := seq, ack := p.applied }
        let p := { p with
          lseq := seq, ackDue := false, sent := out ++ { f with frame := g, started := true, at0 := stamp s } :: rest }
        putOnWire (setPeer s c p) (peerPort s c false) g

/-- Every peer starts its next frame, or sends the ACK that it owes. -/
def startFrames (s : State) : State := (s.fleet.peers.map (·.1)).foldl startFrame s

/-! ### The rerun's request (14 R351) -/

/-- The (window, chip) pairs that a run receives on from fleet peers (08 R213). -/
def fleetWins (s : State) (r : Run) : List (Nat × Nat) :=
  (r.wins.map (fun w => ((winOf s w).writers.filter (fun x => decide (x / 4096 = 3))).map (fun x => (w, x % 32)))).flatten

/-- The rerun of a killed SOFT command sends ASK for each window that it receives on. -/
def askPeers (s : State) (r : Run) : State :=
  match findCmd s r.key with
  | some c =>
    if c.rerun ∧ r.isSoft ∧ fltEn s then
      (fleetWins s r).foldl (fun s x => queueFrame s x.2 { newFrame s .ask x.2 with winId := x.1 % 1024 } (some r.key)) s
    else s
  | none => s

end Sys2Proof.Machine
end

