-- ==== Sys2Proof/Machine/RunOps.lean ====
section
/-! DEFINITION. What the events of a run share: its settings, its counts, its timing, the trap of 06 R168 and R169, the
return to a commit phase, free values. -/

namespace Sys2Proof.Machine
open Sys2Proof

/-- A free value: a number that the spec bounds or names and does not state (log 3). -/
def freeNat (s : State) (kind : Nat) : Nat × State := (Config.freeValue kind s.free, s.setFree (s.free + 1))

/-- The descriptor that a run works under: its command's, or its binding's. -/
def runDesc (s : State) (r : Run) : Line :=
  match r.stream with
  | some n => (match mget s.streams n with | some st => st.desc | none => 0)
  | none => (match findCmd s r.key with | some c => c.desc | none => 0)

/-- NUMCTL of a run (06 R154). -/
def runNum (s : State) (r : Run) : NumCtl := dNumCtl (runDesc s r)

/-- The model of a run. -/
def runModel (s : State) (r : Run) : Option Model := mget s.helm.models r.model

/-- The Heading entry of a run. -/
def runHandle (s : State) (r : Run) : Nat :=
  match r.stream with
  | some n => (match mget s.streams n with | some st => st.ctlHandle | none => 0)
  | none => dHandle (runDesc s r)

/-- The sequence number of a run: its command's, or the Sounding's. -/
def runSeq (s : State) (r : Run) : Word :=
  match r.stream with
  | some n => (match mget s.streams n with | some st => (match st.unit with | some u => u.seq | none => 0) | none => 0)
  | none => r.key.seq

/-- Has an earlier cycle's trigger already abandoned the iteration (06 R169, 07 R187)? -/
def suppressed (s : State) (r : Run) : Bool :=
  match r.trig with
  | some t => decide (t.ak < s.clk.chipAk)
  | none => false

/-- Is a run between its launch cycle and the end that R60, a trap, an abort or a trigger gives it? -/
def working (r : Run) : Bool := decide (r.phase = .setup) || decide (r.phase = .iterating)

/-- Does a run still act in this AK cycle: it works and its sequencers have not stopped at a boundary after a trigger (04 R97), or its
end fell in this very cycle? -/
def acting (s : State) (r : Run) : Bool :=
  (working r && !(match r.trig with | some t => t.stopped | none => false)) || (decide (r.phase = .commit ∨ r.phase = .stopping) && decide (r.phaseStart = s.clk.chipAk))

/-- A route-step boundary of a run passes (07 R176): the first one after the trigger's cycle stops its sequencers (04 R97). -/
def boundary (s : State) (k : CmdKey) : State :=
  match findRun s k with
  | some r => (match r.trig with
    | some t => if t.ak < s.clk.chipAk then putRun s { r with trig := some { t with stopped := true } } else s
    | none => s)
  | none => s

/-- Does an AK cycle of the route fall now (03 R59)? What a VARY step waited is in the phase's end already (11 R280). -/
def dueNow (s : State) (ak : Nat) : Bool := decide (s.clk.chipAk = ak)

/-- The arithmetic of a run (03 R69, 05 R129, 06 R154, 07 R184). -/
def arithOf (s : State) (r : Run) : Arith :=
  ⟨runNum s r, r.route.vernier, r.route.rounds, dPolicy (runDesc s r), r.route.tau, routeSide r.route⟩

/-- AK cycles of iteration i (03 R77): at every 25th the iteration carries the refactor. -/
def iterLen (r : Route) (i : Nat) : Nat := if i % 25 = 0 then r.iterAk + (r.refactorAk - r.iterAk) else r.iterAk

/-- WORST_AK of the estimator of a binding: what its part of a unit takes (12 R299, R303). -/
def estAk (s : State) (n : Nat) : Nat :=
  match mget s.streams n with
  | some st => (match (mget s.helm.models st.estModel).bind berthRoute with | some e => worstAk e | none => 0)
  | none => 0

/-- The AK cycles that a run spends before the setup of its own route: a stream unit's estimator. -/
def leadIn (s : State) (r : Run) : Nat := match r.stream with | some n => estAk s n | none => 0

/-- The end of a run's setup, as AK cycles from launch (03, 09 R230). -/
def setupEndAk (s : State) (r : Run) : Nat :=
  leadIn s r + r.route.setupAk + (if ownRho (runDesc s r) then r.route.setupExtra else 0)

/-- Add counts to a run. -/
def addCounts (s : State) (r : Run) (c : RunCounts) : State := putRun s { r with counts := r.counts.add c }

/-- The events of a run that its flags and counters take: a NaN that traps sets neither NAN_GENERATED nor its count (06 R165). -/
def keptEv (s : State) (r : Run) (e : NumEv) : NumEv :=
  if (runNum s r).nanTrap && !suppressed s r then { e with nanGen := 0 } else e

/-- What a tally adds to a count that stands `done` above its mark: the tally is of the whole phase, of which the phase's own commands
have counted a part (log 15). -/
def beyond (mark count tally : Nat) : Nat := tally - (count - mark)

/-- The events of a tally that the phase's own commands have not counted. -/
def beyondEv (m c t : NumEv) : NumEv :=
  ⟨beyond m.sat c.sat t.sat, beyond m.flushed c.flushed t.flushed, beyond m.zsl c.zsl t.zsl, beyond m.divz c.divz t.divz,
   beyond m.nanGen c.nanGen t.nanGen, beyond m.strictOvf c.strictOvf t.strictOvf⟩

/-- The counts of the route's traffic. -/
def Traffic.counts (t : Traffic) : RunCounts :=
  ⟨{}, 0, 0, 0, 0, t.productCycles, t.chartRd, t.chartWr, t.almRd, t.sxtOps, t.spillB, t.rasSent, t.rasRecv⟩

/-- The part of a tally that the phase's own commands have not counted, with the route's traffic. -/
def tallyCounts (s : State) (r : Run) (t : Tally) (tr : Traffic) : RunCounts :=
  { tr.counts with
    ev := keptEv s r (beyondEv r.mark.ev r.counts.ev t.ev)
    sxtFlushed := beyond r.mark.sxtFlushed r.counts.sxtFlushed t.sxtFlushed
    pivReg := beyond r.mark.pivReg r.counts.pivReg t.pivReg
    pivInertia := beyond r.mark.pivInertia r.counts.pivInertia t.pivInertia }

/-- The arithmetic of a phase of a run: its counts, and the flushes of the Sextants' results in the counter of the lead conductor's
sector (03 R65, R72). -/
def phaseCounts (s : State) (r : Run) (t : Tally) (tr : Traffic) : State :=
  let c := tallyCounts s r t tr
  let s := if c.sxtFlushed = 0 then s else gcount s (0x1070 + leadSector r % 16) c.sxtFlushed
  putRun s { r with counts := r.counts.add c }

/-- Begin the commit phase of a run that has ended with a status (03 R60, 04 R97, 06 R168, 07 R186). -/
def endRun (r : Run) (now status after : Nat) : Run :=
  let r := { r with phase := .commit, status := some status, phaseStart := now }
  { r with commitAt := some (now + after + r.route.commitAk) }

/-- The problem of a batch slot waits for its tick boundary. -/
def stopSlot (r : Run) (now status : Nat) : Run := { r with phase := .stopping, status := some status, phaseStart := now }

/-- The order in which elements that trap in one AK cycle are named (06 R169). -/
def trapBefore (a b : TrapRec) : Bool :=
  let ka := [a.unitK, a.facet, a.strip, a.pos, a.row, a.col]
  let kb := [b.unitK, b.facet, b.strip, b.pos, b.row, b.col]
  let rec lt : List Nat → List Nat → Bool
    | x :: xs, y :: ys => if x = y then lt xs ys else decide (x < y)
    | _, _ => false
  lt ka kb

/-- Two traps of one AK cycle as one record: a generated NaN before an overflow, then the order of R169; COUNT adds. -/
def mergeTrap (a b : TrapRec) : TrapRec :=
  let n := satTo 255 (a.count + b.count)
  let t := if a.kind = 1 ∧ b.kind = 4 then a else if a.kind = 4 ∧ b.kind = 1 then b else if trapBefore b a then b else a
  { t with count := n }

/-- The status of a trap record's KIND. -/
def trapStatus (t : TrapRec) : Nat := if t.kind = 4 then 0x22 else 0x21

/-- A trap of a run in this AK cycle (06 R168, R169; 07 R187): it stops the berth, discards the iterates, and the commit phase
begins in the next cycle. It has no effect on a run that an earlier cycle has ended. -/
def trapRun (s : State) (r : Run) (t : TrapRec) : State :=
  let now := s.clk.chipAk
  let fresh := decide (r.phaseStart = now) && decide (r.phase = .commit ∨ r.phase = .stopping)
  if suppressed s r || !(working r || fresh) then s
  else
    let t := { t with ak := sinceLaunch s r }
    match r.trap, fresh with
    | some old, true => let m := mergeTrap old t; putRun s { r with trap := some m, status := some (trapStatus m) }
    | _, _ =>
      let r := { r with trap := some t, trig := none }
      let s := if r.slot.isSome then s else emptyFacets s (runFacets r)
      let s := r.berths.foldl (fun s b => dropLive s b.origin r.key) s
      putRun s (if r.slot.isSome then stopSlot r now (trapStatus t) else endRun r now (trapStatus t) 0)

/-- PIVOT_ABORT (07 R186): 6 cycles select the buffer, and the commit phase follows; a batch problem waits for its tick. -/
def pivotAbort (s : State) (r : Run) : State :=
  let r := { r with trig := none, abandoned := true }
  putRun s (if r.slot.isSome then stopSlot r s.clk.chipAk 0x20 else endRun r s.clk.chipAk 0x20 6)

/-- What the arithmetic of a phase ends a run with: a generated NaN under NAN_TRAP, a STRICT overflow, a pivot under ABORT; `none` when
the run goes on (06 R168, R169; 07 R186, R187). `site` is the place of the trap. -/
def phaseStop (s : State) (r : Run) (t : Tally) (site : TrapRec) : Option State :=
  if 0 < t.ev.nanGen ∧ (runNum s r).nanTrap then some (trapRun s r { site with kind := 1, count := satTo 255 t.ev.nanGen })
  else if 0 < t.ev.strictOvf then some (trapRun s r { site with kind := 4, count := satTo 255 t.ev.strictOvf })
  else if 0 < t.aborts then some (pivotAbort s r)
  else none

/-- The events of one operation of a run, and the trap they raise: a generated NaN under NAN_TRAP, a STRICT overflow. -/
def opEvents (s : State) (r : Run) (e : NumEv) (site : TrapRec) : State :=
  let s := putRun s { r with counts := { r.counts with ev := r.counts.ev.add (keptEv s r e) } }
  match findRun s r.key with
  | none => s
  | some r =>
    if 0 < e.nanGen ∧ (runNum s r).nanTrap then trapRun s r { site with kind := 1, count := e.nanGen }
    else if 0 < e.strictOvf then trapRun s r { site with kind := 4, count := e.strictOvf }
    else s

/-- The run whose berth holds a facet; in a batch unit, the problem in a slot of it (10 R270). -/
def runOnFacet (s : State) (g slot : Nat) : Option Run :=
  (liveRuns s).find? (fun r => (match r.slot with | some x => decide (x.2 % 2 = slot) | none => true) && launched s r &&
    (runFacets r).contains g)

/-- Is the array frozen by a DEVICE event or a global stop, so that no route step is taken (16 R384, 14 R353)? -/
def frozen (s : State) : Bool := s.bin.frozen || s.boot.state ≠ 1

end Sys2Proof.Machine
end

