-- ==== Sys2Proof/Machine/Device.lean ====
section
/-! DEFINITION. A DEVICE event (15 R356, R357; 16 R384, R389): the steps by which the Binnacle enters the safe state, and the
discarding of commit requests that carry no "committing" entry. -/

namespace Sys2Proof.Machine
open Sys2Proof

/-- Has a command or binding of this key a "committing" entry without its "committed" entry? -/
def journalled (s : State) (k : CmdKey) : Bool :=
  s.log.journal.any (fun e => decide (e.2.kind = 1) && decide (e.2.ctx = k.ctx) && decide (e.2.ring = k.ring) && decide (e.2.seq = k.seq))

/-- Has a binding a "stream committing" entry that stands? -/
def streamJournalled (s : State) (n : Nat) : Bool :=
  s.log.journal.any (fun e => decide (e.2.kind = 3) && decide (e.2.ring = n))

/-- A command whose request is discarded waits to be fetched again; its Plot is given back. -/
def discardReq (s : State) (c : Cmd) : State :=
  dropRun (putCmd s { c with phase := .refetch, req := none, rerun := c.rerun || decide (0 < c.runs), inputIn := false, raw := [], inst := [], launchableAt := none }) c.key

/-- Step 5 of 16 R384: requests without a "committing" entry leave the journal queue. -/
def discardRequests (s : State) : State :=
  let s := (s.cmds.filter (fun c => c.req.isSome && !journalled s c.key)).foldl discardReq s
  let s := s.setStreams (s.streams.map (fun e =>
    (e.1, if streamJournalled s e.1 then e.2 else { e.2 with unit := e.2.unit.map (fun u => { u with req := none }) })))
  s.setLog { s.log with queue := s.log.queue.filter (fun k => journalled s k || s.streams.any (fun e => e.2.key == k && streamJournalled s e.1)) }

/-- The fault record of a DEVICE event and, on entry, the record of the safe state (16 R389). -/
def deviceRecords (s : State) (a : EvArg) (entry : Bool) : State :=
  let e := eventOf s { a with cls := 5, cause := a.cause % 256 }
  let i := s.log.next
  let s := logEvent s { e with mflags := e.mflags + bitAt entry 1 }
  let s := if entry then logEvent s { e with cls := 8 } else s
  reportClass s 5 (some i)

/-- Does a cause stand in the way of leaving the safe state as a monitor's reading does (16 R385)? -/
def monitorCause (c : Nat) : Bool := [0x10, 0x12, 0x13].contains c

/-- The newest of the Soundings that a binding has seen and not served (12 R308). -/
def newer (m : Option Word) (q : Word) : Option Word :=
  match m with
  | some x => if ahead x q then some x else some q
  | none => some q

/-- A DEVICE event (16 R384): SAFE_N low, the array frozen, transmit ports at LP-11, Ethernet down, requests discarded, the
records, ALERT_N and the error vector. `facets` are the facets that the record names. -/
def deviceEvent (s : State) (a : EvArg) (facets : List Nat) : State :=
  let now := s.clk.shadow
  let entry := !s.bin.safe
  let s := s.setBin { s.bin with
    safe := true, safeN := false, frozen := true, txCut := true, linksDown := true, cause := a.cause % 256,
    causes := insSorted a.cause (if entry then [] else s.bin.causes), since := if entry then now else s.bin.since,
    devTimes := s.bin.devTimes.filter (fun t => decide (now < t + 10 * secU)) ++ [now],
    okSince := if monitorCause a.cause then now else s.bin.okSince, warm := false,
    named := s.bin.named ++ facets,
    namedCmds := s.bin.namedCmds ++ (match a.key with
      | some k => if a.originA = 0xFFFF then [] else [(k, s.log.next)]
      | none => []),
    missFrom := if entry && decide (s.boot.state = 1) then now else s.bin.missFrom }
  let s := s.setStreams (s.streams.map (fun e => (e.1, { e.2 with
    next := match e.2.emitted with | some f => (if e.2.next.isSome then some f.missFirst else none) | none => e.2.next,
    newest := match e.2.emitted with | some f => newer e.2.newest f.seq | none => e.2.newest,
    onLanes := none, emitted := none, frameOpen := none })))
  let s := s.setCsi (s.csi.map (fun c => { c with busy := false }))
  deviceRecords (discardRequests s) a entry

end Sys2Proof.Machine
end

