-- ==== Sys2Proof/Machine/Phases.lean ====
section
/-! DEFINITION. The arithmetic of a run's phases as one computation each: setup up to the starting point and its residuals (03 R62, R63,
R75, R79, R83; 04 R108 to R110), one iteration with its residuals and tests (03 R60, R73 to R86). -/

namespace Sys2Proof.Machine
open Sys2Proof

/-! ### Setup -/

/-- What a warm start takes from its store: the iterate, the shift, and whether only its primal part (04 R108). -/
structure WarmSrc where
  st : Iter
  k : Nat
  shift : Bool
  primal : Bool
deriving DecidableEq, Repr

/-- x̂ of a command (04 R109, 12 R303): the instance's; on a condensed chart without an operand of its own the first parameters, on
moving-horizon estimation x̄ (log 122). -/
def xhatOf (c : Chart) (ps : PartData) : Vec :=
  let v := partVec ps .xhat
  if !v.isEmpty then vSeg v 0 c.nx
  else if c.cls = 5 then vSeg (partVec ps .xbar) 0 c.nx
  else vSeg (partVec ps .params) 0 c.nx

/-- State j + 1 of a linear staged problem from state and input j: c_j − (−A_j x − B_j u), by the rows of E (04 R109). -/
def nextLinear (A : Arith) (c : Chart) (p : ProbData) (j : Nat) (x u : List Word64) : Work (List Word64) := do
  let w := c.nx + c.nu
  let o := if c.cls = 5 then 0 else c.nx
  (List.range c.nx).mapM (fun i => do
    let r := o + j * c.nx + i
    let d ← sDot A (vSeg (vals (p.e.getD r [])) (j * w) w) (vals x ++ vals u)
    return w64 (← sSub A (f64 (p.ev.getD r 0)) d))

/-- The same through f_θ. -/
def nextNet (A : Arith) (c : Chart) (ps : PartData) (_j : Nat) (x u : List Word64) : Work (List Word64) := do
  return packVec (← sqpNet A c ps (vals x) (vals u)).primal

/-- The state that setup leaves: the problem, the point a real-time SQP step is taken from, the exponents of D and F, the starting
point, the working set, the t of phase 1, the starting point as a candidate. -/
structure Start where
  prob : ProbData
  base : List Word64
  scaleD : List Int
  scaleF : List Int
  it : Iter
  work : List Held
  phase1 : Option Word64
  cand : Cand
deriving DecidableEq, Repr

/-- r_p and 1 + max(‖Ax‖, ‖Ex‖) of R65. -/
def primalGap (A : Arith) (p : ProbData) (x : Vec) : Work (Num × Num) := do
  let kinds := rowKinds p
  let ax := onActive kinds (← sMatVec A (matVals p.a) x)
  let ex ← sMatVec A (matVals p.e) x
  let dist ← (kinds.zip (ax.zip ((vals p.lb).zip (vals p.ub)))).mapM (fun r =>
    if r.1 = RowKind.inactive then pure nz else rowDist A r.2.1 r.2.2.1 r.2.2.2)
  let eqd ← vSub A ex (vals p.ev)
  return (maxX (vNorm dist) (vNorm eqd), ← sAdd A n1 (maxX (vNorm ax) (vNorm ex)))

/-- An iterate as a candidate: its residuals (03 R65), and whether every linear solve so far met the target (R71). -/
def candOf (A : Arith) (c : Chart) (p : ProbData) (n : Nat) (it : Iter) : Work Cand := do
  let r ← residuals A p (vals it.x) (vals (← yOf A c it)) (vals it.nu)
  return ⟨n, it, r.store, (← get).solves.all metTarget⟩

/-- The working set and the phase of active set at its starting point (03 R79). -/
def activeStart (A : Arith) (eps : Num) (q : Qp) (p : ProbData) (pt : Pt) (x : Vec) : Work (List Held × Option Word64) := do
  if q.chart.method ≠ 2 then return ([], none)
  else
    let (rp, lim) ← primalGap A p x
    if leX (← sDiv A rp lim) eps then return (← rowsAtBound A q pt.x, none)
    else return (← rowsAtBound A (phase1Qp (plainQp q.chart p)) (x ++ [rp]), some (w64 rp))

/-- Setup up to its candidate. `md` and `mf` are the model's D and F, `rho` is the penalty exponent of an ADMM command that states one,
whose K_admm setup factors (03 R76), `free` stands for the point about which a cold real-time SQP command expands, which the spec does
not give (log 127). -/
def setupWork (A : Arith) (c : Chart) (ps inst : PartData) (md mf : List Int) (rho : Option Int) (free : List Word64) (eps : Num)
    (warm : Option WarmSrc) : Work Start := do
  let sqp := decide (c.cls = 6)
  let xhat := packVec (xhatOf c ps)
  let base ← match warm with
    | some w => if !sqp then pure [] else if w.shift then shiftX c (nextNet A c ps) xhat w.k w.st.x else pure w.st.x
    | none => pure (if sqp then free else [])
  let p ← formProb A c ps (vals base)
  let (d, f) := if scalesOwn c inst then equilibrate p else (md, mf)
  let cs := costExp p d
  let q ← scaledQp A c p d f cs
  match rho with
  | some e => do let _ ← admmSystem A q e
  | none => pure ()
  let m := p.lb.length
  let it ← match warm with
    | none => do toUnscaled A d f cs m xhat (← coldPt A q)
    | some w => do
      if sqp then
        -- the subproblem is in the step from the shifted point: it starts from a zero step
        let it ← warmPoint A c (fun _ x _ => pure x) p f cs xhat w.k w.shift w.primal w.st
        let zero := it.x.map (fun _ => (0 : Word64))
        let (sl, su) ← slacks A p zero
        pure (thetaFloor p f cs (clearIdle p { it with x := zero, sL := sl, sU := su }))
      else warmPoint A c (nextLinear A c p) p f cs xhat w.k w.shift w.primal w.st
  let (work, ph) ← activeStart A eps q p (← toScaled A d f cs m it) (vals it.x)
  return ⟨p, base, d, f, it, work, ph, ← candOf A c p 0 it⟩

/-! ### One iteration -/

/-- An iteration's result before its tests: the iterate, the predictor's dx, the active set, the outcome that active set itself
decides with its certificate (03 R79, R80). -/
structure Moved where
  it : Iter
  pred : Vec
  work : List Held
  phase1 : Option Word64
  ended : Option (Nat × Vec)
deriving DecidableEq, Repr

/-- An iteration of active set in phase 1 (03 R79): it ends where its x is optimal, with INFEASIBLE_PRIMAL when t exceeds
ε_p (1 + max(‖Ax‖, ‖Ex‖)), else with the working set of the rows at a bound. -/
def phase1Step (A : Arith) (eps : Num) (p : ProbData) (q : Qp) (d f : List Int) (cs : Int) (it : Iter) (w : List Held) (t : Word64) :
    Work Moved := do
  let m := p.lb.length
  let g := phase1Qp (plainQp q.chart p)
  let st ← asIteration A g (vals it.x ++ [f64 t]) w (List.replicate (2 * m + 1) nz) (List.replicate p.ev.length nz)
  let x := st.x.take p.h.length
  let tn := st.x.getD p.h.length nz
  let it := { it with x := packVec x }
  if st.optimal then
    let (_, lim) ← primalGap A p x
    if ltX (← sMul A eps lim) tn then
      let wv ← vAdd A (st.y.take m) ((st.y.drop m).take m)
      return ⟨it, [], st.work, some (w64 tn), some (0x10, wv ++ st.nu)⟩
    else return ⟨it, [], ← rowsAtBound A q (← again (toScaled A d f cs m it)).x, none, none⟩
  else return ⟨it, [], st.work, some (w64 tn), none⟩

/-- One iteration of the chart's method from the run's latest iterate (04 R103). The scaled problem, the iterate in scaled units and
ADMM's factor stand from setup, or from the iteration that refactored. -/
def moveOnce (A : Arith) (c : Chart) (p : ProbData) (d f : List Int) (eps : Num) (rho : Int) (it : Iter) (work : List Held)
    (ph : Option Word64) : Work Moved := do
  let m := p.lb.length
  let cs := costExp p d
  let q ← again (scaledQp A c p d f cs)
  let pt ← again (toScaled A d f cs m it)
  match c.method, ph with
  | 0, _ =>
    let o ← ipIteration A q pt
    return ⟨← toUnscaled A d f cs m it.xhat o.pt, o.pred.zipIdx.map (fun v => scaleX v.1 (d.getD v.2 0)), [], none, none⟩
  | 1, _ =>
    let o ← admmIteration A q (← again (admmSystem A q rho)) rho pt
    return ⟨← toUnscaled A d f cs m it.xhat o.pt, [], [], none, none⟩
  | 2, some t => phase1Step A eps p q d f cs it work t
  | 2, none =>
    let st ← asIteration A q pt.x work pt.y pt.nu
    let o ← toUnscaled A d f cs m it.xhat { pt with x := st.x, y := st.y, nu := st.nu }
    return ⟨o, [], st.work, none, st.unbounded.map (fun v => (0x11, v.zipIdx.map (fun x => scaleX x.1 (d.getD x.2 0))))⟩
  | _, _ =>
    let (x, nu) ← ricSolve A q q.h q.q q.ev
    return ⟨← toUnscaled A d f cs m it.xhat { pt with x := x, y := [], nu := nu }, [], [], none, none⟩

/-- ‖·‖_∞ ≥ 2^30 of a vector whose elements are scaled by exponents. -/
def bigScaled (xs : Vec) (es : Nat → Int) : Bool :=
  leX (.fin false 1 30) (vNorm (xs.zipIdx.map (fun x => scaleX x.1 (es x.2))))

/-- Candidate vectors of 03 R85: (w, v) and d, none where the method has none at this iterate. -/
def candidates (A : Arith) (c : Chart) (p : ProbData) (d f : List Int) (prev : Option Cand) (o : Moved) : Work (Option (Vec × Vec) × Option Vec) := do
  match c.method with
  | 0 =>
    let y := vals (← ipY A o.it)
    let nu := vals o.it.nu
    let cs := costExp p d
    let big := bigScaled (y ++ nu) (fun i => cs - f.getD i 0)
    return (if big then some (y, nu) else none, if bigScaled (vals o.it.x) (fun i => -d.getD i 0) then some o.pred else none)
  | 1 => match prev with
    | some q => do
      let dy ← vSub A (vals o.it.y) (vals q.it.y)
      let dn ← vSub A (vals o.it.nu) (vals q.it.nu)
      return (some (dy, dn), some (← vSub A (vals o.it.x) (vals q.it.x)))
    | none => return (none, none)
  | _ => return (none, none)

/-- The outcome of step 4 of 03 R60: the consecutive counts, and a status with its certificate, scaled to norm 1 (R86). -/
structure InfOut where
  p : Nat
  d : Nat
  status : Option Nat
  cert : Vec
deriving DecidableEq, Repr

/-- Step 4 of 03 R60 (R79, R80, R85, R86); `prev` is the candidate at the end of the iteration before, `np` and `nd` the counts so far. -/
def infeasible (A : Arith) (c : Chart) (p : ProbData) (d f : List Int) (np nd : Nat) (prev : Option Cand) (o : Moved) : Work InfOut := do
  match o.ended with
  | some (st, v) => return ⟨0, 0, some st, ← unitNorm A v⟩
  | none =>
    let (pc, dc) ← candidates A c p d f prev o
    let hp ← match pc with | some (w, v) => primalInfeasible A p w v | none => pure false
    let hd ← match dc with | some v => dualInfeasible A p v | none => pure false
    let np := if hp then np + 1 else 0
    let nd := if hd then nd + 1 else 0
    if 3 ≤ np then return ⟨np, nd, some 0x10, ← unitNorm A (match pc with | some (w, v) => w ++ v | none => [])⟩
    else if 3 ≤ nd then return ⟨np, nd, some 0x11, ← unitNorm A (dc.getD [])⟩
    else return ⟨np, nd, none, []⟩

/-- What an iteration leaves: the candidate, the active set, step 4's outcome, the penalty exponent. -/
structure IterOut where
  cand : Cand
  work : List Held
  phase1 : Option Word64
  inf : InfOut
  rho : Int
deriving DecidableEq, Repr

/-- ‖Ā‖: the largest magnitude of the scaled A and E (03 R77). -/
def scaledNorm (p : ProbData) (d f : List Int) : Num :=
  vNorm ((matVals p.a ++ matVals p.e).zipIdx.map (fun r => r.1.zipIdx.map (fun x => scaleX x.1 (f.getD r.2 0 + d.getD x.2 0)))).flatten

/-- K_admm factored for a changed penalty (03 R77). -/
def refactor (A : Arith) (c : Chart) (p : ProbData) (d f : List Int) (rho : Int) : Work Unit := do
  let q ← again (scaledQp A c p d f (costExp p d))
  let _ ← admmSystem A q rho

/-- An iteration with its residuals and step 4 of R60; at every 25th one of ADMM the penalty is compared (03 R77). -/
def iterWork (A : Arith) (c : Chart) (p : ProbData) (d f : List Int) (eps : Num) (rho : Int) (n np nd : Nat) (prev : Cand) (work : List Held)
    (ph : Option Word64) : Work IterOut := do
  let o ← moveOnce A c p d f eps rho prev.it work ph
  let cand ← candOf A c p n o.it
  let inf ← infeasible A c p d f np nd (some prev) o
  let sh ← if c.method = 1 ∧ n % 25 = 0 then rhoShift A (scaledNorm p d f) cand.res else pure 0
  if sh ≠ 0 then refactor A c p d f (rho + sh)
  return ⟨cand, o.work, o.phase1, inf, rho + sh⟩

/-- A direct update with its merit value (03 R82). -/
def updateWork (A : Arith) (c : Chart) (ps : PartData) : Work (Iter × Num) := do
  let it ← directUpdate A c ps
  return (it, ← kalmanMerit A (← get).solves)

end Sys2Proof.Machine
end

