-- ==== Sys2Proof/Machine/Run.lean ====
section
/-! DEFINITION. The events of a run: LAUNCH_CYCLE and LADDER_STEP (01 R31, 11 R283 to R286), SETUP_END (02 R37, R38;
03 R75; 04 R108), ITERATION_END (03 R60 to R88), DEADLINE_TRIGGER and DEADLINE_STOP (04 R96 to R100; 12 R304). -/

namespace Sys2Proof.Machine
open Sys2Proof

/-! ### Launch -/

/-- The live counter sets of a run's origins are cleared and tagged (15 R361). -/
def tagLive (s : State) (r : Run) : State :=
  r.berths.foldl (fun s b => s.setPel { s.pel with
    bsets := mupd s.pel.bsets b.origin ⟨none, [], none⟩ (fun x => { x with live := some r.key }) }) s

/-- The Plot base of a berth in its origin's sector. -/
def plotBaseAt (r : Run) (b : Berth) : Nat :=
  match r.plots.find? (fun p => decide (p.sector = sectorOf b.origin)) with
  | some p => plotBase p
  | none => 0

/-- One KIND 0x01 record for each berth (18 R416). -/
def traceLaunch (s : State) (r : Run) : State :=
  let unit0 := leadSector r
  r.berths.zipIdx.foldl (fun s x => traceCmd s 1 0 unit0 ⟨r.key.ctx, r.key.ring, runSeq s r⟩ (s.clk.sectorAk.getD unit0 0)
    (x.1.origin + x.1.h * 2 ^ 8 + x.1.w * 2 ^ 16 + bitAt (decide (0 < x.2)) 24) (plotBaseAt r x.1)) s

/-- The launch of a run now: setup begins, its facet time is charged from here unless arming already holds it (10 R261,
11 R292), its counter sets are tagged, its own count of runs rises, and a rerun asks its peers again. -/
def startRun (s : State) (r : Run) : State :=
  let now := s.clk.chipAk
  let r' := { r with
    phase := .setup, mark := r.counts, launchAk := now, launchMer := stamp s, phaseStart := now, phaseEnd := now + setupEndAk s r,
    chargeFrom := if r.armedOff.isSome then r.chargeFrom else stampR s }
  let s := traceLaunch (tagLive (putRun s r') r') r'
  match findCmd s r.key with
  | some c => if r.stream.isSome then s else askPeers (putCmd s { c with phase := .running, runs := c.runs + 1 }) r'
  | none => s

/-- A TIMED_LAUNCH commits at its launch cycle S, with the Meridian time and chip AK count of S (09 R234, R243). -/
def fileTimed (s : State) (a : Armed) : State :=
  let s := s.setHelm { s.helm with armed := s.helm.armed.filter (fun x => !(x.key == a.key)) }
  match findCmd s a.key with
  | some c =>
    let t := stampR s
    fileReq s c { plainReq s 0 (merSec t % 2 ^ 32) (merNs t) (merFrac t) (s.clk.chipAk % 2 ^ 32) with charge := c.chargeDue }
  | none => s

/-- The armed launch whose start step is this cycle. -/
def armedNow (s : State) (p : Armed → Bool) : Option Armed :=
  s.helm.armed.find? (fun a => decide (a.startAk = some s.clk.chipAk) && p a)

/-- LAUNCH_CYCLE: the launch cycle of a command's run; at S also the TIMED_LAUNCH that covers it. -/
def doLaunchCycle (s : State) (k : CmdKey) : State :=
  if frozen s then s
  else
    let s := match armedNow s (fun a => a.key == k || a.covered.any (fun c => c.1 == k)) with
      | some a => fileTimed s a
      | none => s
    match findRun s k with
    | none => s
    | some r => if r.phase = .placed ∧ r.launchAk ≠ 0 ∧ r.launchAk = s.clk.chipAk then startRun s r else s

/-- Facets of a run that leave idle on this ladder step, in increasing global number; a DUAL pair alternates (11 R284,
R285). -/
def stepFacets (s : State) (r : Run) : List Nat :=
  let before := if r.launchAk = s.clk.chipAk then 0 else startedFacets r (s.clk.chipAk - 32)
  let order := match r.berths with
    | [a, b] => (List.zipWith (fun x y => [x, y]) a.facets b.facets).flatten
    | _ => runFacets r
  (order.drop before).take (startedFacets r s.clk.chipAk - before)

/-- LADDER_STEP: the next facets of a berth leave idle and run ballast: their cells multiply +0 chunks, discard the product,
and their accumulators stay empty (11 R286). -/
def doLadderStep (s : State) (k : CmdKey) : State :=
  match findRun s k with
  | none => s
  | some r =>
    if s.clk.chipAk % 32 ≠ 0 ∨ !launched s r ∨ r.stream.isSome ∨ r.slot.isSome ∨ frozen s then s
    else emptyFacets s (stepFacets s r)

/-! ### The start of a solve -/

/-- The warm-store header that an entry holds (04 R107). -/
structure WarmHdr where
  nVar : Nat
  mIneq : Nat
  pEq : Nat
  horizon : Nat
  nx : Nat
  nu : Nat
  method : Nat
  fmt : Nat
  content : Nat
deriving DecidableEq, Repr

/-- Read a warm-store header at a Chart address. -/
def readWarmHdr (s : State) (a : Nat) : WarmHdr :=
  let h := chartGet s a 64
  let f (o n : Nat) : Nat := fieldOf h o n
  ⟨f 0 2, f 2 2, f 4 2, f 6 2, f 8 2, f 10 2, f 12 1, f 13 1, f 14 2⟩

/-- The elements of the store that a header stands before, where its fields give them: for class 0x0 (04 R472). A staged chart's header
does not hold its rows, and the chart is found by the store's signature. -/
def storeElems (s : State) (h : WarmHdr) (sig : Word64) : Option Nat :=
  if h.nVar = 0 then (s.helm.models.find? (fun e => decide (e.2.sig = sig))).map (fun e => warmElems e.2.chart)
  else
    let xh := if h.content.testBit 3 then h.nx else 0
    match h.method with
    | 0 => some (h.nVar + 4 * h.mIneq + h.pEq + xh)
    | 1 => some (h.nVar + 2 * (h.mIneq + h.pEq) + xh)
    | _ => some (h.nVar + h.mIneq + h.pEq + xh)

/-- The first n of l values that a warm store holds after its header, in a format code, as binary64 patterns. -/
def readWarmVals (s : State) (a fmt l n : Nat) : List Word64 :=
  ((readVals fmt l (chartGet s (a + 64) (payloadLen fmt l))).take n).map w64

/-- Convert stored values to a chart's warm format, to nearest with saturation (06 R155, 04 R110). -/
def toWarmFmt (fmt : Nat) (ws : List Word64) : List Word64 × NumEv :=
  let (bs, e) := storeVals fmt .rne false (vals ws)
  ((readVals fmt ws.length bs).map w64, e)

/-- The values of a Sounding that feed operands: element numbers with the operand that each extends (12, before R298). -/
def soundingParts (vs : List Num) (es : List (Nat × Part)) : PartData :=
  es.foldl (fun a e => addPart a e.2 [w64 (vs.getD e.1 nz)]) []

/-- The Sounding's values of the unit that a binding runs. -/
def soundingVals (s : State) (n : Nat) : List Num :=
  match mget s.streams n with
  | some st => (match st.unit, (mget s.helm.models st.ctlModel).bind (·.smap) with
    | some u, some sm => readVals sm.format sm.elems u.payload
    | _, _ => [])
  | none => []

/-- The instance of a run (02 R49, 12 R303): a command's, or x⁺ as x̂ with the operands that the map takes from the Sounding. -/
def instOf (s : State) (r : Run) : PartData :=
  match r.stream with
  | none => (match findCmd s r.key with | some c => c.inst | none => [])
  | some n =>
    match mget s.streams n, (runModel s r).bind (·.smap) with
    | some st, some sm =>
      (Part.xhat, match st.unit with | some u => u.estX | none => []) :: soundingParts (soundingVals s n) sm.toCtl
    | _, _ => []

/-- The instance of a binding's estimator: its prior from the estimator entry's warm store, u and y_m from the Sounding (12 R303). -/
def estInst (s : State) (n : Nat) (st : Stream) (em : Model) : PartData :=
  let c := em.chart
  let e := hdgOf s st.estHandle
  let l := warmElems c
  let ws := readWarmVals s e.warmAddr (c.formats.getD 6 0) l l
  let t := (ws.drop c.nx).take (c.nx * (c.nx + 1) / 2)
  let prior : PartData := [(if c.cls = 4 then .info else .state, ws.take c.nx), (.cov, t)]
  match (mget s.helm.models st.ctlModel).bind (·.smap) with
  | some sm => prior ++ soundingParts (soundingVals s n) sm.toEst
  | none => prior

/-- A warm start's decision with what it takes from the store, the three warm flags, and events (04 R108, R110). -/
structure WarmPick where
  src : Option WarmSrc
  flags : Nat
  ev : NumEv
deriving DecidableEq, Repr

/-- An iterate of which only x is known. -/
def xIter (x : List Word64) : Iter := ⟨x, [], [], [], [], [], [], [], []⟩

/-- The warm start of a run (04 R108, R110): the source entry's store, or none. -/
def warmPick (s : State) (r : Run) (m : Model) : WarmPick :=
  let d := runDesc s r
  let c := m.chart
  let e := hdgOf s (if dWarmSrcEn d && r.stream.isNone then dWarmSrc d else runHandle s r)
  let h := readWarmHdr s e.warmAddr
  let full := decide (e.sig = m.sig)
  let part := !full && decide (h.nVar = c.nVar) && decide (h.horizon = c.horizon) && decide (h.nx = c.nx) && decide (h.nu = c.nu)
  match warmDecision (dWarmMode d) (dShiftK d) c.horizon (dAllowPrimal d) (e.flags.testBit 0) full part with
  | .cold rej => ⟨none, bitAt rej 0, {}⟩
  | .stored shift primal =>
    let fmt := c.formats.getD 6 0
    let (st, ev) : Iter × NumEv :=
      if full then (let l := warmElems c; (warmIter c (readWarmVals s e.warmAddr fmt l l), {}))
      else
        let (x, ev) := toWarmFmt fmt (readWarmVals s e.warmAddr h.fmt ((storeElems s h e.sig).getD c.n) c.n)
        (xIter x, ev)
    ⟨some ⟨st, dShiftK d, shift, primal⟩, bitAt primal 4 + bitAt shift 5, ev⟩

/-- Put a candidate into the buffer that does not hold the best, and switch the pointer when it ranks better (04 R102). -/
def rankCand (r : Run) (c : Cand) : Run :=
  if better c r.best then { r with last := some c, best := some c, bestBuf := !r.bestBuf } else { r with last := some c }

/-- The trap record of a NaN in instance data (06 R168). -/
def instanceTrap (s : State) (r : Run) (site : TrapRec) (elem fmt pat count : Nat) : TrapRec :=
  { kind := 2, unitK := 4, opcode := 0x21, count := satTo 255 count, routeAddr := site.routeAddr, step := site.step,
    facet := leadSector r % 16, strip := 0, pos := 0, row := elem, col := 0, fmtA := fmt, fmtB := 0, fmtR := 0, pass := 0,
    ak := sinceLaunch s r, opndA := pat, opndB := 0, result := 0 }

/-- The first NaN of an instance, as element, format and pattern, and the count of NaNs: a command's as its input was read, a
unit's in the Sounding payload (02 R38, 12 R303). -/
def instanceNan (s : State) (r : Run) : Option ((Nat × Nat × Nat) × Nat) :=
  match r.stream with
  | none => (match findCmd s r.key with | some c => c.nanElem.map (fun x => (x, c.nanCount)) | none => none)
  | some n =>
    match mget s.streams n, (runModel s r).bind (·.smap) with
    | some st, some sm =>
      (match st.unit with
       | none => none
       | some u =>
         match (readVals sm.format sm.elems u.payload).zipIdx.filter (fun x => x.1.isNan) with
         | [] => none
         | x :: xs => some ((x.2, sm.format, rawElem sm.format x.2 u.payload), (x :: xs).length))
    | _, _ => none

/-- The AK cycle, from launch, in which the NaN check and the bound treatment end (02 R38). -/
def nanEndAk (s : State) (r : Run) : Nat :=
  match r.stream with
  | some n => (match mget s.streams n with
    | some st => (match (mget s.helm.models st.estModel).bind berthRoute with | some e => e.nanAk | none => r.route.nanAk)
    | none => r.route.nanAk)
  | none => r.route.nanAk

/-- The tolerance ε_p of a run. -/
def runEps (s : State) (r : Run) : Num := epsOf (dEpsP (runDesc s r))

/-- Numbers in place of values that the spec does not state: n words of one free value. -/
def freeWords (a n : Nat) : List Word64 := (List.range n).map (fun i => BitVec.ofNat 64 (a / 2 ^ (64 * i)))

/-- The arithmetic of a run's setup, with the point of a cold real-time SQP command as a free value (log 127). -/
def runSetup (s : State) (r : Run) (m : Model) : (Start × Tally) × WarmPick :=
  let w := warmPick s r m
  let inst := instOf s r
  let free := freeWords (Config.freeValue 127 s.free) m.chart.n
  let d := runDesc s r
  let rho := if m.chart.method = 1 && ownRho d then some (rhoStated (dRho d)) else none
  ((setupWork (arithOf s r) m.chart (allParts m.parts inst) inst m.scaleD m.scaleF rho free (runEps s r) w.src).run {}, w)

/-- Has the bound treatment of a run an impossible pair (02 R37)? -/
def runImpossible (s : State) (r : Run) (m : Model) : Bool := !m.chart.kalman && boundsImpossible (runSetup s r m).1.1.prob

/-- End a run as its route group does: a batch problem at its tick boundary, any other at once. -/
def finish0 (s : State) (r : Run) (status after : Nat) : State :=
  putRun s (if r.slot.isSome then stopSlot r s.clk.chipAk status else endRun r s.clk.chipAk status after)

/-- A run at the start of its iterations. -/
def iterating (s : State) (r : Run) : Run :=
  { r with
    phase := .iterating, phaseStart := s.clk.chipAk, phaseEnd := s.clk.chipAk + iterLen r.route 1, waits := [], mark := r.counts
    rhoExp := if ownRho (runDesc s r) then rhoStated (dRho (runDesc s r)) else -3 }

/-- The dimension of a dense K_admm (03 R76): the variables, and with equality rows every row of Ā beside them. -/
def admmDim (c : Chart) : Nat := if c.p = 0 then c.n else c.n + c.m + c.p

/-- Element (i, j), j ≤ i, of a cached factor whose tiles lie in a berth: in the facet of its tile, and transposed above the diagonal
(07 R174, R183). -/
def putTileElem (s : State) (slot : Nat) (b : Berth) (i j : Nat) (v : W48) : State :=
  let at0 (i j : Nat) : Nat :=
    facetKey slot (facetAt (dieRow b.origin + i / 32) (dieCol b.origin + j / 32)) * 1024 + i % 32 * 32 + j % 32
  let s := s.setRose { s.rose with panel := mset s.rose.panel (at0 i j) v }
  if i / 32 = j / 32 then s else s.setRose { s.rose with panel := mset s.rose.panel (at0 j i) v }

/-- The tiles of the cached ADMM factor, from the Almanac into the panel buffers of the berth (07 R183); each value enters the pivot unit
(R173). Nothing for a command that states its penalty, a staged chart, and a factor larger than the berth, which the sweeps load
tile by tile. -/
def loadTiles (s : State) (r : Run) (m : Model) : State :=
  let n := admmDim m.chart
  if m.chart.method ≠ 1 ∨ ownRho (runDesc s r) ∨ m.chart.staged ∨ routeSide r.route < n then s
  else
    let addr := (m.places.getLast?.getD (0, 0)).1
    let l := n * (n + 1) / 2
    let vs := readVals 9 l (chartGet s addr (payloadLen 9 l))
    let es := ((List.range n).map (fun i => (List.range (i + 1)).map (fun j => (i, j)))).flatten
    r.berths.foldl (fun s b => (es.zip vs).foldl (fun s x =>
      putTileElem s (runSlot r) b x.1.1 x.1.2 (enterPivot (runNum s r).strict x.2).1) s) s

/-- The end of setup of a QP-type run: the starting point, ranked as the first candidate (03 R75). -/
def endSetup (s : State) (r : Run) (m : Model) (data : SetupData) : State :=
  let ((st, t), w) := runSetup s r m
  let t := { t with ev := t.ev.add w.ev }
  let s := phaseCounts s r t data.traffic
  let s := if m.chart.cls = 6 ∧ w.src.isNone then s.setFree (s.free + 1) else s
  match findRun s r.key with
  | none => s
  | some r =>
    match phaseStop s r t data.site with
    | some s => s
    | none => putRun (loadTiles s r m) (rankCand { iterating s r with
        prob := some st.prob, base := st.base, scaleD := st.scaleD, scaleF := st.scaleF, work := st.work, phase1 := st.phase1
        warmFlags := w.flags } st.cand)

/-- The end of setup of a direct update. -/
def endKalmanSetup (s : State) (r : Run) (data : SetupData) : State :=
  let s := phaseCounts s r {} data.traffic
  match findRun s r.key with
  | none => s
  | some r => putRun s (iterating s r)

/-- SETUP_END: the NaN check ends with a NaN, the bound treatment ends with an impossible pair, or setup ends. -/
def doSetupEnd (s : State) (k : CmdKey) (data : SetupData) : State :=
  match findRun s k with
  | none => s
  | some r =>
    match runModel s r with
    | none => s
    | some m =>
      if r.phase ≠ .setup ∨ suppressed s r ∨ frozen s then s
      else match instanceNan s r with
        | some ((elem, fmt, pat), n) =>
          if dueNow s (r.launchAk + nanEndAk s r) then
            finish0 s { r with trap := some (instanceTrap s r data.site elem fmt pat n), trig := none } 0x21 0
          else s
        | none =>
          if runImpossible s r m then
            (if dueNow s (r.launchAk + leadIn s r + r.route.boundAk) then finish0 s { r with trig := none } 0x10 0 else s)
          else if dueNow s r.phaseEnd && r.waits.isEmpty then (if m.chart.kalman then endKalmanSetup s r data else endSetup s r m data)
          else s

/-! ### Iterations -/

/-- Does a consensus round end the solve: every pass flag set, the consensus residual within ε_p (14 R350)? -/
def consensusEnds (d : Line) (r : Route) (data : IterData) : Bool :=
  !r.consensus || (data.cons.all (fun b => b) && leX (f64 data.consRes) (epsOf (dEpsP d)))

/-- The end that a status without a numeric candidate has (03 R68, 04 R99). -/
def noNumber (r : Run) (status : Nat) : Nat := if r.best.isNone then 0x21 else status

/-- A trap record for the NAN_TRAP of 03 R68, of which the spec states no element: its fields are free values (log 36). -/
def freeTrap (s : State) : TrapRec × State :=
  let (a, s) := freeNat s 36
  let f (n : Nat) : Nat := (a >>> n)
  ({ kind := 1, unitK := f 0 % 256, opcode := f 8 % 256, count := f 16 % 256, routeAddr := f 24 % 2 ^ 29, step := f 56 % 2 ^ 32,
     facet := f 88 % 2 ^ 16, strip := f 104 % 256, pos := f 112 % 256, row := f 120 % 2 ^ 32, col := f 152 % 2 ^ 32,
     fmtA := f 184 % 256, fmtB := f 192 % 256, fmtR := f 200 % 256, pass := f 208 % 256, ak := f 216 % 2 ^ 64,
     opndA := f 280 % 2 ^ 64, opndB := f 344 % 2 ^ 64, result := f 408 % 2 ^ 64 }, s)

/-- A solve ends at the end of an iteration: a batch problem's commit phase begins at this tick boundary. -/
def endIter (s : State) (r : Run) (status : Nat) : State :=
  putRun s (endRun r s.clk.chipAk status 0)

/-- The same with a status that turns into the NAN_TRAP of R68 when no candidate has a number. -/
def endNum (s : State) (r : Run) (status : Nat) : State :=
  if noNumber r status = 0x21 then (let (t, s) := freeTrap s; endIter s { r with trap := some t } 0x21) else endIter s r status

/-- Steps 3 to 5 of 03 R60 for an iterate already ranked, then R88. -/
def endTests (s : State) (r : Run) (m : Model) (o : IterOut) (data : IterData) (n : Nat) : State :=
  let d := runDesc s r
  let trig := match r.trig with | some t => decide (t.ak = s.clk.chipAk) | none => false
  if converged o.cand.res d && consensusEnds d r.route data then endIter s { r with trig := none } 0
  else match o.inf.status with
    | some st => endIter s { r with trig := none, cert := packVec o.inf.cert } st
    | none =>
      if m.chart.method = 3 ∨ r.limit ≤ n then endNum s { r with trig := none } 2
      else if trig then endNum s r 1
      else
        let now := s.clk.chipAk
        putRun s { r with phaseStart := now, phaseEnd := now + iterLen r.route (n + 1), waits := [], mark := r.counts }

/-- The arithmetic of a run's next iteration. -/
def runIter (s : State) (r : Run) (m : Model) (p : ProbData) (prev : Cand) : IterOut × Tally :=
  (iterWork (arithOf s r) m.chart p r.scaleD r.scaleF (runEps s r) r.rhoExp (r.iter + 1) r.infP r.infD prev r.work r.phase1).run {}

/-- The end of a QP-type iteration: residuals, ranking, tests (03 R60). -/
def endQp (s : State) (r : Run) (m : Model) (p : ProbData) (prev : Cand) (data : IterData) : State :=
  let n := r.iter + 1
  let (o, t) := runIter s r m p prev
  let s := phaseCounts s r t data.traffic
  match findRun s r.key with
  | none => s
  | some r =>
    match phaseStop s r t data.site with
    | some s => s
    | none => endTests s (rankCand { r with
        iter := n, work := o.work, phase1 := o.phase1, infP := o.inf.p, infD := o.inf.d, rhoExp := o.rho } o.cand) m o data n

/-- The candidate of a direct update: its merit value, and ρ_p, ρ_d, ρ_g, of which the spec states no value (log 37). -/
def kalmanCand (s : State) (u : Iter × Num) (t : Tally) : Cand × State :=
  let (a, s) := freeNat s 37
  let f := freeWords a 3
  (⟨1, u.1, ⟨f.getD 0 0, f.getD 1 0, f.getD 2 0, w64 u.2⟩, t.solves.all metTarget⟩, s)

/-- The status of a direct update by its merit value (03 R82, R68). -/
def kalmanStatus (d : Line) (c : Cand) : Nat :=
  if (f64 c.res.merit).isNan then 0x21 else if leX (f64 c.res.merit) (epsOf (dEpsP d)) then 0 else 2

/-- The arithmetic of a run's direct update. -/
def runUpdate (s : State) (r : Run) (m : Model) : (Iter × Num) × Tally :=
  (updateWork (arithOf s r) m.chart (allParts m.parts (instOf s r))).run {}

/-- The end of a direct update (03 R82). -/
def endKalman (s : State) (r : Run) (m : Model) (data : IterData) : State :=
  let (u, t) := runUpdate s r m
  let s := phaseCounts s r t data.traffic
  match findRun s r.key with
  | none => s
  | some r =>
    match phaseStop s r t data.site with
    | some s => s
    | none =>
      let (c, s) := kalmanCand s u t
      let r := rankCand { r with iter := 1, trig := none } c
      let st := kalmanStatus (runDesc s r) c
      if st = 0x21 then (let (t, s) := freeTrap s; endIter s { r with trap := some t } 0x21) else endIter s r st

/-- Replace the unit of a binding. -/
def putUnit (s : State) (n : Nat) (st : Stream) (u : UnitSt) : State := s.setStreams (mset s.streams n { st with unit := some u })

/-- The bytes of a stored iterate behind their header (04 R107, R472), with the events of the conversion: to nearest, saturating (log 129). -/
def storeBytes (c : Chart) (seq : Word) (it : Iter) : List Byte × NumEv :=
  let (bs, ev) := storeVals (c.formats.getD 6 0) .rne false (vals (warmParts c it))
  (warmHdrBytes c (warmContent c) seq ++ bs, ev)

/-- The arithmetic of the estimator: its own route's, under the bind's NUMCTL and pivot policy. -/
def estArith (s : State) (r : Run) (em : Model) : Arith :=
  match berthRoute em with
  | some e => { arithOf s r with pc := e.vernier, rounds := e.rounds, tau := e.tau, side := routeSide e }
  | none => arithOf s r

/-- The estimator's part of a unit ends, EST_AK after its launch (12 R303): its status, its stored update and its x⁺. A status
other than OK_CONVERGED and OK_ITERLIMIT is the unit's, and the controller does not run. The bind's tolerances are the controller's
(09 R233), so the estimator has the default one (log 57). -/
def endEstimator (s : State) (r : Run) (n : Nat) (st : Stream) (u : UnitSt) (em : Model) (data : IterData) : State :=
  let (up, t) := (updateWork (estArith s r em) em.chart (allParts em.parts (estInst s n st em))).run {}
  let s := phaseCounts s r t data.traffic
  match findRun s r.key with
  | none => s
  | some r =>
    match phaseStop s r t data.site with
    | some s => s
    | none =>
      let (c, s) := kalmanCand s up t
      let status := kalmanStatus 0 c
      let (bytes, wev) := storeBytes em.chart u.seq up.1
      let x := if em.chart.cls = 4 then up.1.xhat else up.1.x
      let s := putUnit s n st { u with estStatus := some status, estStore := some bytes, estX := x }
      let r := { r with counts := { r.counts with ev := r.counts.ev.add wev } }
      if status = 0x21 then
        let (t, s) := freeTrap s
        putRun s (endRun { r with trap := some t, trig := none } s.clk.chipAk 0x21 0)
      else putRun s { r with mark := r.counts }

/-- ITERATION_END: the end of an iteration, or of the estimator's part of a stream unit. -/
def doIterationEnd (s : State) (k : CmdKey) (data : IterData) : State :=
  match findRun s k with
  | none => s
  | some r =>
    if frozen s ∨ suppressed s r then s
    else match r.phase, r.stream with
      | .setup, some n =>
        (match mget s.streams n with
         | some st => (match st.unit, mget s.helm.models st.estModel with
           | some u, some em =>
             if u.estStatus.isNone ∧ dueNow s (r.launchAk + estAk s n) then endEstimator s r n st u em data else s
           | _, _ => s)
         | none => s)
      | .iterating, _ =>
        (match runModel s r with
         | some m =>
           if !dueNow s r.phaseEnd || !r.waits.isEmpty then s
           else if m.chart.kalman then endKalman s r m data
           else (match r.prob, r.last with
             | some p, some prev => endQp s r m p prev data
             | _, _ => s)
         | none => s)
      | _, _ => s

/-! ### Deadlines (04 R96 to R100; 12 R304) -/

/-- The budget of a run, in AK cycles from its launch cycle. -/
def budgetOf (s : State) (r : Run) : Option Nat :=
  let d := runDesc s r
  if r.stream.isSome ∨ hasBudget d then some (dBudget d) else none

/-- FIX_DELAY of a binding (12 R299). -/
def fixDelay (s : State) (n : Nat) : Mer := nbits (rget s (0x80100 + 4 * n)) 15 0 * 10 * nsU

/-- The Meridian deadline T_d of a unit (12 R304): t_FE + FIX_DELAY − T_J. -/
def unitDeadline (s : State) (n : Nat) (st : Stream) (u : UnitSt) : Option Mer :=
  (((mget s.helm.models st.ctlModel).bind berthRoute).map (fun r => u.tfe + fixDelay s n - tJ st.safe r))

/-- The Meridian deadline T_d of a run: its command's, or t_FE + FIX_DELAY − T_J of its Sounding. -/
def runDeadline (s : State) (r : Run) : Option Mer :=
  match r.stream with
  | none => (match findCmd s r.key with | some c => c.deadline | none => none)
  | some n => (match mget s.streams n with
    | some st => st.unit.map (fun u => u.tfe + fixDelay s n - tJ st.safe r.route)
    | none => none)

/-- The Meridian time of the trigger: T_d − MARGIN_AK × 2.5 ns. -/
def triggerMer (r : Run) (t : Mer) : Mer := t - marginAk r.route * 5 * nsU / 2

/-- Does the budget trigger fall in this AK cycle? -/
def budgetDue (s : State) (r : Run) : Bool :=
  match budgetOf s r with
  | some b => decide (s.clk.chipAk = r.launchAk + b - marginAk r.route)
  | none => false

/-- Does the Meridian trigger fall now (04 R96): 2 AK cycles after the first MK edge at or after it; at the launch cycle when that edge
came before? -/
def meridianDue (s : State) (r : Run) : Bool :=
  match runDeadline s r with
  | some t => edgeNow s (triggerMer r t) 2 || (edgePassed s (triggerMer r t) 3 && decide (r.launchAk = s.clk.chipAk))
  | none => false

/-- DEADLINE_TRIGGER: the route is told to stop. In the AK cycle in which an iteration has just ended the solve ends at once
(03 R88); in the cycle in which one is about to end, that iteration's tests come first; else its partial iterate is lost. -/
def doDeadlineTrigger (s : State) (k : CmdKey) : State :=
  match findRun s k with
  | none => s
  | some r =>
    let b := budgetDue s r
    let m := meridianDue s r
    if !working r ∨ r.trig.isSome ∨ frozen s ∨ !(b || m) then s
    else
      let r := { r with trig := some ⟨s.clk.chipAk, m, false⟩ }
      if r.phase = .iterating ∧ 0 < r.iter ∧ r.phaseStart = s.clk.chipAk then
        endNum s r 1
      else putRun s { r with abandoned := decide (r.phase ≠ .iterating) || decide (r.phaseEnd ≠ s.clk.chipAk) }

/-- The status of a command that a trigger ends (04 R99): LATE inside setup, where no candidate exists; later the best iterate's, or
NAN_TRAP without one that has a number. -/
def triggerStatus (r : Run) : Nat := if r.phase = .setup then 0x40 else noNumber r 1

/-- End a run that its trigger stops, after some AK cycles of selection. -/
def stopRun (s : State) (r : Run) (after : Nat) : State :=
  let st := triggerStatus r
  if st = 0x21 then
    let (t, s) := freeTrap s
    putRun s (endRun { r with trap := some t, abandoned := true } s.clk.chipAk 0x21 after)
  else putRun s (endRun { r with abandoned := true } s.clk.chipAk st after)

/-- DEADLINE_STOP: the sequencers stop at a route-step boundary at most 96 AK cycles after the trigger; 6 cycles select the
best-iterate buffer; the commit phase follows. A batch problem stops at its tick boundary instead. -/
def doDeadlineStop (s : State) (k : CmdKey) : State :=
  match findRun s k with
  | none => s
  | some r =>
    match r.trig with
    | none => s
    | some t =>
      if !working r ∨ s.clk.chipAk ≤ t.ak ∨ t.ak + 96 < s.clk.chipAk ∨ r.slot.isSome ∨ frozen s then s
      else stopRun s r 6

def execLaunchCycle (k : CmdKey) (s : State) : Res := .next (doLaunchCycle s k)
def execLadderStep (k : CmdKey) (s : State) : Res := .next (doLadderStep s k)
def execSetupEnd (k : CmdKey) (data : SetupData) (s : State) : Res := .next (doSetupEnd s k data)
def execIterationEnd (k : CmdKey) (data : IterData) (s : State) : Res := .next (doIterationEnd s k data)
def execDeadlineTrigger (k : CmdKey) (s : State) : Res := .next (doDeadlineTrigger s k)
def execDeadlineStop (k : CmdKey) (s : State) : Res := .next (doDeadlineStop s k)

end Sys2Proof.Machine
end

