-- ==== Sys2Proof/Machine/Commit.lean ====
section
/-! DEFINITION. COMMIT_POINT (01 R26, 04 R103 to R105, 06 R168), what a recheck compares (16 R378 to R381), and COMMITTING (09 R241 to R249;
02 R54 to R56; 16 R381, R388; 18 R413; 12 R306). -/

namespace Sys2Proof.Machine
open Sys2Proof

/-! ### What a run returns -/

/-- +Inf in binary32. -/
def inf32 : Nat := 0x7F800000

/-- The candidate a commit returns (04 R103, 03 R86, 07 R186). DESIGN CHOICE (log 136): where no candidate has a numeric merit value, so
that there is no best iterate, an INFEASIBLE commit returns the last iterate's x. -/
def returned (m : Model) (r : Run) (status : Nat) : Option Cand :=
  if status = 0x00 then r.last
  else if status = 0x02 then (if m.chart.kalman || decide (m.chart.method = 3) then r.last else r.best)
  else if status = 0x01 ∨ status = 0x20 then r.best
  else if status = 0x10 ∨ status = 0x11 then (match r.best with | some c => some c | none => r.last)
  else none

/-- The iterate in the form the Fix and the warm store hold: a real-time SQP step added to the point it was taken from (03 R83). -/
def finalIter (A : Arith) (r : Run) (it : Iter) : Work Iter := do
  if r.base.isEmpty then return it
  else return { it with x := packVec (← vAdd A (vals r.base) (vals it.x)) }

/-- The first overflow of a block-format vector under STRICT: index, value, result element. -/
def blockOverflow (b : Nat) (rm : RMode) : Nat → Nat → List Num → Option (Nat × Num × Nat)
  | 0, _, _ => none
  | k + 1, i, vs =>
    match blockFirst rm b (vs.take b) with
    | some x => some (i + x.1, x.2)
    | none => blockOverflow b rm k (i + b) (vs.drop b)

/-- The overflow that stops the conversion of a returned iterate (06 R168). -/
def storeOverflow (code : Nat) (n : NumCtl) (vs : List Num) : Option (Nat × Num × Nat) :=
  if !n.strict then none
  else if blockOf code = 0 then firstOverflow code n.rm vs
  else blockOverflow (blockOf code) n.rm (ceilDiv vs.length (blockOf code)) 0 vs

/-- The trap record of an overflow in the commit phase: the element's store cycle and place come with the route. -/
def storeTrap (r : Run) (site : TrapRec) (code : Nat) (x : Nat × Num × Nat) : TrapRec :=
  { kind := 4, unitK := 3, opcode := 0x20, count := site.count, routeAddr := site.routeAddr, step := site.step,
    facet := leadSector r % 16, strip := 0, pos := 0, row := x.1, col := 0, fmtA := 0xA, fmtB := 0, fmtR := code, pass := 0,
    ak := site.ak, opndA := patOf .b64 x.2.1, opndB := 0, result := x.2.2 }

/-- What the commit phase of a run made: its final status, the Fix's payload, the returned candidate, numeric events, those of Sextant
flushes on their own. -/
structure FixOut where
  status : Nat
  payload : List Byte
  cand : Option Cand
  final : Option Iter
  ev : NumEv
  sxtFlushed : Nat
deriving DecidableEq, Repr

/-- x⁺ of the unit that a binding runs. -/
def newXhat (s : State) (r : Run) : List Word64 :=
  match r.stream.bind (fun n => (mget s.streams n).bind (·.unit)) with
  | some u => u.estX
  | none => []

/-- The values of the payload: of the Fix of a command, or of the Fix frame of a unit (12, after R297). -/
def fixVals (s : State) (r : Run) (m : Model) (A : Arith) (status : Nat) (it : Iter) : Work Vec :=
  match r.stream, m.smap with
  | some _, some sm =>
    let x := newXhat s r
    pure (vals ((sm.fixFromIter.map (fun i => it.x.getD i 0)) ++ (sm.fixFromX.map (fun i => x.getD i 0))))
  | _, _ =>
    payloadVals A m.chart (r.prob.getD ⟨[], [], [], [], [], [], []⟩) it (if status = 0x10 ∨ status = 0x11 then some r.cert else none)

/-- The commit phase of a run that ended with a status (04 R104, R105). -/
def commitPhase (s : State) (r : Run) (m : Model) (site : TrapRec) (status : Nat) : FixOut :=
  let n := runNum s r
  let A := arithOf s r
  match r.trap with
  | some t => ⟨status, trapBytes t, none, none, {}, 0⟩
  | none =>
    match returned m r status with
    | none => ⟨status, [], none, none, {}, 0⟩
    | some c =>
      let code := m.chart.formats.getD 7 0
      let ((it, vs), t) := (do
        let it ← finalIter A r c.it
        return (it, ← fixVals s r m A status it) : Work (Iter × Vec)).run {}
      if 0 < t.ev.strictOvf then
        ⟨0x22, trapBytes { site with kind := 4, count := satTo 255 t.ev.strictOvf }, none, none, t.ev, t.sxtFlushed⟩
      else match storeOverflow code n vs with
      | some x =>
        let ev := (storeVals code n.rm true (vs.take (x.1 + 1))).2
        ⟨0x22, trapBytes (storeTrap r site code x), none, none,
         t.ev.add { ev with strictOvf := satTo 255 (if site.count < 1 then 1 else site.count) }, t.sxtFlushed⟩
      | none =>
        let (bs, ev) := storeVals code n.rm n.strict vs
        ⟨status, bs, some c, some it, t.ev.add ev, t.sxtFlushed⟩

/-- FLAGS of the Fix header (04 R104, R100; 11 R279). -/
def fixFlags (r : Run) (cand : Option Cand) (iterRun best : Nat) : Nat :=
  let sealed := sealedRoute r.route && !(match r.trig with | some t => t.meridian | none => false)
  r.warmFlags + bitAt sealed 1 + bitAt (match cand with | some c => c.refined | none => false) 2 +
  bitAt (decide (best ≠ iterRun)) 3

/-- The four figures of a candidate as reported (04 R105), with the flushes of their conversion. -/
def reported (cand : Option Cand) : (Nat × Nat × Nat × Nat) × NumEv :=
  match cand with
  | some c =>
    let m := convertResidual (f64 c.res.merit)
    let p := convertResidual (f64 c.res.rp)
    let d := convertResidual (f64 c.res.rd)
    let g := convertResidual (f64 c.res.rg)
    ((m.1, p.1, d.1, g.1), ((m.2.add p.2).add d.2).add g.2)
  | none => ((inf32, inf32, inf32, inf32), {})

/-- The warm store that a run leaves (02 R56, 04 R107, R472), its bytes and events; sides and rows that do not act hold 0. -/
def runStore (m : Model) (r : Run) (seq : Word) (status : Nat) (it : Option Iter) : Option (List Byte) × NumEv :=
  match it with
  | some it =>
    if status = 0 ∨ status = 1 ∨ status = 2 then
      let (bs, ev) := storeBytes m.chart seq (match r.prob with | some p => clearIdle p it | none => it)
      (some bs, ev)
    else (none, {})
  | none => (none, {})

/-- The eight counters of a berth counter set at a commit point (15 R360). -/
def bsetVals (r : Run) (now : Nat) (c : RunCounts) : List Nat :=
  [now - r.launchAk, r.iter, c.productCycles, c.chartRd, c.chartWr, c.sxtOps, c.pivReg + c.pivInertia + c.pivAbandoned,
   c.ev.flushed]

/-- The snapshots of a commit point: of the sets whose live tag stands (15 R361). -/
def snapshotSets (s : State) (r : Run) (c : RunCounts) : State :=
  r.berths.foldl (fun s b => s.setPel { s.pel with bsets := mupd s.pel.bsets b.origin ⟨none, [], none⟩ (fun x =>
    if x.live = some r.key then ⟨none, bsetVals r s.clk.chipAk c, some r.key⟩ else x) }) s

/-- What a run gives back at its commit point: its windows, but those that outlive a commit, its facets and triples; a SAFE
command's Plot stays out of placement until the recheck ends (16 R378). -/
def releaseAtCommit (s : State) (r : Run) : State :=
  let keep := (r.route.recv.filter (fun w => !w.closeOnCommit)).map (·.win)
  let s := closeWins s (r.wins.filter (fun w => !keep.contains w))
  if r.slot.isSome then dropRun (emptySlot (freeSlot s r.key) r) r.key
  else
    let s := emptyFacets s (runFacets r)
    if decide (dClass (runDesc s r) = 2) then putRun s { r with phase := .done, wins := [] } else dropRun s r.key

/-- KIND and HOLD_REASON of a unit's Fix frame (12 R305). -/
def unitKind (status : Nat) : Nat × Nat :=
  if status = 0x00 ∨ status = 0x02 then (0, 0)
  else if status = 0x01 then (1, 0)
  else if status = 0x40 then (2, 1)
  else (2, 2)

/-- One more event of a stream counter: 0 SERVED, 1 SOLVED, 2 BEST, 3 HOLD, 4 UNREADABLE, 5 TOO_SOON, 6 STALE, 7 FIX_LATE
(18 R413). -/
def streamCount (s : State) (ctx n k : Nat) : State := ccount s ctx (0x3000 + 0x100 * k + n) 1

/-- Settle the Fix frame that answers a Sounding, as its unit's outcome gives. -/
def settleDue (s : State) (n : Nat) (seq : Word) (status flags merit : Nat) (payload : List Byte) : State :=
  match mget s.streams n with
  | none => s
  | some st =>
    let (kind, reason) := unitKind status
    let hold := decide (kind = 2)
    let upd (d : FixDue) : FixDue :=
      if d.answers && decide (d.seq = seq) then
        { d with kind := kind, reason := reason, status := status, flags := if hold then 0 else flags,
                 merit := if hold then inf32 else merit, payload := if hold then [] else payload }
      else d
    s.setStreams (mset s.streams n { st with due := st.due.map upd })

/-- Write a command's Fix to its result buffer, payload first and header last (09 R244). -/
def writeFix (s : State) (c : Cmd) (h : FixHdr) (payload : List Byte) : State :=
  let f := fnFor s c.key.ctx
  let s := if payload.isEmpty then s else emit s (.memWrite f (dOutAddr c.desc + 64) (padTo 4 payload))
  emit s (.memWrite f (dOutAddr c.desc) (fixHdrBytes h))

/-- The commit request of a run's outcome. -/
def runReq (s : State) (r : Run) (m : Model) (o : FixOut) (store : Option (List Byte)) (c : RunCounts) : CommitReq :=
  let best := match o.cand with | some x => x.iter | none => 0
  let (mer, rp, rd, rg) := (reported o.cand).1
  { plainReq s o.status mer rp rd rg with
    flags := fixFlags r o.cand r.iter best, numFlags := c.ev.flags, iterRun := r.iter, launched := true,
    fixWritten := r.stream.isNone || decide ((unitKind o.status).1 ≠ 2), bestIter := best, sig := m.sig, merit := mer, store := store,
    dualValid := (warmContent m.chart).testBit 1, charge := accrued s r, credit := (r.cost : Int) - (accrued s r : Int),
    fixLen := 64 + ceilDiv o.payload.length 4 * 4, counts := c,
    launchAk := r.launchAk }

/-- The header that the commit phase writes (04 R104). -/
def runHdr (s : State) (r : Run) (m : Model) (q : CommitReq) (len : Nat) : FixHdr :=
  { status := q.status, flags := q.flags, bestIter := q.bestIter, iterRun := q.iterRun, handle := runHandle s r,
    seq := runSeq s r, sig := m.sig, merit := q.res0, rhoP := q.res1, rhoD := q.res2, rhoG := q.res3, commit := stampR s,
    outFmt := m.chart.formats.getD 7 0, payloadLen := len }

/-- COMMIT_POINT: the commit phase ends and the lead conductor hands the request to the Binnacle's journal queue. `site` names
the route step and cycle of the conversion of the returned iterate, for a trap inside the commit phase. -/
def doCommitPoint (s : State) (k : CmdKey) (site : TrapRec) : State :=
  match findRun s k with
  | none => s
  | some r =>
    match runModel s r, r.status with
    | some m, some status =>
      if r.phase ≠ .commit ∨ r.commitAt ≠ some s.clk.chipAk ∨ frozen s then s
      else
        let o := commitPhase s r m site status
        let seq := runSeq s r
        let (store, wev) := runStore m r seq o.status o.final
        let c := { r.counts with ev := ((r.counts.ev.add o.ev).add wev).add (reported o.cand).2 }
        let s := if o.sxtFlushed = 0 then s else gcount s (0x1070 + leadSector r % 16) o.sxtFlushed
        let q := runReq s r m o store c
        let s := traceCmd s 2 0 (leadSector r) ⟨k.ctx, k.ring, seq⟩ (s.clk.sectorAk.getD (leadSector r) 0)
          (runOrigin r + o.status * 256 + r.iter * 65536) (s.clk.chipAk - r.launchAk)
        let s := snapshotSets s r c
        match r.stream with
        | some n =>
          let s := settleDue s n seq q.status q.flags q.merit o.payload
          fileUnit (releaseAtCommit s r) n q
        | none =>
          match findCmd s k with
          | none => s
          | some cmd =>
            let s := writeFix s cmd (runHdr s r m q o.payload.length) o.payload
            let s := releaseAtCommit s r
            fileReq s cmd { q with charge := q.charge + cmd.chargeDue }
    | _, _ => s

/-! ### The Binnacle's checks before "committing" (16 R380, R381) -/

/-- Is a Fix header fresh (16 R381)? -/
def freshFix (bs : List Byte) (seq : Word) (handle : Nat) (sig : Word64) (t : Mer) : Bool :=
  decide (fieldOf bs 12 4 = seq.toNat) && decide (fieldOf bs 10 2 = handle) && decide (fieldOf bs 16 8 = sig.toNat) &&
  decide (fieldOf bs 40 8 = merSec t) && decide (fieldOf bs 48 4 = merNs t) && decide (fieldOf bs 52 2 = merFrac t) &&
  decide (fieldOf bs 6 2 ≤ fieldOf bs 8 2)

/-- Byte offsets of a Fix that R276 lets two runs differ in: SEQ, HANDLE and the commit time. -/
def timeByte (i : Nat) : Bool := (decide (10 ≤ i) && decide (i < 16)) || (decide (40 ≤ i) && decide (i < 54))

/-- The first byte in which two Fixes differ. -/
def firstDiff (a b : List Byte) : Option Nat :=
  (List.range (if a.length < b.length then b.length else a.length)).find? (fun i => !timeByte i && decide (a[i]? ≠ b[i]?))

/-- Is a recomputed residual within a bound of the reported one (16 R380)? -/
def residWithin (v : Word64) (rep : Nat) : Bool :=
  let lim := (addX (mulX (decode .b32 rep).1 (.fin false 65537 (-16))).1 (.fin false 1 (-40))).1
  leX (f64 v) lim

/-- Is it within its tolerance × (1 + 2^-16)? -/
def residConverged (v : Word64) (eps : Nat) : Bool := leX (f64 v) (mulX (epsOf eps) (.fin false 65537 (-16))).1

/-- The residual test of 16 R380 against the figures that the Fix reports. -/
def residTest (d : Line) (status : Nat) (rep : Nat × Nat × Nat) (v : Resid) : Bool :=
  residWithin v.rp rep.1 && residWithin v.rd rep.2.1 && residWithin v.rg rep.2.2 &&
  (decide (status ≠ 0) || (residConverged v.rp (dEpsP d) && residConverged v.rd (dEpsD d) && residConverged v.rg (dEpsG d)))

/-- What stands in the journal queue under a key: a command's request, or a unit's with its binding. -/
structure Queued where
  desc : Line
  req : CommitReq
  seq : Word
  handle : Nat
  stream : Option Nat

/-- The request of a queued key. -/
def queued (s : State) (k : CmdKey) : Option Queued :=
  match findCmd s k with
  | some c => c.req.map (fun q => ⟨c.desc, q, c.key.seq, dHandle c.desc, none⟩)
  | none =>
    match s.streams.find? (fun e => e.2.key == k) with
    | some (n, st) => (match st.unit with
      | some u => u.req.map (fun q => ⟨st.desc, q, u.seq, st.ctlHandle, some n⟩)
      | none => none)
    | none => none

/-- A request updated where it stands. -/
def updReq (s : State) (k : CmdKey) (f : CommitReq → CommitReq) : State :=
  match findCmd s k with
  | some c => putCmd s { c with req := c.req.map f }
  | none => s.setStreams (s.streams.map (fun e => if e.2.key == k then
      (e.1, { e.2 with unit := e.2.unit.map (fun u => { u with req := u.req.map f }) }) else e))

/-- A failed check: a DEVICE event naming the berth or berths; the request is discarded with the others, and the kill counts as
a fault kill (16 R380). -/
def checkFailed (s : State) (k : CmdKey) (cause : Nat) (detail : List Byte) : State :=
  let (org, org2, fs) := match findRun s k with
    | some r => (runOrigin r, runOrigin2 r, runFacets r)
    | none => (0xFFFF, 0xFFFF, [])
  let idx := s.log.next
  let s := deviceEvent s { cls := 5, cause := cause, unitKind := 1, unitNo := org % 256, key := some k, originA := org, originB := org2, detail := detail } fs
  match findCmd s k with
  | some c => putCmd s { c with faultKills := c.faultKills + 1, faultIdx := idx, avoid := fs }
  | none => s

/-- The key whose recheck is under way: the first of the queue that waits for one (16 R379). -/
def recheckNow (s : State) : Option CmdKey := s.log.queue.find? (awaitsRecheck s)

/-- When the recheck of a queued request ends (16 R379): 1,000 ns and W Binnacle cycles of 2.5 ns from its start, which is when its
request came or the recheck before it ended. -/
def recheckDue (s : State) (k : CmdKey) (q : CommitReq) : Mer :=
  let w := match findRun s k with | some r => (match r.route.recheck with | some p => p.w | none => 0) | none => 0
  (if q.stamp < s.log.recheckAt then s.log.recheckAt else q.stamp) + 1000 * nsU + w * 5 * nsU / 2

/-- A recheck has ended: the next one may begin. -/
def recheckOver (s : State) : State := s.setLog { s.log with recheckAt := stamp s }

/-- Is the Fix of a queued request fresh: its header, and for a unit also its Sounding (16 R381)? -/
def freshQueued (s : State) (x : Queued) (fix : List Byte) : Bool :=
  freshFix fix x.seq x.handle x.req.sig (x.req.stamp / 2 ^ 16 * 2 ^ 16) &&
  (match x.stream with
   | some n => (match mget s.streams n with
     | some st => (match st.next with | some nx => decide (x.seq = nx) || ahead x.seq nx | none => true)
     | none => true)
   | none => true)

/-- The iterate that the recheck takes: x, y and ν as the Fix of a command holds them; where it holds no multipliers, and for a unit, whose
Fix stands in the frame, the run's own. -/
def recheckIter (A : Arith) (r : Run) (m : Model) (q : CommitReq) (c : Cand) (fix : List Byte) : Work (Vec × Vec × Vec) := do
  let p := r.prob.getD ⟨[], [], [], [], [], [], []⟩
  let (n, rows) := (p.q.length, p.lb.length)
  let own : Work (Vec × Vec × Vec) := do return (vals c.it.x, vals (← yOf A m.chart c.it), vals c.it.nu)
  if r.stream.isSome ∨ q.status = 0x10 ∨ q.status = 0x11 then own
  else
    let vs := readVals (m.chart.formats.getD 7 0) (n + rows + p.ev.length) (fix.drop 64)
    let x ← if r.base.isEmpty then pure (vs.take n) else vSub A (vs.take n) (vals r.base)
    return (x, (vs.drop n).take rows, vs.drop (n + rows))

/-- The residuals of 03 R65 that the recheck program recomputes in binary64 (04 R92, 16 R377); none where the Fix holds no iterate. A direct
update has no problem to recompute them from: its own stand (log 37). -/
def recheckResid (s : State) (k : CmdKey) (q : CommitReq) (fix : List Byte) : Option Resid :=
  match findRun s k with
  | none => none
  | some r =>
    match runModel s r with
    | none => none
    | some m => match returned m r q.status, r.prob with
      | some c, some p =>
        let A := { arithOf s r with num := {} }
        let out := (do
          let (x, y, nu) ← recheckIter A r m q c fix
          residuals A p x y nu : Work ResidOut).run {}
        some out.1.store
      | some c, none => some c.res
      | none, _ => none

/-- RHO_P, RHO_D and RHO_G as the Fix reports them: in its header as the check port reads it, and for a unit in its request. -/
def reportedBy (x : Queued) (fix : List Byte) : Nat × Nat × Nat :=
  if x.stream.isSome then (x.req.res1, x.req.res2, x.req.res3) else (fieldOf fix 28 4, fieldOf fix 32 4, fieldOf fix 36 4)

/-! ### The commit sequence (09 R249) -/

/-- May a queued request be journalled: its ring's earlier commands have committed, its function can master, its recheck has
passed, no watch still copies its run (09 R248, R249; 19 R429; 18 R420)? -/
def mayCommit (s : State) (k : CmdKey) (x : Queued) : Bool :=
  s.log.queue.contains k && !s.bin.safe && ready s && (recheckNow s != some k) && !awaitsRecheck s k &&
  (x.stream.isSome || (ringHead s k && canMaster s (fnFor s k.ctx) && !watchCopying s k))

/-- The record of a command's commit (09 R241). -/
def recordOf (s : State) (c : Cmd) (q : CommitReq) : CplRec :=
  let r := ringOf s c.key.ctx c.key.ring
  { seq := c.key.seq, status := q.status, flags := q.flags, numFlags := q.numFlags,
    rflags := phaseBit c.key.seq r.seq0 r.log2e + bitAt c.rerun 1 + bitAt (isSolve c.desc && dDual c.desc && q.launched) 3,
    handle := dHandle c.desc, iterRun := q.iterRun, res0 := q.res0, res1 := q.res1, res2 := q.res2, res3 := q.res3,
    elapsed := satTo (2 ^ 32 - 1) ((q.stamp - c.acceptedAt) / nsU) }

/-- The completion slot of a sequence number. -/
def slotOf (r : Ring) (seq : Word) : Nat := (seq - r.seq0).toNat % 2 ^ r.log2e

/-- The entry after a commit (02 R55, R56): `store` is the iterate's bytes, where the status stores one. -/
def hdgAfter (e : Hdg) (busy : Bool) (q : CommitReq) (model ring : Nat) (seq : Word) (store : Option (List Byte)) : Hdg :=
  let last := bitAt (q.flags.testBit 1) 3 + bitAt (q.flags.testBit 2) 4 + bitAt (q.flags.testBit 0) 5
  let t := q.stamp / 2 ^ 16 * 2 ^ 16
  let e := { e with
    state := if busy then 2 else 1, lastStatus := q.status, lastSeq := seq, ring := ring, lastIter := satTo 255 q.iterRun,
    commit := t, model := model, commitCount := (e.commitCount + 1) % 2 ^ 32 }
  let keep := e.flags % 8
  match store with
  | none => { e with flags := keep + last }
  | some bs =>
    if bs.length ≤ e.warmCap then
      { e with flags := bitAt true 0 + bitAt q.dualValid 1 + bitAt (keep.testBit 2) 2 + last, sig := q.sig, merit := q.merit }
    else { e with flags := bitAt (keep.testBit 2) 2 + last, sig := 0, merit := 0 }

/-- Put a stored iterate into an entry's warm store, if it fits (02 R56). -/
def putStore (s : State) (e : Hdg) (store : Option (List Byte)) : State :=
  match store with
  | some bs => if bs.length ≤ e.warmCap then countChartWr (chartPut s e.warmAddr bs) e.warmAddr bs.length else s
  | none => s

/-- Does a command write a Heading entry at its commit: a solve command whose entry was bound and whose fields passed? -/
def writesEntry (c : Cmd) (q : CommitReq) : Bool := isSolve c.desc && !c.freeEntry && decide (q.status ≠ 0x32)

/-- The Heading image of a command's commit. -/
def imageOf (s : State) (c : Cmd) (q : CommitReq) : Option Hdg :=
  if writesEntry c q then
    let h := dHandle c.desc
    some (hdgAfter (hdgOf s h) (namedByOther s c.key h) q (dModel c.desc % 4096) c.key.ring c.key.seq q.store)
  else none

/-- The first free place of a journal entry (16 R387): standing "committing" entries are passed over. -/
def journalSlot (s : State) : Nat :=
  let busy (i : Nat) : Bool := match mget s.log.journal i with | some e => decide (e.kind = 1) || decide (e.kind = 3) | none => false
  (((List.range 128).map (fun i => (s.log.jnext + i) % 8192)).find? (fun i => !busy i)).getD (s.log.jnext % 8192)

/-- Write a journal entry. -/
def writeJournal (s : State) (e : JEntry) : State :=
  let i := journalSlot s
  s.setLog { s.log with journal := mset s.log.journal i e, jnext := (i + 1) % 8192 }

/-- Step 3: "committing". -/
def journalCommitting (s : State) (c : Cmd) (rec : CplRec) (img : Option Hdg) : State :=
  writeJournal s
    { kind := 1, eflags := bitAt s.clk.shadowMark 0 + bitAt (dBcnEn c.desc) 2, ctx := c.key.ctx, seq := c.key.seq, ring := c.key.ring,
      slot := slotOf (ringOf s c.key.ctx c.key.ring) c.key.seq, beacon := if dBcnEn c.desc then dBeacon c.desc % 32768 else 0,
      handle2 := 0, mer := s.clk.shadow, record := cplBytes rec, image1 := (match img with | some e => hdgBytes e | none => []),
      image2 := [] }

/-- Step 4: the record is posted into its slot. -/
def postRecord (s : State) (c : Cmd) (bs : List Byte) : State :=
  let r := ringOf s c.key.ctx c.key.ring
  emit s (.memWrite (fnFor s c.key.ctx) (r.cqBase + 32 * slotOf r c.key.seq) bs)

/-- Bytes that a command moved over the host link. -/
def hostBytes (c : Cmd) (q : CommitReq) : Nat × Nat :=
  let inB := if isSolve c.desc && q.launched then dInLen c.desc * 64 else if opOf c.desc = 0x01 && c.image.isSome then leField c.desc 36 4 else 0
  let outB := if opOf c.desc = 0x01 then q.res3 else if opOf c.desc = 0x50 ∨ opOf c.desc = 0x60 then q.res0 else q.fixLen
  (64 + inB, 32 + outB)

/-- The additions of one commit to a context's counters (18 R413, 06 R166). -/
def commitCounts (q : CommitReq) (rerun soft : Bool) (host : Nat × Nat) : List (Nat × Nat) :=
  let c := q.counts
  [(0x0, 1), (0x1, q.iterRun), (0x2, bitAt rerun 0), (0x3, bitAt (decide (q.status = 0x40)) 0),
   (0x4, bitAt (decide (q.status = 0x50) || decide (q.status = 0x51)) 0), (0x5, bitAt (q.flags.testBit 0) 0),
   (0x6, if soft then q.charge else 0), (0x7, if soft then 0 else q.charge),
   (0x100, c.ev.sat), (0x101, c.ev.flushed), (0x102, c.ev.zsl), (0x103, c.ev.divz), (0x104, c.ev.nanGen), (0x105, c.ev.strictOvf),
   (0x110, c.pivReg), (0x111, c.pivInertia), (0x112, c.pivAbandoned), (0x200, host.1), (0x201, host.2), (0x202, c.chartRd),
   (0x203, c.chartWr), (0x204, c.almRd), (0x205, c.spillB), (0x206, c.rasSent), (0x207, c.rasRecv)]

/-- Charge a commit to a context: shares also change the balance and the charged total (10 R261, R262). -/
def chargeCtx (s : State) (ctx : Nat) (soft : Bool) (charge : Nat) (credit : Int) : State :=
  match ctxOf s ctx with
  | some c =>
    let c := { c with balance := c.balance + credit, charged := c.charged + charge }
    if soft then s.setHelm { s.helm with ctxs := mset s.helm.ctxs ctx c } else s
  | none => s

/-- STATE of the other entries that a command names (02 R55). -/
def freeOthers (s : State) (k : CmdKey) : List Nat → State
  | [] => s
  | h :: hs =>
    let st := (hdgOf s h).state
    freeOthers (if st = 0 then s else setHdgState s h (if namedByOther s k h then 2 else 1)) k hs

/-- Release a binding at the commit of its STREAM_UNBIND (12 R301): its window closed, its berth, triples and Plot given back,
LOCK and STREAM_BOUND cleared, both entries BOUND unless an accepted command names them. -/
def unbindStream (s : State) (k : CmdKey) (n : Nat) : State :=
  match mget s.streams n with
  | none => s
  | some st =>
    let s := dropRun (closeWin (emptyFacets s st.berth.facets) st.win) st.key
    let s := s.setStreams (mdel s.streams n)
    let stOf (h : Nat) : Nat := if (hdgOf s h).state = 0 then 0 else if namedByOther s k h then 2 else 1
    let c := hdgOf s st.ctlHandle
    let fl := if c.flags.testBit 2 then c.flags - 4 else c.flags
    let s := setHdg s st.ctlHandle { c with state := stOf st.ctlHandle, flags := fl, stream := 0 }
    setHdg s st.estHandle { hdgOf s st.estHandle with state := stOf st.estHandle }

/-- What the commit of a STREAM_BIND writes into the controller entry: STREAM_BOUND and STREAM (02 R56). -/
def boundStream (s : State) (h n : Nat) : State :=
  let e := hdgOf s h
  setHdg s h { e with flags := if e.flags.testBit 2 then e.flags else e.flags + 4, stream := n }

/-- Step 5: the Heading step, everything of it that happens once. -/
def headingStep (s : State) (c : Cmd) (q : CommitReq) (img : Option Hdg) : State :=
  let s := match img with
    | some e => setHdg (putStore s e q.store) (dHandle c.desc) e
    | none => s
  let named := if q.status = 0x32 then [] else heldEntries c
  let s := freeOthers s c.key (if img.isSome then named.drop 1 else named)
  let s := if opOf c.desc = 0x01 then
      (if q.status = 0 then commitLoad s (dModel c.desc % 4096) else s)
    else if opOf c.desc = 0x02 ∧ q.status = 0 then commitUnload s (dModel c.desc % 4096)
    else if opOf c.desc = 0x20 ∧ q.status = 0 then boundStream s (dHandle c.desc) (leField c.desc 48 1 % 64)
    else if opOf c.desc = 0x21 ∧ q.status = 0 then unbindStream s c.key (leField c.desc 48 1 % 64) else s
  let soft := decide (dClass c.desc = 0) || !isSolve c.desc
  let s := ccounts s c.key.ctx (commitCounts q c.rerun soft (hostBytes c q))
  chargeCtx s c.key.ctx soft q.charge q.credit

/-- Step 6: the Beacon step. A BEACON_SIGNAL's own signal comes first, then the Beacon and the vector of 09 R245. -/
def beaconStep (s : State) (c : Cmd) (q : CommitReq) : State :=
  let d := c.desc
  let s := if opOf d = 0x40 ∧ q.status = 0 ∧ !(leField d 35 1).testBit 7 then
      commitSignal s c.key (leField d 36 2 % 32768) (BitVec.ofNat 32 (leField d 40 4)) (decide (leField d 34 1 = 1))
    else s
  let s := if c.bcnOk then commitSignal s c.key (dBeacon d % 32768) c.key.seq true else s
  if dIrq d then raiseRing s c.key.ctx (ringOf s c.key.ctx c.key.ring) else s

/-! ### The deadline watch (16 R382) -/

/-- Is a command watched: a FIRM or SAFE solve command? -/
def watchedClass (d : Line) : Bool := isSolve d && decide (dClass d ≠ 0)

/-- B × 2.51325 ns. -/
def budgetLong (b : Nat) : Mer := b * 251325 * nsU / 100000

/-- By how much a launched request missed its Meridian deadline: nothing for one at or before T_d, or LATE. -/
def lateBy (q : CommitReq) (td : Option Mer) : Option Mer :=
  match td with
  | some t => if q.launched && decide (q.status ≠ 0x40) && decide (t < q.stamp) then some (q.stamp - t) else none
  | none => none

/-- By how much one missed its budget: at most B − 128 AK cycles from launch to commit point. -/
def overBudget (q : CommitReq) (b : Option Nat) : Option Mer :=
  match b with
  | some b => if q.launched && decide (q.status ≠ 0x40) && decide (b < q.ak - q.launchAk + 128) then some (nominalAk (q.ak - q.launchAk + 128 - b)) else none
  | none => none

/-- The breach of a request, if there is one. -/
def reqBreach (q : CommitReq) (td : Option Mer) (b : Option Nat) : Option Mer :=
  match lateBy q td with | some x => some x | none => overBudget q b

/-- A breach that the commit leaves to the watch. -/
def noteBreach (s : State) (k : CmdKey) (x : Option Mer) : State :=
  match x with
  | some m => s.setBin { s.bin with breached := s.bin.breached ++ [(k, m)] }
  | none => s

/-- The budget that a watched command runs under. -/
def watchBudget (d : Line) : Option Nat := if hasBudget d then some (dBudget d) else none

/-- Step 7: "committed": the entry, the place in DONE, and the end of the command. -/
def committedStep (s : State) (c : Cmd) (replayed : Bool) : State :=
  let k := c.key
  let s := s.setLog { s.log with journal := s.log.journal.filter (fun e => !(decide (e.2.kind = 1) && decide (e.2.ctx = k.ctx) &&
    decide (e.2.ring = k.ring) && decide (e.2.seq = k.seq))) }
  let s := writeJournal s
    { kind := 2, eflags := bitAt s.clk.shadowMark 0 + bitAt replayed 1, ctx := k.ctx, seq := k.seq, ring := k.ring, slot := slotOf (ringOf s k.ctx k.ring) k.seq,
      beacon := 0, handle2 := 0, mer := s.clk.shadow, record := [], image1 := [], image2 := [] }
  let s := s.setLog { s.log with last := mset s.log.last (ringKey k.ctx k.ring) k.seq, queue := s.log.queue.filter (fun x => !(x == k)) }
  let s := expireWatches s k c.runs (match s.pel.bsets.find? (fun e => e.2.tag = some k) with | some e => e.1 | none => 0xFFFF)
  let s := match c.req with
    | some q => if watchedClass c.desc && !c.watched then noteBreach s k (reqBreach q c.deadline (watchBudget c.desc)) else s
    | none => s
  let s := dropCmd (dropRun s k) k
  let s := s.setHelm { s.helm with lateCover := s.helm.lateCover.filter (fun x => !(decide (x = (ringKey k.ctx k.ring, k.seq)))) }
  let r := ringOf s k.ctx k.ring
  pump (setRing s k.ctx k.ring { r with done := k.seq + 1 }) k.ctx k.ring

/-- The value that a local BEACON_SIGNAL will leave (09 R243). -/
def withSignalValue (s : State) (c : Cmd) (q : CommitReq) : CommitReq :=
  let d := c.desc
  if opOf d = 0x40 ∧ q.status = 0 ∧ !(leField d 35 1).testBit 7 then
    { q with res0 := (beaconNext s (leField d 36 2 % 32768) (BitVec.ofNat 32 (leField d 40 4)) (decide (leField d 34 1 = 1))).toNat }
  else q

/-- Steps 3 to 7 of a command, through step `upto`: an event that stops the sequence leaves its "committing" entry standing. -/
def commitCmd (s : State) (c : Cmd) (q : CommitReq) (upto : Nat) : State :=
  let q := withSignalValue s c q
  let rec0 := recordOf s c q
  let img := imageOf s c q
  if upto < 3 then s
  else
    let s := journalCommitting s c rec0 img
    let s := if upto < 4 then s else postRecord s c (cplBytes rec0)
    let s := if upto < 5 then s else updReq (headingStep s c q img) c.key (fun q => { q with headDone := true })
    let s := if upto < 6 then s else beaconStep s c q
    if upto < 7 then s else committedStep s c false

/-- The "stream committing" entry and the Heading writes of a unit (12 R306, 16 R388). -/
def commitUnit (s : State) (n : Nat) (st : Stream) (u : UnitSt) (q : CommitReq) (upto : Nat) : State :=
  let esig := match mget s.helm.models st.estModel with | some m => m.sig | none => 0
  let est := { q with status := u.estStatus.getD q.status, iterRun := bitAt u.estStatus.isSome 0, sig := esig, dualValid := false }
  let estStore := match u.estStatus with | some 0 => u.estStore | some 2 => u.estStore | _ => none
  let c1 := hdgAfter (hdgOf s st.ctlHandle) true q st.ctlModel st.key.ring u.seq q.store
  let e1 := hdgAfter (hdgOf s st.estHandle) true est st.estModel st.key.ring u.seq estStore
  if upto < 3 then s
  else
    let s := writeJournal s
      { kind := 3, eflags := bitAt s.clk.shadowMark 0 + bitAt true 3, ctx := st.key.ctx, seq := u.seq, ring := n, slot := 0, beacon := 0,
        handle2 := st.estHandle, mer := s.clk.shadow, record := b4 (st.fixCount + 1).toNat ++ b4 (u.seq + 1).toNat,
        image1 := hdgBytes c1, image2 := hdgBytes e1 }
    if upto < 5 then s
    else
      let s := setHdg (putStore s c1 q.store) st.ctlHandle c1
      let s := setHdg (putStore s e1 estStore) st.estHandle e1
      let s := ccounts s st.key.ctx (commitCounts q (decide (0 < st.faultKills)) false (0, 0))
      let s := streamCount (streamCount s st.key.ctx n 0) st.key.ctx n (1 + (unitKind q.status).1)
      let s := if q.launched then s else settleDue s n u.seq q.status 0 inf32 []
      let st := (mget s.streams n).getD st
      let s := s.setLog { s.log with queue := s.log.queue.filter (fun x => !(x == st.key)) }
      let s := noteBreach s st.key (reqBreach q (unitDeadline s n st u) (some st.budget))
      s.setStreams (mset s.streams n { st with
        unit := none, faultKills := 0, due := st.due.map (fun d => if d.answers && decide (d.seq = u.seq) then { d with ready := true } else d) })

/-- A Heading entry that meets an uncorrectable error is rebuilt from the Logbook shadow, BUSY when an accepted command names
it (15 R367). -/
def rebuildHdg (s : State) (h : Nat) : State :=
  let e := mgetD s.log.shadow h Hdg.zero
  let busy := s.cmds.any (fun c => !fieldFailed c && (heldEntries c).contains h)
  let s := s.setHelm { s.helm with heading := mset s.helm.heading h { e with state := if busy then 2 else e.state } }
  raiseEvent s { cls := 1, cause := 0x31, unitKind := 4, detail := b2 h }

/-- The entries that a queued request writes. -/
def queuedEntries (s : State) (x : Queued) : List Nat :=
  match x.stream with
  | some n => (match mget s.streams n with | some st => [st.ctlHandle, st.estHandle] | none => [])
  | none => if isSolve x.desc then namedEntries x.desc else []

/-- COMMITTING: the Binnacle's commit sequence of a queued request. `fix` is the Fix header as the Binnacle reads it back;
`lost` names entries of the command whose read meets an uncorrectable error; the sequence runs through step `upto`, 7 unless a
DEVICE event or a reset stops it. -/
def doCommitting (s : State) (k : CmdKey) (fix : List Byte) (lost : List Nat) (upto : Nat) : State :=
  match queued s k with
  | none => s
  | some x =>
    let s := if mayCommit s k x then (lost.filter (fun h => (queuedEntries s x).contains h)).foldl rebuildHdg s else s
    if !mayCommit s k x then s
    else if x.req.fixWritten && !x.req.recheckDone && !freshQueued s x fix then checkFailed s k 0x03 []
    else match x.stream with
      | none => (match findCmd s k with
        | some c => if journalled s k then s else commitCmd s c x.req upto
        | none => s)
      | some n => (match mget s.streams n with
        | some st => (match st.unit with
          | some u => if streamJournalled s n then s else commitUnit s n st u x.req upto
          | none => s)
        | none => s)

def execCommitPoint (k : CmdKey) (site : TrapRec) (s : State) : Res := .next (doCommitPoint s k site)
def execCommitting (k : CmdKey) (fix : List Byte) (lost : List Nat) (upto : Nat) (s : State) : Res :=
  .next (doCommitting s k fix lost upto)

end Sys2Proof.Machine
end

