-- ==== Sys2Proof/Machine/Streams.lean ====
section
/-! DEFINITION. Sounding and Fix streams (12): STREAM_BIND, STREAM_UNBIND, Sounding frames, units, Fix frames, the watchdog, a
failed binding, skew calibration. A binding is named by 16 × receive port + virtual channel. -/

namespace Sys2Proof.Machine
open Sys2Proof

/-! ### Ports -/

/-- The Meridian time of an event to IK resolution: IK runs at a half of the root's 16 periods of an MK cycle (01 R27, 12 R302). -/
def stampIk (s : State) : Mer := s.clk.mer + s.clk.rootPhase / 8 * 8 * merInc s / 16

/-- Is EN of CSI_RX_CFG or CSI_TX_CFG of a port set? -/
def rxEn (s : State) (p : Nat) : Bool := (rget s (0x80000 + 4 * p)).testBit 31
def txEn (s : State) (p : Nat) : Bool := (rget s (0x80010 + 4 * p)).testBit 31

/-- WATCHDOG of a channel (12 R300), none when 0. -/
def watchdogOf (s : State) (n : Nat) : Option Mer :=
  let w := nbits (rget s (0x80100 + 4 * n)) 30 16
  if w = 0 then none else some (w * usU)

/-- Bytes of one Sounding buffer: 512 for the header line and the payload in whole rows (12 R300). -/
def bufBytes (m : StreamMap) : Nat := 512 + wholeRows (payloadLen m.format m.elems)

/-- The writer ID of a receive channel (08 R213). -/
def rxWriter (n : Nat) : Nat := 0x4000 + n

/-- A STREAM trace record: a Fix frame of a Sounding, or a Sounding without one (18 R416); channel and port are the transmit
channel's (log 51). -/
def traceStream (s : State) (n : Nat) (st : Stream) (seq : Word) (kind reason : Nat) : State :=
  trace s ⟨0x20, 0, 0x1C + n / 16 % 4, st.key.ctx % 4096, seq, stampR s, s.clk.chipAk % 2 ^ 32,
    st.tx % 64 + kind * 256 + reason * 65536, st.fixCount.toNat⟩

/-- Put a binding back. -/
def setStream (s : State) (n : Nat) (st : Stream) : State := s.setStreams (mset s.streams n st)

/-- Insert a Fix frame by its due time, after those of the same time. -/
def insDue (d : FixDue) : List FixDue → List FixDue
  | [] => [d]
  | e :: es => if d.due < e.due then d :: e :: es else e :: insDue d es

/-- A HOLD frame (12 R305). -/
def holdDue (due : Mer) (reason : Nat) (seq : Word) (hdr : Option SndHdr) (answers : Bool) : FixDue :=
  ⟨due, 2, reason, seq, hdr, 0xFF, 0, inf32, [], answers, true⟩

/-! ### STREAM_BIND (12 R298 to R300) -/

/-- The two models of a bind, with the routes that a unit runs: the estimator's and the controller's. -/
def bindModels (s : State) (d : Line) : Option (Model × Route × Model × Route × StreamMap) :=
  match modelOf s (leField d 54 2 % 4096), modelOf s (dModel d % 4096) with
  | some em, some cm =>
    match berthRoute em, berthRoute cm, cm.smap with
    | some er, some cr, some sm => some (em, er, cm, cr, sm)
    | _, _, _ => none
  | _, _ => none

/-- Does a bind commit STRUCTURE_MISMATCH under 12 R298? -/
def bindMismatch (s : State) (d : Line) : Bool :=
  match bindModels s d with
  | none => true
  | some (em, er, cm, cr, sm) =>
    let e := hdgOf s (leField d 52 2)
    decide (cm.chart.cls ≠ 6) || !(decide (em.chart.cls = 2) || decide (em.chart.cls = 3) || decide (em.chart.cls = 4)) ||
    decide (em.sig ≠ sm.estSig) || decide (er.berthW ≠ cr.berthW) || decide (er.berthH ≠ cr.berthH) ||
    decide (er.mask &&& cr.mask = 0) || !(e.flags.testBit 0) || decide (e.sig ≠ em.sig)

/-- What a unit's berth must give: both masks, both plans, the larger Plot need of each sector, both routes' windows. -/
def unitRoute (er cr : Route) : Route :=
  { cr with
    mask := er.mask &&& cr.mask
    spans := er.spans && cr.spans
    plan := cr.plan ++ er.plan.filter (fun t => !cr.plan.contains t)
    plotNeed := List.zipWith (fun a b => if a < b then b else a) er.plotNeed cr.plotNeed
    writesPlot := er.writesPlot || cr.writesPlot
    recv := cr.recv ++ er.recv }

/-- The descriptor of a stream's window (12 R300 step 3): two buffers from the Plot base in the origin's sector. -/
def streamWindow (ctx n base len : Nat) : Window :=
  { base := base, len := len, isOpen := false, kind := 3, expires := false, closeOnCommit := false, owner := ctx,
    writers := [rxWriter n, 0, 0, 0], expSec := 0, expNs := 0, refused := 0 }

/-- The Plot base of a placement in its origin's sector. -/
def placeBase (p : Placement) : Nat :=
  match p.berths with
  | b :: _ => (match p.plots.find? (fun q => decide (q.sector = sectorOf b.origin)) with | some q => plotBase q | none => 0)
  | [] => 0

/-- The binding that a bind makes. -/
def newStream (s : State) (c : Cmd) (n : Nat) (p : Placement) (step : Nat) : Stream :=
  let d := c.desc
  { key := c.key, tx := leField d 49 1 % 64, win := leField d 50 2 % 1024, ctlHandle := dHandle d, estHandle := leField d 52 2,
    ctlModel := dModel d % 4096, estModel := leField d 54 2 % 4096, desc := d, streamId := leField d 60 2,
    safe := decide (dClass d = 2), budget := leField d 56 4, berth := p.berths.headD ⟨0, 0, 0⟩, triples := p.triples, plots := p.plots,
    next := none, newest := none, fixCount := 0, lastServed := none, lastEnd := none,
    dogAt := (watchdogOf s n).map (fun w => stampIk s + w), frameOpen := none, buf := false, refusedRow := false, badHdr := false,
    unit := none, due := [], onLanes := none, emitted := none, failed := false, resumed := false, stopAt := none, stopAk := 0,
    startAk := step, unbind := none, suspended := false, faultKills := 0 }

/-- Bind a placement: the window is written and opened, the pattern reserved, the commit asked for; the entry is marked at
the commit (02 R56). -/
def bindAt (s : State) (c : Cmd) (n : Nat) (sm : StreamMap) (p : Placement) (step : Nat) : State :=
  let d := c.desc
  let win := leField d 50 2 % 1024
  let w := streamWindow c.key.ctx n (placeBase p) (2 * bufBytes sm)
  if (winOf s win).isOpen ∨ !windowOpens s win w then
    fileReq s c { plainReq s 0x51 (placeBase p) (rxWriter n) 0 0 with charge := c.chargeDue }
  else
    let s := openWin s win w
    let s := reserve s step (ladderPattern p.size)
    let s := setStream s n (newStream s c n p step)
    fileReq s c { plainReq s 0 win (leField d 60 2) 0 0 with charge := c.chargeDue }

/-- STREAM_BIND. While no placement or no ladder pattern exists, the bind waits. One that runs again after a reset and finds its
own binding commits. -/
def doStreamBind (s : State) (k : CmdKey) : State :=
  match findCmd s k with
  | none => s
  | some c =>
    let d := c.desc
    let n := leField d 48 1 % 64
    if opOf d ≠ 0x20 ∨ !waitingToRun c then s
    else match mget s.streams n with
      | some st => if st.key = k ∧ canServe s k.ctx then fileReq s c { plainReq s 0 st.win st.streamId 0 0 with charge := c.chargeDue } else s
      | none =>
        if !mayStart s c then s
        else if bindMismatch s d || unloadStands s c || noRecheck s d then fileStatus s c 0x31
        else match bindModels s d with
          | none => s
          | some (_, er, _, cr, sm) =>
            let r := unitRoute er cr
            let pat := ladderPattern (r.berthW * r.berthH)
            if !canServe s k.ctx ∨ s.fleet.stopped ∨ !quotaRoom s k.ctx (r.berthW * r.berthH) then s
            else match findStep s pat with
              | none => s
              | some step =>
                match quotaPlacement s r false c.avoid with
                | none => s
                | some (s, p) => (match findCmd s k with
                  | some c => bindAt s c n sm p step
                  | none => s)

/-! ### STREAM_UNBIND (12 R301) -/

/-- STREAM_UNBIND: the stop cycle. A failed binding sends no UNBOUND frame (R313). -/
def doStreamUnbind (s : State) (k : CmdKey) : State :=
  match findCmd s k with
  | none => s
  | some c =>
    let n := leField c.desc 48 1 % 64
    if opOf c.desc ≠ 0x21 ∨ !waitingToRun c ∨ !mayStart s c ∨ !canServe s k.ctx then s
    else match mget s.streams n with
      | none => fileStatus s c 0x31
      | some st =>
        if st.ctlHandle ≠ dHandle c.desc then fileStatus s c 0x31
        else if st.suspended ∨ (st.unbind.isSome ∧ st.unbind ≠ some k) then s
        else if st.failed then fileReq s c { plainReq s 0 0 0 0 0 with charge := c.chargeDue }
        else
          let now := stampIk s
          let s := putCmd s { c with phase := .waiting }
          setStream s n { st with
            stopAt := some now, stopAk := s.clk.chipAk, unbind := some k, dogAt := none,
            due := insDue (holdDue (now + fixDelay s n) 8 0 none false) st.due }

/-! ### Sounding frames (12 R296, R297, R302, R308, R309) -/

/-- Restart the watchdog from a frame end. -/
def frameEnded (s : State) (n : Nat) (st : Stream) (t : Mer) : Stream :=
  { st with
    frameOpen := none, refusedRow := false, badHdr := false, lastEnd := some t,
    dogAt := if st.stopAt.isSome then none else (watchdogOf s n).map (fun w => t + w) }

/-- An unreadable frame: counted, no Fix frame of its own. -/
def unreadable (s : State) (n : Nat) (st : Stream) : State :=
  traceStream (streamCount (setStream s n st) st.key.ctx n 4) n st 0 0xFF 0

/-- Does a binding take frames: not failed, not waiting for its resumption, receive ports not cut? -/
def takes (s : State) (st : Stream) : Bool := !st.failed && !st.suspended && !s.bin.txCut

/-- Long packets ignored on a port (12 R294). -/
def ignorePackets (s : State) (p count : Nat) : State := gcount s (0x5008 + p % 4) count

/-- SOUNDING_FRAME_START: an FS on a bound channel; one that meets an open frame ends that frame as unreadable. -/
def doSoundingFrameStart (s : State) (port vc : Nat) : State :=
  let n := 16 * (port % 4) + vc % 16
  if !rxEn s (port % 4) then s
  else match mget s.streams n with
    | none => s
    | some st =>
      if !takes s st then s
      else
        let t := stampIk s
        let s := match st.frameOpen with
          | some _ => unreadable s n (frameEnded s n st t)
          | none => s
        match mget s.streams n with
        | some st => setStream s n { st with frameOpen := some t, refusedRow := false, badHdr := false }
        | none => s

/-- The bytes of a Sounding header line. -/
def sndBytes (h : SndHdr) : List Byte :=
  b4 h.magic ++ b2 h.streamId ++ b1 h.format ++ b1 h.rsv ++ b4 h.seq.toNat ++ b4 h.elems ++ b8 h.capSec ++ b4 h.capNs ++
  b2 h.capFrac ++ fitTo 34 h.srcData

/-- One row of a frame: it lands through the stream's window or is refused and counted (08 R212, R217). -/
def frameRow (s : State) (n a : Nat) (bs : List Byte) : State × Bool :=
  if admits s a (rxWriter n) false then (admitRow s a (rxWriter n) bs, false)
  else (countRefused s a, true)

/-- The rows of a frame's payload. -/
def frameRows (s : State) (n : Nat) : Nat → Nat → List Byte → State × Bool
  | 0, _, _ => (s, false)
  | k + 1, a, bs =>
    let (s, r) := frameRow s n a bs
    let (s, r') := frameRows s n k (a + 512) (bs.drop 512)
    (s, r || r')

/-- The readable header of a frame, if it has one (12 R297). -/
def readableHdr (st : Stream) (f : SndFrame) : Option SndHdr :=
  match f.hdr with
  | some h => if f.hdrGood && decide (h.magic = 0x7439534E) && decide (h.streamId = st.streamId) then some h else none
  | none => none

/-- Store a frame in the buffer that no running unit holds, at most the buffer's rows; true when a row was refused. -/
def storeFrame (s : State) (n : Nat) (st : Stream) (sm : StreamMap) (h : SndHdr) (f : SndFrame) : State × Bool :=
  let base := (winOf s st.win).base + (if st.unit.isSome && !st.buf then bufBytes sm else 0)
  let (s, r) := frameRow s n base (sndBytes h)
  let rows := ceilDiv f.payload.length 512
  let most := bufBytes sm / 512 - 1
  let (s, r') := frameRows s n (if rows < most then rows else most) (base + 512) f.payload
  (s, r || r')

/-- A whole frame that is served: its unit waits for its launch, its Fix frame is due at t_FE + FIX_DELAY. -/
def serveFrame (s : State) (n : Nat) (st : Stream) (h : SndHdr) (t : Mer) (payload : List Byte) : State :=
  setStream s n { st with
    lastServed := some t, buf := st.unit.isSome && !st.buf,
    unit := some { seq := h.seq, tfe := t, complete := some s.clk.chipAk, launchAk := none, hdr := h, payload := payload,
                   estStatus := none, estStore := none, estX := [], req := none },
    due := insDue ⟨t + fixDelay s n, 0, 0, h.seq, some h, 0xFF, 0, inf32, [], true, false⟩ st.due }

/-- A readable frame that gets no Fix frame of its own: a MISS range reports it. -/
def missed (s : State) (n : Nat) (st : Stream) (seq : Word) : State :=
  traceStream (setStream s n { st with newest := newer st.newest seq }) n st seq 0xFF 0

/-- The end of a readable frame that is not stale. -/
def readableEnd (s : State) (n : Nat) (st : Stream) (sm : StreamMap) (h : SndHdr) (f : SndFrame) (t : Mer) : State :=
  let bad := st.badHdr
  let early := st.refusedRow
  let st := frameEnded s n st t
  let (s, refused) := storeFrame s n st sm h f
  let soon := st.unit.isSome || (match st.lastServed with | some l => decide (t < l + fixDelay s n) | none => false)
  if st.stopAt.isSome then missed s n st h.seq
  else if soon then missed (streamCount s st.key.ctx n 5) n st h.seq
  else
    let hold (reason : Nat) : State :=
      setStream s n { st with due := insDue (holdDue (t + fixDelay s n) reason h.seq (some h) true) st.due }
    if refused || early then hold 5
    else if bad || !f.payGood then hold 3
    else if !f.shapeGood || decide (h.format ≠ sm.format) || decide (h.elems ≠ sm.elems) then hold 4
    else serveFrame s n st h t f.payload

/-- The stream map of a binding's controller. -/
def mapOf (s : State) (st : Stream) : StreamMap :=
  match (mget s.helm.models st.ctlModel).bind (·.smap) with
  | some m => m
  | none => ⟨0, 0, 0, [], [], [], []⟩

/-- SOUNDING_FRAME_END: an FE ends on the lanes; the frame is stamped, classed, stored, and served if whole and not too soon. -/
def doSoundingFrameEnd (s : State) (port vc : Nat) (f : SndFrame) : State :=
  let p := port % 4
  let n := 16 * p + vc % 16
  if !rxEn s p ∨ s.bin.txCut then s
  else
    let lines := bitAt f.hdr.isSome 0 + ceilDiv f.payload.length 512
    let s := gcount s (0x5000 + p) (64 * bitAt f.hdr.isSome 0 + ceilDiv f.payload.length 4 * 4)
    match mget s.streams n with
    | none => ignorePackets s p lines
    | some st =>
      if !takes s st then ignorePackets s p lines
      else
        let t := stampIk s
        match readableHdr st f with
        | none => unreadable s n (frameEnded s n st t)
        | some h =>
          let next := st.next.getD h.seq
          if !ahead h.seq (next - 1) then
            let st := frameEnded s n st t
            traceStream (streamCount (setStream s n st) st.key.ctx n 6) n st h.seq 0xFF 0
          else readableEnd s n { st with next := some next } (mapOf s st) h f t

/-- CSI_PACKET_IGNORED: a packet of another data type or on an unbound channel; or a header with a double-bit error, which makes
an open frame of the port corrupt (12 R294). -/
def doCsiPacketIgnored (s : State) (port : Nat) (hdrEcc : Bool) : State :=
  let p := port % 4
  if !rxEn s p ∨ s.bin.txCut then s
  else if hdrEcc then
    let s := gcount s (0x500C + p) 1
    s.setStreams (s.streams.map (fun e =>
      (e.1, if decide (e.1 / 16 = p) && e.2.frameOpen.isSome then { e.2 with badHdr := true } else e.2)))
  else ignorePackets s p 1

/-! ### Units (12 R303, R304) -/

/-- The run of a unit, launched in this AK cycle. -/
def unitRun (s : State) (n : Nat) (st : Stream) (r : Route) : Run :=
  { key := st.key, stream := some n, berths := [st.berth], route := r, model := st.ctlModel, isSoft := false, launchAk := s.clk.chipAk,
    launchMer := stamp s, armedOff := none, phase := .placed, plots := st.plots, triples := st.triples,
    wins := (runWindows s st.key.ctx r [st.berth] st.plots).map (·.1), cost := 0, iter := 0,
    limit := limitOf st.desc r, phaseStart := 0, phaseEnd := 0, abandoned := false, last := none, best := none, bestBuf := false,
    prob := none, base := [], scaleD := [], scaleF := [], work := [], phase1 := none, mark := RunCounts.zero, warmFlags := 0, infP := 0, infD := 0, cert := [], rhoExp := 0, status := none, trap := none, trig := none,
    commitAt := none, waits := [], waitAk := 0, counts := RunCounts.zero, slot := none, chargeFrom := stampR s }

/-- The Sounding of a unit that the stop cycle overtakes is not served (12 R309). -/
def unserve (s : State) (n : Nat) (st : Stream) (u : UnitSt) : State :=
  setStream s n { st with
    unit := none, newest := newer st.newest u.seq,
    due := st.due.filter (fun d => !(d.answers && decide (d.seq = u.seq))) }

/-- STREAM_UNIT_LAUNCH: `event` is the AK cycle in which the frame-complete event reached the lead conductor; the launch cycle is
the first multiple of 32 at least 8 cycles later. A unit that a kill stopped launches again on a multiple of 32. -/
def doStreamUnitLaunch (s : State) (n event : Nat) : State :=
  match mget s.streams n with
  | none => s
  | some st =>
    match st.unit, (mget s.helm.models st.ctlModel).bind berthRoute with
    | some u, some r =>
      let c := s.clk.chipAk
      let again := u.complete.isNone
      let first := !again && decide (u.complete.getD c ≤ event) && decide (event + 8 ≤ c) && decide (c < event + 40)
      if u.launchAk.isSome ∨ u.req.isSome ∨ st.failed ∨ st.suspended ∨ frozen s ∨ (findRun s st.key).isSome then s
      else if st.stopAt.isSome ∧ st.stopAk ≤ event ∧ !again then unserve s n st u
      else if c % 32 ≠ 0 ∨ c < st.startAk ∨ !(first || again) ∨ !runWinsOpen s r [st.berth] st.plots then s
      else
        let run := unitRun s n st r
        let ws := runWindows s st.key.ctx r [st.berth] st.plots
        let s := setStream s n { st with unit := some { u with launchAk := some c } }
        let s := openWins s ws
        let s := s.setRuns (s.runs ++ [run])
        startRun s run
    | _, _ => s

/-! ### Fix frames (12 R296, R305, R308, R311 to R313) -/

/-- The sequence number, MISS_FIRST, MISS_COUNT and the NEXT after a Fix frame (12 R308). Before any readable Sounding there is no
NEXT: SEQ and MISS_FIRST are then a free value (log 52). -/
structure MissOut where
  seq : Word
  first : Word
  count : Nat
  next : Option Word
deriving DecidableEq, Repr

/-- The range that a frame reports. -/
def missRange (st : Stream) (d : FixDue) (free : Nat) : MissOut :=
  match st.next with
  | none => ⟨BitVec.ofNat 32 free, BitVec.ofNat 32 (free / 2 ^ 32), 0, none⟩
  | some nx =>
    if d.answers then ⟨d.seq, nx, satTo 65535 (d.seq - nx).toNat, some (d.seq + 1)⟩
    else
      let pending (m : Word) : Bool := st.due.any (fun e => e.answers && !ahead e.seq m)
      match st.newest with
      | some m => if ahead m (nx - 1) && !pending m then ⟨m, nx, satTo 65535 ((m - nx).toNat + 1), some (m + 1)⟩ else ⟨nx - 1, nx, 0, some nx⟩
      | none => ⟨nx - 1, nx, 0, some nx⟩

/-- The frame that a due Fix becomes at its start. -/
def fixFrameOf (s : State) (st : Stream) (d : FixDue) (m : MissOut) : FixFrame :=
  let hold := decide (d.kind = 2)
  let sm := mapOf s st
  let fmt := match mget s.helm.models st.ctlModel with | some x => x.chart.formats.getD 7 0 | none => 0
  { streamId := st.streamId, format := fmt, kind := d.kind, seq := m.seq, elems := if hold then 0 else sm.fixFromIter.length + sm.fixFromX.length,
    capSec := (match d.hdr with | some h => h.capSec | none => 0), capNs := (match d.hdr with | some h => h.capNs | none => 0),
    capFrac := (match d.hdr with | some h => h.capFrac | none => 0), status := d.status, flags := d.flags, emit := stampIk s / 2 ^ 16 * 2 ^ 16,
    holdReason := d.reason, fflags := bitAt st.resumed 0, missFirst := m.first, missCount := m.count, merit := d.merit,
    fixCount := st.fixCount + 1, payload := d.payload }

/-- A binding goes silent: STREAM_FAILED, its frame on the lanes cut, its due frames dropped (12 R313). -/
def silenceStream (s : State) (n : Nat) : State :=
  match mget s.streams n with
  | none => s
  | some st =>
    let s := if st.onLanes.isSome then s.setCsi (lupd s.csi (st.tx / 16 % 4) (fun c => { c with busy := false, burstEnd := stamp s })) else s
    setStream s n { st with failed := true, due := [], onLanes := none, emitted := none, dogAt := none, frameOpen := none }

/-- A binding fails (12 R313): its channel goes silent, a CONTEXT error is raised, and its context is reset (15 R356). -/
def failStream (s : State) (n : Nat) (detail : Nat) : State :=
  match mget s.streams n with
  | none => s
  | some st =>
    if st.failed then s
    else
      let s := silenceStream s n
      let s := s.setHelm { s.helm with ctxResetDue := s.helm.ctxResetDue ++ [st.key.ctx] }
      raiseEvent s { cls := 4, cause := 0x21, unitKind := 5, unitNo := st.tx / 16 % 4, key := some st.key, detail := b1 n ++ b1 detail }

/-- Is the transmit port free for a frame that is due at E: no burst on the lanes, and for a frame whose E fell within another's,
LP-11 held for 100 ns since its end (12 R311)? -/
def portFree (c : CsiTx) (e now : Mer) : Bool := !c.busy && (decide (c.burstEnd ≤ e) || decide (c.burstEnd + 100 * nsU ≤ now))

/-- Start a frame on the lanes: late ones are counted (12 R312). -/
def startFix (s : State) (n : Nat) (st : Stream) (d : FixDue) (rest : List FixDue) : State :=
  let (fv, s) := if st.next.isNone then freeNat s 52 else (0, s)
  let st := { st with due := rest }
  let m := missRange st d fv
  let f := fixFrameOf s st d m
  let now := stampIk s
  let p := st.tx / 16 % 4
  let keep := match st.newest, m.next with | some x, some nx => if ahead x (nx - 1) then some x else none | x, _ => x
  let st := { st with next := m.next, newest := keep, fixCount := st.fixCount + 1, resumed := false, onLanes := some (d, now), emitted := some f }
  let s := setStream s n st
  let s := s.setCsi (lupd s.csi p (fun c => { c with busy := true, frameNo := if c.frameNo ≥ 65535 then 1 else c.frameNo + 1 }))
  let s := traceStream s n st m.seq d.kind d.reason
  let s := if d.status = 0xFF ∧ d.kind = 2 then streamCount s st.key.ctx n 3 else s
  if d.due + 200 * nsU < now then
    raiseNotice (streamCount s st.key.ctx n 7) srcLateFix false { cls := 0, cause := 0x30, unitKind := 5, unitNo := p, key := some st.key }
  else s

/-- FIX_FRAME_EMIT: the next Fix frame of a binding starts at the first IK edge at or after its E, once the port is free; one that
cannot start within 10 µs fails the binding. -/
def doFixFrameEmit (s : State) (n : Nat) : State :=
  match mget s.streams n with
  | none => s
  | some st =>
    match st.due with
    | [] => s
    | d :: rest =>
      let now := stampIk s
      let p := st.tx / 16 % 4
      match s.csi[p]? with
      | none => s
      | some c =>
        if st.failed ∨ st.suspended ∨ s.bin.txCut ∨ st.onLanes.isSome ∨ now < d.due ∨ !txEn s p then s
        else if d.due + 10 * usU < now then failStream s n 1
        else if !d.ready ∨ !portFree c d.due now then s
        else startFix s n st d rest

/-- The unit's journal entry that a sent frame completes (12 R306, 16 R388). -/
def streamCommitted (s : State) (n : Nat) (st : Stream) (seq : Word) : State :=
  if s.log.journal.any (fun e => decide (e.2.kind = 3) && decide (e.2.ring = n) && decide (e.2.seq = seq)) then
    let s := s.setLog { s.log with journal := s.log.journal.filter (fun e => !(decide (e.2.kind = 3) && decide (e.2.ring = n))) }
    writeJournal s
      { kind := 4, eflags := bitAt s.clk.shadowMark 0 + bitAt true 3, ctx := st.key.ctx, seq := seq, ring := n, slot := 0, beacon := 0,
        handle2 := st.estHandle, mer := s.clk.shadow, record := b4 st.fixCount.toNat ++ b4 (st.next.getD 0).toNat, image1 := [], image2 := [] }
  else s

/-- Bytes of a frame's long packets on the wire: the header line and the padded payload. -/
def fixWire (f : FixFrame) : Nat := 64 + ceilDiv f.payload.length 4 * 4

/-- FIX_FRAME_SENT: the frame's FE has left the lanes. After the UNBOUND frame the STREAM_UNBIND commits. -/
def doFixFrameSent (s : State) (n : Nat) : State :=
  match mget s.streams n with
  | none => s
  | some st =>
    match st.onLanes, st.emitted with
    | some (d, _), some f =>
      if s.bin.txCut then s
      else
        let p := st.tx / 16 % 4
        let s := s.setCsi (lupd s.csi p (fun c => { c with busy := false, burstEnd := stamp s }))
        let s := gcount (emit s (.fix p (st.tx % 16) f)) (0x5004 + p) (fixWire f)
        let s := setStream s n { st with onLanes := none, emitted := none }
        let s := if d.answers then streamCommitted s n st d.seq else s
        match d.reason, st.unbind with
        | 8, some k => (match findCmd s k with
          | some c => fileReq s c { plainReq s 0 0 0 0 0 with charge := c.chargeDue }
          | none => s)
        | _, _ => s
    | _, _ => s

/-- STREAM_WATCHDOG: no frame of any class has ended within WATCHDOG: a NO_SOUNDING HOLD, again every WATCHDOG. A frame end in the
IK cycle of the expiry comes first (12 R309), so the expiry acts from the next one. -/
def doStreamWatchdog (s : State) (n : Nat) : State :=
  match mget s.streams n with
  | none => s
  | some st =>
    match st.dogAt, watchdogOf s n with
    | some t, some w =>
      if stampIk s ≤ t ∨ !takes s st ∨ st.stopAt.isSome then s
      else setStream s n { st with dogAt := some (t + w), due := insDue (holdDue t 7 0 none false) st.due }
    | _, _ => s

/-- STREAM_FAILED: the transmit port reports a D-PHY or buffer fault, or a Fix frame could not start within 10 µs of its E. -/
def doStreamFailed (s : State) (n : Nat) (portFault : Bool) : State :=
  match mget s.streams n with
  | none => s
  | some st =>
    let late := match st.due with | d :: _ => st.onLanes.isNone && decide (d.due + 10 * usU < stampIk s) | [] => false
    if st.suspended ∨ s.bin.txCut ∨ !(portFault || late) then s else failStream s n (if portFault then 0 else 1)

/-- SKEW_MS of a transmit port. -/
def skewMs (s : State) (p : Nat) : Nat := nbits (rget s (0x80010 + 4 * p)) 23 16

/-- SKEW_CALIBRATION: a periodic calibration of `dur` (2^-32 ns) is sent when no Fix frame of the port is due before its end plus
1 µs; else it waits. -/
def doSkewCalibration (s : State) (port : Nat) (dur : Mer) : State :=
  let p := port % 4
  match s.csi[p]? with
  | none => s
  | some c =>
    let now := stamp s
    let due := s.streams.any (fun e => decide (e.2.tx / 16 % 4 = p) && e.2.due.any (fun d => decide (d.due < now + dur + usU)))
    if !txEn s p ∨ s.bin.txCut ∨ skewMs s p = 0 ∨ c.busy ∨ now < c.skewAt + skewMs s p * 1000 * usU ∨ due then s
    else emit (s.setCsi (lupd s.csi p (fun c => { c with skewAt := now, burstEnd := now + dur }))) (.skew p)

/-! ### Placing a binding again (12 R310, 15 R365) -/

/-- Place a binding again, its berth and window given up: on facets other than `avoid`; with no placement it fails. -/
def rebind (s : State) (n : Nat) (avoid : List Nat) : State :=
  match mget s.streams n with
  | none => s
  | some st =>
    match bindModels s st.desc with
    | none => failStream s n 2
    | some (_, er, _, cr, sm) =>
      let r := unitRoute er cr
      let s := emptyFacets (closeWin s st.win) st.berth.facets
      let s := setStream s n { st with berth := ⟨0, 0, 0⟩, triples := [], plots := [] }
      match findPlacement s (occupancy s) r false avoid, findStep s (ladderPattern (r.berthW * r.berthH)) with
      | some p, some step =>
        let w := streamWindow st.key.ctx n (placeBase p) (2 * bufBytes sm)
        if windowOpens s st.win w then
          let s := reserve (openWin s st.win w) step (ladderPattern p.size)
          setStream s n { st with
            berth := p.berths.headD ⟨0, 0, 0⟩, triples := p.triples, plots := p.plots, startAk := step, suspended := false, buf := false }
        else failStream s n 2
      | _, _ => failStream s n 2

def execStreamBind (k : CmdKey) (s : State) : Res := .next (doStreamBind s k)
def execStreamUnbind (k : CmdKey) (s : State) : Res := .next (doStreamUnbind s k)
def execSoundingFrameStart (port vc : Nat) (s : State) : Res := .next (doSoundingFrameStart s port vc)
def execSoundingFrameEnd (port vc : Nat) (f : SndFrame) (s : State) : Res := .next (doSoundingFrameEnd s port vc f)
def execCsiPacketIgnored (port : Nat) (hdrEcc : Bool) (s : State) : Res := .next (doCsiPacketIgnored s port hdrEcc)
def execStreamUnitLaunch (n event : Nat) (s : State) : Res := .next (doStreamUnitLaunch s n event)
def execFixFrameEmit (n : Nat) (s : State) : Res := .next (doFixFrameEmit s n)
def execFixFrameSent (n : Nat) (s : State) : Res := .next (doFixFrameSent s n)
def execStreamWatchdog (n : Nat) (s : State) : Res := .next (doStreamWatchdog s n)
def execStreamFailed (n : Nat) (portFault : Bool) (s : State) : Res := .next (doStreamFailed s n portFault)
def execSkewCalibration (port : Nat) (dur : Mer) (s : State) : Res := .next (doSkewCalibration s port dur)

end Sys2Proof.Machine
end

