-- ==== Sys2Proof/Machine/Faults.lean ====
section
/-! DEFINITION. Faults below the device: PARTITION_RESET (10 R273, R274; 15 R363 to R365, R371), the repair of a word (08 R207),
persistent faults, spare rows, retired banks (15 R365), targeted LBIST and spare facets (11 R289), REMOTE_WRITE (08 R212, R217),
input reads (15 R362, 19 R424), RECHECK_END (16 R378 to R381). -/

namespace Sys2Proof.Machine
open Sys2Proof

/-! ### The repair of a Chart word (08 R207) -/

/-- The block of a Chart byte as records number it: 0 to 15 a sector, 16 the core. -/
def blockOfAddr (a : Nat) : Nat := if a < coreBase then a / 0x1000000 else 16

/-- Is a byte in Plot? -/
def inPlot (s : State) (a : Nat) : Bool := decide (a < coreBase) && decide (a % 0x1000000 < plotLines s (a / 0x1000000) * 2048)

/-- Is a byte in a model item? -/
def inItem (s : State) (a : Nat) : Bool :=
  s.helm.models.any (fun e => e.2.places.any (fun x => decide (x.1 ≤ a) && decide (a < x.1 + x.2)))

/-- The Heading entry whose warm store holds a byte. -/
def storeAt (s : State) (a : Nat) : Option Nat :=
  s.helm.models.findSome? (fun e =>
    if e.2.warmBase ≤ a ∧ a < e.2.warmBase + e.2.count * e.2.warmSize then some (e.2.first + (a - e.2.warmBase) / e.2.warmSize) else none)

/-- A warm store lost: its rows zero, its entry without a valid store (08 R207, R209). -/
def loseStore (s : State) (h : Nat) : State :=
  let e := hdgOf s h
  let s := countChartWr (chartClear s e.warmAddr (e.warmAddr + e.warmCap)) e.warmAddr e.warmCap
  setHdg s h { e with flags := e.flags / 4 * 4, sig := 0, merit := 0 }

/-- Repair n bytes at a: from the Almanac shadow for a model item, a whole warm store for a byte of one, else with zeros. -/
def repair (s : State) (a n : Nat) : State :=
  if inPlot s a then countChartWr (chartClear s a (a + n)) a n
  else if inItem s a then countChartWr (chartPut s a (memReadBytes 0#8 s.chart.shadow a n)) a n
  else match storeAt s a with
    | some h => loseStore s h
    | none => countChartWr (chartClear s a (a + n)) a n

/-! ### Persistent faults (15 R365) -/

/-- Does a model hold bytes in a bank? -/
def modelInBank (m : Model) (n : Nat) : Bool :=
  (m.places ++ [(m.warmBase, m.count * m.warmSize)]).any (fun x =>
    decide (0 < x.2) && (List.range (if x.2 / 64 < 64 then x.2 / 64 else 64)).any (fun i => decide (bankOf (x.1 + 64 * i) = n)))

/-- Is a model still needed: a live run or a binding works with it, or its LOAD_MODEL is under way? -/
def modelInUse (s : State) (n : Nat) (m : Model) : Bool :=
  s.runs.any (fun r => decide (r.model = n)) || s.streams.any (fun e => decide (e.2.ctlModel = n) || decide (e.2.estModel = n)) ||
  (findCmd s m.loader).isSome

/-- Models that firmware has unloaded go once no run works with them any more. -/
def sweepModels (s : State) : State :=
  (s.helm.models.filter (fun e => !e.2.loaded && !modelInUse s e.1 e.2)).foldl (fun s e => commitUnload s e.1) s

/-- Unload a model for a retired bank: bindings of it fail, commands naming it that do not run commit STRUCTURE_MISMATCH. -/
def dropModel (s : State) (n : Nat) : State :=
  match mget s.helm.models n with
  | none => s
  | some m =>
    let s := setModel s n { m with loaded := false }
    let s := (s.streams.filter (fun e => decide (e.2.ctlModel = n) || decide (e.2.estModel = n))).foldl (fun s e => failStream s e.1 2) s
    let placed := s.runs.filter (fun r => decide (r.model = n) && r.stream.isNone && !launched s r && decide (r.phase = .placed))
    let s := placed.foldl (fun s r => let s := unplace s r
                                      match findCmd s r.key with | some c => putCmd s { c with phase := .ready } | none => s) s
    let s := (s.cmds.filter (fun c => waitingToRun c && isSolve c.desc && decide (dModel c.desc % 4096 = n))).foldl
      (fun s c => fileStatus s c 0x31) s
    sweepModels s

/-- Retire a bank: as under power-down, for good (15 R365; 08 R218, R220). -/
def retireBank (s : State) (n : Nat) : State :=
  let s := s.setChart { s.chart with spareRows := mset s.chart.spareRows n 17 }
  let s := (s.helm.models.filter (fun e => e.2.loaded && modelInBank e.2 n)).foldl (fun s e => dropModel s e.1) s
  let s := if bankLive s n then setBank s n (some .pending) else startPowerDown s n
  raiseNotice s srcBank true { cls := 0, cause := 0x30, unitKind := 3, unitNo := n / 32 % 256, detail := b2 n }

/-- A word that fails again: its row goes to a spare row of its bank, or the bank is retired. -/
def wordAgain (s : State) (a : Nat) : State :=
  let n := bankOf a
  let used := mgetD s.chart.spareRows n 0
  let row := a / 512 * 512
  if used < 16 then
    let s := s.setChart { s.chart with
      spareRows := mset s.chart.spareRows n (used + 1), rowHist := s.chart.rowHist.filter (fun w => decide (w / 512 * 512 ≠ row)) }
    raiseEvent (repair s row 512) { cls := 1, cause := 0x31, unitKind := 3, unitNo := blockOfAddr a, detail := leBytes 4 row }
  else if used = 16 then retireBank s n
  else s

/-- Repair the word of an uncorrectable read: true when it had been repaired before. -/
def repairRead (s : State) (a : Nat) : State × Bool :=
  let w := a / 8 * 8
  if s.chart.rowHist.contains w then (wordAgain s w, true)
  else (repair (s.setChart { s.chart with rowHist := s.chart.rowHist ++ [w] }) w 8, false)

/-- Fault records of one unit within 10 s (15 R365). -/
def recentOf (now : Mer) (h : List (Nat × Mer)) (g : Nat) : List (Nat × Mer) :=
  h.filter (fun e => decide (e.1 = g) && decide (now < e.2 + 10 * secU))

/-- A facet named by a fault record: the second within 10 s takes it out of placement for a targeted LBIST. -/
def nameFacet (s : State) (g : Nat) : State × Bool :=
  let now := s.clk.shadow
  let again := !(recentOf now s.rose.hist g).isEmpty
  (s.setRose { s.rose with
    hist := if again then s.rose.hist.filter (fun e => decide (e.1 ≠ g)) else s.rose.hist.filter (fun e => decide (now < e.2 + 10 * secU)) ++ [(g, now)],
    lbist := if again then insSorted g s.rose.lbist else s.rose.lbist }, again)

/-- A Sextant lane named by a fault record: the second within 10 s takes the sector's Sextant, and so the sector, out of
placement. -/
def nameLane (s : State) (sector lane : Nat) : State × Bool :=
  let now := s.clk.shadow
  let key := 64 * sector + lane
  let again := !(recentOf now s.rose.laneHist key).isEmpty
  let sec := match s.rose.sectors[sector]? with
    | some x => lset s.rose.sectors sector { x with laneValid := true, lane := lane }
    | none => s.rose.sectors
  (s.setRose { s.rose with
    sectors := sec,
    laneHist := if again then s.rose.laneHist.filter (fun e => decide (e.1 ≠ key))
      else s.rose.laneHist.filter (fun e => decide (now < e.2 + 10 * secU)) ++ [(key, now)],
    lbist := if again then insSorted (256 + sector) s.rose.lbist else s.rose.lbist }, again)

/-- A unit named by a fault record. -/
def nameUnit (s : State) : FaultUnit → State × Bool
  | .strip g _ => nameFacet s g
  | .pivot g _ => nameFacet s g
  | .sextant b l => nameLane s b l

/-! ### PARTITION_RESET -/

/-- UNIT_KIND, UNIT and the place within it that a record names. -/
def unitName : FaultUnit → Nat × Nat × Nat
  | .strip g k => (1, g, k)
  | .pivot g k => (1, g, 32 + k)
  | .sextant b l => (2, b, l)

/-- The same of a cause. -/
def causeName : JobCause → Nat × Nat × Nat
  | .parity u => unitName u
  | .read a _ => (3, blockOfAddr a, a)
  | .outsidePlot u _ => unitName u

/-- Which of two causes does the one record name (15 R371)? -/
def causeBefore (a b : JobCause) : Bool :=
  let (k, u, p) := causeName a
  let (k', u', p') := causeName b
  decide (k < k') || (decide (k = k') && (decide (u < u') || (decide (u = u') && decide (p < p'))))

/-- The cause that is named. -/
def firstCause (c : JobCause) : List JobCause → JobCause
  | [] => c
  | d :: ds => firstCause (if causeBefore d c then d else c) ds

/-- DETAIL of a job fault's record: the place in the unit, or the address. -/
def causeDetail : JobCause → List Byte
  | .parity u => b1 (unitName u).2.2
  | .read a _ => b4 a
  | .outsidePlot _ a => b4 a

/-- Does the named cause fall in a unit of the run's berths? -/
def causeOf (r : Run) : JobCause → Bool
  | .parity (.strip g k) => (runFacets r).contains g && decide (k < 32)
  | .parity (.pivot g k) => (runFacets r).contains g && decide (k < 32)
  | .parity (.sextant b l) => (runFacets r).any (fun g => decide (sectorOf g = b)) && decide (l < 64)
  | .read a _ => decide (a < coreEnd)
  | .outsidePlot (.strip g _) _ => (runFacets r).contains g
  | .outsidePlot (.pivot g _) _ => (runFacets r).contains g
  | .outsidePlot (.sextant b _) _ => (runFacets r).any (fun g => decide (sectorOf g = b))

/-- An uncorrectable read of the Almanac shadow during a repair, which INLINE_ECC finds: counted for its controller, and the model that owns
the word is unloaded as for a retired bank (19 R438). -/
def shadowLost (s : State) (a : Nat) : Option Nat → State
  | none => s
  | some ctrl =>
    if !s.boot.memProfile.testBit 3 ∨ inPlot s a then s
    else match s.helm.models.find? (fun e => e.2.places.any (fun x => decide (x.1 ≤ a) && decide (a < x.1 + x.2))) with
      | some e => dropModel (rcount s (0xB0010 + 4 * (ctrl % 2)) 31 16 1) e.1
      | none => s

/-- Repairs of every word that the berth could not read; true when one had been repaired before. -/
def repairAll (s : State) : List JobCause → State × Bool
  | [] => (s, false)
  | .read a shadow :: cs =>
    let (s, p) := repairRead (shadowLost s a shadow) a
    let (s, q) := repairAll s cs
    (s, p || q)
  | _ :: cs => repairAll s cs

/-- The control-word parity error registers of the strips that job faults name: bit k of a facet's register for its strip k (01 R20, R24). -/
def markParity (s : State) : List JobCause → State
  | [] => s
  | .parity (.strip g k) :: cs =>
    let v := mgetD s.rose.parity g 0
    markParity (s.setRose { s.rose with parity := mset s.rose.parity g (if v.testBit k then v else v + 2 ^ k) }) cs
  | _ :: cs => markParity s cs

/-- PARTITION_RESET: the job faults of one AK cycle in one berth: one reset, one record. A write outside the Plot commits
WINDOW_FAULT; parity and ECC kill and rerun; a binding whose berth meets a persistent fault is placed again. -/
def doPartitionReset (s : State) (k : CmdKey) (causes : List JobCause) : State :=
  match findRun s k, causes.filter (fun c => match findRun s k with | some r => causeOf r c | none => false) with
  | some r, c :: cs =>
    if !launched s r ∨ frozen s then s
    else
      let first := firstCause c cs
      let (kind, no, _) := causeName first
      let s := markParity s (c :: cs)
      let s := match first with
        | .outsidePlot _ a => windowFault s r (a / 512 * 512) (match r.berths with | b :: _ => berthWriter b | [] => 0)
        | _ => jobFault s r kind no (causeDetail first)
      let (s, again) := match first with
        | .parity u => nameUnit s u
        | _ => (s, false)
      let (s, bad) := repairAll s (c :: cs)
      (match r.stream with
       | some n => if again || bad then rebind s n (runFacets r) else s
       | none => s)
  | _, _ => s

/-! ### Targeted LBIST, spare facets (15 R365, 11 R289) -/

/-- A facet marked failed: the spare that stood in is gone with it, or a working spare is to stand in (11 R289). -/
def failFacet (s : State) (g : Nat) : State :=
  let k := sectorOf g
  match s.rose.sectors[k]? with
  | none => s
  | some x =>
    let l := g % 16
    let y := if x.subPos = some l then { x with spareFail := true, subPos := none }
      else
        let f := if x.failed.testBit l then x.failed else x.failed + 2 ^ l
        { x with failed := f, pendingSub := if x.pendingSub.isSome || x.subPos.isSome || x.spareFail then x.pendingSub else some l }
    let s := s.setRose { s.rose with sectors := lset s.rose.sectors k y }
    raiseNotice s srcDegraded true { cls := 0, cause := 0x30, unitKind := 1, unitNo := g % 256 }

/-- A sector whose Sextant has failed: it holds no berth any more (15 R365). -/
def failSextant (s : State) (k : Nat) : State :=
  match s.rose.sectors[k]? with
  | none => s
  | some x =>
    let s := s.setRose { s.rose with sectors := lset s.rose.sectors k { x with sxtFailed := true } }
    raiseNotice s srcDegraded true { cls := 0, cause := 0x30, unitKind := 2, unitNo := k % 256 }

/-- FACET_LBIST_END: a targeted LBIST of facet 0 to 255, or of the Sextant of sector unit − 256, ends. -/
def doFacetLbistEnd (s : State) (unit0 : Nat) (pass : Bool) : State :=
  if !s.rose.lbist.contains unit0 then s
  else
    let s := s.setRose { s.rose with lbist := s.rose.lbist.filter (fun u => decide (u ≠ unit0)) }
    if pass then s else if unit0 < 256 then failFacet s unit0 else failSextant s (unit0 - 256)

/-- SPARE_SUBSTITUTION: the spare of a sector stands in once no berth covers the position and no reservation names it. -/
def doSpareSubstitution (s : State) (sector : Nat) : State :=
  match s.rose.sectors[sector]? with
  | none => s
  | some x =>
    match x.pendingSub with
    | none => s
    | some l =>
      let g := 16 * sector + l
      if (heldFacets s).contains g ∨ x.spareFail then s
      else
        let s := s.setRose { s.rose with sectors := lset s.rose.sectors sector { x with subPos := some l, pendingSub := none } }
        let s := raiseNotice s srcDegraded true { cls := 0, cause := 0x30, unitKind := 1, unitNo := g % 256 }
        raiseEvent s { cls := 1, cause := 0x31, unitKind := 1, unitNo := g % 256 }

/-! ### Rechecks of SAFE commands (16 R379 to R381) -/

/-- An uncorrectable error met by the check port: a PARTITION event naming the command, which reruns (16 R380, 15 R363). -/
def recheckEcc (s : State) (k : CmdKey) (x : Queued) : State :=
  let idx := s.log.next
  let (org, org2, fs) := match findRun s k with
    | some r => (runOrigin r, runOrigin2 r, runFacets r)
    | none => (0xFFFF, 0xFFFF, [])
  let s := raiseEvent s { cls := 3, cause := 0x20, unitKind := 1, unitNo := org % 256, key := some k, originA := org, originB := org2 }
  let s := dropRun (s.setLog { s.log with queue := s.log.queue.filter (fun q => !(q == k)) }) k
  match x.stream with
  | none => (match findCmd s k with
    | some c =>
      let c := { c with req := none, phase := .ready, inputIn := false, raw := [], inst := [], launchableAt := none, rerun := true }
      countFault (putCmd s c) k fs idx
    | none => s)
  | some n => (match mget s.streams n with
    | some st =>
      let s := s.setStreams (mset s.streams n { st with faultKills := st.faultKills + 1, unit := st.unit.map (fun u => { u with req := none }) })
      if st.faultKills = 0 then returnUnit s n else fileUnit s n (plainReq s 0x50 idx 0 0 0)
    | none => s)

/-- RECHECK_END: the Fix, and with DUAL the second one, as the check port read them, the words that its reads corrected, and an uncorrectable
word, with the LPDDR5X controller that could not read its Almanac shadow either. A Fix that is not fresh and a difference between two
Fixes are found at once, the rest when the program ends (16 R379); an uncorrectable word is repaired before the command runs again (15 R362). -/
def doRecheckEnd (s : State) (k : CmdKey) (fix fix2 : List Byte) (words : List Nat) (lost shadow : Option Nat) : State :=
  match queued s k with
  | none => s
  | some x =>
    if recheckNow s ≠ some k ∨ s.bin.safe then s
    else
      let s := feedEcc s words
      match lost with
      | some a => recheckEcc (recheckOver (repairRead (shadowLost s a shadow) a).1) k x
      | none =>
        if !freshQueued s x fix then checkFailed s k 0x03 []
        else match (if dDual x.desc then firstDiff fix fix2 else none) with
          | some i => checkFailed s k 0x02 (leBytes 4 i)
          | none =>
            if stamp s < recheckDue s k x.req then s
            else if !(match recheckResid s k x.req fix with | some v => residTest x.desc x.req.status (reportedBy x fix) v | none => true)
            then checkFailed s k 0x01 []
            else dropRun (updReq (recheckOver s) k (fun q => { q with recheckDone := true })) k

/-! ### REMOTE_WRITE (08 R202, R203, R212, R217) -/

/-- The launched run whose first berth has an origin. -/
def runAtOrigin (s : State) (org : Nat) : Option Run :=
  s.runs.find? (fun r => launched s r && decide (r.phase ≠ .done) && r.berths.any (fun b => decide (b.origin = org)))

/-- The placed run of a host function whose input a DMA row brings: the one that has the row in its Plot. -/
def dmaRun (s : State) (row f : Nat) : Option Run :=
  s.runs.find? (fun r => decide (r.phase = .placed) && decide (fnOf s r.key.ctx = some f) && r.stream.isNone &&
    r.plots.any (fun p => decide (plotBase p ≤ row) && decide (row < plotBase p + p.lines * 2048)))

/-- A refused row of the Chart DMA for a host function ends its transfer with a window fault (08 R217): the command whose input that transfer
brings commits WINDOW_FAULT (09 R243). A row of no such transfer is counted only (DEDUCED, log 139). -/
def dmaFault (s : State) (row writer : Nat) : State :=
  match dmaRun s row (writer % 64) with
  | none => s
  | some r =>
    let s := killRun s r causeFault true
    match findCmd s r.key with
    | some c => fileReq s c { plainReq s 0x51 row writer 0 0 with charge := c.chargeDue }
    | none => s

/-- The outcome of a refused write by the kind of its writer (08 R217). -/
def refusedOutcome (s : State) (row writer : Nat) : State :=
  let s := countRefused s row
  if writer / 4096 = 2 then
    match runAtOrigin s (writer % 4096) with
    | some r => windowFault s r row writer
    | none => s
  else if writer / 4096 = 4 then
    match mget s.streams (writer % 64) with
    | some st => setStream s (writer % 64) { st with refusedRow := st.frameOpen.isSome || st.refusedRow }
    | none => s
  else if writer / 4096 = 1 then dmaFault s row writer
  else s

/-- REMOTE_WRITE: a whole row of a writer at the conductor of the target sector; `closing` says that the window it would
land in closes in this AK cycle. -/
def doRemoteWrite (s : State) (row writer : Nat) (data : List Byte) (closing : Bool) : State :=
  if row % 512 ≠ 0 ∨ coreBase ≤ row ∨ s.boot.state ≠ 1 then s
  else if admits s row writer closing then admitRow s row writer data
  else refusedOutcome s row writer

/-! ### Input reads (15 R362, 19 R424) -/

/-- Is a command's instance being read: its berth placed, or its batch problem waiting to join, and its rows not yet in? -/
def readingInput (s : State) (c : Cmd) : Bool :=
  isSolve c.desc && !c.inputIn && decide (0 < dInLen c.desc) &&
  (match findRun s c.key with
   | some r => decide (r.phase = .placed)
   | none => decide (opOf c.desc = 0x11) && decide (c.phase = .ready) && c.launchableAt.isSome)

/-- The operands of an instance, field by field of the model's layout (02 R49). -/
def parseInst (layout : List InstField) (bs : List Byte) : PartData :=
  layout.foldl (fun a f => addPart a f.part ((readVals f.fmt f.count (bs.drop f.off)).map w64)) []

/-- The NaNs of an instance: element, format code and pattern of each; elements are numbered through the fields in order (02 R38). -/
def instNans (bs : List Byte) : Nat → List InstField → List (Nat × Nat × Nat)
  | _, [] => []
  | n, f :: fs =>
    ((readVals f.fmt f.count (bs.drop f.off)).zipIdx.filter (fun v => v.1.isNan)).map (fun v => (n + v.2, f.fmt, rawElem f.fmt v.2 (bs.drop f.off))) ++
    instNans bs (n + f.count) fs

/-- A command with its instance in: its place in the Plot, the operands, and the first NaN among them with their number. -/
def withInst (c : Cmd) (layout : List InstField) (bs : List Byte) (off : Nat) : Cmd :=
  let ns := instNans bs 0 layout
  { c with inputIn := true, raw := bs, instOff := off, inst := parseInst layout bs, nanElem := ns.head?, nanCount := ns.length }

/-- INPUT_READ_COMPLETE: the instance rows are in, and go into the Plot of the command's berth at the offset that its route gives them (02
R49). A placed command's launch cycle is fixed now. At an end of the rows inside a lane the write merges with an old word, which may be a
corrected one (08 R198, R206); an uncorrectable one is repaired and ends the transfer as a COMMAND event (R207, 15 R362). -/
def doInputReadComplete (s : State) (k : CmdKey) (rows : List Byte) (off : Nat) (words : List Nat) (lost : Option Nat) : State :=
  match findCmd s k with
  | none => s
  | some c =>
    if !readingInput s c ∨ !ready s then s
    else
      let s := feedEcc s words
      match lost with
      | some a => commandFault (repairRead s a).1 k []
      | none =>
        let n := dInLen c.desc * 64
        let bs := (padTo n rows).take n
        let layout := match mget s.helm.models (dModel c.desc % 4096) with | some m => m.layout | none => []
        let s := putCmd (pcieIn s n) (withInst c layout bs off)
        match findRun s k with
        | some r =>
          let s := writeInst s r bs off
          if r.armedOff.isNone ∧ r.launchAk = 0 then fixLaunch s r else s
        | none => s

/-- An uncorrectable LPDDR5X read of a running command's spill plan, which INLINE_ECC finds: counted, and a COMMAND event
(19 R438). -/
def spillError (s : State) (k : CmdKey) (ctrl : Nat) : State :=
  match findRun s k with
  | some r =>
    if ready s && s.boot.memProfile.testBit 3 && r.route.spillStream && launched s r && decide (r.phase ≠ .done) then
      commandFault (rcount s (0xB0010 + 4 * ctrl) 31 16 1) k []
    else s
  | none => s

/-- INPUT_READ_ERROR: an error or poisoned completion of an input-buffer read is a COMMAND event: a fault kill before the launch
cycle. The same event follows an uncorrectable read of the LPDDR5X spill through a controller. -/
def doInputReadError (s : State) (k : CmdKey) (spill : Option Nat) : State :=
  match findCmd s k, spill with
  | none, _ => s
  | some _, some ctrl => spillError s k (ctrl % 2)
  | some c, none =>
    let loading := decide (opOf c.desc = 0x01) && waitingToRun c && !c.inputIn
    if ready s && (readingInput s c || loading) then commandFault s k [] else s

/-- PCIE_COMPLETION_TIMEOUT: a non-posted read without its completion ends as a failed read: an input read of a command, or
the descriptor fetch of a ring. -/
def doPcieCompletionTimeout (s : State) (k : CmdKey) (fetch : Bool) : State :=
  if fetch then (if ready s then timeoutFetch s k.ctx k.ring else s) else doInputReadError s k none

def execPartitionReset (k : CmdKey) (causes : List JobCause) (s : State) : Res := .next (doPartitionReset s k causes)
def execFacetLbistEnd (unit0 : Nat) (pass : Bool) (s : State) : Res := .next (doFacetLbistEnd s unit0 pass)
def execSpareSubstitution (sector : Nat) (s : State) : Res := .next (doSpareSubstitution s sector)
def execRemoteWrite (row writer : Nat) (data : List Byte) (closing : Bool) (s : State) : Res := .next (doRemoteWrite s row writer data closing)
def execRecheckEnd (k : CmdKey) (fix fix2 : List Byte) (words : List Nat) (lost shadow : Option Nat) (s : State) : Res :=
  .next (doRecheckEnd s k fix fix2 words lost shadow)
def execInputReadComplete (k : CmdKey) (rows : List Byte) (off : Nat) (words : List Nat) (lost : Option Nat) (s : State) : Res :=
  .next (doInputReadComplete s k rows off words lost)
def execInputReadError (k : CmdKey) (spill : Option Nat) (s : State) : Res := .next (doInputReadError s k spill)
def execPcieCompletionTimeout (k : CmdKey) (fetch : Bool) (s : State) : Res := .next (doPcieCompletionTimeout s k fetch)

end Sys2Proof.Machine
end

