-- ==== Sys2Proof/Machine/Contexts.lean ====
section
/-! DEFINITION. Contexts and ranges: CTX_DEFINE, CTX_UPDATE, CTX_UNDEFINE (10 R254), CTX_BASE_WRITE (R253), RSV_FACETS_WRITE,
FN_CTX_WRITE (R255; 19 R427), the Beacon grants and Heading ranges (20 R448 to R451). -/

namespace Sys2Proof.Machine
open Sys2Proof

/-- Do the setup registers answer a path: I3C, or an enabled function? -/
def pathOpen (s : State) (path : Nat) : Bool := pfOpen s && (decide (path = i3cPath) || fnEnabled s path)

/-! ### HELM_CTX_CMD (10 R254) -/

/-- Write a command register of the form GO, BUSY, ERR, OP, CTX: its RW fields and the W1C of ERR. -/
def cmdRegWrite (s : State) (off : Nat) (w : Word) : State :=
  let err := bitAt ((rget s off).testBit 29 && !bit w 29) 29
  rput s off (w.toNat % 2 ^ 14 + err)

/-- Set its ERR. -/
def cmdRegErr (s : State) (off : Nat) : State := rflag s off 29

/-- OP and CTX of a command word. -/
def cmdOp (w : Word) : Nat := bits w 13 12
def cmdCtx (w : Word) : Nat := bits w 11 0

/-- The QUOTA that counts for a context: the one an UPDATE has set, if any. -/
def quotaOf (c : Ctx) : Nat := match c.upd with | some (_, q) => q | none => c.quota

/-- The sum of QUOTA over defined contexts other than one. -/
def quotaSum (s : State) (but : Nat) : Nat :=
  (s.helm.ctxs.filter (fun e => decide (e.1 ≠ but))).foldl (fun a e => a + quotaOf e.2) 0

/-- RSV of HELM_RSV_FACETS. -/
def rsvFacets (s : State) : Nat := nbits (rget s 0x1000C) 8 0

/-- SHARES, QUOTA and VALID of a context block (10 R251). -/
def blkShares (b : Line) : Nat := leField b 0 2
def blkQuota (b : Line) : Nat := leField b 2 2 % 512
def blkValid (b : Line) : Bool := (leField b 4 1).testBit 0

/-- DEFINE of a context. -/
def ctxDefine (s : State) (ctx : Nat) (b : Line) : State :=
  let s := pcieIn s 64
  if (ctxOf s ctx).isSome || !blkValid b || decide (blkShares b = 0) || decide (rsvFacets s < quotaSum s ctx + blkQuota b) then
    cmdRegErr s 0x10010
  else
    let c : Ctx := ⟨blkShares b, blkQuota b, none, 0, 0, false, 0, .idle, s.clk.mer, false⟩
    let s := s.setPel { s.pel with ctxCnt := s.pel.ctxCnt.filter (fun e => decide (e.1 / 65536 ≠ ctx)) }
    s.setHelm { s.helm with ctxs := mset s.helm.ctxs ctx c }

/-- UPDATE of a context: SHARES and QUOTA take effect at the next round. -/
def ctxUpdate (s : State) (ctx : Nat) (b : Line) : State :=
  match ctxOf s ctx with
  | none => cmdRegErr s 0x10010
  | some c =>
    let s := pcieIn s 64
    if decide (blkShares b = 0) || decide (rsvFacets s < quotaSum s ctx + blkQuota b) then cmdRegErr s 0x10010
    else s.setHelm { s.helm with ctxs := mset s.helm.ctxs ctx { c with upd := some (blkShares b, blkQuota b) } }

/-- UNDEFINE of a context. -/
def ctxUndefine (s : State) (ctx : Nat) : State :=
  let live := (List.range 8).any (fun i => (ringOf s ctx i).enable || ringActive s ctx i)
  if (ctxOf s ctx).isNone || live then cmdRegErr s 0x10010
  else s.setHelm { s.helm with ctxs := mdel s.helm.ctxs ctx }

/-- CTX_DEFINE: a write of HELM_CTX_CMD with GO and OP DEFINE; `block` is bytes 0 to 63 of the block as read. -/
def doCtxDefine (s : State) (w : Word) (block : Line) : State :=
  if pfOpen s ∧ bit w 31 ∧ cmdOp w = 1 then ctxDefine (cmdRegWrite s 0x10010 w) (cmdCtx w) block else s

/-- CTX_UPDATE. -/
def doCtxUpdate (s : State) (w : Word) (block : Line) : State :=
  if pfOpen s ∧ bit w 31 ∧ cmdOp w = 2 then ctxUpdate (cmdRegWrite s 0x10010 w) (cmdCtx w) block else s

/-- CTX_UNDEFINE. -/
def doCtxUndefine (s : State) (w : Word) : State :=
  if pfOpen s ∧ bit w 31 ∧ cmdOp w = 3 then ctxUndefine (cmdRegWrite s 0x10010 w) (cmdCtx w) else s

/-! ### The table base, reserved facets, function ranges -/

/-- A write of HELM_CTX_BASE_LO or HI. -/
def ctxBaseWrite (s : State) (hi : Bool) (w : Word) : State :=
  if !s.helm.ctxs.isEmpty then cmdRegErr s 0x10010
  else if hi then rput s 0x10004 w.toNat else rput s 0x10000 (w.toNat / 2 ^ 21 * 2 ^ 21)

/-- A write of HELM_RSV_FACETS. -/
def rsvWrite (s : State) (w : Word) : State :=
  let v := rget s 0x1000C
  let err := bitAt (v.testBit 31 && !bit w 31) 31
  let n := bits w 8 0
  if n < quotaSum s 4096 then rput s 0x1000C (v % 512 + 2 ^ 31) else rput s 0x1000C (n + err)

/-- Do two ranges of contexts overlap? -/
def rangesMeet (f1 n1 f2 n2 : Nat) : Bool := decide (0 < n1) && decide (0 < n2) && decide (f1 < f2 + n2) && decide (f2 < f1 + n1)

/-- A write of HELM_FN_CTX of function f. -/
def fnCtxWrite (s : State) (f : Nat) (w : Word) : State :=
  let first := bits w 11 0
  let count := bits w 28 16
  let overlap := (List.range 64).any (fun g => decide (g ≠ f) && (let (a, n) := fnRange s g; rangesMeet first count a n))
  let cuts := s.helm.ctxs.any (fun e => ownsCtx s f e.1 && !(decide (first ≤ e.1) && decide (e.1 < first + count)))
  if overlap || cuts || (decide (0 < f) && decide (256 < count)) then cmdRegErr s 0x10010 else rput s (0x10100 + 4 * f) (w.toNat &&& 0x1FFF0FFF)

/-- CTX_BASE_WRITE. -/
def doCtxBaseWrite (s : State) (hi : Bool) (w : Word) : State := if pfOpen s then ctxBaseWrite s hi w else s

/-- RSV_FACETS_WRITE. -/
def doRsvFacetsWrite (s : State) (w : Word) : State := if pfOpen s then rsvWrite s w else s

/-- FN_CTX_WRITE. -/
def doFnCtxWrite (s : State) (f : Nat) (w : Word) : State := if pfOpen s ∧ f < 64 then fnCtxWrite s f w else s

/-! ### Beacon grants (20 R448) -/

/-- A range word as a range, and a range as a word. -/
def rangeOf (v : Nat) : BcnRange := ⟨v.testBit 31, v % 2 ^ 15, nbits v 30 16⟩
def rangeWord (r : BcnRange) : Nat := bitAt r.en 31 + r.last % 2 ^ 15 * 2 ^ 16 + r.first % 2 ^ 15

/-- SET of BCN_CTL: the staged ranges become the context's. -/
def bcnSet (s : State) (ctx : Nat) : State :=
  s.setHelm { s.helm with
    sig := mset s.helm.sig ctx (rangeOf (rget s 0x70004)), wait := mset s.helm.wait ctx (rangeOf (rget s 0x70008)) }

/-- GET of BCN_CTL: the staging registers are loaded. -/
def bcnGet (s : State) (ctx : Nat) : State := rput (rput s 0x70004 (rangeWord (sigRange s ctx))) 0x70008 (rangeWord (waitRange s ctx))

/-- BEACON_RANGE_SET. -/
def doBeaconRangeSet (s : State) (w : Word) : State :=
  if pfOpen s ∧ bit w 31 ∧ cmdOp w = 1 then bcnSet (cmdRegWrite s 0x70000 w) (cmdCtx w) else s

/-- BEACON_RANGE_GET. -/
def doBeaconRangeGet (s : State) (w : Word) : State :=
  if pfOpen s ∧ bit w 31 ∧ cmdOp w = 2 then bcnGet (cmdRegWrite s 0x70000 w) (cmdCtx w) else s

/-! ### Heading ranges (20 R450, R451) -/

/-- Does a SET of a Heading range fail: past the table, over another context's range, or leaving out an entry of the context
that is not FREE? -/
def hdgSetBad (s : State) (ctx first count : Nat) : Bool :=
  let (a, n) := mgetD s.helm.hdgRange ctx (0, 0)
  decide (65536 < first + count) ||
  s.helm.hdgRange.any (fun e => decide (e.1 ≠ ctx) && rangesMeet first count e.2.1 e.2.2) ||
  s.helm.heading.any (fun e => decide (e.2.state ≠ 0) && decide (a ≤ e.1) && decide (e.1 < a + n) &&
    !(decide (first ≤ e.1) && decide (e.1 < first + count)))

/-- SET of HDG_RANGE_CTL. -/
def hdgSet (s : State) (ctx : Nat) : State :=
  let first := rget s 0x78004 % 2 ^ 16
  let count := rget s 0x78008 % 2 ^ 17
  if hdgSetBad s ctx first count then cmdRegErr s 0x78000
  else s.setHelm { s.helm with hdgRange := mset s.helm.hdgRange ctx (first, count) }

/-- GET of HDG_RANGE_CTL. -/
def hdgGet (s : State) (ctx : Nat) : State :=
  let (a, n) := mgetD s.helm.hdgRange ctx (0, 0)
  rput (rput s 0x78004 a) 0x78008 n

/-- HEADING_RANGE_SET. -/
def doHeadingRangeSet (s : State) (w : Word) : State :=
  if pfOpen s ∧ bit w 31 ∧ cmdOp w = 1 then hdgSet (cmdRegWrite s 0x78000 w) (cmdCtx w) else s

/-- HEADING_RANGE_GET. -/
def doHeadingRangeGet (s : State) (w : Word) : State :=
  if pfOpen s ∧ bit w 31 ∧ cmdOp w = 2 then hdgGet (cmdRegWrite s 0x78000 w) (cmdCtx w) else s

/-- Write words into a run of registers of an instance. -/
def latchWords (s : State) (copy off : Nat) : List Byte → Nat → State
  | _, 0 => s
  | bs, n + 1 => latchWords (regPut s copy off (leNat (bs.take 4))) copy (off + 4) (bs.drop 4) n

/-- HEADING_ENTRY_LATCH: a write of HDG_ENT_SEL latches the whole entry for the path, or zeros. -/
def doHeadingEntryLatch (s : State) (path : Nat) (w : Word) : State :=
  if !pathOpen s path ∨ path = i3cPath then s
  else
    let h := bits w 15 0
    let ok := hdgReadable s path h
    let s := regPut s path 0x78010 (h + bitAt ok 31)
    latchWords s path 0x78040 (if ok then hdgBytes (hdgOf s h) else zeros 64) 16

def execCtxDefine (w : Word) (block : Line) (s : State) : Res := .next (doCtxDefine s w block)
def execCtxUpdate (w : Word) (block : Line) (s : State) : Res := .next (doCtxUpdate s w block)
def execCtxUndefine (w : Word) (s : State) : Res := .next (doCtxUndefine s w)
def execCtxBaseWrite (hi : Bool) (w : Word) (s : State) : Res := .next (doCtxBaseWrite s hi w)
def execRsvFacetsWrite (w : Word) (s : State) : Res := .next (doRsvFacetsWrite s w)
def execFnCtxWrite (f : Nat) (w : Word) (s : State) : Res := .next (doFnCtxWrite s f w)
def execBeaconRangeSet (w : Word) (s : State) : Res := .next (doBeaconRangeSet s w)
def execBeaconRangeGet (w : Word) (s : State) : Res := .next (doBeaconRangeGet s w)
def execHeadingRangeSet (w : Word) (s : State) : Res := .next (doHeadingRangeSet s w)
def execHeadingRangeGet (w : Word) (s : State) : Res := .next (doHeadingRangeGet s w)
def execHeadingEntryLatch (path : Nat) (w : Word) (s : State) : Res := .next (doHeadingEntryLatch s path w)

end Sys2Proof.Machine
end

