-- ==== Sys2Proof/Machine/Reset.lean ====
section
/-! DEFINITION. Resets and resumption: the replay of a commit sequence (09 R250), CONTEXT_RESET (15 R368), the warm reset and its end
(15 R363, R369; 16 R382, R385; 12 R310), the entry into SAFE-LISTEN (17 R394). -/

namespace Sys2Proof.Machine
open Sys2Proof

/-! ### What the journal holds (16 R388) -/

/-- A Heading entry from its 64-byte image (02 R53). -/
def hdgOfBytes (b : List Byte) : Hdg :=
  { state := fieldOf b 0 1, lastStatus := fieldOf b 1 1, ctx := fieldOf b 2 2, model := fieldOf b 4 2, flags := fieldOf b 6 2,
    sig := BitVec.ofNat 64 (fieldOf b 8 8), lastSeq := BitVec.ofNat 32 (fieldOf b 16 4), ring := fieldOf b 20 1,
    lastIter := fieldOf b 21 1, stream := fieldOf b 22 2,
    commit := merOf (fieldOf b 24 8) (fieldOf b 32 4) (fieldOf b 36 2), warmAddr := fieldOf b 40 4, warmCap := fieldOf b 44 4,
    merit := fieldOf b 48 4, commitCount := fieldOf b 52 4 }

/-- The record of a replayed commit: as journalled, with REPLAYED of RFLAGS set (09 R250, R241). -/
def replayRecord (rec0 : List Byte) : List Byte :=
  rec0.take 7 ++ [(rec0.getD 7 0#8) ||| 4#8] ++ rec0.drop 8

/-- Steps 4 to 7 of 09 R249 again, from the journal entry, with identical bits but REPLAYED. What the Heading step does once, and had
done before the reset, is not done twice. -/
def replayEntry (s : State) (e : JEntry) : State :=
  match findCmd s ⟨e.ctx, e.ring, e.seq⟩ with
  | none => s
  | some c =>
    match c.req with
    | none => s
    | some q =>
      let img := if e.image1.isEmpty then none else some (hdgOfBytes e.image1)
      let s := postRecord s c (replayRecord e.record)
      let s := if q.headDone then (match img with | some h => setHdg s (dHandle c.desc) h | none => s)
        else headingStep s c q img
      committedStep (beaconStep s c q) c true

/-- The standing "committing" entries of commands that a test names, in the order of their requests. -/
def standing (s : State) (p : Nat → Bool) : List JEntry :=
  (s.log.queue.filterMap (fun k => (s.log.journal.find? (fun e => decide (e.2.kind = 1) && decide (e.2.ctx = k.ctx) &&
    decide (e.2.ring = k.ring) && decide (e.2.seq = k.seq))).map (·.2))).filter (fun e => p e.ctx)

/-- Replay every one of them. -/
def replayAll (s : State) (p : Nat → Bool) : State := (standing s p).foldl replayEntry s

/-! ### Rings resume (09 R250) -/

/-- The first sequence number from q on without a "committing" entry. -/
def firstOpen (s : State) (ctx ring : Nat) : Nat → Word → Word
  | 0, q => q
  | n + 1, q => if journalled s ⟨ctx, ring, q⟩ then firstOpen s ctx ring n (q + 1) else q

/-- HEAD goes back, and fetching starts again from there. -/
def resumeRing (s : State) (ctx ring : Nat) : State :=
  let r := ringOf s ctx ring
  let h := firstOpen s ctx ring 64 r.done
  pump (setRing s ctx ring { r with head := h, next := h, stopped := false }) ctx ring

/-- The rings of a context. -/
def resumeCtx (s : State) (ctx : Nat) : State := (List.range 8).foldl (fun s r => resumeRing s ctx r) s

/-- Can the function of a context master? -/
def ctxMasters (s : State) (ctx : Nat) : Bool := canMaster s (fnFor s ctx)

/-- Replay and resume the contexts that a test names and whose functions can master (19 R429). -/
def resumeWhere (s : State) (p : Nat → Bool) : State :=
  let s := replayAll s (fun c => p c && ctxMasters s c)
  (s.helm.ctxs.filter (fun e => p e.1 && ctxMasters s e.1)).foldl (fun s e => resumeCtx s e.1) s

/-! ### Stopping what contexts run -/

/-- A command that must be fetched again gives up its input; a model it has reserved stays reserved (02 R57). -/
def refetchCmd (s : State) (c : Cmd) : State :=
  putCmd s { c with phase := .refetch, inputIn := false, raw := [], inst := [], launchableAt := none, waitRetry := 0 }

/-- Does a command wait in the journal queue? -/
def requestedCmd (c : Cmd) : Bool := decide (c.phase = .requested)

/-- Every command of some contexts without a request goes back to its slot; nothing more is expected of outstanding reads. -/
def refetchAll (s : State) (p : Nat → Bool) : State :=
  let s := (s.cmds.filter (fun c => p c.key.ctx && !requestedCmd c)).foldl refetchCmd s
  let s := s.setHelm { s.helm with armed := s.helm.armed.filter (fun a => !p a.key.ctx) }
  s.setHelm { s.helm with rings := s.helm.rings.map (fun e => (e.1, if p (e.1 / 8) then { e.2 with next := e.2.head } else e.2)) }

/-- The contexts of functions that can master no more: their berths are killed, their commands go back to their slots, their
requests stay in the journal queue (19 R429). -/
def suspendWhere (s : State) (p : Nat → Bool) : State :=
  let s := killBatches s (fun b => p b.ctx) causeReset
  let s := killRuns s (fun r => p r.key.ctx && r.slot.isNone) causeReset
  refetchAll s p

/-! ### CONTEXT_RESET (15 R368) -/

/-- A request without a "committing" entry is dropped and its command goes back to its slot. -/
def dropRequest (s : State) (c : Cmd) : State :=
  let s := discardReq s c
  let s := match findCmd s c.key with | some c => refetchCmd s c | none => s
  s.setLog { s.log with queue := s.log.queue.filter (fun k => !(k == c.key)) }

/-- DONE as the journal gives it: one past the last "committed" sequence number, or SEQ0. -/
def journalDone (s : State) (ctx ring : Nat) (r : Ring) : Word :=
  match mget s.log.last (ringKey ctx ring) with
  | some q => if (q - r.seq0).toNat < 2 ^ 31 then q + 1 else r.done
  | none => r.seq0

/-- A ring record rebuilt; `rec` is the context block's record when no copy of the ring record survives. -/
def rebuildRing (s : State) (ctx ring : Nat) (rec0 : Option Rec) : State :=
  let r := ringOf s ctx ring
  if !(r.enable || ringActive s ctx ring) then s
  else
    let r := match rec0 with
      | some c => { r with sqBase := recSq c, cqBase := recCq c, log2e := recLog2E c, irqEn := (recRctl c).testBit 0, vector := recVector c }
      | none => r
    let d := journalDone s ctx ring r
    let r := { r with done := d, head := d, next := d, tail := d - 1, stopped := false, recordErr := true }
    raiseRing (setRing s ctx ring r) ctx r

/-- CONTEXT_RESET: the reset that a CONTEXT event calls for. `recs` gives, for rings of which no copy of the record survives, the
record that the context block holds. -/
def doContextReset (s : State) (ctx : Nat) (recs : List (Nat × Rec)) : State :=
  if !s.helm.ctxResetDue.contains ctx ∨ !ready s then s
  else
    let mine (c : Nat) : Bool := decide (c = ctx)
    let s := s.setHelm { s.helm with ctxResetDue := s.helm.ctxResetDue.filter (fun c => !mine c) }
    let s := killBatches s (fun b => mine b.ctx) causeCtx
    let s := killRuns s (fun r => mine r.key.ctx && r.slot.isNone) causeCtx
    let s := (s.streams.filter (fun e => mine e.2.key.ctx)).foldl (fun s e => silenceStream s e.1) s
    let s := replayAll s mine
    let s := (s.cmds.filter (fun c => mine c.key.ctx && requestedCmd c && !journalled s c.key)).foldl dropRequest s
    let s := refetchAll s mine
    (List.range 8).foldl (fun s i => rebuildRing s ctx i (mget recs i)) s

/-! ### Leaving the safe state: the warm reset begins (15 R369, 16 R385) -/

/-- A fault kill of a run by a warm reset whose fault record names its command (15 R363). -/
def countReset (s : State) (k : CmdKey) (avoid : List Nat) (idx : Nat) : State :=
  match findCmd s k with
  | some c => putCmd s { c with faultKills := c.faultKills + 1, faultIdx := idx, avoid := avoid, rerun := true }
  | none => s

/-- Kill a run in a warm reset, whatever its phase. -/
def resetRun (s : State) (r : Run) : State :=
  if r.phase = .done then dropRun s r.key
  else
    let r' := { r with commitAt := none }
    match s.bin.namedCmds.find? (fun x => x.1 == r.key), r.stream with
    | some (_, i), none => countReset (killRun s r' causeReset true) r.key (runFacets r) i
    | _, _ => killRun s r' causeReset false

/-- Sequence numbers of Soundings that will get no Fix frame of their own. -/
def lostSeqs (st : Stream) : List Word :=
  (st.due.filter (·.answers)).map (·.seq) ++ (match st.unit with | some u => [u.seq] | none => [])

/-- A binding through a warm reset: its unit is lost but for one with a standing "stream committing" entry (12 R310). -/
def suspendStream (s : State) (n : Nat) (st : Stream) : Stream :=
  { st with
    newest := (lostSeqs st).foldl newer st.newest, unit := if streamJournalled s n then st.unit else none, due := [],
    onLanes := none, emitted := none, frameOpen := none, refusedRow := false, badHdr := false, dogAt := none, stopAt := none,
    unbind := none, suspended := true, faultKills := 0 }

/-- Has the bind of a binding committed, or its "committing" entry been written? -/
def bindStands (s : State) (st : Stream) : Bool :=
  match findCmd s st.key with
  | some c => decide (opOf c.desc ≠ 0x20) || journalled s st.key
  | none => true

/-- A binding whose bind has not committed is undone: its bind runs again. -/
def undoBind (s : State) (n : Nat) (st : Stream) : State :=
  (closeWin s st.win).setStreams (mdel s.streams n)

/-- A Fleet peer through a warm reset: DOWN, what was held or unacknowledged gone. -/
def resetPeer (p : Peer) : Peer := { p with up := false, held := [], sent := [], ackDue := false }

/-- The warm reset begins: every berth, Helm core, conductor and interface is stopped; the state 15 R369 names is kept. -/
def startWarm (s : State) (leaving : Bool) : State :=
  let s := killBatches s (fun _ => true) causeReset
  let s := s.runs.foldl resetRun s
  let s := (s.setRuns []).setBatches []
  let s := discardRequests s
  let s := refetchAll s (fun _ => true)
  let s := (s.streams.filter (fun e => !bindStands s e.2)).foldl (fun s e => undoBind s e.1 e.2) s
  let s := s.setStreams (s.streams.map (fun e => (e.1, suspendStream s e.1 e.2)))
  let s := s.setHelm { s.helm with
    ladder := [], armed := [], ctxResetDue := [],
    cores := s.helm.cores.map (fun c => { c with halted := false, draining := false, resumeDue := false }) }
  let s := s.setRose { s.rose with acc := [], panel := [], perm := [], east := [], south := [], rowZ := [], dmax := [], vec := [], sxt := [] }
  let s := s.setCsi (s.csi.map (fun c => { c with busy := false }))
  let s := s.setFleet { s.fleet with peers := s.fleet.peers.map (fun e => (e.1, resetPeer e.2)), stop := none, reached := none, stopped := false }
  let s := s.setPel { s.pel with
    bsets := [], watches := s.pel.watches.map (fun w => { w with copying := false, killed := w.killed || w.copying }), scanning := false }
  let s := s.setBin { s.bin with safe := false, txCut := true, linksDown := true, frozen := false, warm := leaving, namedCmds := [] }
  s.setBoot { s.boot with state := 3 }

/-- The exit record (16 R389). -/
def exitRecord (s : State) : State := logEvent s { eventOf s { cls := 9, cause := s.bin.cause } with cls := 9 }

/-! ### When the safe state may be left (16 R385) -/

/-- Does a cause permit leaving now; `go` is a write of GO. -/
def causeLeaves (s : State) (go : Bool) (c : Nat) : Bool :=
  let now := s.clk.shadow
  let auto := (rget s 0xD0004).testBit 0 && decide (devIn10s s < 3)
  if c = 0x16 ∨ c = 0x11 ∨ c = 0x112 then false
  else if c = 0x17 then go
  else if monitorCause c then (go || auto) && decide (s.bin.okSince + 10000 * usU ≤ now)
  else if c = 0x05 then (go || auto) && (s.ms.traceable || !(rget s 0xD0004).testBit 2)
  else go || auto

/-- May the safe state be left: held for 1 ms, every monitor within limits, and every cause permitting? -/
def mayLeave (s : State) (go : Bool) : Bool :=
  s.bin.safe && decide (s.boot.state = 1 ∨ s.boot.state = 3) && decide (s.bin.since + 1000 * usU ≤ s.clk.shadow) &&
  s.bin.vBad.isEmpty && decide (s.bin.hot = 0) && !s.bin.oscLost && s.bin.causes.all (causeLeaves s go)

/-- SAFE_STATE_EXIT: the Binnacle leaves the safe state by itself. -/
def doSafeStateExit (s : State) : State := if mayLeave s false then startWarm (exitRecord s) true else s

/-- BIN_RECOVER: a write of BIN_RECOVER by a path; it has no effect where R385 does not permit leaving. -/
def doBinRecover (s : State) (path : Nat) (w : Word) : State :=
  if pathAll path ∧ pathOpen s path ∧ bit w 31 ∧ mayLeave s true then startWarm (exitRecord s) true else s

/-- WARM_RESET: a write of WARM in TOP_RST, ignored in the safe state (15 R369). -/
def doWarmReset (s : State) (path : Nat) (w : Word) : State :=
  if pathAll path ∧ pathOpen s path ∧ s.boot.state = 1 ∧ bit w 31 ∧ !s.bin.safe then startWarm s false else s

/-! ### WARM_RESET_COMPLETE -/

/-- Facets that the fault records of the safe state name go through LBIST: those that fail are marked failed (15 R369, 11 R289). -/
def warmTests (s : State) (failed : List Nat) : State :=
  let bad := (sortNat failed).filter (fun g => s.bin.named.contains g)
  let s := bad.foldl failFacet s
  (sortNat (bad.map sectorOf)).foldl doSpareSubstitution s

/-- A standing "stream committing" entry: its Heading writes once more, its frame counted as sent, never sent again (12 R310). -/
def replayUnit (s : State) (n : Nat) (e : JEntry) : State :=
  match mget s.streams n with
  | none => s
  | some st =>
    let s := match st.unit with
      | some u => (match u.req with
        | some q =>
          let estStore := match u.estStatus with | some 0 => u.estStore | some 2 => u.estStore | _ => none
          putStore (putStore s (hdgOfBytes e.image1) q.store) (hdgOfBytes e.image2) estStore
        | none => s)
      | none => s
    let s := setHdg s st.ctlHandle (hdgOfBytes e.image1)
    let s := setHdg s st.estHandle (hdgOfBytes e.image2)
    let s := s.setLog { s.log with
      journal := s.log.journal.filter (fun x => !(decide (x.2.kind = 3) && decide (x.2.ring = n))),
      queue := s.log.queue.filter (fun k => !(k == st.key)) }
    s.setStreams (mset s.streams n { st with
      unit := none, fixCount := BitVec.ofNat 32 (fieldOf e.record 0 4), newest := newer st.newest e.seq })

/-- Every standing entry of a unit. -/
def replayUnits (s : State) : State :=
  (s.log.journal.filter (fun e => decide (e.2.kind = 3))).foldl (fun s e => replayUnit s e.2.ring e.2) s

/-- A binding resumes: its berth placed and its window opened again, its first frame with RESUMED; a failed binding stays silent
(12 R310, R313). -/
def resumeStream (s : State) (n : Nat) : State :=
  match mget s.streams n with
  | none => s
  | some st =>
    if st.failed then s.setStreams (mset s.streams n { st with suspended := false })
    else
      let s := rebind s n []
      match mget s.streams n with
      | none => s
      | some st =>
        let s := s.setStreams (mset s.streams n { st with
          suspended := false, resumed := true, dogAt := if st.failed then none else (watchdogOf s n).map (fun w => stampIk s + w) })
        raiseNotice s srcResumed true { cls := 0, cause := 0x30, unitKind := 5, unitNo := n / 16, key := some st.key }

/-- The NOTICE of the deadlines that passed in the safe state (16 R382). -/
def missedNotice (s : State) : State :=
  if !s.bin.warm then s
  else
    let gone (c : Cmd) : Bool := watchedClass c.desc && !c.watched && (match c.deadline with
      | some t => decide (s.bin.missFrom ≤ t) && decide (t ≤ s.clk.shadow)
      | none => false)
    let s' := raiseNotice s srcMissed true { cls := 0, cause := 0x30, detail := b4 (s.cmds.filter gone).length }
    let t := s'.setCmds (s'.cmds.map (fun c => if gone c then { c with watched := true } else c))
    t.setBin { t.bin with warm := false }

/-- WARM_RESET_COMPLETE: firmware reports READY. `failed` names the tested facets that failed. -/
def doWarmResetComplete (s : State) (failed : List Nat) : State :=
  if s.boot.state ≠ 3 ∨ s.bin.safe then s
  else
    let s := replayUnits (warmTests s failed)
    let s := s.setBoot { s.boot with state := 1 }
    let s := s.setBin { s.bin with safeN := true, txCut := false, linksDown := false, named := [], namedCmds := [], causes := [] }
    let s := s.setHelm { s.helm with cores := s.helm.cores.map (fun c => { c with heartbeat := s.clk.shadow }) }
    let s := s.streams.foldl (fun s e => resumeStream s e.1) s
    let s := raiseIbi s 2 (bootStat s)
    let s := missedNotice s
    resumeWhere s (fun _ => true)

/-! ### SAFE-LISTEN (17 R394) -/

/-- A pulse output goes low (17 R405): the level it drives is POL while idle. -/
def outputLow (s : State) (n : Nat) : State :=
  match s.ms.outs[n]? with
  | none => s
  | some x =>
    let level := (rget s (0x90080 + 32 * n)).testBit 29 != x.high
    let s := s.setMs { s.ms with outs := lset s.ms.outs n PulseOut.zero }
    if level then emit s (.pulse n false (stamp s)) else s

/-- Enter SAFE-LISTEN (17 R394, R405): SAFE_N and ALERT_N low, the ports silent, the outputs low; FAIL and STAGE stand in
TOP_BOOT_STAT, the Binnacle writes an event record of class 8, and STATE is reported over I3C (19 R434). -/
def safeListen (s : State) (fail : Nat) : State :=
  let s := s.setBoot { s.boot with state := 2, fail := fail }
  let s := s.setBin { s.bin with safeN := false, alertN := false, txCut := true, linksDown := true }
  let s := (List.range 8).foldl outputLow s
  let s := logEvent s (eventOf s { cls := 8, cause := 0, detail := b1 fail })
  raiseIbi s 3 (bootStat s)

def execContextReset (ctx : Nat) (recs : List (Nat × Rec)) (s : State) : Res := .next (doContextReset s ctx recs)
def execSafeStateExit (s : State) : Res := .next (doSafeStateExit s)
def execBinRecover (path : Nat) (w : Word) (s : State) : Res := .next (doBinRecover s path w)
def execWarmReset (path : Nat) (w : Word) (s : State) : Res := .next (doWarmReset s path w)
def execWarmResetComplete (failed : List Nat) (s : State) : Res := .next (doWarmResetComplete s failed)

end Sys2Proof.Machine
end

