-- ==== Sys2Proof/Machine/Binnacle.lean ====
section
/-! DEFINITION. The Binnacle's monitors (16 R374 to R377, R382 to R384; 01 R32; 21 R455, R456): what each detects, and the DEVICE
event, the NOTICE or the hardwired safe state that follows. -/

namespace Sys2Proof.Machine
open Sys2Proof

/-! ### A DEVICE condition, wherever the device stands (17 R394, 16 R384) -/

/-- A DEVICE event: before READY it ends power-up in SAFE-LISTEN; in SAFE-LISTEN it is recorded; else the safe state. -/
def device (s : State) (a : EvArg) (facets : List Nat) : State :=
  if !s.boot.por then s
  else if s.boot.state = 0 then safeListen (deviceRecords s a false) 0x0D
  else if s.boot.state = 2 then deviceRecords s a false
  else deviceEvent s a facets

/-- A DEVICE event of a monitor that keeps reading out of its limits: the cause stands already, and the time within limits
starts again (16 R385). -/
def monitorEvent (s : State) (a : EvArg) : State :=
  if s.bin.safe ∧ s.bin.causes.contains a.cause then s.setBin { s.bin with okSince := s.clk.shadow } else device s a []

/-- A reading out of limits, event or not: 10 ms within limits are counted from it. -/
def outOfLimits (s : State) : State := s.setBin { s.bin with okSince := s.clk.shadow }

/-- The cause codes of DEVICE events (16 R389). -/
def deviceCause (c : Nat) : Bool :=
  [0x01, 0x02, 0x03, 0x04, 0x05, 0x10, 0x11, 0x12, 0x13, 0x14, 0x15, 0x16, 0x17, 0x18].contains c

/-- DEVICE_EVENT: a diagnostic of 16 R376 detects a DEVICE condition: a control-path error outside a berth, a Logbook store error, or
another of its causes; `facets` are those its record names. -/
def doDeviceEvent (s : State) (a : EvArg) (facets : List Nat) : State := if deviceCause a.cause then device s a facets else s

/-- The hardwired path of 16 R374: the first two steps of the safe state, with no record. -/
def hardwired (s : State) (cause : Nat) : State :=
  s.setBin { s.bin with
    safe := true, safeN := false, frozen := true, causes := insSorted cause (if s.bin.safe then s.bin.causes else []),
    since := if s.bin.safe then s.bin.since else s.clk.shadow, cause := cause % 256 }

/-- LOCKSTEP_MISMATCH. -/
def doLockstepMismatch (s : State) : State := device s { cls := 5, cause := 0x16 } []

/-- BIN_OSC_LOSS: the island runs on its fallback oscillator and brings the device to the safe state (01 R32). -/
def doBinOscLoss (s : State) : State :=
  if !s.boot.por ∨ s.bin.fallback then s
  else device (s.setBin { s.bin with fallback := true, oscLost := true }) { cls := 5, cause := 0x11, unitKind := 7 } []

/-- FALLBACK_OSCILLATOR_STOP: nothing but the hardwired path is left. -/
def doFallbackOscillatorStop (s : State) : State := if s.boot.por ∧ s.bin.fallback then hardwired s 0x11 else s

/-- The internal name of the VDD_SI cause: its record says voltage, and only POR_N leaves it (16 R385). -/
def causeVddSi : Nat := 0x112

/-- VDD_SI_OUT_OF_WINDOW: the island's own supply outside 760 mV to 840 mV. -/
def doVddSiOutOfWindow (s : State) (mv : Nat) : State :=
  if 760 ≤ mv ∧ mv ≤ 840 then s else device s { cls := 5, cause := causeVddSi, unitKind := 6, unitNo := 5, detail := b2 mv } []

/-! ### Clocks, rails, temperature (16 R376) -/

/-- Edges that a clock makes in 10 µs: root, AK, HK, IK, MK (01 R27); others count as the environment expects them. -/
def clockNominal (clock expect : Nat) : Nat := [32000, 8000, 16000, 4000, 2000].getD clock expect

/-- The root PLL or MK is seen to stand still, or to run: without it Meridian time stops and the shadow runs on (13 R322). -/
def clockSeen (s : State) (count : Nat) : State :=
  if s.boot.passed < 3 then s
  else if count = 0 then s.setClk { s.clk with locked := false, shadowMark := true }
  else s.setClk { s.clk with locked := true, shadowMark := false }

/-- CLOCK_MONITOR_WINDOW: a 10 µs window ends with `count` edges: loss, or an error beyond 1 %, is a DEVICE event. -/
def doClockMonitorWindow (s : State) (clock count expect : Nat) : State :=
  let n := clockNominal clock expect
  let d := if count < n then n - count else count - n
  let s := if clock = 0 ∨ clock = 4 then clockSeen s count else s
  if s.boot.passed < 3 ∧ clock < 5 then s
  else if n < 100 * d ∨ count = 0 then
    monitorEvent s { cls := 5, cause := 0x10, unitKind := 7, unitNo := clock % 256, detail := b4 count }
  else s

/-- Nominal set points of the monitored rails, in millivolts: VDD_CORE, VDD_SRAM, VDD_IO, VDD_SER, VDDH_SER (21 R452). VDD_CORE's window
follows the AVS set point 50 µs after each command (R455). -/
def railSet (s : State) (rail : Nat) : Option Nat :=
  match rail with
  | 0 => some (if s.clk.shadow < s.bin.avsAt + 50 * usU then s.bin.prevMv else s.bin.setMv)
  | 1 => some 800
  | 2 => some 1800
  | 3 => some 850
  | 4 => some 1200
  | _ => none

/-- VOLTAGE_SAMPLE: a sample within ±5 % ends the row of bad ones; the fourth bad one in a row is a DEVICE event. -/
def doVoltageSample (s : State) (rail mv : Nat) : State :=
  match railSet s rail with
  | none => s
  | some set0 =>
    let d := if mv < set0 then set0 - mv else mv - set0
    if 20 * d ≤ set0 then s.setBin { s.bin with vBad := mdel s.bin.vBad rail }
    else
      let n := mgetD s.bin.vBad rail 0 + 1
      let s := outOfLimits (s.setBin { s.bin with vBad := mset s.bin.vBad rail (satTo 4 n) })
      if n < 4 then s
      else monitorEvent s { cls := 5, cause := 0x12, unitKind := 6, unitNo := rail, detail := b2 mv }

/-- TEMPERATURE_SAMPLE: a junction sensor, in tenths of a degree: NOTICE above 105 °C, DEVICE above 110 °C. `hot` has one bit for each
of the 20 sensors. -/
def doTemperatureSample (s : State) (sensor : Nat) (tenths : Int) : State :=
  if 20 ≤ sensor then s
  else
    let was := s.bin.hot.testBit sensor
    let hot := if was then s.bin.hot - 2 ^ sensor else s.bin.hot
    if tenths ≤ 1050 then s.setBin { s.bin with hot := hot }
    else if tenths ≤ 1100 then
      raiseNotice (s.setBin { s.bin with hot := hot }) srcTemp false { cls := 0, cause := 0x30, unitKind := 8, unitNo := sensor, detail := b2 tenths.toNat }
    else
      monitorEvent (s.setBin { s.bin with hot := hot + 2 ^ sensor })
        { cls := 5, cause := 0x13, unitKind := 8, unitNo := sensor, detail := b2 tenths.toNat }

/-! ### Helm heartbeats (16 R376, R377) -/

/-- HELM_HEARTBEAT. -/
def doHelmHeartbeat (s : State) (core : Nat) : State :=
  s.setHelm { s.helm with cores := lupd s.helm.cores core (fun c => if c.ok then { c with heartbeat := s.clk.shadow } else c) }

/-- HEARTBEAT_TIMEOUT: no heartbeat for 250 µs from a core that runs and is not halted at a breakpoint. -/
def doHeartbeatTimeout (s : State) (core : Nat) : State :=
  match s.helm.cores[core]? with
  | none => s
  | some c =>
    if !c.ok ∨ c.halted ∨ s.boot.state ≠ 1 ∨ s.bin.safe ∨ s.clk.shadow < c.heartbeat + 250 * usU then s
    else device s { cls := 5, cause := 0x14, unitKind := 4, unitNo := core } []

/-! ### Adaptive voltage (21 R455, R456) -/

/-- AVS_READBACK: READ_VOUT against the last command, 15 mV apart at most. -/
def doAvsReadback (s : State) (mv : Nat) : State :=
  let s := emit s (.pmbus .readVout 0)
  let d := if mv < s.bin.setMv then s.bin.setMv - mv else mv - s.bin.setMv
  if 15 < d then device s { cls := 5, cause := 0x18, unitKind := 6, unitNo := 0, detail := b2 mv } [] else s

/-- AVS_UPDATE: the re-evaluation asks for one step of 5 mV up or down, or none; the set point stays in 680 mV to 820 mV, and at
most one change is made per 50 µs. -/
def doAvsUpdate (s : State) (up : Option Bool) : State :=
  let mv := match up with
    | some true => s.bin.setMv + 5
    | some false => s.bin.setMv - 5
    | none => s.bin.setMv
  if s.boot.state ≠ 1 ∨ mv = s.bin.setMv ∨ mv < 680 ∨ 820 < mv ∨ s.clk.shadow < s.bin.avsAt + 50 * usU then s
  else emit (s.setBin { s.bin with prevMv := s.bin.setMv, setMv := mv, avsAt := s.clk.shadow }) (.pmbus .voutCommand mv)

/-- PMB_ALERT: STATUS_WORD is read; an output fault is a DEVICE event with the cause of voltage, any other bit a NOTICE, and CLEAR_FAULTS
follows. -/
def doPmbAlert (s : State) (outputFault other : Bool) : State :=
  if !s.boot.por then s
  else
    let s := emit s (.pmbus .statusWord 0)
    if outputFault then monitorEvent (outOfLimits s) { cls := 5, cause := 0x12, unitKind := 6, unitNo := 0 }
    else if other then
      emit (raiseNotice s srcPmb false { cls := 0, cause := 0x30, unitKind := 6, unitNo := 0 }) (.pmbus .clearFaults 0)
    else s

/-! ### The watches (16 R382, R383) -/

/-- A breach of an uncommitted command's deadlines as the watch sees it now. -/
def cmdBreach (s : State) (c : Cmd) : Option Mer :=
  let now := s.clk.shadow
  match c.req with
  | some q => reqBreach q c.deadline (watchBudget c.desc)
  | none =>
    let mer := match c.deadline with
      | some t => if t + usU ≤ now then some (now - t) else none
      | none => none
    match mer, findRun s c.key, watchBudget c.desc with
    | some x, _, _ => some x
    | none, some r, some b =>
      let lim := r.launchMer + budgetLong b
      if launched s r && decide (lim + usU ≤ now) then some (now - lim) else none
    | none, _, _ => none

/-- The breach of a binding's unit. -/
def unitBreach (s : State) (n : Nat) (st : Stream) (u : UnitSt) : Option Mer :=
  let now := s.clk.shadow
  match u.req with
  | some q => reqBreach q (unitDeadline s n st u) (some st.budget)
  | none => match unitDeadline s n st u with
    | some t => if t + usU ≤ now then some (now - t) else none
    | none => none

/-- The event of a breach: the record carries the command and by how much the deadline was exceeded: whole ns, then 2^-16 ns. -/
def breachEvent (s : State) (k : CmdKey) (x : Mer) : State :=
  device s { cls := 5, cause := 0x04, key := some k, detail := b8 (x / nsU) ++ b2 (x / 2 ^ 16 % 2 ^ 16) } []

/-- DEADLINE_WATCH of a command, or of a binding's unit by the key of its bind: nothing is raised from the entry into the safe state
until READY. -/
def doDeadlineWatch (s : State) (k : CmdKey) : State :=
  if !ready s then s
  else match s.bin.breached.find? (fun x => x.1 == k) with
    | some (_, x) => breachEvent (s.setBin { s.bin with breached := s.bin.breached.filter (fun y => !(y.1 == k)) }) k x
    | none =>
      match findCmd s k, s.streams.find? (fun e => e.2.key == k) with
      | some c, none =>
        if !watchedClass c.desc ∨ c.watched then s
        else (match cmdBreach s c with
          | some x => breachEvent (putCmd s { c with watched := true }) k x
          | none => s)
      | _, some (n, st) => (match st.unit with
        | some u => (match unitBreach s n st u with
          | some x => breachEvent s k x
          | none => s)
        | none => s)
      | none, none => s

/-- TRACEABILITY_LOSS: TRACEABLE has fallen: DEVICE with TRACE_SAFE 1; else a NOTICE, and SAFE commands with Meridian deadlines are
refused from now on until it returns. -/
def doTraceabilityLoss (s : State) : State :=
  if !s.bin.traceFell then s
  else
    let s := s.setBin { s.bin with traceFell := false }
    if (rget s 0xD0004).testBit 2 then device s { cls := 5, cause := 0x05 } []
    else raiseNotice (s.setBin { s.bin with noLateMer := true }) srcTrace false { cls := 0, cause := 0x30 }

def execDeviceEvent (a : EvArg) (facets : List Nat) (s : State) : Res := .next (doDeviceEvent s a facets)
def execLockstepMismatch (s : State) : Res := .next (doLockstepMismatch s)
def execBinOscLoss (s : State) : Res := .next (doBinOscLoss s)
def execFallbackOscillatorStop (s : State) : Res := .next (doFallbackOscillatorStop s)
def execVddSiOutOfWindow (mv : Nat) (s : State) : Res := .next (doVddSiOutOfWindow s mv)
def execClockMonitorWindow (clock count expect : Nat) (s : State) : Res := .next (doClockMonitorWindow s clock count expect)
def execVoltageSample (rail mv : Nat) (s : State) : Res := .next (doVoltageSample s rail mv)
def execTemperatureSample (sensor : Nat) (tenths : Int) (s : State) : Res := .next (doTemperatureSample s sensor tenths)
def execHelmHeartbeat (core : Nat) (s : State) : Res := .next (doHelmHeartbeat s core)
def execHeartbeatTimeout (core : Nat) (s : State) : Res := .next (doHeartbeatTimeout s core)
def execAvsReadback (mv : Nat) (s : State) : Res := .next (doAvsReadback s mv)
def execAvsUpdate (up : Option Bool) (s : State) : Res := .next (doAvsUpdate s up)
def execPmbAlert (outputFault other : Bool) (s : State) : Res := .next (doPmbAlert s outputFault other)
def execDeadlineWatch (k : CmdKey) (s : State) : Res := .next (doDeadlineWatch s k)
def execTraceabilityLoss (s : State) : Res := .next (doTraceabilityLoss s)

end Sys2Proof.Machine
end

