-- ==== Sys2Proof/Machine/Pcie.lean ====
section
/-! DEFINITION. The PCIe functions and their link (19 R424 to R429, 15 R369, 20 R444): FUNCTION_LEVEL_RESET, BUS_MASTER_DISABLE,
BUS_MASTER_ENABLE, VF_ENABLE_CLEAR, LINK_RESET, MSIX_UNMASK. -/

namespace Sys2Proof.Machine
open Sys2Proof

/-- Update a function's configuration bits. -/
def updFn (s : State) (f : Nat) (g : Fn → Fn) : State := s.setFns (lupd s.fns f g)

/-- Does the configuration space of a function answer: the link is up, and a virtual function has VF Enable? -/
def fnAnswers (s : State) (f : Nat) : Bool := s.pci.dlUp && decide (f < 64) && fnEnabled s f

/-- The contexts of functions that a test names. -/
def ofFns (s : State) (p : Nat → Bool) (ctx : Nat) : Bool := match fnOf s ctx with | some f => p f | none => false

/-- MSI-X tables of some functions back to their reset: masked, nothing pending. -/
def clearMsix (s : State) (p : Nat → Bool) : State := s.setMsix (s.msix.filter (fun e => !p (e.1 / 2048)))

/-- Does a register instance of a function go back to its reset value at its FLR: a selection, a latch, an RW field of its own; the
flags of MER_STAT are the device's (20 R443, R444)? -/
def flrClears (p : Nat → Bool) (key : Nat) : Bool :=
  let off := key % 0x100000
  p (key / 0x100000) && decide (off ≠ 0x90004) &&
  (match regInfo off with
   | some ri => decide (ri.vf ≠ .no) || (decide (0xE0000 ≤ off) && decide (off < 0xF0000))
   | none => false)

/-- FUNCTION_LEVEL_RESET: of the physical function also every virtual one. -/
def doFunctionLevelReset (s : State) (f : Nat) : State :=
  if !fnAnswers s f then s
  else
    let hit (g : Nat) : Bool := decide (g = f) || decide (f = 0)
    let s := suspendWhere s (ofFns s hit)
    let s := clearMsix s hit
    let s := s.setRegs (s.regs.filter (fun e => !flrClears hit e.1))
    s.setFns (s.fns.zipIdx.map (fun x => if hit x.2 then ⟨false, false, false⟩ else x.1))

/-- BUS_MASTER_DISABLE: a clear of Bus Master Enable, or entry to D3hot. -/
def doBusMasterDisable (s : State) (f : Nat) (d3 : Bool) : State :=
  if !fnAnswers s f then s
  else
    let s := suspendWhere s (ofFns s (fun g => decide (g = f)))
    updFn s f (fun x => if d3 then { x with d3 := true } else { x with bme := false })

/-- Messages of unmasked entries of a function that could not leave. -/
def sendPending (s : State) (f : Nat) : State :=
  (s.msix.filter (fun e => decide (e.1 / 2048 = f) && e.2.pend && !e.2.masked)).foldl (fun s e =>
    emit (s.setMsix (mset s.msix e.1 { e.2 with pend := false })) (.msix f (e.1 % 2048))) s

/-- BUS_MASTER_ENABLE: Bus Master Enable set, in D0; of a virtual function, VF Enable stands (log 60). Standing commit sequences
post, the rings resume. -/
def doBusMasterEnable (s : State) (f : Nat) : State :=
  if !s.pci.dlUp ∨ 64 ≤ f ∨ s.boot.numVf < f then s
  else
    let s := if f = 0 then s else updFn s 0 (fun x => { x with vfEn := true })
    let was := canMaster s f
    let s := updFn s f (fun x => { x with bme := true, d3 := false })
    if was ∨ !canMaster s f ∨ !ready s then s
    else resumeWhere (sendPending s f) (ofFns s (fun g => decide (g = f)))

/-- VF_ENABLE_CLEAR. -/
def doVfEnableClear (s : State) : State :=
  if !fnAnswers s 0 then s
  else
    let s := suspendWhere s (ofFns s (fun g => decide (0 < g)))
    let s := clearMsix s (fun g => decide (0 < g))
    s.setFns (s.fns.zipIdx.map (fun x => if x.2 = 0 then { x.1 with vfEn := false } else ⟨false, false, false⟩))

/-- MSIX_UNMASK: a write of a function's MSI-X table unmasks an entry. -/
def doMsixUnmask (s : State) (f e : Nat) : State :=
  if !fnAnswers s f ∨ msixSize s f ≤ e then s
  else
    let ent := mgetD s.msix (msixKey f e) ⟨true, false⟩
    if ent.pend ∧ canMaster s f then emit (s.setMsix (mset s.msix (msixKey f e) ⟨false, false⟩)) (.msix f e)
    else s.setMsix (mset s.msix (msixKey f e) { ent with masked := false })

/-- LINK_RESET: a pulse on PERST_N: PCIe configuration space and the MSI-X table are reset, the link trains again to a width and speed;
from READY a warm reset follows. During power-up only the link is reset (17 R396). -/
def doLinkReset (s : State) (width speed : Nat) : State :=
  if !s.boot.por then s
  else
    let up := decide (3 ≤ s.boot.passed)
    let s := clearMsix s (fun _ => true)
    let s := s.setFns (s.fns.map (fun _ => ⟨false, false, false⟩))
    let s := s.setPci { s.pci with dlUp := up, width := if up then width else 0, speed := if up then speed else 0 }
    if s.boot.state = 1 ∧ !s.bin.safe then startWarm s false else s

def execFunctionLevelReset (f : Nat) (s : State) : Res := .next (doFunctionLevelReset s f)
def execBusMasterDisable (f : Nat) (d3 : Bool) (s : State) : Res := .next (doBusMasterDisable s f d3)
def execBusMasterEnable (f : Nat) (s : State) : Res := .next (doBusMasterEnable s f)
def execVfEnableClear (s : State) : Res := .next (doVfEnableClear s)
def execMsixUnmask (f e : Nat) (s : State) : Res := .next (doMsixUnmask s f e)
def execLinkReset (width speed : Nat) (s : State) : Res := .next (doLinkReset s width speed)

end Sys2Proof.Machine
end

