-- ==== Sys2Proof/Machine/Batching.lean ====
section
/-! DEFINITION. BATCH_TICK: the tick boundaries of a batch (10 R270 to R272, 07 R189, R190). -/

namespace Sys2Proof.Machine
open Sys2Proof

/-- The place and content of the running batch of a context, model and class group. -/
def batchOf (s : State) (ctx model : Nat) (quota : Bool) : Option (Nat × Batch) :=
  (s.batches.zipIdx.find? (fun x => decide (x.1.ctx = ctx) && decide (x.1.model = model) && x.1.quota == quota)).map
    (fun x => (x.2, x.1))

/-- The problems of a batch. -/
def batchKeys (b : Batch) : List CmdKey := ((b.units.map (·.slots)).flatten).filterMap id

/-- Step 1: a problem that a trap, a bad pivot or its setup has stopped, or whose trigger fell in the tick, begins its commit
phase. -/
def beginCommit (s : State) (k : CmdKey) : State :=
  match findRun s k with
  | none => s
  | some r =>
    if r.phase = .stopping then putRun s (endRun r s.clk.chipAk (r.status.getD 0x21) 0)
    else if working r ∧ r.trig.isSome then stopRun s r 0
    else s

/-- Step 2: a problem whose commit point is this boundary frees its slot. -/
def leaveSlot (s : State) (k : CmdKey) : State :=
  match findRun s k with
  | some r => if r.commitAt = some s.clk.chipAk then emptySlot (freeSlot s k) r else s
  | none => freeSlot s k

/-- Step 3: units with every slot free are released. -/
def releaseUnits (s : State) (bi : Nat) (b : Batch) : State :=
  let gone := b.units.filter (fun u => u.slots.all (·.isNone))
  let s := gone.foldl (fun s u => emptyFacets (closeWins s u.wins) u.berth.facets) s
  s.setBatches (lset s.batches bi { b with units := b.units.filter (fun u => u.slots.any (·.isSome)) })

/-- Is a SOLVE_BATCH command waiting to join: taken, read, not covered, its context served? -/
def joinable (s : State) (ctx model : Nat) (quota : Bool) (c : Cmd) : Bool :=
  decide (opOf c.desc = 0x11) && decide (c.key.ctx = ctx) && decide (dModel c.desc % 4096 = model) &&
  (decide (dClass c.desc ≠ 0) == quota) && decide (c.phase = .ready) && c.launchableAt.isSome && c.cover.isNone &&
  (c.inputIn || decide (dInLen c.desc = 0)) && canServe s ctx && mayStart s c

/-- The commands that wait to join, in the order of step 4. -/
def joinQueue (s : State) (ctx model : Nat) (quota : Bool) : List Cmd :=
  sortBy (if quota then fun a b =>
      let x := effDeadline s a
      let y := effDeadline s b
      if x ≠ y then decide (x < y) else softBefore a b
    else softBefore) (s.cmds.filter (joinable s ctx model quota))

/-- The next free slot: increasing global facet number, slot 0 before slot 1. -/
def freeSlots (b : Batch) : List (Nat × Nat × BatchUnit) :=
  ((b.units.map (fun u => (u.slots.zipIdx.filter (fun x => x.1.isNone)).map (fun x => (u.berth.facets.getD (x.2 / 2) 0, x.2, u)))).flatten).foldr
    (fun x l =>
      let rec ins : List (Nat × Nat × BatchUnit) → List (Nat × Nat × BatchUnit)
        | [] => [x]
        | y :: ys => if x.1 < y.1 ∨ (x.1 = y.1 ∧ x.2.1 ≤ y.2.1) then x :: y :: ys else y :: ins ys
      ins l) []

/-- Are a SOFT command's charges covered (10 R263)? -/
def covered263 (s : State) (c : Cmd) (r : Route) (quota : Bool) : Bool :=
  quota || decide ((expectedCost c.desc r : Int) ≤ balanceOf s c.key.ctx)

/-- The Plot of a slot: the lines of its facet's sector, cut into one part for each slot of the unit there (01 R16; log 130). -/
def slotPlots (u : BatchUnit) (facet slot : Nat) : List PlotRange :=
  let slots := (u.slots.zipIdx.filter (fun x => decide (sectorOf (u.berth.facets.getD (x.2 / 2) 0) = sectorOf facet))).map (·.2)
  (u.plots.filter (fun p => decide (p.sector = sectorOf facet))).map (fun p =>
    let n := p.lines / slots.length
    { p with line := p.line + n * (slots.takeWhile (fun i => decide (i ≠ slot))).length, lines := n })

/-- A problem joins a slot: its launch cycle is this boundary, the slot is empty, its instance goes into its Plot. -/
def joinSlot (s : State) (bi : Nat) (c : Cmd) (m : Nat) (r : Route) (facet slot : Nat) (u : BatchUnit) : State :=
  let p : Placement := ⟨[⟨facet, 1, 1⟩], [], slotPlots u facet slot⟩
  let run := { placedRun s c m r p none with slot := some (u.berth.origin, slot), wins := [], triples := [] }
  let s := writeInst (emptySlot s run) run c.raw c.instOff
  let s := s.setBatches (s.batches.zipIdx.map (fun x => if x.2 = bi then
    { x.1 with units := x.1.units.map (fun v => if v.berth == u.berth then { v with slots := lset v.slots slot (some c.key) } else v) }
    else x.1))
  let s := if run.isSoft then addBalance s c.key.ctx (-(run.cost : Int)) else s
  startRun (s.setRuns (s.runs ++ [run])) run

/-- Step 4: commands join free slots, as far as slots and charges go; one whose deadline the boundary cannot meet commits LATE. -/
def joinAll : Nat → State → Nat → Nat → Nat → Bool → Route → State
  | 0, s, _, _, _, _, _ => s
  | n + 1, s, bi, ctx, model, quota, r =>
    match joinQueue s ctx model quota, s.batches[bi]? with
    | c :: _, some b =>
      if tooLate c r (stamp s) then joinAll n (fileStatus s c 0x40) bi ctx model quota r
      else match freeSlots b with
        | (g, i, u) :: _ => if covered263 s c r quota then joinAll n (joinSlot s bi c model r g i u) bi ctx model quota r else s
        | [] => s
    | _, _ => s

/-- Step 5: one more unit, placed as a berth of the group's class is, its facets leaving idle from this boundary on. -/
def addUnit (s : State) (bi ctx model : Nat) (quota : Bool) (r : Route) : Option State :=
  match joinQueue s ctx model quota with
  | [] => none
  | c :: _ =>
    let pat := ladderPattern (r.berthH * r.berthW)
    if !covered263 s c r quota || !patternFits s s.clk.chipAk pat then none
    else
      let found := if quota then (if quotaRoom s ctx (r.berthH * r.berthW) then quotaPlacement s r false c.avoid else none)
        else softPlacement s c r
      match found with
      | some (s, ⟨[b], ts, ps⟩) =>
        let ws := runWindows s ctx r [b] ps
        let u : BatchUnit := ⟨b, ts, ps, ws.map (·.1), List.replicate (2 * b.size) none⟩
        let s := reserve (openWins s ws) s.clk.chipAk pat
        let s := s.setBatches (s.batches.zipIdx.map (fun x => if x.2 = bi then { x.1 with units := x.1.units ++ [u] } else x.1))
        some (joinAll s.cmds.length s bi ctx model quota r)
      | _ => none

/-- Add units while commands remain and a placement exists. -/
def addUnits : Nat → State → Nat → Nat → Nat → Bool → Route → State
  | 0, s, _, _, _, _, _ => s
  | n + 1, s, bi, ctx, model, quota, r =>
    match addUnit s bi ctx model quota r with
    | some s => addUnits n s bi ctx model quota r
    | none => s

/-- The five steps at a boundary of a batch that runs. -/
def tickBatch (s : State) (bi : Nat) (b : Batch) (r : Route) : State :=
  let ks := batchKeys b
  let s := ks.foldl beginCommit s
  let s := ks.foldl leaveSlot s
  match s.batches[bi]? with
  | none => s
  | some b =>
    let s := releaseUnits s bi b
    if s.fleet.stopped then dropEmptyBatches s
    else
      let s := joinAll s.cmds.length s bi b.ctx b.model b.quota r
      dropEmptyBatches (addUnits s.cmds.length s bi b.ctx b.model b.quota r)

/-- BATCH_TICK: a tick boundary of the batch of a context, model and class group. With no such batch running, the boundary is the
first of a new one, on a ladder step. -/
def doBatchTick (s : State) (ctx model : Nat) (quota : Bool) : State :=
  match (modelOf s model).bind batchRoute with
  | none => s
  | some r =>
    if frozen s || !ready s then s
    else match batchOf s ctx model quota with
      | some (bi, b) => if r.iterAk ≠ 0 ∧ (s.clk.chipAk - b.origin) % r.iterAk = 0 then tickBatch s bi b r else s
      | none =>
        if s.clk.chipAk % 32 ≠ 0 ∨ (joinQueue s ctx model quota).isEmpty then s
        else
          let b : Batch := ⟨ctx, model, quota, s.clk.chipAk, []⟩
          let s := s.setBatches (s.batches ++ [b])
          tickBatch s (s.batches.length - 1) b r

def execBatchTick (ctx model : Nat) (quota : Bool) (s : State) : Res := .next (doBatchTick s ctx model quota)

end Sys2Proof.Machine
end

