-- ==== Sys2Proof/Machine/Fleet.lean ====
section
/-! DEFINITION. Fleets (14): HELLO and membership, RASTAN_SEND, RASTAN_FRAME_RECEIVE, retries, remote Beacon signals, timed
waits, the global stop and its end. -/

namespace Sys2Proof.Machine
open Sys2Proof

/-! ### Membership (14 R343) -/

/-- HELLO: every HELLO_US to each member, on the alternate port as well where ALT_EN is set. -/
def doHello (s : State) : State :=
  if !fleetOn s ∨ stamp s < s.fleet.helloAt then s
  else
    let s := (members s).foldl (fun s c =>
      let p := peerOf s c
      let f := { newFrame s .hello c with ack := p.applied }
      let s := putOnWire (setPeer s c { p with ackDue := false }) (peerPort s c false) f
      if altEn s c then putOnWire s (peerPort s c true) { f with alt := true } else s) s
    s.setFleet { s.fleet with helloAt := stamp s + helloTime s }

/-- A frame of a member arrives: it is UP from now, and a change raises a NOTICE. -/
def heardFrom (s : State) (c : Nat) : State :=
  let p := peerOf s c
  let s := setPeer s c { p with
    up := true, heard := stamp s, sent := if p.up then p.sent else p.sent.map (fun f => { f with retries := 0 }) }
  if p.up then s else raiseNotice s srcMember false { cls := 0, cause := 0x30, unitKind := 6, unitNo := c, detail := b1 c ++ b1 1 }

/-- The waiting remote BEACON_SIGNAL commands to a chip (09 R235). -/
def signalsTo (s : State) (c : Nat) : List Cmd :=
  s.cmds.filter (fun x => decide (opOf x.desc = 0x40) && decide (x.phase = .waiting) && decide (leField x.desc 35 1 % 32 = c))

/-- A signal that its member cannot receive: a COMMAND event, and a fault kill of the command (14 R346). -/
def signalLost (s : State) (k : CmdKey) (c : Nat) : State :=
  match findCmd s k with
  | some x => commandFault (putCmd s { x with phase := .ready }) k (b1 c ++ b1 0)
  | none => s

/-- MEMBER_DOWN: no frame within 3 × HELLO_US, or 8 retries without an ACK. Frames that have not started are discarded and
counted; a frame on the wire stays with its LSEQ until it is acknowledged, and ends no command then: a rerun sends anew (R346). -/
def doMemberDown (s : State) (c : Nat) : State :=
  let p := peerOf s c
  let now := stamp s
  let silent := decide (p.heard + 3 * helloTime s ≤ now)
  let tired := p.sent.any (fun f => f.started && decide (8 ≤ f.retries) && decide (f.at0 + retryTime s ≤ now))
  if !p.up || !fltEn s || !isMember s c || !(silent || tired) then s
  else
    let keep := p.sent.filter (fun f => f.started)
    let lost := p.sent.length - keep.length
    let s := setPeer s c { p with up := false, sent := keep.map (fun f => { f with key := none }), discarded := p.discarded + lost }
    let s := raiseNotice s srcMember false { cls := 0, cause := 0x30, unitKind := 6, unitNo := c, detail := b1 c ++ b1 0 }
    (signalsTo s c).foldl (fun s x => signalLost s x.key c) s

/-! ### Sending (14 R344, R346, R348) -/

/-- RASTAN_RETRY: a frame not acknowledged within RETRY goes out again with RETRY set, on PORT and ALT_PORT in turn. -/
def doRastanRetry (s : State) (c : Nat) (lseq : Word) : State :=
  let p := peerOf s c
  match p.sent.find? (fun f => f.started && decide (f.frame.lseq = lseq)) with
  | none => s
  | some f =>
    if !fleetOn s ∨ stamp s < f.at0 + retryTime s then s
    else
      let alt := altEn s c && !f.frame.alt
      let g := { f.frame with retry := true, alt := alt, ack := p.applied }
      let f' := { f with frame := g, retries := f.retries + 1, at0 := stamp s }
      let s := setPeer s c { p with
        ackDue := false, sent := p.sent.map (fun x => if x.started && decide (x.frame.lseq = lseq) then f' else x) }
      putOnWire (gcount s (0x400C + peerPort s c alt) 1) (peerPort s c alt) g

/-- Whole rows of Chart memory, counted as read (18 R413). -/
def readRows (s : State) (rows : List Nat) : State × List (List Byte) :=
  (rows.foldl (fun s a => if a < coreBase then gcount s (0x1000 + a / 0x1000000 % 16) 512 else gcount s 0x1020 512) s,
   rows.map (fun a => chartGet s a 512))

/-- WRITE frames of up to 8 rows each, from a byte offset in the window. -/
def writeFrames : Nat → RFrame → Nat → List (List Byte) → List RFrame
  | 0, _, _, _ => []
  | n + 1, f, off, rows =>
    match rows with
    | [] => []
    | _ => { f with addr := off, rows := rows.take 8 } :: writeFrames n f (off + 4096) (rows.drop 8)

/-- The trace record of a wait's start or end, from the lead conductor of its run (18 R416). -/
def traceWait (s : State) (r : Run) (kind flags arg0 arg1 : Nat) : State :=
  traceCmd s kind flags (leadSector r) ⟨r.key.ctx, r.key.ring, runSeq s r⟩ (s.clk.sectorAk.getD (leadSector r) 0) arg0 arg1

/-- The records of waits that begin. -/
def traceBegin (s : State) (r : Run) : RWait → State
  | .beacon b v _ => traceWait s r 0x10 0 (b % 32768 + 2 ^ 15) v.toNat
  | .fill w p _ _ => traceWait s r 0x13 0 (w % 1024 + p % 32 * 2 ^ 16) 0
  | .clock _ => s

/-- RASTAN_SEND: a route step queues the rows it reads, as WRITE frames at an offset in a window of a peer, then the Beacon that
it signals there, and begins the waits of a TIMED_WAIT. -/
def doRastanSend (s : State) (k : CmdKey) (peer win off : Nat) (rows : List Nat) (bcn : Option (Nat × Word × Bool))
    (waits : List RWait) : State :=
  match findRun s k with
  | none => s
  | some r =>
    if !working r ∨ !launched s r ∨ frozen s ∨ s.fleet.stopped ∨ suppressed s r then s
    else
      let (s, data) := readRows s rows
      let w := writeFrames (data.length + 1) { newFrame s .write peer with winId := win % 1024 } off data
      let b := match bcn with
        | some (n, v, raise) => [{ newFrame s .beacon peer with value := v, aux := n % 32768, raise := raise }]
        | none => []
      let frames := if isMember s peer && fltEn s then w ++ b else []
      let s := frames.foldl (fun s f => queueFrame s peer f (some k)) s
      let s := if frames.isEmpty then s
        else setPeer s peer { peerOf s peer with last := mset (peerOf s peer).last (win % 1024) (k, frames) }
      let sent := if frames.isEmpty then 0 else 512 * rows.length
      let s := waits.foldl (fun s x => traceBegin s r x) s
      putRun s { r with
        counts := { r.counts with rasSent := r.counts.rasSent + sent }, waits := r.waits ++ waits,
        waitAk := if r.waits.isEmpty then s.clk.chipAk else r.waitAk }

/-- BEACON_SIGNAL (09 R235, R243; 14 R346): a local signal acts in the Beacon step of its commit; a remote one is sent once every
earlier command of its ring has committed, and waits for the peer's ACK. -/
def doBeaconSignal (s : State) (k : CmdKey) : State :=
  match runnable s k 0x40 with
  | none => s
  | some c =>
    let dest := leField c.desc 35 1
    if !dest.testBit 7 then fileReq s c { plainReq s 0 0 0 0 0 with charge := c.chargeDue }
    else if !ringHead s k then s
    else
      let p := dest % 32
      if !(isMember s p && (peerOf s p).up && fltEn s) then commandFault (putCmd s { c with phase := .ready }) k (b1 p ++ b1 0)
      else
        let f := { newFrame s .beacon p with
          value := BitVec.ofNat 32 (leField c.desc 40 4), aux := leField c.desc 36 2 % 32768,
          raise := decide (leField c.desc 34 1 = 1) }
        queueFrame (putCmd s { c with phase := .waiting, since := stamp s }) p f (some k)

/-! ### Receiving (14 R341 to R347) -/

/-- Does a received frame fail the checks of 14 R341? -/
def dropped (s : State) (f : RFrame) (wire : RWire) : Bool :=
  decide (wire ≠ .good) || decide (f.fleet ≠ fleetId s) || !isMember s f.src || (decide (f.dst ≠ chipId s) && !f.all)

/-- The commands that a received ACK ends: remote signals whose frame it covers (14 R346). -/
def ackSignals (s : State) (fs : List SentFrame) : State :=
  fs.foldl (fun s f =>
    match f.frame.kind, f.key with
    | .beacon, some k =>
      (match findCmd s k with
       | some c => if opOf c.desc = 0x40 ∧ c.phase = .waiting then fileReq s c { plainReq s 0 0 0 0 0 with charge := c.chargeDue } else s
       | none => s)
    | _, _ => s) s

/-- Take the ACK field of a frame: every started frame at or below it is done. -/
def takeAck (s : State) (c : Nat) (ack : Word) : State :=
  let p := peerOf s c
  let hit (f : SentFrame) : Bool := f.started && !ahead f.frame.lseq ack
  ackSignals (setPeer s c { p with sent := p.sent.filter (fun f => !hit f) }) (p.sent.filter hit)

/-- A REFUSED frame to the sender of a frame, which it names by its LSEQ. -/
def refuse (s : State) (f : RFrame) (reason : Nat) : State :=
  queueFrame s f.src { newFrame s .refused f.src with winId := f.winId, reason := reason, addr := f.lseq.toNat } none

/-- The runs that own a window count the rows that a peer wrote into it, and their waits for it. -/
def countFill (s : State) (win peer rows : Nat) : State :=
  s.setRuns (s.runs.map (fun r =>
    if r.wins.contains win then
      { r with
        counts := { r.counts with rasRecv := r.counts.rasRecv + 512 * rows }
        waits := r.waits.map (fun x => match x with
          | .fill w p n g => if w = win ∧ p = peer then .fill w p n (g + rows) else x
          | _ => x) }
    else r))

/-- A WRITE (14 R345): every row must be admitted, for the writer 0x3000 + SRC, at BASE of its window plus ADDR. -/
def applyWrite (s : State) (f : RFrame) : State :=
  let w := winOf s f.winId
  let writer := 0x3000 + f.src
  let at0 (i : Nat) : Nat := w.base + f.addr + 512 * i
  let rows := f.rows.zipIdx
  match rows.find? (fun x => !admits s (at0 x.2) writer false) with
  | some x =>
    let inWin := w.isOpen && w.writers.contains writer && !winExpired s w
    refuse (countRefused s (at0 x.2)) f (if inWin then 3 else 1)
  | none => countFill (rows.foldl (fun s x => admitRow s (at0 x.2) writer x.1) s) f.winId f.src rows.length

/-- Has every row of a peer's earlier WRITEs held its bank cycle (14 R347)? -/
def rowsLanded (s : State) (c : Nat) : Bool := s.chart.admitted.all (fun w => decide (w.writer ≠ 0x3000 + c))

/-- A BEACON (14 R346): in FLT_BCN_RANGE it takes effect, with its trace record from the port; else it is refused. -/
def applyBeacon (s : State) (port : Nat) (f : RFrame) : State :=
  let v := rget s 0xA000C
  let b := f.aux % 32768
  if v.testBit 31 ∧ v % 2 ^ 15 ≤ b ∧ b ≤ nbits v 30 16 then
    let s := trace s ⟨0x12, 2, 0x18 + port % 4, 0, 0, stampR s, s.clk.chipAk % 2 ^ 32, signalArg s b f.value f.raise,
                      (beaconNext s b f.value f.raise).toNat⟩
    signalBeacon s b f.value f.raise f.src f.lseq true
  else refuse s f 2

/-- An ASK (14 R351): what the command that last sent to that window sent there goes out again while it runs. -/
def applyAsk (s : State) (f : RFrame) : State :=
  match mget (peerOf s f.src).last f.winId with
  | some (k, frames) =>
    (match findRun s k with
     | some r => if launched s r ∧ r.phase ≠ .done then frames.foldl (fun s g => queueFrame s f.src g (some k)) s else s
     | none => s)
  | none => s

/-- Arm a stop; the earlier of two governs (14 R354). -/
def armStop (s : State) (t : Mer) (streams : Bool) : State :=
  match s.fleet.stop with
  | some (u, _) => if u ≤ t then s else s.setFleet { s.fleet with stop := some (t, streams), reached := none }
  | none => s.setFleet { s.fleet with stop := some (t, streams), reached := none }

/-- The AK cycle whose stamp first reaches T_stop is noted (14 R353). -/
def noteStop (s : State) : State :=
  match s.fleet.stop, s.fleet.reached with
  | some (t, _), none => if t ≤ stamp s then s.setFleet { s.fleet with reached := some s.clk.chipAk } else s
  | _, _ => s

/-- The slot that a stopped facet of a command's berth leaves in the scan area (18 R423). -/
def heldSlot (s : State) (g org : Nat) (k : CmdKey) (ak : Nat) (late : Bool) (place : Nat × Nat) : ScanSlot :=
  let slotKey := facetKey (match findRun s k with | some r => runSlot r | none => 0) g
  { held := true, lateStop := late, origin := org, ctx := ctxWord k, seq := k.seq, stop := stampR s, ak := ak % 2 ^ 32,
    step := place.1, routeAddr := place.2, index := s.pel.stopIndex,
    acc := (s.rose.acc.filter (fun e => decide (e.1 / 1024 = slotKey))).map (fun e => (e.1 % 1024, e.2))
    panel := (s.rose.panel.filter (fun e => decide (e.1 / 1024 = slotKey))).map (fun e => (e.1 % 1024, e.2)) }

/-- The slot of a facet that held no stopped berth: it keeps its body. -/
def freeSlotOf (s : State) (g : Nat) (late : Bool) : ScanSlot :=
  let old := mget s.pel.scan g
  { held := false, lateStop := late, origin := 0, ctx := 0, seq := 0, stop := stampR s, ak := 0, step := 0, routeAddr := 0,
    index := s.pel.stopIndex, acc := (match old with | some o => o.acc | none => []),
    panel := (match old with | some o => o.panel | none => []) }

/-- Is a run stopped by a global stop: one that holds its berth, a binding's only with STREAMS? -/
def stopsRun (s : State) (streams : Bool) (r : Run) : Bool :=
  decide (r.phase ≠ .done) && decide (r.commitAt ≠ some s.clk.chipAk) && (r.stream.isNone || streams)

/-- The berth that a facet holds when a stop acts: its origin, the command, and the AK cycles since its launch. -/
def stoppedAt (s : State) (streams : Bool) (g : Nat) : Option (Nat × CmdKey × Nat) :=
  match s.runs.find? (fun r => stopsRun s streams r && (runFacets r).contains g) with
  | some r => some ((match r.berths.find? (fun b => b.facets.contains g) with | some b => b.origin | none => 0), 
                    ⟨r.key.ctx, r.key.ring, runSeq s r⟩, sinceLaunch s r)
  | none =>
    match s.streams.find? (fun e => streams && !e.2.suspended && !e.2.failed && e.2.berth.facets.contains g) with
    | some e => some (e.2.berth.origin, e.2.key, s.clk.chipAk - e.2.startAk)
    | none =>
      match ((s.batches.map (·.units)).flatten).find? (fun u => u.berth.facets.contains g) with
      | some u => some (u.berth.origin, ((u.slots.filterMap id).headD ⟨0, 0, 0⟩), 0)
      | none => none

/-- An armed TIMED_LAUNCH that has not reached S waits to arm again. -/
def disarmLaunches (s : State) : State :=
  let s := s.helm.armed.foldl (fun s a => match findCmd s a.key with
    | some c => putCmd s { c with phase := .waiting }
    | none => s) s
  s.setHelm { s.helm with armed := [] }

/-- The stop acts (14 R353, R354): the scan area, the kills, STOPPED, the trace record. `places` gives, by facet, the route step
in execution and its Chart address. -/
def actStop (s : State) (streams late : Bool) (places : List (Nat × Nat × Nat)) : State :=
  let s := s.setPel { s.pel with stopIndex := s.pel.stopIndex + 1, scanning := true }
  let scan := (List.range 256).map (fun g => (g, match stoppedAt s streams g with
    | some (org, k, ak) => heldSlot s g org k ak late (((places.find? (fun p => decide (p.1 = g))).map (·.2)).getD (0, 0))
    | none => freeSlotOf s g late))
  let held := (scan.filter (fun x => x.2.held)).length
  let s := s.setPel { s.pel with scan := scan }
  let s := trace s ⟨0x33, 0, 0x20, 0, 0, stampR s, s.clk.chipAk % 2 ^ 32, s.pel.stopIndex % 2 ^ 32, held⟩
  let s := disarmLaunches (killBatches s (fun _ => true) causeStop)
  let s := killRuns s (fun r => r.stream.isNone || streams) causeStop
  let s := if streams then (s.streams.map (·.1)).foldl (fun s n => failStream s n 3) s else s
  s.setFleet { s.fleet with stop := none, reached := none, stopped := true }

/-- A STOP arrives (14 R353, R354). -/
def applyStop (s : State) (f : RFrame) : State :=
  let t := completeTime s f.aux f.value.toNat
  if s.fleet.stopped then s
  else if t < stamp s then actStop (rflag s 0xA0008 27) f.streams true []
  else armStop s t f.streams

/-- The chip leaves STOPPED and fetches on (14 R355). -/
def endStop (s : State) : State :=
  if s.fleet.stopped then
    let s := s.setFleet { s.fleet with stopped := false }
    (s.helm.ctxs.map (·.1)).foldl pumpCtx s
  else s

/-- A REFUSED frame (14 R345, R346): counted against the member and the window; a refused Beacon of a BEACON_SIGNAL is a COMMAND
event, and the command commits FAILED_FAULT. -/
def applyRefused (s : State) (f : RFrame) : State :=
  let p := peerOf s f.src
  let s := if f.reason = 2 then s else setPeer s f.src { p with refused := mupd p.refused f.winId 0 (· + 1) }
  match (p.sent.find? (fun x => x.started && decide (x.frame.lseq.toNat = f.addr))).bind (·.key) with
  | some k =>
    (match findCmd s k with
     | some c =>
       if f.reason = 2 ∧ opOf c.desc = 0x40 ∧ c.phase = .waiting then
         let idx := s.log.next
         let s := raiseEvent s { cls := 2, cause := 0x21, key := some k, detail := b1 f.src ++ b1 f.reason }
         fileFault s c idx
       else s
     | none => s)
  | none => s

/-- What a frame does when its turn comes. -/
def applyFrame (s : State) (port : Nat) (f : RFrame) : State :=
  match f.kind with
  | .write => applyWrite s f
  | .beacon => applyBeacon s port f
  | .ask => applyAsk s f
  | .stop => applyStop s f
  | .resume => endStop s
  | .refused => applyRefused s f
  | .hello | .ack => s

/-- Apply held frames of a peer in LSEQ order, as far as they reach: a BEACON waits for the rows before it (14 R344, R347). -/
def drainHeld : Nat → State → Nat → State
  | 0, s, _ => s
  | n + 1, s, c =>
    let p := peerOf s c
    match p.held.find? (fun f => decide (f.lseq = p.applied + 1)) with
    | none => s
    | some f =>
      if f.kind = .beacon ∧ !rowsLanded s c then s
      else
        let s := setPeer s c { p with
          applied := f.lseq, ackDue := true, held := p.held.filter (fun g => !(decide (g.lseq = f.lseq))) }
        drainHeld n (applyFrame s (peerPort s c f.alt) f) c

/-- Every peer's held frames, as far as they reach. -/
def drainPeers (s : State) : State := (s.fleet.peers.map (·.1)).foldl (fun s c => drainHeld 34 s c) s

/-- Take a sequenced frame: one already applied is only acknowledged again; any other waits for its turn among the held frames,
of which up to 32 lie after a gap. -/
def takeSequenced (s : State) (f : RFrame) : State :=
  let p := peerOf s f.src
  if !ahead f.lseq p.applied then setPeer s f.src { p with ackDue := true }
  else if p.held.any (fun g => decide (g.lseq = f.lseq)) then s
  else if decide (f.lseq ≠ p.applied + 1) && decide (32 ≤ (p.held.filter (fun g => decide (g.lseq ≠ p.applied + 1))).length) then s
  else drainHeld 34 (setPeer s f.src { p with held := p.held ++ [f] }) f.src

/-- RASTAN_FRAME_RECEIVE: a frame at a port. One addressed to every member on another pair's sequence, STOP or RESUME, acts at once. -/
def doRastanFrameReceive (s : State) (port : Nat) (f : RFrame) (wire : RWire) : State :=
  if !fleetOn s ∨ !ethOn s port then s
  else
    let s := gcount s (0x4004 + port % 4) (frameBytes f)
    if dropped s f wire then gcount s (0x4008 + port % 4) 1
    else
      let s := heardFrom s f.src
      let mine := decide (f.dst = chipId s)
      if !mine then (if f.kind = .stop ∨ f.kind = .resume then applyFrame s port f else s)
      else
        match f.kind with
        | .hello | .ack => takeAck s f.src f.ack
        | .refused => takeAck (takeSequenced s f) f.src f.ack
        | _ => takeSequenced (takeAck s f.src f.ack) f

/-! ### Timed waits (11 R278; 14 R350, R352) -/

/-- A run's waits end at this AK cycle: what is left of its iteration starts now (11 R280). -/
def resumeRun (s : State) (r : Run) : Run := { r with waits := [], phaseEnd := r.phaseEnd + (s.clk.chipAk - r.waitAk) }

/-- Has a wait been met: for a Beacon, in the fourth AK cycle after the one in which it took effect; for rows, when they hold their
bank cycles? -/
def waitDone (s : State) : RWait → Bool
  | .beacon _ _ met => (match met with | some a => decide (a + 4 ≤ s.clk.chipAk) | none => false)
  | .fill _ p n g => decide (n ≤ g) && rowsLanded s p
  | .clock t => decide (t ≤ stamp s)

/-- A Beacon wait notes the AK cycle in which its value is met. -/
def noteMet (s : State) : RWait → RWait
  | .beacon b v none => if beaconOf s b = v || ahead (beaconOf s b) v then .beacon b v (some s.clk.chipAk) else .beacon b v none
  | x => x

/-- The record of a wait that ends met (18 R416). -/
def traceEnd (s : State) (r : Run) : RWait → State
  | .beacon b _ _ =>
    let (who, seq, remote) := signaller s b
    traceWait s r 0x11 (bitAt remote 1) (b % 32768 + who * 2 ^ 16) seq.toNat
  | .fill w p _ g => traceWait s r 0x14 0 (w % 1024 + p % 32 * 2 ^ 16) g
  | .clock _ => s

/-- The waits of a run in this AK cycle. -/
def settleRun (s : State) (r : Run) : State :=
  if r.waits.isEmpty || !working r then s
  else
    let ws := r.waits.map (noteMet s)
    let s := (ws.filter (waitDone s)).foldl (fun s x => traceEnd s r x) s
    let left := ws.filter (fun x => !waitDone s x)
    putRun s (if left.isEmpty then resumeRun s r else { r with waits := left })

/-- The waits of every run. -/
def settleWaits (s : State) : State := s.runs.foldl settleRun s

/-- The record of a wait whose limit is reached. -/
def traceLimit (s : State) (r : Run) : RWait → State
  | .beacon b _ _ => traceWait s r 0x11 1 (b % 32768) (beaconOf s b).toNat
  | .fill w p _ g => traceWait s r 0x14 1 (w % 1024 + p % 32 * 2 ^ 16) g
  | .clock _ => s

/-- TIMED_WAIT_LIMIT: the route goes on with what is there. -/
def doTimedWaitLimit (s : State) (k : CmdKey) : State :=
  match findRun s k with
  | some r =>
    if r.waits.isEmpty || !working r || frozen s then s
    else putRun (r.waits.foldl (fun s x => traceLimit s r x) s) (resumeRun s r)
  | none => s

/-! ### The global stop (14 R353 to R355) -/

/-- A frame to every member, with ALL set. -/
def toAll (s : State) (kind : RType) (g : RFrame → RFrame) : State :=
  (members s).foldl (fun s c => queueFrame s c (g { newFrame s kind c with all := true }) none) s

/-- A stop request: T_stop is now plus LEAD_US. -/
def requestStop (s : State) : State :=
  let v := rget s 0xA0008
  let t := stampR s + nbits v 15 0 * usU
  let t := t / nsU * nsU
  let streams := v.testBit 29
  let s := toAll s .stop (fun f => { f with value := BitVec.ofNat 32 (merNs t), aux := merSec t % 2 ^ 32, streams := streams })
  if s.fleet.stopped then s else armStop s t streams

/-- A write of FLT_STOP by the physical function: STREAMS and LEAD_US (0 leaves it), the clear of LATE_STOP, then RESUME and REQ. -/
def fltStopWrite (s : State) (w : Word) : State :=
  let v := rget s 0xA0008
  let lead := bits w 15 0
  let v := maskIn v w.toNat (2 ^ 29 + (if lead = 0 then 0 else 0xFFFF))
  let v := if bit w 27 then maskIn v 0 (2 ^ 27) else v
  let s := rput s 0xA0008 v
  let s := if bit w 30 ∧ fltEn s then endStop (toAll s .resume id) else s
  if bit w 31 ∧ fltEn s then requestStop s else s

/-- GLOBAL_STOP_REQUEST: a write of REQ. -/
def doGlobalStopRequest (s : State) (w : Word) : State := if bit w 31 ∧ pfOpen s then fltStopWrite s w else s

/-- GLOBAL_RESUME: a write of RESUME. -/
def doGlobalResume (s : State) (w : Word) : State := if bit w 30 ∧ pfOpen s then fltStopWrite s w else s

/-- GLOBAL_STOP: the armed stop acts, within 24 AK cycles after the one whose stamp first reached T_stop. -/
def doGlobalStop (s : State) (places : List (Nat × Nat × Nat)) : State :=
  match s.fleet.stop, s.fleet.reached with
  | some (_, streams), some a => if a + 24 < s.clk.chipAk ∨ s.fleet.stopped ∨ frozen s then s else actStop s streams false places
  | _, _ => s

/-- SCAN_OUT_END: every slot has been written to the Wake region: whole ones for held facets, headers for the others. -/
def doScanOutEnd (s : State) : State :=
  if s.pel.scanning then
    let held := (s.pel.scan.filter (fun x => x.2.held)).length
    gcount (s.setPel { s.pel with scanning := false }) 0x2005 (held * 16704 + (256 - held) * 64)
  else s

def execBeaconSignal (k : CmdKey) (s : State) : Res := .next (doBeaconSignal s k)
def execHello (s : State) : Res := .next (doHello s)
def execRastanFrameReceive (port : Nat) (f : RFrame) (wire : RWire) (s : State) : Res := .next (doRastanFrameReceive s port f wire)
def execRastanRetry (c : Nat) (lseq : Word) (s : State) : Res := .next (doRastanRetry s c lseq)
def execMemberDown (c : Nat) (s : State) : Res := .next (doMemberDown s c)
def execTimedWaitLimit (k : CmdKey) (s : State) : Res := .next (doTimedWaitLimit s k)
def execGlobalStopRequest (w : Word) (s : State) : Res := .next (doGlobalStopRequest s w)
def execGlobalStop (places : List (Nat × Nat × Nat)) (s : State) : Res := .next (doGlobalStop s places)
def execScanOutEnd (s : State) : Res := .next (doScanOutEnd s)
def execGlobalResume (w : Word) (s : State) : Res := .next (doGlobalResume s w)
def execRastanSend (k : CmdKey) (peer win off : Nat) (rows : List Nat) (bcn : Option (Nat × Word × Bool)) (waits : List RWait) (s : State) : Res := .next (doRastanSend s k peer win off rows bcn waits)

end Sys2Proof.Machine
end

