-- ==== Sys2Proof/Machine/HelmDebug.lean ====
section
/-! DEFINITION. Helm breakpoints (18 R422; 16 R377): HELM_BREAKPOINT, HALT, RESUME and HELM_HALTED. -/

namespace Sys2Proof.Machine
open Sys2Proof

/-- Update a Helm core. -/
def updCore (s : State) (core : Nat) (f : HelmCore → HelmCore) : State := s.setHelm { s.helm with cores := lupd s.helm.cores core f }

/-- Is an address an enabled breakpoint of a core? -/
def breaksAt (s : State) (core : Nat) (pc : Word64) : Bool :=
  (List.range 8).any (fun b =>
    let lo := rget s (0x10400 + 64 * core + 8 * b)
    lo.testBit 0 && decide (rget s (0x10404 + 64 * core + 8 * b) = pc.toNat / 2 ^ 32) && decide (lo / 4 = pc.toNat % 2 ^ 32 / 4))

/-- Does a core run: in service, neither halted nor draining? -/
def coreRuns (c : HelmCore) : Bool := c.ok && !c.halted && !c.draining

/-- HELM_BREAKPOINT: a running core reaches an enabled address while DEBUG_EN is 1: it drains. -/
def doHelmBreakpoint (s : State) (core : Nat) (pc : Word64) : State :=
  if core < 8 ∧ debugEn s ∧ ready s ∧ breaksAt s core pc then
    updCore s core (fun c => if coreRuns c then { c with draining := true, pc := some pc } else c)
  else s

/-- The trace record of a halt or a resumption: the program counter (18 R416). -/
def traceCore (s : State) (kind core : Nat) (pc : Word64) : State :=
  trace s ⟨kind, 0, 0x10 + core % 8, 0, 0, stampR s, s.clk.chipAk % 2 ^ 32, pc.toNat % 2 ^ 32, pc.toNat / 2 ^ 32⟩

/-- A halted core runs on: its rings fetch again. -/
def resumeCore (s : State) (core : Nat) : State :=
  match s.helm.cores[core]? with
  | none => s
  | some c =>
    if !c.halted then s
    else
      let s := traceCore s 0x32 core (c.pc.getD 0)
      let s := updCore s core (fun c => { c with halted := false, resumeDue := false, pc := none, heartbeat := s.clk.shadow })
      (s.helm.ctxs.map (·.1)).foldl pumpCtx s

/-- A write of HELM_DBG_CTL: CORES; HALT while DEBUG_EN is 1; RESUME, which for a core that drains takes effect when it halts. -/
def dbgWrite (s : State) (w : Word) : State :=
  let mask := bits w 7 0
  let cores := (List.range 8).filter (fun i => mask.testBit i)
  let s := rput s 0x10600 mask
  let s := if bit w 30 ∧ debugEn s then
      cores.foldl (fun s i => updCore s i (fun c => if coreRuns c then { c with draining := true, pc := none } else c)) s
    else s
  if bit w 31 then
    cores.foldl (fun s i => resumeCore (updCore s i (fun c => if c.draining then { c with resumeDue := true } else c)) i) s
  else s

/-- HALT: a write of HELM_DBG_CTL with HALT. -/
def doHalt (s : State) (w : Word) : State := if bit w 30 ∧ (s.boot.state = 1 ∨ s.boot.state = 3) then dbgWrite s w else s

/-- RESUME: a write of HELM_DBG_CTL with RESUME. -/
def doResume (s : State) (w : Word) : State := if bit w 31 ∧ (s.boot.state = 1 ∨ s.boot.state = 3) then dbgWrite s w else s

/-- HELM_HALTED: a draining core has halted before the instruction at its breakpoint, or at `pc` for a HALT. -/
def doHelmHalted (s : State) (core : Nat) (pc : Word64) : State :=
  match s.helm.cores[core]? with
  | none => s
  | some c =>
    if !c.draining then s
    else
      let at0 := c.pc.getD pc
      let s := traceCore (updCore s core (fun c => { c with draining := false, halted := true, pc := some at0 })) 0x31 core at0
      if c.resumeDue then resumeCore s core else s

def execHelmBreakpoint (core : Nat) (pc : Word64) (s : State) : Res := .next (doHelmBreakpoint s core pc)
def execHelmHalt (w : Word) (s : State) : Res := .next (doHalt s w)
def execHelmResume (w : Word) (s : State) : Res := .next (doResume s w)
def execHelmHalted (core : Nat) (pc : Word64) (s : State) : Res := .next (doHelmHalted s core pc)

end Sys2Proof.Machine
end

