-- ==== Sys2Proof/Machine/Meridian.lean ====
section
/-! DEFINITION. Meridian time (13): MER_CTL with its SNAP, SET and SWITCH, the servo on samples and delay measurements, HOLDOVER and
switchover, PTP stamps, pulse outputs, capture inputs, the read of MER_NOW, and what an MK edge does. Offsets are in 2^-16 ns. -/

namespace Sys2Proof.Machine
open Sys2Proof

/-! ### Fields -/

/-- MER_SRC_CFG of a slot. -/
def srcCfg (s : State) (i : Nat) : Nat := rget s (0x90020 + 4 * i)
/-- Is a slot enabled? -/
def srcEn (s : State) (i : Nat) : Bool := (srcCfg s i).testBit 31
/-- A slot's sync interval (13 R328): 2^(LOG_SYNC − 8) s. -/
def syncInterval (s : State) (i : Nat) : Mer := secU * 2 ^ nbits (srcCfg s i) 19 16 / 256
/-- The index of the primary slot. -/
def primary (s : State) : Nat := bitAt s.ms.primaryB 0
/-- SERVO_EN and STEP_EN of MER_CTL. -/
def servoEn (s : State) : Bool := (rget s 0x90000).testBit 1
def stepEn (s : State) : Bool := (rget s 0x90000).testBit 2
/-- LOCK_NS, STEP_US, OFFSET_STEP, DELAY_STEP and CONSIST, in 2^-16 ns. -/
def lockNs (s : State) : Nat := nbits (rget s 0x90030) 15 8 * 2 ^ 16
def stepUs (s : State) : Nat := nbits (rget s 0x90030) 7 0 * 1000 * 2 ^ 16
def offsetStep (s : State) : Nat := nbits (rget s 0x90034) 19 10 * 10 * 2 ^ 16
def delayStep (s : State) : Nat := nbits (rget s 0x90034) 29 20 * 10 * 2 ^ 16
def consistWin (s : State) : Nat := nbits (rget s 0x90034) 9 0 * 10 * 2 ^ 16
/-- A two's-complement correction register of a port (13 R325): ingress latency 0, egress latency 1, asymmetry 2. -/
def portCorr (s : State) (p k : Nat) : Int := (BitVec.ofNat 32 (rget s (0x90040 + 16 * p + 4 * k))).toInt
/-- The port of a slot. -/
def srcPort (s : State) (i : Nat) : Nat := nbits (srcCfg s i) 9 8

/-- Replace a slot. -/
def updSlot (s : State) (i : Nat) (f : Slot → Slot) : State := s.setMs { s.ms with slots := lupd s.ms.slots i f }

/-- y in units of 2^-32 ns per MK edge, for a number of ppm (13 R315). -/
def ppm (n : Nat) : Int := 5 * (nsU : Int) * n / 1000000

/-- Clip to ± a limit. -/
def clip (x lim : Int) : Int := if x < -lim then -lim else if lim < x then lim else x

/-- θ × 2^-shift per sample interval, as a change of INC per MK edge (13 R330). -/
def perEdge (s : State) (i : Nat) (theta : Int) (shift : Nat) : Int :=
  theta * 2 ^ 24 / ((2 : Int) ^ shift * 200000000 * 2 ^ nbits (srcCfg s i) 19 16)

/-! ### States (13 R329, R332) -/

/-- TRACEABLE follows the state: a fall sets HOLD_LIMIT and is told to the Binnacle. -/
def setTrace (s : State) (t : Bool) : State :=
  if s.ms.traceable && !t then
    let s := rflag (s.setMs { s.ms with traceable := false }) 0x90004 5
    s.setBin { s.bin with traceFell := true }
  else if t then (s.setMs { s.ms with traceable := true }).setBin { s.bin with noLateMer := false }
  else s

/-- Enter a servo state. -/
def enterServo (s : State) (v : Servo) : State :=
  let s := s.setMs { s.ms with servo := v }
  match v with
  | .free => setTrace (s.setMs { s.ms with phase := 0, hits := 0, slewLeft := 0 }) false
  | .acquire => setTrace (s.setMs { s.ms with hits := 0, slewLeft := 0 }) false
  | .locked => setTrace (s.setMs { s.ms with phase := clip s.ms.phase (ppm 100), slewLeft := 0 }) true
  | .slewing => setTrace (s.setMs { s.ms with phase := 0 }) true
  | .holdover => s.setMs { s.ms with phase := 0, slewLeft := 0, holdSince := s.clk.mer }

/-- The secondary is consistent: its last 4 samples within CONSIST, the newest no older than 2 of its sync intervals (13 R333). -/
def consistent (s : State) : Bool :=
  let i := 1 - primary s
  match s.ms.slots[i]? with
  | none => false
  | some x =>
    srcEn s i && decide (x.samples.length = 4) && x.samples.all (fun e => decide (e.2.natAbs ≤ consistWin s)) &&
    (match x.lastAt with | some t => decide (s.clk.mer ≤ t + 2 * syncInterval s i) | none => false)

/-- Decide a switchover for the next MK edge. -/
def askSwitch (s : State) : State := if consistent s then s.setMs { s.ms with switchDue := true } else s

/-- The mean of the frequency terms over the primary's last 16 samples. -/
def meanFreq (s : State) : Int :=
  match s.ms.freqHist with
  | [] => s.ms.freq
  | h => h.foldl (· + ·) 0 / h.length

/-- Enter HOLDOVER: the frequency term frozen at its mean, held samples discarded, R333 applied. -/
def enterHoldover (s : State) : State :=
  let s := enterServo (s.setMs { s.ms with freq := meanFreq s }) .holdover
  let s := s.setMs { s.ms with slots := s.ms.slots.map (fun x => { x with held := [], outCount := 0, within := 0 }) }
  askSwitch s

/-- The servo after a change of MER_CTL or MER_SRC_CFG: FREE with SERVO_EN 0 or no slot enabled; HOLDOVER when software has disabled the
primary slot. -/
def servoCheck (s : State) : State :=
  if !servoEn s || !(srcEn s 0 || srcEn s 1) then (if s.ms.servo = .free then s else enterServo s .free)
  else if !srcEn s (primary s) && (decide (s.ms.servo = .locked) || decide (s.ms.servo = .slewing)) then enterHoldover s
  else s

/-! ### Steps (13 R317, R331, R337, R339) -/

/-- May Meridian time step: STEP_EN, no accepted FIRM or SAFE command with a Meridian deadline, no uncommitted TIMED_LAUNCH, no bound
stream? -/
def stepOk (s : State) : Bool :=
  stepEn s && s.streams.isEmpty &&
  !s.cmds.any (fun c => decide (opOf c.desc = 0x30) || (c.deadline.isSome && isSolve c.desc && decide (dClass c.desc ≠ 0)))

/-- The registers of output n. -/
def outReg (n k : Nat) : Nat := 0x90080 + 32 * n + 4 * k

/-- MODE periodic, and the period and width of output n, in Meridian units. -/
def outPeriodic (s : State) (n : Nat) : Bool := (rget s (outReg n 0)).testBit 30
def outWidth (s : State) (n : Nat) : Mer := rget s (outReg n 0) % 2 ^ 16 * 5 * nsU

/-- E_k of an output (13 R336). -/
def edgeTime (x : PulseOut) (k : Nat) : Mer := x.start + k * x.period

/-- The first k from nextK on with E_k at or after a time. -/
def nextEdge (x : PulseOut) (t : Mer) : Nat :=
  if t ≤ edgeTime x x.nextK ∨ x.period = 0 then x.nextK else ceilDiv (t - x.start) x.period

/-- Clear ARM of an output. -/
def disarm (s : State) (n : Nat) : State :=
  let s := rput s (outReg n 0) (rget s (outReg n 0) % 2 ^ 31)
  s.setMs { s.ms with outs := lupd s.ms.outs n (fun x => { x with armed := false }) }

/-- Count missed edges of an output. -/
def missEdges (s : State) (n k : Nat) : State := if k = 0 then s else rcount (rflag s (outReg n 0) 28) (outReg n 4) 31 0 k

/-- A step forward passes edges of one output. -/
def stepOut (s : State) (n : Nat) : State :=
  match s.ms.outs[n]? with
  | none => s
  | some x =>
    if !x.armed then s
    else if outPeriodic s n then
      let k := nextEdge x s.clk.mer
      missEdges (s.setMs { s.ms with outs := lset s.ms.outs n { x with nextK := k } }) n (k - x.nextK)
    else if edgeTime x 0 < s.clk.mer ∧ x.nextK = 0 then missEdges (disarm s n) n 1
    else s

/-- Load a stepped Meridian value. -/
def stepTo (s : State) (t : Mer) : State :=
  let fwd := decide (s.clk.mer < t)
  let s := rflag (s.setClk { s.clk with mer := t }) 0x90004 4
  if fwd then (List.range 8).foldl stepOut s else s

/-! ### MER_CTL (13 R317, R318, R333) -/

/-- The value staged in the MER_SNAP_ registers. -/
def stagedMer (s : State) : Mer :=
  merOf (rget s 0x90008 + 2 ^ 32 * rget s 0x9000C) (rget s 0x90010) (rget s 0x90014)

/-- SET: at the next MK edge, in FREE, under the step conditions, with a valid NS; else SET_REFUSED. -/
def askSet (s : State) : State :=
  if s.ms.servo = .free ∧ stepOk s ∧ rget s 0x90010 < 1000000000 then s.setMs { s.ms with setDue := some (stagedMer s) }
  else rflag s 0x90004 0

/-- SWITCH: only with a consistent secondary. -/
def requestSwitch (s : State) : State := if consistent s then s.setMs { s.ms with switchDue := true } else rflag s 0x90004 0

/-- A write of MER_CTL. -/
def merCtl (s : State) (w : Word) : State :=
  let s := servoCheck (rput s 0x90000 (w.toNat &&& 6))
  let s := if bit w 31 then s.setMs { s.ms with snapDue := true } else s
  let s := if bit w 30 then askSet s else s
  if bit w 29 then requestSwitch s else s

/-- SNAP: a write of MER_CTL with SNAP. -/
def doSnap (s : State) (w : Word) : State := if pfOpen s ∧ bit w 31 then merCtl s w else s
/-- SET: a write of MER_CTL with SET. -/
def doSet (s : State) (w : Word) : State := if pfOpen s ∧ bit w 30 then merCtl s w else s
/-- SWITCH: a write of MER_CTL with SWITCH. -/
def doSwitch (s : State) (w : Word) : State := if pfOpen s ∧ bit w 29 then merCtl s w else s

/-- MER_NOW_READ: a read of MER_NOW_SEC_LO latches the path's other three words (20 R447). -/
def doMerNowRead (s : State) (path : Nat) : State :=
  if !pathOpen s path then s
  else
    let t := s.clk.mer
    let s := regPut s path 0x90304 (merSec t / 2 ^ 32)
    let s := regPut s path 0x90308 (merNs t)
    let s := regPut s path 0x9030C (merFrac t)
    emit s (.regRead path 0x90300 (BitVec.ofNat 32 (merSec t)))

/-! ### Samples (13 R328 to R334) -/

/-- What the servo predicts of the next offset: nothing, or in SLEWING what is left to remove. -/
def predicted (s : State) : Int := if s.ms.servo = .slewing then s.ms.slewLeft / 2 ^ 16 else 0

/-- The frequency and phase terms after an accepted sample (13 R330). -/
def steer (s : State) (i : Nat) (theta : Int) (lim : Int) : State :=
  let v := rget s 0x90030
  let freq := clip (s.ms.freq - perEdge s i theta (nbits v 27 24)) (ppm 300)
  let hist := s.ms.freqHist ++ [freq]
  s.setMs { s.ms with
    phase := clip (-(perEdge s i theta (nbits v 31 28))) lim, freq := freq,
    freqHist := hist.drop (hist.length - 16) }

/-- An accepted primary sample in ACQUIRE: a step when R331 allows one, else a slew; 8 in a row within LOCK_NS lock. -/
def acquireSample (s : State) (i : Nat) (theta : Int) : State :=
  if stepUs s < theta.natAbs ∧ stepOk s then s.setMs { s.ms with stepDue := some (-theta * 2 ^ 16), hits := 0, phase := 0 }
  else
    let s := steer s i theta (ppm 5000)
    let n := if theta.natAbs ≤ lockNs s then s.ms.hits + 1 else 0
    let s := s.setMs { s.ms with hits := n }
    if 8 ≤ n then enterServo s .locked else s

/-- An accepted primary sample in SLEWING: what is left to remove is known anew. -/
def slewSample (s : State) (i : Nat) (theta : Int) : State :=
  let p := s.ms.phase
  let s := steer s i theta (ppm 5000)
  if theta.natAbs ≤ lockNs s then enterServo s .locked else s.setMs { s.ms with phase := p, slewLeft := theta * 2 ^ 16 }

/-- Apply a primary sample. -/
def applySample (s : State) (i : Nat) (theta : Int) : State :=
  match s.ms.servo with
  | .acquire => acquireSample s i theta
  | .locked => steer s i theta (ppm 100)
  | .slewing => slewSample s i theta
  | _ => s

/-- HOLDOVER ends on its own with 4 primary samples in a row within OFFSET_STEP. -/
def holdoverSample (s : State) (i : Nat) (theta : Int) : State :=
  let ok := decide (theta.natAbs ≤ offsetStep s)
  let n := if ok then (match s.ms.slots[i]? with | some x => x.within + 1 | none => 0) else 0
  let s := updSlot s i (fun x => { x with within := n })
  if n < 4 then s
  else
    let s := updSlot s i (fun x => { x with within := 0 })
    if theta.natAbs ≤ lockNs s then enterServo s .locked
    else (let s := enterServo s .slewing; s.setMs { s.ms with slewLeft := theta * 2 ^ 16 })

/-- Raise OFFSET_JUMP (bit 2) or ASYMMETRY_SUSPECT (bit 1). -/
def suspect (s : State) (flag : Nat) : State := enterHoldover (rflag s 0x90004 flag)

/-- A primary sample: `raw` is its offset before the path delay is taken off. -/
def primarySample (s : State) (i : Nat) (raw theta : Int) : State :=
  let s := if s.ms.servo = .free then enterServo s .acquire else s
  if s.ms.servo = .holdover then holdoverSample s i theta
  else if s.ms.servo ≠ .acquire ∧ offsetStep s < (theta - predicted s).natAbs then
    let s := updSlot s i (fun x => { x with held := x.held ++ [raw], outCount := x.outCount + 1 })
    if (match s.ms.slots[i]? with | some x => decide (4 ≤ x.outCount) | none => false) then suspect s 2 else s
  else applySample (updSlot s i (fun x => { x with outCount := 0 })) i theta

/-- A secondary sample: measured, counted when beyond CONSIST; in HOLDOVER it may bring a switchover. -/
def secondarySample (s : State) (i : Nat) (theta : Int) : State :=
  let s := if consistWin s < theta.natAbs then updSlot s i (fun x => { x with beyond := x.beyond + 1 }) else s
  if s.ms.servo = .holdover then askSwitch s else s

/-- SYNC_SAMPLE: a Sync, with its Follow_Up, of a slot: its origin time with its corrections and its reported ingress time. A primary
sample that meets a switchover is discarded (13 R340). -/
def doSyncSample (s : State) (i : Nat) (origin ingress : Int) : State :=
  match s.ms.slots[i]? with
  | none => s
  | some x =>
    if !servoEn s ∨ !srcEn s i ∨ !s.clk.locked then s
    else if s.ms.switchDue ∧ i = primary s then s
    else
      let raw := ingress - origin - portCorr s (srcPort s i) 2
      let theta := raw - x.delay
      let log := x.samples ++ [(s.clk.mer, theta)]
      let s := updSlot s i (fun x => { x with samples := log.drop (log.length - 4), lastAt := some s.clk.mer })
      if i = primary s then primarySample s i raw theta else secondarySample s i theta

/-- The median of up to 8 measurements; of an even number, the mean of the middle two. -/
def insInt (a : Int) : List Int → List Int
  | [] => [a]
  | b :: bs => if a ≤ b then a :: b :: bs else b :: insInt a bs

/-- The median. -/
def median (xs : List Int) : Option Int :=
  let v := xs.foldr insInt []
  let n := v.length
  if n = 0 then none
  else if n % 2 = 1 then v[n / 2]?
  else some ((v.getD (n / 2 - 1) 0 + v.getD (n / 2) 0) / 2)

/-- What a new delay makes of the held samples of the primary: those within OFFSET_STEP are applied; with none and the delay stepped,
ASYMMETRY_SUSPECT. -/
def recompute (s : State) (i : Nat) (d : Int) (stepped : Bool) : State :=
  match s.ms.slots[i]? with
  | none => s
  | some x =>
    if x.held.isEmpty ∨ i ≠ primary s ∨ !(decide (s.ms.servo = .locked) || decide (s.ms.servo = .slewing)) then s
    else
      let ok := (x.held.map (fun h => h - d)).filter (fun t => decide ((t - predicted s).natAbs ≤ offsetStep s))
      if ok.isEmpty then (if stepped then suspect s 1 else s)
      else
        let s := updSlot s i (fun x => { x with held := [], outCount := 0 })
        ok.foldl (fun s t => applySample s i t) s

/-- DELAY_MEASUREMENT: the four times of a delay exchange of a slot; its mean path delay (13 R325, R334). -/
def doDelayMeasurement (s : State) (i : Nat) (t1 t2 t3 t4 : Int) : State :=
  match s.ms.slots[i]? with
  | none => s
  | some x =>
    if !servoEn s ∨ !srcEn s i then s
    else
      let d := ((t2 - t1) + (t4 - t3)) / 2
      let stepped := match median x.delays with | some m => decide (delayStep s < (d - m).natAbs) | none => false
      let log := x.delays ++ [d]
      let s := updSlot s i (fun x => { x with delay := d, delays := log.drop (log.length - 8) })
      recompute s i d stepped

/-- PRIMARY_SAMPLE_TIMEOUT: no primary sample for 3 of its sync intervals. -/
def doPrimarySampleTimeout (s : State) : State :=
  let i := primary s
  match s.ms.slots[i]? with
  | none => s
  | some x =>
    let past := match x.lastAt with | some t => decide (t + 3 * syncInterval s i ≤ s.clk.mer) | none => true
    if past && (decide (s.ms.servo = .locked) || decide (s.ms.servo = .slewing)) then enterHoldover s else s

/-- HOLD_LIMIT: HOLDOVER has lasted HOLD_MAX seconds. -/
def doHoldLimit (s : State) : State :=
  if s.ms.servo = .holdover ∧ s.ms.holdSince + rget s 0x90038 * secU ≤ s.clk.mer then setTrace s false else s

/-- ANNOUNCE: of a slot's source; the primary's sets UTC_OFFSET and UTC_VALID, and under the ARB timescale UTC_VALID is 0 (13 R316). Firmware
writes LOG_SYNC (R328). -/
def doAnnounce (s : State) (i utc : Nat) (valid ptp : Bool) (logSync : Nat) : State :=
  if 2 ≤ i ∨ !srcEn s i then s
  else
    let s := rput s (0x90020 + 4 * i) (maskIn (srcCfg s i) (logSync % 16 * 2 ^ 16) 0xF0000)
    if i = primary s then s.setMs { s.ms with utcOff := utc % 2 ^ 16, utcValid := valid && ptp } else s

/-! ### PTP stamps (13 R325 to R327) -/

/-- MER_PORT_CFG of a port. -/
def ptpCfg (s : State) (p : Nat) : Nat := rget s (0x9004C + 16 * p)

/-- A ball time: the event is `sub` × 2^-4 ns into the current AK cycle. -/
def ballTime (s : State) (sub : Nat) : Mer := (stamp s + sub * 2 ^ 28) / 2 ^ 28 * 2 ^ 28

/-- A ball time with a port correction of 2^-16 ns. -/
def corrected (t : Mer) (c : Int) : Mer := ((t : Int) + c * 2 ^ 16).toNat

/-- PTP_EVENT_INGRESS: the reported ingress time is the ball time less ING_LAT. -/
def doPtpEventIngress (s : State) (p sub : Nat) : State :=
  if 4 ≤ p ∨ !(ptpCfg s p).testBit 31 ∨ s.bin.linksDown ∨ !s.boot.portEn.testBit p then s else emit s (.ptp p (corrected (ballTime s sub) (-(portCorr s p 0))))

/-- PTP_EVENT_EGRESS: one-step, the departing Sync or Pdelay_Resp carries its time; two-step, an entry of the egress FIFO. `carries` says
that the frame can carry a time. -/
def doPtpEventEgress (s : State) (p sub seqId msgType : Nat) (carries : Bool) : State :=
  if 4 ≤ p ∨ !(ptpCfg s p).testBit 31 ∨ s.bin.linksDown ∨ !s.boot.portEn.testBit p then s
  else
    let t := corrected (ballTime s sub) (portCorr s p 1)
    if (ptpCfg s p).testBit 30 then
      if carries && (decide (msgType = 0) || decide (msgType = 3)) then emit s (.ptp p t) else gcount s (0x4014 + p) 1
    else match s.ms.egress[p]? with
      | none => s
      | some q =>
        if 64 ≤ q.length then gcount s (0x4010 + p) 1
        else s.setMs { s.ms with egress := lset s.ms.egress p (q ++ [⟨seqId, msgType, t⟩]) }

/-! ### Pulse outputs (13 R336, R337) -/

/-- Refuse an arming: ARM 0, MISSED. -/
def refuseArm (s : State) (n v : Nat) : State := rput s (outReg n 0) (v % 2 ^ 28 + (v / 2 ^ 29 % 4) * 2 ^ 29 + 2 ^ 28)

/-- A write of MER_OUT_CFG: without effect while armed, but for MISSED; else the fields, and with ARM an arming on the next MK edge. -/
def outCfg (s : State) (n : Nat) (w : Word) : State :=
  match s.ms.outs[n]? with
  | none => s
  | some x =>
    let old := rget s (outReg n 0)
    let missed := bitAt (old.testBit 28 && !bit w 28) 28
    if x.armed then rput s (outReg n 0) (old / 2 ^ 29 * 2 ^ 29 + old % 2 ^ 28 + (if bit w 31 then 2 ^ 28 else missed))
    else
      let v := w.toNat &&& 0x6000FFFF
      if !bit w 31 then rput s (outReg n 0) (v + missed)
      else
        let width := v % 2 ^ 16 * 5
        let period := rget s (outReg n 3)
        let periodic := v.testBit 30
        if width = 0 ∨ (periodic ∧ period ≤ width) then refuseArm s n v
        else
          let start := completeTime s (rget s (outReg n 1)) (rget s (outReg n 2))
          let edge := s.clk.mer + merInc s
          let y : PulseOut := ⟨true, start, if periodic then period * nsU else 0, 0, x.high⟩
          if edge + 20 * nsU ≤ start then
            (rput s (outReg n 0) (v + missed + 2 ^ 31)).setMs { s.ms with outs := lset s.ms.outs n y }
          else if !periodic then refuseArm s n v
          else
            let k := nextEdge y (edge + 20 * nsU)
            let s := (rput s (outReg n 0) (v + missed + 2 ^ 31)).setMs { s.ms with outs := lset s.ms.outs n { y with nextK := k } }
            missEdges (rflag s (outReg n 0) 28) n k

/-- OUTPUT_ARM. -/
def doOutputArm (s : State) (n : Nat) (w : Word) : State := if pfOpen s ∧ n < 8 ∧ bit w 31 then outCfg s n w else s

/-- OUTPUT_EDGE: an output reaches its next edge: the start of pulse k at E_k, or its end WIDTH later. A one-shot clears ARM as it
fires. -/
def doOutputEdge (s : State) (n : Nat) : State :=
  match s.ms.outs[n]? with
  | none => s
  | some x =>
    let pol := (rget s (outReg n 0)).testBit 29
    if x.high then
      let t := edgeTime x (x.nextK - 1) + outWidth s n
      if stamp s < t then s else emit (s.setMs { s.ms with outs := lset s.ms.outs n { x with high := false } }) (.pulse n pol t)
    else
      let t := edgeTime x x.nextK
      if !x.armed ∨ stamp s < t then s
      else
        let s := emit (s.setMs { s.ms with outs := lset s.ms.outs n { x with high := true, nextK := x.nextK + 1 } }) (.pulse n (!pol) t)
        if outPeriodic s n then s else disarm s n

/-! ### Capture inputs (13 R338) -/

/-- The configuration of input i. -/
def inCfg (s : State) (i : Nat) : Nat := rget s (0x90200 + 16 * i)

/-- INPUT_EDGE: an edge `sub` root periods into the current AK cycle. -/
def doInputEdge (s : State) (i : Nat) (rise : Bool) (sub : Nat) : State :=
  match s.ms.ins[i]? with
  | none => s
  | some c =>
    let cfg := inCfg s i
    let wanted := cfg.testBit 31 && (if rise then cfg.testBit 29 else cfg.testBit 30)
    if !wanted ∨ 8 ≤ sub ∨ !s.clk.locked then s
    else
      let t := stamp s + sub * merInc s / 16
      let close := match c.lastEdge with | some l => decide (t < l + 10 * nsU) | none => false
      if close || decide (4 ≤ c.fifo.length) then rflag s (0x90200 + 16 * i) 28
      else s.setMs { s.ms with ins := lset s.ms.ins i ⟨c.fifo ++ [(t, rise)], some t⟩ }

/-- INPUT_FIFO_POP: a read of MER_IN_NS removes the oldest entry. -/
def doInputFifoPop (s : State) (i : Nat) : State :=
  match s.ms.ins[i]? with
  | none => s
  | some c =>
    if !pfOpen s then s
    else
      let off := 0x90208 + 16 * i
      let s := emit s (.regRead 0 off (BitVec.ofNat 32 (merNs (capHead s i).1)))
      s.setMs { s.ms with ins := lset s.ms.ins i { c with fifo := c.fifo.drop 1 } }

/-! ### The MK edge (13 R315, R317, R318, R333, R340) -/

/-- A switchover: the slots exchange roles, SWITCHED, SLEWING over the new primary's offset. -/
def switchNow (s : State) : State :=
  let s := rflag (s.setMs { s.ms with primaryB := !s.ms.primaryB, switchDue := false, freqHist := [] }) 0x90004 3
  let s := s.setMs { s.ms with slots := s.ms.slots.map (fun x => { x with held := [], outCount := 0, within := 0 }) }
  let theta := match s.ms.slots[primary s]? with
    | some x => (match x.samples.getLast? with | some e => e.2 | none => 0)
    | none => 0
  if s.ms.servo = .free then s
  else
    let s := enterServo s .slewing
    s.setMs { s.ms with slewLeft := theta * 2 ^ 16 }

/-- One edge of SLEWING: up to 5,000 ppm of what is left; LOCKED when nothing is left, or when what is left falls within LOCK_NS. -/
def slewEdge (s : State) : State :=
  if s.ms.servo ≠ .slewing then s
  else
    let was := s.ms.slewLeft
    let left := was + s.ms.phase
    let lock : Int := lockNs s * 2 ^ 16
    if left = 0 ∨ (lock < was.natAbs ∧ left.natAbs ≤ lock) then enterServo (s.setMs { s.ms with slewLeft := 0, phase := 0 }) .locked
    else s.setMs { s.ms with slewLeft := left, phase := clip (-left) (ppm 5000) }

/-- The four words of a snapshot: the edge's value, and the AK count of the cycle it reaches. -/
def snapNow (s : State) : State :=
  let t := s.clk.mer
  let s := rput (rput s 0x90008 (merSec t % 2 ^ 32)) 0x9000C (merSec t / 2 ^ 32)
  let s := rput (rput s 0x90010 (merNs t)) 0x90014 (merFrac t)
  (rput s 0x90018 ((s.clk.mkAk + 2) % 2 ^ 32)).setMs { s.ms with snapDue := false }

/-- An MK edge whose AK cycle is `ak`: the increment, then a step, then everything that compares on that edge. Firmware takes one entry
from each egress FIFO. -/
def mkEdge (s : State) (ak : Nat) : State :=
  let s := s.setClk { s.clk with mer := s.clk.mer + merInc s, mkAk := ak, mkPrev := s.clk.mkAk }
  let s := match s.ms.setDue with
    | some t => (stepTo s t).setMs { (stepTo s t).ms with setDue := none }
    | none => s
  let s := match s.ms.stepDue with
    | some d => (let s := stepTo s ((s.clk.mer : Int) + d).toNat; s.setMs { s.ms with stepDue := none })
    | none => s
  let s := if s.ms.snapDue then snapNow s else s
  let s := if s.ms.switchDue then switchNow s else slewEdge s
  s.setMs { s.ms with egress := s.ms.egress.map (·.drop 1) }

def execSnapMeridian (w : Word) (s : State) : Res := .next (doSnap s w)
def execSetMeridian (w : Word) (s : State) : Res := .next (doSet s w)
def execSwitchSource (w : Word) (s : State) : Res := .next (doSwitch s w)
def execMerNowRead (path : Nat) (s : State) : Res := .next (doMerNowRead s path)
def execSyncSample (i : Nat) (origin ingress : Int) (s : State) : Res := .next (doSyncSample s i origin ingress)
def execDelayMeasurement (i : Nat) (t1 t2 t3 t4 : Int) (s : State) : Res := .next (doDelayMeasurement s i t1 t2 t3 t4)
def execPrimarySampleTimeout (s : State) : Res := .next (doPrimarySampleTimeout s)
def execHoldLimit (s : State) : Res := .next (doHoldLimit s)
def execAnnounce (i utc : Nat) (valid ptp : Bool) (logSync : Nat) (s : State) : Res := .next (doAnnounce s i utc valid ptp logSync)
def execPtpEventIngress (p sub : Nat) (s : State) : Res := .next (doPtpEventIngress s p sub)
def execPtpEventEgress (p sub seqId msgType : Nat) (carries : Bool) (s : State) : Res := .next (doPtpEventEgress s p sub seqId msgType carries)
def execOutputArm (n : Nat) (w : Word) (s : State) : Res := .next (doOutputArm s n w)
def execOutputEdge (n : Nat) (s : State) : Res := .next (doOutputEdge s n)
def execInputEdge (i : Nat) (rise : Bool) (sub : Nat) (s : State) : Res := .next (doInputEdge s i rise sub)
def execInputFifoPop (i : Nat) (s : State) : Res := .next (doInputFifoPop s i)

end Sys2Proof.Machine
end

