-- ==== Sys2Proof/Machine/Registers.lean ====
section
/-! DEFINITION. Reads and writes of setup registers (20 R442 to R447): what a write of each register does, W1C_CLEAR (15 R358),
the reads that clear, latch or sample (15 R359, R361; 16 R389; 18 R413 to R417), BIN_CFG_WRITE (16 R385). -/

namespace Sys2Proof.Machine
open Sys2Proof

/-! ### Reach (20 R443; 17 R396, R407) -/

/-- Does power-up or SAFE-LISTEN leave I3C the whole reach of 17 R407: the Binnacle's self-test has passed? -/
def listenReach (s : State) : Bool := s.boot.por && decide (2 ≤ s.boot.passed)

/-- The setup registers that I3C reaches before READY and in SAFE-LISTEN (17 R407). -/
def listenReg (off : Nat) : Bool :=
  [0x20, 0x24, 0xD0000, 0xE0000].contains off || inArray off 0xE0040 4 16

/-- Does a path reach a register in the present state: from READY every register; before READY and in SAFE-LISTEN over I3C those of
17 R407, TOP_BOOT_STAT alone after a failed self-test? -/
def stateReaches (s : State) (path off : Nat) : Bool :=
  if pfOpen s then pathOpen s path
  else decide (path = i3cPath) && s.boot.por &&
    ((listenReach s && listenReg off) || decide (off = 0x20))

/-- Does a write of a path reach a register? -/
def writes (s : State) (path off : Nat) : Bool :=
  (match regInfo off with | some ri => regWritable ri path | none => false) && stateReaches s path off

/-- Does a read of a path reach a register? -/
def reads (s : State) (path off : Nat) : Bool :=
  (match regInfo off with | some ri => regReadable ri path | none => false) && stateReaches s path off

/-! ### Latches (16 R389, R390; 18 R415) -/

/-- A 64-byte block of the Logbook RAM or of the journal store: entries, then the Heading shadow from byte 0x20_0000 (16 R387). -/
def logBlock (s : State) (journal : Bool) (b : Nat) : List Byte :=
  if journal then
    if b < 0x8000 then
      (match mget s.log.journal (b / 4) with | some e => ((jBytes e).drop (64 * (b % 4))).take 64 | none => zeros 64)
    else if b < 0x18000 then hdgBytes (mgetD s.log.shadow (b - 0x8000) Hdg.zero)
    else zeros 64
  else if b < 64 then fitTo 64 (Config.logHeader b)
  else if b < 64 + 1048512 then (match mget s.log.events (b - 64) with | some e => eventBytes e | none => zeros 64)
  else zeros 64

/-- A write of LOG_WIN_SEL. -/
def logWinWrite (s : State) (path : Nat) (w : Word) : State :=
  let copy := if path = i3cPath then i3cPath else 0
  latchWords (regPut s copy 0xE0000 (w.toNat &&& 0x83FFFFFF)) copy 0xE0040 (logBlock s (bit w 31) (bits w 25 0)) 16

/-- Bytes [off, off + n) of a region that is cut into pieces of `size` bytes from `base`, piece i given by `f`. -/
def pieces (size : Nat) (f : Nat → List Byte) (off n : Nat) : List Byte :=
  let first := off / size
  let count := (off + n - 1) / size + 1 - first
  (((List.range count).map (fun i => fitTo size (f (first + i)))).flatten.drop (off - first * size)).take n

/-- A byte range of the Wake region within one of its three parts (18 R415). -/
def wakePart (s : State) (off n : Nat) : List Byte :=
  if off < 0x1000 then fitTo n ((fitTo 0x1000 (wakeHdrBytes s)).drop off)
  else if off < 0x415000 then
    pieces 16704 (fun f => match mget s.pel.scan f with | some t => scanBytes f t | none => zeros 16704) (off - 0x1000) n
  else pieces 32 (fun i => match mget s.pel.ring i with | some t => traceBytes t | none => zeros 32) (off - 0x415000) n

/-- A 4 KiB page of the Wake region; one beyond it reads as 0. -/
def wakePage (s : State) (page : Nat) : List Byte :=
  if s.boot.wakeMib * 256 ≤ page then zeros 4096 else fitTo 4096 (wakePart s (4096 * page) 4096)

/-- A write of PEL_WAKE_SEL. -/
def wakeSelWrite (s : State) (w : Word) : State :=
  let page := bits w 19 0
  latchWords (rput s 0xC0050 page) 0 0xC1000 (wakePage s page) 1024

/-! ### Counters (18 R412 to R414; 15 R360, R361) -/

/-- Is a number one of the ranges [lo, lo + n)? -/
def inIds (id : Nat) (l : List (Nat × Nat)) : Bool := l.any (fun x => decide (x.1 ≤ id) && decide (id < x.1 + x.2))

/-- The context counters of the catalogue. -/
def ctxCounter (id : Nat) : Bool :=
  inIds id [(0x0, 8), (0x100, 6), (0x110, 3), (0x200, 8)] || (decide (0x3000 ≤ id) && decide (id < 0x3800) && decide (id % 256 < 64))

/-- The global counters of the catalogue. -/
def gblCounter (id : Nat) : Bool :=
  inIds id [(0x1000, 0x22), (0x1030, 0x11), (0x1050, 0x11), (0x1070, 16), (0x2000, 6), (0x3F00, 2), (0x4000, 0x18), (0x5000, 0x10),
    (0x6000, 1)]

/-- A context counter's value: the counters of a stream belong to the context that owns the binding. -/
def ctxValue (s : State) (ctx id : Nat) : Nat := mgetD s.pel.ctxCnt (ctxCntKey ctx id) 0

/-- The counter that PEL_CNT_SEL of an instance selects, none where 18 R412 does not let the instance read it. Over I3C only global
counters are read. -/
def selCounter (s : State) (path : Nat) : Option Nat :=
  let v := regRaw s path 0xC0020
  let id := v % 2 ^ 16
  let ctx := nbits v 27 16
  if v.testBit 31 then (if pathAll path && gblCounter id then some (mgetD s.pel.gblCnt id 0) else none)
  else if path ≠ i3cPath ∧ ctxCounter id ∧ (ctxOf s ctx).isSome ∧ ownsCtx s path ctx then some (ctxValue s ctx id)
  else none

/-- A read of PEL_CNT_LO: HI and STAT of the instance are latched from the same cycle. -/
def counterRead (s : State) (path : Nat) : State × Nat :=
  match selCounter s path with
  | some n =>
    (regPut (regPut s path 0xC0028 (n / 2 ^ 32 % 2 ^ 32)) path 0xC002C (2 ^ 31 + bitAt (decide (2 ^ 64 - 1 ≤ n)) 30), n % 2 ^ 32)
  | none => (regPut (regPut s path 0xC0028 0) path 0xC002C 0, 0)

/-- What a read of a berth counter set samples (15 R361): the values, their tag, LIVE. -/
def bsetSample (s : State) (org : Nat) : Option (List Nat × CmdKey × Bool) :=
  let b := mgetD s.pel.bsets org ⟨none, [], none⟩
  let live := match b.live with
    | some k => (match findRun s k with
      | some r => if launched s r ∧ r.launchAk < s.clk.chipAk then some (bsetVals r s.clk.chipAk r.counts, k, true) else none
      | none => none)
    | none => none
  match live, b.tag with
  | some x, _ => some x
  | none, some k => some (b.snap, k, false)
  | none, none => none

/-- A read of PEL_BSET_VAL_LO: VAL_HI, SEQ and SRC are latched from the same cycle; a tag of another function's context reads 0. -/
def bsetRead (s : State) (path : Nat) : State × Nat :=
  let sel := regRaw s path 0xC0000
  match bsetSample s (sel % 256) with
  | some (vals, k, live) =>
    if pathOwns s path k.ctx then
      let v := vals.getD (sel / 256 % 8) 0
      let s := regPut s path 0xC0008 (v / 2 ^ 32 % 2 ^ 32)
      let s := regPut s path 0xC000C k.seq.toNat
      (regPut s path 0xC0010 (2 ^ 31 + bitAt live 30 + k.ring % 8 * 2 ^ 12 + k.ctx % 4096), v % 2 ^ 32)
    else (regPut (regPut (regPut s path 0xC0008 0) path 0xC000C 0) path 0xC0010 0, 0)
  | none => (regPut (regPut (regPut s path 0xC0008 0) path 0xC000C 0) path 0xC0010 0, 0)

/-! ### Reads -/

/-- Does a read of a path take the RC effect: the path reaches the register as its access codes say (20 R443)? -/
def readClears (ri : RegInfo) (path : Nat) : Bool := decide (path ≠ i3cPath) || decide (ri.i3c = .rw)

/-- A read of a setup register by a path: the value, and what the read does. An offset that holds no register, or one that the path
does not reach, reads 0. -/
def regRead (s : State) (path off : Nat) : State × Nat :=
  match regInfo off with
  | none => (s, 0)
  | some ri =>
    if !reads s path off then (s, 0)
    else
      let copy := regCopy ri off path
      if off = 0xC0024 then counterRead s copy
      else if off = 0xC0004 then bsetRead s copy
      else if off = 0x4 then (regPut s copy 0x8 (s.boot.serial.toNat / 2 ^ 32), s.boot.serial.toNat % 2 ^ 32)
      else if off = 0x90300 then
        let t := s.clk.mer
        (regPut (regPut (regPut s copy 0x90304 (merSec t / 2 ^ 32 % 2 ^ 32)) copy 0x90308 (merNs t)) copy 0x9030C (merFrac t),
         merSec t % 2 ^ 32)
      else if inArray off 0x90208 16 4 then
        let i := arrIdx off 0x90208 16
        (s.setMs { s.ms with ins := lupd s.ms.ins i (fun c => { c with fifo := c.fifo.drop 1 }) }, merNs (capHead s i).1)
      else
        let v := regView s copy off
        if ri.rc ≠ 0 ∧ readClears ri path then (regPut s copy off (maskIn (regRaw s copy off) 0 ri.rc), v) else (s, v)

/-- A read whose value goes back to the reader. -/
def readOut (s : State) (path off : Nat) : State :=
  let (t, v) := regRead s path off
  emit t (.regRead path off (BitVec.ofNat 32 v))

/-- RC_COUNTER_READ: a register with an RC counter is read. -/
def doRcCounterRead (s : State) (path off : Nat) : State :=
  match regInfo off with
  | some ri => if ri.rc ≠ 0 ∧ reads s path off then readOut s path off else s
  | none => s

/-- COUNTER_READ, BSET_READ, SERIAL_READ. -/
def doCounterRead (s : State) (path : Nat) : State := if reads s path 0xC0024 then readOut s path 0xC0024 else s
def doBsetRead (s : State) (path : Nat) : State := if reads s path 0xC0004 then readOut s path 0xC0004 else s
def doSerialRead (s : State) (path : Nat) : State := if reads s path 0x4 then readOut s path 0x4 else s

/-! ### Writes -/

/-- The RW fields of a register take the written bits; its W1C flags are cleared where 1 is written. -/
def plainWrite (s : State) (copy off : Nat) (ri : RegInfo) (w : Word) : State :=
  if ri.rw = 0 ∧ ri.w1c = 0 then s
  else
    let v := maskIn (regRaw s copy off) w.toNat ri.rw
    regPut s copy off (maskIn v 0 (w.toNat &&& ri.w1c))

/-- Does any enabled class bit stand (15 R357)? -/
def alertStands (s : State) : Bool :=
  (List.range 6).any (fun c => (rget s 0x100).testBit c && (decide (c = 5) || (rget s 0x108).testBit c))

/-- A write of TOP_ERR_STAT: ALERT_N is released when no enabled class stands; a clear of NOTICE clears every NOTICE count. -/
def errStatWrite (s : State) (w : Word) : State :=
  let s := rput s 0x100 (maskIn (rget s 0x100) 0 (w.toNat &&& 0x3F))
  let s := if bit w 0 then s.setLog { s.log with notices := [] } else s
  if alertStands s then s else s.setBin { s.bin with alertN := true }

/-- Replace the fields that a written word gives a value their register takes; the others stay. -/
def fieldsWrite (s : State) (off rw : Nat) (w : Word) (refused : List (Nat × Nat × Nat)) : State :=
  let keep := refused.foldl (fun m x => if bits w x.1 x.2.1 < x.2.2 then m ||| ((2 ^ (x.1 + 1 - x.2.1) - 1) <<< x.2.1) else m) 0
  rput s off (maskIn (rget s off) w.toNat (rw &&& (0xFFFFFFFF - keep)))

/-- A write of BCN_CTL or HDG_RANGE_CTL: an operation on GO; a reserved one sets ERR (20 R448, R450). -/
def rangeCtl (s : State) (off : Nat) (w : Word) : State :=
  let s := cmdRegWrite s off w
  if !bit w 31 then s
  else if cmdOp w = 1 then (if off = 0x70000 then bcnSet s (cmdCtx w) else hdgSet s (cmdCtx w))
  else if cmdOp w = 2 then (if off = 0x70000 then bcnGet s (cmdCtx w) else hdgGet s (cmdCtx w))
  else cmdRegErr s off

/-- A write of HELM_CTX_CMD that reads no context block: UNDEFINE, a reserved OP, or the fields alone. -/
def ctxCmdWrite (s : State) (w : Word) : State :=
  if bit w 31 ∧ (cmdOp w = 1 ∨ cmdOp w = 2) then s
  else
    let s := cmdRegWrite s 0x10010 w
    if !bit w 31 then s
    else if cmdOp w = 3 then ctxUndefine s (cmdCtx w) else cmdRegErr s 0x10010

/-- A write of CHM_WIN_CTL (08 R215). -/
def winCtlWrite (s : State) (w : Word) : State :=
  let s := rput s 0x30010 (w.toNat &&& 0x0C0003FF)
  if !bit w 31 then s
  else if bits w 27 26 = 1 then doWindowOpen s (bits w 9 0)
  else if bits w 27 26 = 2 then doWindowClose s (bits w 9 0)
  else rflag s 0x30014 1

/-- A write of a CHM_BANK_PWR word: each bank whose bit changes is requested off, or restored (08 R219, R220). -/
def bankPwrWrite (s : State) (blk : Nat) (w : Word) : State :=
  let old := rget s (0x30200 + 4 * blk)
  (List.range 32).foldl (fun s i =>
    if bit w i && !old.testBit i then doBankPowerDownRequest s (32 * blk + i)
    else if !bit w i && old.testBit i then doBankPowerRestore s (32 * blk + i) else s) s

/-- Are LANES and RATE of a CSI port word usable (12 R293)? -/
def csiOk (v : Nat) : Bool := decide (nbits v 25 24 ≠ 3) && decide (80 ≤ v % 8192) && decide (v % 8192 ≤ 4500)

/-- A write of CSI_RX_CFG or CSI_TX_CFG: without effect while a binding uses the port; EN stays 0 with unusable fields; a transmit
port sends its initial skew calibration as it is enabled. -/
def csiWrite (s : State) (tx : Bool) (p : Nat) (w : Word) : State :=
  let off := (if tx then 0x80010 else 0x80000) + 4 * p
  if (if tx then txLocked s p else rxLocked s p) then s
  else
    let v := w.toNat &&& (if tx then 0xC3FF1FFF else 0x83001FFF)
    let v := if csiOk v then v else v % 2 ^ 31
    let rises := v.testBit 31 && !(rget s off).testBit 31
    let s := rput s off v
    if tx ∧ rises then emit (s.setCsi (lupd s.csi p (fun c => { c with skewAt := stamp s }))) (.skew p) else s

/-- A write of MER_SRC_CFG: with DOMAIN 128 or above EN stays 0. -/
def srcWrite (s : State) (i : Nat) (w : Word) : State :=
  let v := w.toNat &&& 0x800F03FF
  servoCheck (rput s (0x90020 + 4 * i) (if 128 ≤ v % 256 then v % 2 ^ 31 else v))

/-- A write of MER_PORT_CFG: a reserved PROFILE or TRANSPORT leaves PTP_EN 0. -/
def portCfgWrite (s : State) (off : Nat) (w : Word) : State :=
  let v := w.toNat &&& 0xFC000000
  rput s off (if nbits v 29 28 = 3 ∨ 2 ≤ nbits v 27 26 then v % 2 ^ 31 else v)

/-- A write of a MER_OUT_ START or PERIOD word: ignored while the output is armed. -/
def outWrite (s : State) (off : Nat) (mask : Nat) (w : Word) : State :=
  let n := (off - 0x90080) / 32
  match s.ms.outs[n]? with
  | some x => if x.armed then s else rput s off (w.toNat &&& mask)
  | none => s

/-- A write of MER_IN_CFG: with EDGE 0 EN stays 0. -/
def inWrite (s : State) (off : Nat) (w : Word) : State :=
  let v := w.toNat &&& 0xE0000000
  let ovf := bitAt ((rget s off).testBit 28 && !bit w 28) 28
  rput s off ((if nbits v 30 29 = 0 then v % 2 ^ 31 else v) + ovf)

/-- A write of FLT_CFG: the identifiers stay while EN is 1. -/
def fltCfgWrite (s : State) (w : Word) : State :=
  let v := rget s 0xA0000
  rput s 0xA0000 (maskIn v w.toNat (if v.testBit 31 then 0x80000000 else 0x801FFFFF))

/-- A write of PEL_TRACE_CTL: a rise of EN marks where MODE 1 counts from (18 R417). -/
def traceCtlWrite (s : State) (w : Word) : State :=
  let v := rget s 0xC0040
  let s := rput s 0xC0040 (maskIn (maskIn v w.toNat 0xDF000FFF) 0 (w.toNat &&& 0x20000000))
  if bit w 31 && !v.testBit 31 then s.setPel { s.pel with enBase := s.pel.wp } else s

/-- Does a SAFE command or binding stand in the way of DEBUG_EN (16 R377)? -/
def safeStands (s : State) : Bool :=
  s.cmds.any (fun c => (isSolve c.desc && decide (dClass c.desc = 2)) || (decide (opOf c.desc = 0x20) && decide (dClass c.desc = 2))) ||
  s.streams.any (fun e => e.2.safe)

/-- A write of BIN_CFG: without effect once locked; DEBUG_EN is refused while a SAFE command or stream stands. -/
def binCfgWrite (s : State) (w : Word) : State :=
  let v := rget s 0xD0004
  if v.testBit 31 then s
  else
    let debug := bit w 3 && (v.testBit 3 || !safeStands s)
    rput s 0xD0004 ((w.toNat &&& 0x80000007) + bitAt debug 3)

/-- Clear every global counter (18 R414). -/
def clearCounters (s : State) : State := s.setPel { s.pel with gblCnt := [] }

/-- Writes below 0x80000. -/
def lowWrite (s : State) (path off : Nat) (ri : RegInfo) (w : Word) : State :=
  let copy := regCopy ri off path
  if off = 0x100 then errStatWrite s w
  else if off = 0x110 then doWarmReset s path w
  else if off = 0x10000 then ctxBaseWrite s false w
  else if off = 0x10004 then ctxBaseWrite s true w
  else if off = 0x10008 then fieldsWrite s off ri.rw w [(31, 16, 1), (7, 0, 1)]
  else if off = 0x1000C then rsvWrite s w
  else if off = 0x10010 then ctxCmdWrite s w
  else if inArray off 0x10100 4 64 then fnCtxWrite s (arrIdx off 0x10100 4) w
  else if off = 0x10600 then dbgWrite s w
  else if off = 0x30010 then winCtlWrite s w
  else if inArray off 0x30100 4 16 then doAlmLinesWrite s (arrIdx off 0x30100 4) w
  else if inArray off 0x30200 4 18 then bankPwrWrite s (arrIdx off 0x30200 4) w
  else if inArray off 0x40000 4 8192 then doWindowDescriptorWrite s (arrIdx off 0x40000 4 / 8) (arrIdx off 0x40000 4 % 8) w
  else if off = 0x70000 ∨ off = 0x78000 then rangeCtl s off w
  else if off = 0x78010 then doHeadingEntryLatch s path w
  else plainWrite s copy off ri w

/-- Writes from 0x80000 up. -/
def highWrite (s : State) (path off : Nat) (ri : RegInfo) (w : Word) : State :=
  let copy := regCopy ri off path
  if inArray off 0x80000 4 4 then csiWrite s false (arrIdx off 0x80000 4) w
  else if inArray off 0x80010 4 4 then csiWrite s true (arrIdx off 0x80010 4) w
  else if inArray off 0x80100 4 64 then
    (if (mget s.streams (arrIdx off 0x80100 4)).isSome then s else plainWrite s copy off ri w)
  else if off = 0x90000 then merCtl s w
  else if off = 0x90020 ∨ off = 0x90024 then srcWrite s (arrIdx off 0x90020 4) w
  else if off = 0x90030 then fieldsWrite s off ri.rw w [(15, 8, 1), (7, 0, 1)]
  else if inArray off 0x9004C 16 4 then portCfgWrite s off w
  else if inArray off 0x90080 32 8 then outCfg s (arrIdx off 0x90080 32) w
  else if inArray off 0x90084 32 8 ∨ inArray off 0x90088 32 8 ∨ inArray off 0x9008C 32 8 then outWrite s off ri.rw w
  else if inArray off 0x90200 16 4 then inWrite s off w
  else if off = 0xA0000 then fltCfgWrite s w
  else if off = 0xA0004 then fieldsWrite s off ri.rw w [(31, 16, 10), (15, 0, 1)]
  else if off = 0xA0008 then fltStopWrite s w
  else if inArray off 0xA0100 4 32 then (if arrIdx off 0xA0100 4 = chipId s then s else plainWrite s copy off ri w)
  else if off = 0xC0030 then (if bit w 31 then clearCounters s else s)
  else if off = 0xC0040 then traceCtlWrite s w
  else if off = 0xC0050 then wakeSelWrite s w
  else if off = 0xD0004 then binCfgWrite s w
  else if off = 0xD0008 then doBinRecover s path w
  else if off = 0xE0000 then logWinWrite s path w
  else plainWrite s copy off ri w

/-- A write of a whole DWORD by a path; where the path or the state does not reach the register it has no effect. -/
def regWrite (s : State) (path off : Nat) (w : Word) : State :=
  match regInfo off with
  | none => s
  | some ri => if !writes s path off then s else if off < 0x80000 then lowWrite s path off ri w else highWrite s path off ri w

/-- The number of 1 bits of a word. -/
def popCount (w : Word) : Nat := ((List.range 32).filter (fun i => bit w i)).length

/-- W1C_CLEAR: a write of 1 to W1C flags; `race` names flags that hardware sets in the same cycle: there the set wins, and
TOP_W1C_RACE counts each clear that lost (15 R358). -/
def doW1cClear (s : State) (path off : Nat) (w race : Word) : State :=
  match regInfo off with
  | none => s
  | some ri =>
    let mask := BitVec.ofNat 32 ri.w1c
    if !writes s path off ∨ w &&& mask = 0 then s
    else
      let lost := w &&& race &&& mask
      let copy := regCopy ri off path
      let s := regWrite s path off (w &&& ~~~lost)
      let s := regPut s copy off (regRaw s copy off ||| lost.toNat)
      rcount s 0x10C 31 0 (popCount lost)

/-- COUNTER_CLEAR: a write of PEL_CNT_CLR with CLR by the physical function. -/
def doCounterClear (s : State) (path : Nat) (w : Word) : State := if bit w 31 then regWrite s path 0xC0030 w else s

/-- WAKE_PAGE_LATCH, LOG_WINDOW_LATCH, BIN_CFG_WRITE: writes of PEL_WAKE_SEL, LOG_WIN_SEL, BIN_CFG. -/
def doWakePageLatch (s : State) (w : Word) : State := regWrite s 0 0xC0050 w
def doLogWindowLatch (s : State) (path : Nat) (w : Word) : State := regWrite s path 0xE0000 w
def doBinCfgWrite (s : State) (path : Nat) (w : Word) : State := regWrite s path 0xD0004 w

/-! ### The trace queue (18 R417) -/

/-- TRACE_LOST: the queue has room again: one LOST record with the number of records dropped since the last. -/
def doTraceLost (s : State) : State :=
  if s.pel.lostRun = 0 ∨ 1024 ≤ s.pel.queue.length ∨ !(rget s 0xC0040).testBit 31 ∨ (rget s 0xC0040).testBit 29 then s
  else
    let n := s.pel.lostRun
    s.setPel { s.pel with
      lostRun := 0
      queue := s.pel.queue ++ [⟨0x3F, 0, 0x20, 0, 0, stampR s, s.clk.chipAk % 2 ^ 32, satTo (2 ^ 32 - 1) n, 0⟩] }

/-- The oldest record of the queue reaches the trace ring; under MODE 1 a full ring sets FULL, and the record is lost. -/
def drainTrace (s : State) : State :=
  match s.pel.queue with
  | [] => s
  | t :: rest =>
    let s := s.setPel { s.pel with queue := rest }
    let cap := traceCap s.boot.wakeMib
    if cap = 0 then s
    else if (rget s 0xC0040).testBit 30 && decide (cap ≤ s.pel.wp - s.pel.enBase) then
      (rcount (rflag s 0xC0040 29) 0xC0048 31 0 1).setPel { s.pel with lostRun := s.pel.lostRun + 1 }
    else gcount (s.setPel { s.pel with ring := mset s.pel.ring (s.pel.wp % cap) t, wp := s.pel.wp + 1 }) 0x2005 32

def execW1cClear (path off : Nat) (w race : Word) (s : State) : Res := .next (doW1cClear s path off w race)
def execRcCounterRead (path off : Nat) (s : State) : Res := .next (doRcCounterRead s path off)
def execCounterClear (path : Nat) (w : Word) (s : State) : Res := .next (doCounterClear s path w)
def execBsetRead (path : Nat) (s : State) : Res := .next (doBsetRead s path)
def execCounterRead (path : Nat) (s : State) : Res := .next (doCounterRead s path)
def execSerialRead (path : Nat) (s : State) : Res := .next (doSerialRead s path)
def execTraceLost (s : State) : Res := .next (doTraceLost s)
def execWakePageLatch (w : Word) (s : State) : Res := .next (doWakePageLatch s w)
def execLogWindowLatch (path : Nat) (w : Word) (s : State) : Res := .next (doLogWindowLatch s path w)
def execBinCfgWrite (path : Nat) (w : Word) (s : State) : Res := .next (doBinCfgWrite s path w)

end Sys2Proof.Machine
end

