-- ==== Sys2Proof/Machine/Boot.lean ====
section
/-! DEFINITION. Power-up (17 R393 to R404; 20 R445; 21 R461 to R463): POR, the steps and their deadlines, the configuration block and
the firmware image, READY, and the resets of POR_N and of the supply detectors. -/

namespace Sys2Proof.Machine
open Sys2Proof

/-! ### POR_N (15 R370, 16 R387, 21 R462) -/

/-- The Logbook through a reset: the journal store stays with VDD_SI, the Logbook RAM with VDD_LOG; the index starts again when
either has been applied anew (16 R387). -/
def heldLog (l : LogSt) (si lg : Bool) : LogSt :=
  { LogSt.reset with
    journal := if si then l.journal else [], shadow := if si then l.shadow else [], last := if si then l.last else [],
    jnext := if si then l.jnext else 0, events := if lg then l.events else [], next := if si && lg then l.next else 1 }

/-- The device while POR_N is low: everything at its reset value but the stores of the Logbook, the flash and, with VDD_SI held, the
count of power-ups. -/
def heldState (s : State) (si lg : Bool) : State :=
  { s with
    clk := Clk.reset, regs := [], boot := { Boot.reset with bootCount := if si then s.boot.bootCount else 0 },
    mbx := State.reset.mbx, helm := Helm.reset, cmds := [], runs := [], batches := [], chart := ChartSt.reset, rose := Rose.reset,
    log := heldLog s.log si lg, bin := Bin.reset, ms := MerSt.reset, streams := [], csi := State.reset.csi,
    fleet := State.reset.fleet, fns := State.reset.fns, msix := [], pci := State.reset.pci, i3c := I3cSt.reset,
    pel := State.reset.pel }

/-- POWER_DOWN: POR_N falls, with VDD_SI and VDD_LOG held or not. A low pulse shorter than 10 µs may or may not reset the device. -/
def doPowerDown (s : State) (short si lg : Bool) : State :=
  if short then
    let t := s.setFree (s.free + 1)
    if Config.shortPorActs s.free then heldState t true true else t
  else heldState s si lg

/-- Does the first detector hold the device in reset? Levels in millivolts (21 R462). -/
def detects (core sram : Nat) : Bool := decide (core < 600) || decide (sram < 650) || decide (sram + 50 < core)

/-- SUPPLY_DETECT_RESET: the release of the detector is a rise of POR_N. -/
def doSupplyDetectReset (s : State) (core sram : Nat) : State := if detects core sram then heldState s true true else s

/-- VDD_SI_LOW_RESET: the Binnacle island is reset, and what it holds on VDD_SI is lost; the power-up starts again with it. -/
def doVddSiLowReset (s : State) (mv : Nat) : State := if mv < 650 then heldState s false true else s

/-- POR: POR_N rises: BOOT_MODE and I3C_SA are sampled, step 1 ends at once and step 2 begins. -/
def doPor (s : State) (mode i3cSa : Nat) : State :=
  if s.boot.por then s
  else
    let b := s.boot
    (s.setBoot { b with
      por := true, stage := 2, passed := 1, mode := mode % 4, i3cSa := i3cSa % 4, bootCount := (b.bootCount + 1) % 2 ^ 32 }).setClk
      { s.clk with shadowMark := true }

/-! ### Steps 2 and 3 -/

/-- Is the device in a step of power-up? Once the hardwired path of 16 R374 has acted, power-up goes no further. -/
def inStep (s : State) (n : Nat) : Bool :=
  s.boot.por && decide (s.boot.state = 0) && decide (s.boot.stage = n) && !s.bin.safe

/-- A step has passed; the next one begins. -/
def stepPassed (s : State) (n : Nat) : State := s.setBoot { s.boot with passed := n, stage := n + 1 }

/-- BINNACLE_SELF_TEST_END. -/
def doBinnacleSelfTestEnd (s : State) (pass : Bool) : State :=
  if !inStep s 2 then s else if pass then stepPassed s 2 else safeListen s 0x01

/-- ROOT_PLL_LOCK: Meridian time starts at 0 on the first MK edge; the PCIe link comes up with a width and a speed; reserved boot modes
end here. -/
def doRootPllLock (s : State) (width speed : Nat) : State :=
  if !inStep s 3 then s
  else
    let s := s.setClk { s.clk with
      locked := true, rootPhase := 0, stretch := 0, mer := 0, mkAk := s.clk.chipAk, mkPrev := s.clk.chipAk, shadow := 0, shadowMark := false }
    let s := s.setPci { s.pci with dlUp := true, width := width, speed := speed }
    if s.boot.mode = 2 ∨ s.boot.mode = 3 then safeListen (s.setBoot { s.boot with passed := 3 }) 0x10 else stepPassed s 3

/-! ### The configuration block (17 R402, 20 R445) -/

/-- A byte range of a record. -/
def slice (b : List Byte) (off n : Nat) : List Byte := (b.drop off).take n

/-- The first n bytes of a flash region; an erased byte reads 0xFF. -/
def regionBytes (m : List (Nat × Byte)) (n : Nat) : List Byte := memReadBytes 0xFF#8 m 0 n

/-- Do a register's RW fields take a value: it reads back, written by firmware in the order of the block? -/
def entryTakes (s : State) (off : Nat) (ri : RegInfo) (w : Word) : State × Bool :=
  let t := regWrite s 0 off w
  (t, decide (rget t off &&& ri.rw = w.toNat &&& ri.rw))

/-- Does a WRITES entry name a configurable register, with no reserved bit and no WO bit but a permitted GO? -/
def entryForm (off : Nat) (w : Word) : Option RegInfo :=
  match regInfo off with
  | none => none
  | some ri =>
    let free := ri.rw ||| (if ri.cfg = .go then 0x80000000 else 0)
    if ri.cfg ≠ .no ∧ w.toNat &&& (0xFFFFFFFF - free) = 0 then some ri else none

/-- Are the WRITES entries good, each after those before it? -/
def entriesOk (s : State) : List (Nat × Word) → Bool
  | [] => true
  | (off, w) :: es =>
    match entryForm off w with
    | none => false
    | some ri => let (t, ok) := entryTakes s off ri w; ok && entriesOk t es

/-- The WRITES of a block. -/
def blockWrites (b : List Byte) : List (Nat × Word) :=
  (List.range (fieldOf b 210 2)).map (fun i => (fieldOf b (216 + 8 * i) 4, BitVec.ofNat 32 (fieldOf b (220 + 8 * i) 4)))

/-- The device that the entries of a block are tried on: at its reset values, ready, with NUM_VF of the block. -/
def trialState (b : List Byte) : State :=
  let s := State.reset
  s.setBoot { s.boot with por := true, state := 1, passed := 7, numVf := fieldOf b 195 1 }

/-- Check 1: MAGIC, VERSION, LEN. -/
def blockHead (b : List Byte) : Bool :=
  let len := fieldOf b 8 4
  decide (fieldOf b 0 4 = 0x74394342) && decide (fieldOf b 4 2 = 1) && decide (len % 64 = 0) && decide (1024 ≤ len) &&
  decide (len ≤ 16384) && decide (344 + 8 * fieldOf b 210 2 ≤ len)

/-- The configuration digest. -/
def blockDigest (b : List Byte) : List Byte := shake256 (b.take (fieldOf b 8 4 - 128)) 64

/-- Checks 2 and 3: the two signatures. -/
def blockSigned (b : List Byte) : Bool :=
  let key := slice b 24 57
  decide (fieldOf b 21 1 ≤ 3) && Config.ed448Verify (Config.rootKey (fieldOf b 21 1)) key (slice b 81 114) &&
  Config.ed448Verify key (blockDigest b) (slice b (fieldOf b 8 4 - 128) 114)

/-- Check 4: every field in its range (17 R402, 19 R436), reserved fields 0. -/
def blockFields (b : List Byte) : Bool :=
  let mem := fieldOf b 196 1
  let wake := fieldOf b 204 4
  decide (fieldOf b 6 2 = 0) && decide (fieldOf b 20 1 < 16) && decide (fieldOf b 22 2 = 0) && decide (fieldOf b 195 1 ≤ 63) &&
  decide (mem < 64) && decide (mem % 8 ≤ 5) && decide (fieldOf b 197 3 = 0) &&
  decide (fieldOf b 200 4 % 2 ^ 31 < 16) && decide (16 ≤ wake) && decide (wake ≤ 4096) && decide (fieldOf b 208 2 < 4096) &&
  decide (fieldOf b 212 4 = 0) && decide (fieldOf b (fieldOf b 8 4 - 14) 14 = 0) && entriesOk (trialState b) (blockWrites b)

/-- The FAIL code of a configuration block, none when it passes. -/
def blockFail (b : List Byte) : Option Nat :=
  if !blockHead b then some 0x05 else if !blockSigned b then some 0x05 else if !blockFields b then some 0x06 else none

/-- Keep the fields of a block that has passed. -/
def keepBlock (x : Boot) (b : List Byte) : Boot :=
  { x with
    cfgDigest := blockDigest b, minFw := fieldOf b 16 4, keyMask := fieldOf b 20 1, numVf := fieldOf b 195 1,
    memProfile := fieldOf b 196 1, binCfgInit := fieldOf b 200 4, wakeMib := fieldOf b 204 4, portEn := fieldOf b 208 2,
    cfgWrites := blockWrites b }

/-- BOOT_ROM_END: Helm core 0 has checked itself (`core0`), the Lodestone key has been derived and compared (`key`), the serial of the
provisioning area has been read, and the configuration block is checked. -/
def doBootRomEnd (s : State) (core0 key : Bool) (serial : Word64) : State :=
  if !inStep s 4 then s
  else if !core0 then safeListen s 0x03
  else
    let s := s.setBoot { s.boot with serial := serial, helmOk := 1, lodestone := key }
    let s := s.setHelm { s.helm with cores := lupd s.helm.cores 0 (fun c => { c with ok := true }) }
    if !key then safeListen s 0x04
    else
      let b := regionBytes s.flash.cfg 16384
      match blockFail b with
      | some f => safeListen s f
      | none => stepPassed (s.setBoot (keepBlock s.boot b)) 4

/-! ### Self-test (17 R399, R400) -/

/-- What LBIST and MBIST found: failed facets, sectors whose spare facet failed, failed Sextants, Helm cores that failed, rows
remapped (a bank for each), banks retired, and whether a table needed more spare rows than it has. -/
def selfTest (s : State) (facets spares sextants cores rows banks : List Nat) : State :=
  let s := spares.foldl (fun s k =>
    s.setRose { s.rose with sectors := lupd s.rose.sectors k (fun x => { x with spareFail := true }) }) s
  let s := facets.foldl failFacet s
  let s := (List.range 16).foldl doSpareSubstitution s
  let s := sextants.foldl failSextant s
  let s := s.setHelm { s.helm with cores := s.helm.cores.zipIdx.map (fun x =>
    { x.1 with ok := decide (x.2 = 0) || !cores.contains x.2 }) }
  let s := rows.foldl (fun s n =>
    raiseEvent (s.setChart { s.chart with spareRows := mupd s.chart.spareRows n 0 (fun u => satTo 16 (u + 1)) })
      { cls := 1, cause := 0x31, unitKind := 3, unitNo := n / 32 % 256, detail := b2 n }) s
  banks.foldl retireBank s

/-- HELM_OK. -/
def coresOk (s : State) : Nat := (s.helm.cores.zipIdx.map (fun x => bitAt x.1.ok x.2)).foldl (· + ·) 0

/-- A fatal loss of LBIST: fewer than 4 Helm cores, or no sector with an available position. -/
def lbistFatal (s : State) : Bool :=
  decide ((s.helm.cores.filter (·.ok)).length < 4) || s.rose.sectors.all (fun x => decide (sectorAvail x = 0))

/-- A fatal loss of MBIST: a table without a spare row left, or more than 16 Almanac core banks retired. -/
def mbistFatal (banks : List Nat) (tables : Bool) : Bool :=
  tables || decide (16 < ((sortNat banks).filter (fun n => decide (512 ≤ n) && decide (n < 576))).length)

/-- SELF_TEST_END. -/
def doSelfTestEnd (s : State) (facets spares sextants cores rows banks : List Nat) (tables : Bool) : State :=
  if !inStep s 5 then s
  else
    let s := selfTest s (sortNat facets) spares (sortNat sextants) cores rows (sortNat banks)
    let lost := decide (coresOk s ≠ 0xFF) || !(facets.isEmpty && sextants.isEmpty && banks.isEmpty)
    let s := s.setBoot { s.boot with helmOk := coresOk s, degraded := lost }
    if lbistFatal s then safeListen s 0x07
    else if mbistFatal banks tables then safeListen s 0x08
    else if s.boot.mode = 1 then safeListen (s.setBoot { s.boot with passed := 5 }) 0x0E
    else stepPassed s 5

/-! ### The firmware image (17 R403, R404) -/

/-- Check 1: the header's fields. -/
def imageHead (h : List Byte) : Bool :=
  let len := fieldOf h 12 4
  decide (fieldOf h 0 4 = 0x74394657) && decide (fieldOf h 4 2 = 1) && decide (0 < len) && decide (len % 512 = 0) &&
  decide (len ≤ 16776704) && decide (fieldOf h 16 1 ≤ 3) && decide (fieldOf h 17 47 = 0) && decide (fieldOf h 242 270 = 0)

/-- The firmware digest of an image. -/
def imageDigest (b : List Byte) : List Byte := shake256 (b.take 64 ++ b.drop 512) 64

/-- The FAIL code of an image under MIN_FW_VERSION and FW_KEY_MASK, none when it passes. -/
def imageFail (fw : List (Nat × Byte)) (minFw mask : Nat) : Option Nat :=
  let h := regionBytes fw 512
  if !imageHead h then some 0x09
  else
    let b := regionBytes fw (512 + fieldOf h 12 4)
    let key := fieldOf h 16 1
    if slice h 64 64 ≠ imageDigest b ∨ !Config.ed448Verify (Config.rootKey key) (slice h 64 64) (slice h 128 114) then some 0x0A
    else if fieldOf h 6 2 ≠ 0x00B0 ∨ fieldOf h 8 4 < minFw ∨ !mask.testBit key then some 0x0B
    else none

/-- FIRMWARE_READ_END: the image has been read, in 8D-8D-8D if the flash's SFDP tables have that read (19 R435). -/
def doFirmwareReadEnd (s : State) (octal : Bool) : State :=
  if !inStep s 6 then s
  else if !octal then safeListen s 0x09
  else match imageFail s.flash.fw s.boot.minFw s.boot.keyMask with
    | some f => safeListen s f
    | none =>
      let h := regionBytes s.flash.fw 512
      stepPassed (s.setBoot { s.boot with fwVersion := fieldOf h 8 4, fwDigest := slice h 64 64 }) 6

/-! ### READY (17 R397, 20 R445, 21 R455) -/

/-- Apply the WRITES in their order; after each one the register must show no new ERR bit and read back as written. -/
def applyWrites (s : State) : List (Nat × Word) → State × Bool
  | [] => (s, true)
  | (off, w) :: es =>
    match regInfo off with
    | none => (s, false)
    | some ri =>
      let (t, ok) := entryTakes s off ri w
      let flags := rget t off &&& ri.w1c &&& (0xFFFFFFFF - (rget s off &&& ri.w1c))
      if ok && decide (flags = 0) then applyWrites t es else (t, false)

/-- Enable the CSI-2 ports that PORT_EN names. -/
def enablePorts (s : State) : State :=
  (List.range 4).foldl (fun s p =>
    let s := if s.boot.portEn.testBit (4 + p) then csiWrite s false p (BitVec.ofNat 32 (rget s (0x80000 + 4 * p) ||| 2 ^ 31)) else s
    if s.boot.portEn.testBit (8 + p) then csiWrite s true p (BitVec.ofNat 32 (rget s (0x80010 + 4 * p) ||| 2 ^ 31)) else s) s

/-- The set point of VDD_CORE moves by 5 mV at a time to the value that the speed monitors ask for. -/
def firstAvs (s : State) (mv : Nat) : State :=
  let s := emit s (.pmbus .voutMode 0)
  let n := (if mv < 750 then 750 - mv else mv - 750) / 5
  let s := (List.range n).foldl (fun s i =>
    emit s (.pmbus .voutCommand (if mv < 750 then 750 - 5 * (i + 1) else 750 + 5 * (i + 1)))) s
  if n = 0 then s
  else
    let last := if mv < 750 then 750 - 5 * n else 750 + 5 * n
    s.setBin { s.bin with prevMv := if mv < 750 then last + 5 else last - 5, setMv := last, avsAt := s.clk.shadow }

/-- The controllers have trained; only controller 0 is populated with ONE_CTRL (19 R436). -/
def memTrained (s : State) (t0 t1 : Bool) : Bool := t0 && (t1 || s.boot.memProfile.testBit 5)

/-- READY: firmware has trained the LPDDR5X controllers (`t0`, `t1`), found the regulator linear at its address (`pmb`), set VDD_CORE to
`mv`, and initialised the device (`init0`): the registers of the block are written, the ports enabled, SAFE_N rises. -/
def doReady (s : State) (t0 t1 pmb init0 : Bool) (mv : Nat) : State :=
  if !inStep s 7 ∨ mv < 680 ∨ 820 < mv then s
  else
    let s := s.setBoot { s.boot with trained0 := t0, trained1 := t1 && !s.boot.memProfile.testBit 5 }
    if !(memTrained s t0 t1 && pmb && init0) then safeListen s 0x0C
    else
      let s := firstAvs s mv
      let (t, ok) := applyWrites (s.setBoot { s.boot with state := 1, passed := 7 }) s.boot.cfgWrites
      if !ok then safeListen (t.setBoot { t.boot with passed := 6 }) 0x0C
      else
        let s := enablePorts (binCfgWrite t (BitVec.ofNat 32 t.boot.binCfgInit))
        let s := s.setBoot { s.boot with readyUs := s.boot.age / usU % 2 ^ 32 }
        let s := s.setBin { s.bin with safeN := true, txCut := false, linksDown := false }
        let s := s.setLog { s.log with shadow := [] }
        let s := s.setHelm { s.helm with cores := s.helm.cores.map (fun c => { c with heartbeat := s.clk.shadow }) }
        raiseIbi s 2 (bootStat s)

/-! ### Deadlines (17 R393, R394) -/

/-- The end of a step at most, in microseconds from the rise of POR_N. -/
def stepBound (n : Nat) : Nat := [0, 0, 2000, 2500, 5000, 66000, 110000, 180000].getD n 0

/-- The FAIL codes of a step, in the order of its checks. -/
def stepCodes (n : Nat) : List Nat := [[], [], [0x01], [0x02], [0x03, 0x04, 0x05, 0x06], [0x07, 0x08], [0x09, 0x0A, 0x0B], [0x0F]].getD n []

/-- Has the device run longer than a bound since the steps began? -/
def pastBound (s : State) (us : Nat) : Bool := decide (s.boot.began + us * usU ≤ s.boot.age)

/-- BOOT_STEP_DEADLINE: the step has not ended by its bound; `part` says which of its checks was under way (log 30). -/
def doBootStepDeadline (s : State) (part : Nat) : State :=
  if s.boot.por && decide (s.boot.state = 0) && pastBound s (stepBound s.boot.stage) then
    let codes := stepCodes s.boot.stage
    safeListen s (codes.getD part (codes.getD 0 0))
  else s

/-- BOOT_TIMEOUT: step 7 has not ended after 180 ms. -/
def doBootTimeout (s : State) : State :=
  if s.boot.por && decide (s.boot.state = 0) && pastBound s 180000 then safeListen s 0x0F else s

def execPorPin (mode i3cSa : Nat) (s : State) : Res := .next (doPor s mode i3cSa)
def execBinnacleSelfTestEnd (pass : Bool) (s : State) : Res := .next (doBinnacleSelfTestEnd s pass)
def execRootPllLock (width speed : Nat) (s : State) : Res := .next (doRootPllLock s width speed)
def execBootRomEnd (core0 key : Bool) (serial : Word64) (s : State) : Res := .next (doBootRomEnd s core0 key serial)
def execSelfTestEnd (facets spares sextants cores rows banks : List Nat) (tables : Bool) (s : State) : Res := .next (doSelfTestEnd s facets spares sextants cores rows banks tables)
def execFirmwareReadEnd (octal : Bool) (s : State) : Res := .next (doFirmwareReadEnd s octal)
def execReadyOp (t0 t1 pmb init0 : Bool) (mv : Nat) (s : State) : Res := .next (doReady s t0 t1 pmb init0 mv)
def execBootTimeout (s : State) : Res := .next (doBootTimeout s)
def execSupplyDetectReset (core sram : Nat) (s : State) : Res := .next (doSupplyDetectReset s core sram)
def execPowerDown (short si lg : Bool) (s : State) : Res := .next (doPowerDown s short si lg)
def execVddSiLowReset (mv : Nat) (s : State) : Res := .next (doVddSiLowReset s mv)
def execBootStepDeadline (part : Nat) (s : State) : Res := .next (doBootStepDeadline s part)

end Sys2Proof.Machine
end

