-- ==== Sys2Proof/Machine/Mailbox.lean ====
section
/-! DEFINITION. The mailbox (17 R405 to R407), and REGISTER_WRITE, which reaches it beside the setup registers (19 R425, R432). -/

namespace Sys2Proof.Machine
open Sys2Proof

/-! ### Reach (17 R396, R407) -/

/-- Does a path reach the mailbox: the physical function once its endpoint answers; I3C, which after a failed self-test of the Binnacle
has REPORT (`code` 1) alone? -/
def mbxReach (s : State) (path code : Nat) : Bool :=
  if path = 0 then s.pci.dlUp && decide (10000 * usU ≤ s.boot.age)
  else decide (path = i3cPath) && s.boot.por && (decide (2 ≤ s.boot.passed) || decide (code = 1))

/-- TOP_MBX_CMD as it reads. -/
def mbxCmdWord (s : State) : Nat := bitAt s.mbx.busy 30 + s.mbx.result % 256 * 2 ^ 16 + s.mbx.cmd % 256

/-! ### What the commands do (17 R406) -/

/-- Start a command: BUSY until MBX_DONE, which then sets the result. -/
def mbxBegin (s : State) (code result : Nat) : State :=
  s.setMbx { s.mbx with cmd := code, busy := true, doneResult := result, failCode := none, chunk := none, running := code }

/-- Put bytes into the buffer from its first byte. -/
def mbxFill (s : State) (bs : List Byte) : State := s.setMbx { s.mbx with buf := memWriteBytes 0#8 s.mbx.buf 0 bs }

/-- ARG1: REGION and LEN. -/
def mbxRegion (s : State) : Nat := bits (s.mbx.args.getD 1 0) 31 28
def mbxLen (s : State) : Nat := bits (s.mbx.args.getD 1 0) 15 0

/-- Is the device in SAFE-LISTEN with more left than REPORT? -/
def listens (s : State) : Bool := decide (s.boot.state = 2) && decide (2 ≤ s.boot.passed)

/-- REPORT. -/
def mbxReport (s : State) : State := mbxFill (mbxBegin s 0x01 0) (reportFixed s 0 0)

/-- ATTEST: the signed report with J = 0 and the nonce of ARG2 and ARG3. -/
def mbxAttest (s : State) : State :=
  if !s.boot.lodestone then mbxBegin s 0x02 0x05
  else
    let nonce := (s.mbx.args.getD 2 0).toNat + (s.mbx.args.getD 3 0).toNat * 2 ^ 32
    mbxFill (mbxBegin s 0x02 0) (reportSigned s nonce [])

/-- The command that has begun puts bytes into a region at an offset. -/
def mbxHold (s : State) (cfg : Bool) (off : Nat) (bs : List Byte) : State := s.setMbx { s.mbx with chunk := some (cfg, off, bs) }

/-- ERASE: the old content of the region is gone. -/
def mbxErase (s : State) : State :=
  if !listens s then mbxBegin s 0x10 0x01
  else if mbxRegion s = 0 then (mbxHold (mbxBegin s 0x10 0) false 0 []).setFlash { s.flash with fw := [], fwNext := some 0 }
  else if mbxRegion s = 1 then (mbxHold (mbxBegin s 0x10 0) true 0 []).setFlash { s.flash with cfg := [], cfgNext := some 0 }
  else mbxBegin s 0x10 0x02

/-- Are the region, the offset and the length of a WRITE good? -/
def mbxWriteOk (s : State) : Bool :=
  let r := mbxRegion s
  let off := (s.mbx.args.getD 0 0).toNat
  let n := mbxLen s
  decide (r ≤ 1) && decide (4 ≤ n) && decide (n ≤ 32768) && decide (n % 4 = 0) &&
  decide ((if r = 0 then s.flash.fwNext else s.flash.cfgNext) = some off) &&
  decide (off + n ≤ (if r = 0 then 0x1000000 else 0x10000))

/-- WRITE: the bytes are taken from the buffer; they stand in the region when the command ends. -/
def mbxWriteFlash (s : State) : State :=
  if !listens s then mbxBegin s 0x11 0x01
  else if !mbxWriteOk s then mbxBegin s 0x11 0x02
  else
    mbxHold (mbxBegin s 0x11 0) (decide (mbxRegion s = 1)) (s.mbx.args.getD 0 0).toNat (memReadBytes 0#8 s.mbx.buf 0 (mbxLen s))

/-- What VERIFY finds. The image is checked under the block that the flash holds, or, when that fails, under the one in force (log 31). -/
def verifyFail (s : State) (region : Nat) : Option Nat :=
  let b := regionBytes s.flash.cfg 16384
  if region = 1 then blockFail b
  else
    match blockFail b with
    | none => imageFail s.flash.fw (fieldOf b 16 4) (fieldOf b 20 1)
    | some _ => imageFail s.flash.fw s.boot.minFw s.boot.keyMask

/-- VERIFY. -/
def mbxVerify (s : State) : State :=
  if !listens s then mbxBegin s 0x12 0x01
  else if 1 < mbxRegion s then mbxBegin s 0x12 0x02
  else match verifyFail s (mbxRegion s) with
    | none => mbxBegin s 0x12 0
    | some f => (let t := mbxBegin s 0x12 0x03; t.setMbx { t.mbx with failCode := some f })

/-- The device as REBOOT starts its steps again: the setup registers and counters keep what they hold (20 R444), the rest is as at a
power-up. -/
def rebootState (s : State) : State :=
  let first := if s.boot.fail = 0x01 ∨ s.boot.fail = 0x02 then 2 else 3
  { s with
    clk := { Clk.reset with shadow := s.clk.shadow, shadowMark := true }
    boot := { Boot.reset with
      por := true, stage := first, passed := first - 1, mode := s.boot.mode, i3cSa := s.boot.i3cSa,
      bootCount := (s.boot.bootCount + 1) % 2 ^ 32, age := s.boot.age, began := s.boot.age }
    helm := Helm.reset, cmds := [], runs := [], batches := [], chart := ChartSt.reset, rose := Rose.reset,
    log := { s.log with queue := [] }, ms := MerSt.reset, streams := [], csi := State.reset.csi,
    fleet := State.reset.fleet, fns := State.reset.fns, msix := [], pci := State.reset.pci,
    bin := { s.bin with
      safe := false, safeN := false, alertN := !alertStands s, causes := [], frozen := false, txCut := false, linksDown := false,
      setMv := 750, prevMv := 750, breached := [], warm := false, named := [], namedCmds := [], noLateMer := false,
      traceFell := false }
    pel := { s.pel with
      bsets := [], queue := [], ring := [], wp := 0, lostRun := 0, enBase := 0, watches := [], scan := [], stopIndex := 0,
      scanning := false } }

/-- REBOOT. -/
def mbxReboot (s : State) : State :=
  if !listens s then mbxBegin s 0x20 0x01
  else rebootState (mbxBegin s 0x20 0)

/-- LISTEN: refused while any ring is enabled or any stream is bound. -/
def mbxListen (s : State) : State :=
  if !ready s || s.helm.rings.any (fun r => r.2.enable) || !s.streams.isEmpty then mbxBegin s 0x21 0x01
  else
    let s := startWarm (mbxBegin s 0x21 0) false
    safeListen s 0

/-- A write of TOP_MBX_CMD with GO; an unknown code is refused. -/
def mbxGo (s : State) (path code : Nat) : State :=
  if !mbxReach s path code ∨ s.mbx.busy then s
  else
    match code with
    | 0x01 => mbxReport s
    | 0x02 => mbxAttest s
    | 0x10 => mbxErase s
    | 0x11 => mbxWriteFlash s
    | 0x12 => mbxVerify s
    | 0x20 => mbxReboot s
    | 0x21 => mbxListen s
    | _ => mbxBegin s code 0x06

/-- The bytes of a WRITE reach the region; after a flash error what stands there, for an ERASE in the whole region, is open (log 6). -/
def mbxLand (s : State) (c : Bool × Nat × List Byte) (good : Bool) : State :=
  let (cfg, off, bs) := c
  let n := if s.mbx.running = 0x10 then (if cfg then 0x10000 else 0x1000000) else bs.length
  let bs := if good then bs else (List.range n).map (fun i => Config.flashAfterError s.free (off + i))
  let s := if good then s else s.setFree (s.free + 1)
  let next := if good then some (off + bs.length) else some off
  if cfg then s.setFlash { s.flash with cfg := memWriteBytes 0xFF#8 s.flash.cfg off bs, cfgNext := next }
  else s.setFlash { s.flash with fw := memWriteBytes 0xFF#8 s.flash.fw off bs, fwNext := next }

/-- Does a command use the flash? -/
def mbxUsesFlash (code : Nat) : Bool := decide (code = 0x10) || decide (code = 0x11) || decide (code = 0x12)

/-- MBX_DONE: a command ends; `good` says that the flash served it without an error and within 120 s. -/
def doMbxDone (s : State) (good : Bool) : State :=
  if !s.mbx.busy then s
  else
    let bad := !good && mbxUsesFlash s.mbx.running && decide (s.mbx.doneResult ≠ 1) && decide (s.mbx.doneResult ≠ 2)
    let t := match s.mbx.chunk with | some c => mbxLand s c (!bad) | none => s
    let args := match s.mbx.failCode with
      | some f => if bad then s.mbx.args else lset s.mbx.args 0 (BitVec.ofNat 32 f)
      | none => s.mbx.args
    let t := t.setMbx { t.mbx with
      busy := false, result := if bad then 0x04 else s.mbx.doneResult, args := args, chunk := none, failCode := none }
    raiseIbi t 4 (mbxCmdWord t)

/-! ### The mailbox in the address space -/

/-- Where BAR4 of the physical function begins in the offsets of this model: page 0x10 of 19 R432. -/
def mbxBase : Nat := 0x100000

/-- A read of a mailbox word. -/
def mbxRead (s : State) (path m : Nat) : Nat :=
  if !mbxReach s path 1 then 0
  else if m = 0 then mbxCmdWord s
  else if 4 ≤ m ∧ m ≤ 0x10 then (s.mbx.args.getD (m / 4 - 1) 0).toNat
  else if 0x8000 ≤ m ∧ m < 0x10000 then leNat (memReadBytes 0#8 s.mbx.buf (m - 0x8000) 4)
  else 0

/-- A write of a mailbox word. -/
def mbxWrite (s : State) (path m : Nat) (w : Word) : State :=
  if m = 0 then
    (if bit w 31 then mbxGo s path (bits w 7 0)
     else if mbxReach s path (bits w 7 0) then s.setMbx { s.mbx with cmd := bits w 7 0 } else s)
  else if !mbxReach s path 0 then s
  else if 4 ≤ m ∧ m ≤ 0x10 then s.setMbx { s.mbx with args := lset s.mbx.args (m / 4 - 1) (if m / 4 = 2 then w &&& 0xF000FFFF#32 else w) }
  else if 0x8000 ≤ m ∧ m < 0x10000 then
    s.setMbx { s.mbx with buf := memWriteBytes 0#8 s.mbx.buf (m - 0x8000) (leBytes 4 w.toNat) }
  else s

/-- A write of a word by a path: a setup register, or the mailbox. -/
def spaceWrite (s : State) (path off : Nat) (w : Word) : State :=
  if off < mbxBase then regWrite s path off w
  else if off < mbxBase + 0x10000 then mbxWrite s path (off - mbxBase) w
  else s

/-- A read of a word by a path. -/
def spaceRead (s : State) (path off : Nat) : State × Nat :=
  if off < mbxBase then regRead s path off
  else if off < mbxBase + 0x10000 then (s, mbxRead s path (off - mbxBase))
  else (s, 0)

/-- REGISTER_WRITE: a write by a path with its byte enables all set or not (20 R442); one with EP set is discarded (15 R362). -/
def doRegisterWrite (s : State) (path off : Nat) (w : Word) (full ep : Bool) : State :=
  if ep ∧ path ≠ i3cPath then s.setPci { s.pci with epDropped := s.pci.epDropped + 1 }
  else
    let s := if path = i3cPath then s else pcieIn s 4
    if full then spaceWrite s path off w else s

def execMbxReport (path : Nat) (s : State) : Res := .next (mbxGo s path 0x01)
def execMbxAttest (path : Nat) (s : State) : Res := .next (mbxGo s path 0x02)
def execMbxErase (path : Nat) (s : State) : Res := .next (mbxGo s path 0x10)
def execMbxWrite (path : Nat) (s : State) : Res := .next (mbxGo s path 0x11)
def execMbxVerify (path : Nat) (s : State) : Res := .next (mbxGo s path 0x12)
def execMbxReboot (path : Nat) (s : State) : Res := .next (mbxGo s path 0x20)
def execMbxListen (path : Nat) (s : State) : Res := .next (mbxGo s path 0x21)
def execMbxDone (good : Bool) (s : State) : Res := .next (doMbxDone s good)
def execRegisterWrite (path off : Nat) (w : Word) (full ep : Bool) (s : State) : Res := .next (doRegisterWrite s path off w full ep)

end Sys2Proof.Machine
end

