-- ==== Sys2Proof/Machine/I3c.lean ====
section
/-! DEFINITION. The I3C target (19 R430 to R434): private writes and reads, the CCCs, in-band interrupts. Values leave in the order of the
bus: registers least significant byte first (R432), CCC answers most significant byte first (log 23). -/

namespace Sys2Proof.Machine
open Sys2Proof

/-- Update the target. -/
def updI3c (s : State) (f : I3cSt → I3cSt) : State := s.setI3c (f s.i3c)

/-- Set an error bit of I3C_STAT: the transfer is discarded. -/
def i3cErr (s : State) (i : Nat) : State := rflag s 0xF0100 i

/-- The byte that an I3C address names; the address is 16 bits, so it wraps within its page (log 32). -/
def i3cAddr (s : State) (a : Nat) : Nat := s.i3c.page * 0x10000 + a % 0x10000

/-- The 32-bit words of a byte list. -/
def wordsOf : Nat → List Byte → List Word
  | 0, _ => []
  | n + 1, bs => BitVec.ofNat 32 (leNat (bs.take 4)) :: wordsOf n (bs.drop 4)

/-- Write words at rising addresses. -/
def i3cWrite (s : State) (a : Nat) : List Word → State
  | [] => s
  | w :: ws => i3cWrite (spaceWrite s i3cPath (i3cAddr s a) w) (a + 4) ws

/-- Read n words from the read address on, which rises with each. -/
def i3cRead : Nat → State → List Byte → State × List Byte
  | 0, s, acc => (s, acc)
  | n + 1, s, acc =>
    let (t, v) := spaceRead s i3cPath (i3cAddr s s.i3c.rdAddr)
    i3cRead n (updI3c t (fun x => { x with rdAddr := (x.rdAddr + 4) % 0x10000 })) (acc ++ leBytes 4 v)

/-- I3C_SET_PAGE: a private write whose first byte is 0x01; a first byte that is no operation is an error. -/
def doI3cSetPage (s : State) (first page : Nat) : State :=
  if !s.boot.por ∨ first = 2 ∨ first = 3 then s
  else if first ≠ 1 then i3cErr s 4
  else if 0x10 < page then i3cErr s 2
  else updI3c s (fun x => { x with page := page })

/-- I3C_WRITE_WORDS: a private write with first byte 0x02. -/
def doI3cWriteWords (s : State) (a : Nat) (data : List Byte) : State :=
  let badA := decide (a % 4 ≠ 0)
  let badN := decide (data.length % 4 ≠ 0) || decide (256 < data.length)
  if !s.boot.por then s
  else if badA || badN then
    let s := if badA then i3cErr s 1 else s
    if badN then i3cErr s 3 else s
  else i3cWrite s (a % 0x10000) (wordsOf (data.length / 4) data)

/-- I3C_SET_READ_ADDR: a private write with first byte 0x03, and the private read of n words that follows it. -/
def doI3cSetReadAddr (s : State) (a n : Nat) : State :=
  if !s.boot.por then s
  else if a % 4 ≠ 0 then i3cErr s 1
  else
    let (t, bs) := i3cRead n (updI3c s (fun x => { x with rdAddr := a % 0x10000 })) []
    if n = 0 then t else emit t (.i3cRead bs)

/-! ### CCCs -/

/-- ENTDAA: a target without a dynamic address takes the one it is given. -/
def doEntdaa (s : State) (da : Nat) : State :=
  if s.boot.por ∧ s.i3c.da = none then updI3c s (fun x => { x with da := some (da % 128) }) else s

/-- SETDASA: the static address is 0x50 + I3C_SA. -/
def doSetdasa (s : State) (sa da : Nat) : State :=
  if s.boot.por ∧ s.i3c.da = none ∧ sa = 0x50 + s.boot.i3cSa then updI3c s (fun x => { x with da := some (da % 128) }) else s

/-- SETNEWDA, to the target's present dynamic address. -/
def doSetnewda (s : State) (cur da : Nat) : State :=
  if s.boot.por ∧ s.i3c.da = some cur then updI3c s (fun x => { x with da := some (da % 128) }) else s

/-- RSTDAA. -/
def doRstdaa (s : State) : State := if s.boot.por then updI3c s (fun x => { x with da := none }) else s

/-- ENEC and DISEC: bit 0 of the events byte names target interrupts. -/
def doEnec (s : State) (events : Nat) : State :=
  if s.boot.por ∧ events.testBit 0 then updI3c s (fun x => { x with ibiEn := true }) else s
def doDisec (s : State) (events : Nat) : State :=
  if s.boot.por ∧ events.testBit 0 then updI3c s (fun x => { x with ibiEn := false }) else s

/-- The answer to a GET CCC, which goes to the target's dynamic address. -/
def i3cAnswer (s : State) (bs : List Byte) : State := if s.boot.por ∧ s.i3c.da.isSome then emit s (.i3cRead bs) else s

/-- n bytes of a number, most significant first. -/
def beBytes (n v : Nat) : List Byte := (leBytes n v).reverse

/-- The 48-bit provisional ID. -/
def i3cPid (s : State) : Nat := 0x1D47 * 2 ^ 33 + 0x7409 * 2 ^ 16 + s.boot.serial.toNat % 2 ^ 12

/-- SETMWL and SETMRL: a length below 8 B is ignored. -/
def doSetmwl (s : State) (n : Nat) : State :=
  if s.boot.por ∧ 8 ≤ n % 2 ^ 16 then updI3c s (fun x => { x with mwl := n % 2 ^ 16 }) else s
def doSetmrl (s : State) (n : Nat) : State :=
  if s.boot.por ∧ 8 ≤ n % 2 ^ 16 then updI3c s (fun x => { x with mrl := n % 2 ^ 16 }) else s

/-! ### In-band interrupts -/

/-- IBI_RETRY: the bus is free; the kinds that the controller has acknowledged are done with, one that it has NACKed is raised again. -/
def doIbiRetry (s : State) (acked : List Nat) : State :=
  let s := updI3c s (fun x => { x with ibis := x.ibis.filter (fun e => !acked.contains e.1) })
  if !s.i3c.ibiEn then s else s.i3c.ibis.foldl (fun s e => emit s (.ibi e.1 e.2)) s

def execI3cSetPage (first page : Nat) (s : State) : Res := .next (doI3cSetPage s first page)
def execI3cWriteWords (a : Nat) (data : List Byte) (s : State) : Res := .next (doI3cWriteWords s a data)
def execI3cSetReadAddr (a n : Nat) (s : State) : Res := .next (doI3cSetReadAddr s a n)
def execEntdaa (da : Nat) (s : State) : Res := .next (doEntdaa s da)
def execSetdasa (sa da : Nat) (s : State) : Res := .next (doSetdasa s sa da)
def execSetnewda (cur da : Nat) (s : State) : Res := .next (doSetnewda s cur da)
def execRstdaa (s : State) : Res := .next (doRstdaa s)
def execEnec (events : Nat) (s : State) : Res := .next (doEnec s events)
def execDisec (events : Nat) (s : State) : Res := .next (doDisec s events)
def execGetpid (s : State) : Res := .next (i3cAnswer s (beBytes 6 (i3cPid s)))
def execGetbcr (s : State) : Res := .next (i3cAnswer s [0x06#8])
def execGetdcr (s : State) : Res := .next (i3cAnswer s [0x00#8])
def execGetstatus (s : State) : Res := .next (i3cAnswer s (Config.i3cStatusBytes 0))
def execGetmwl (s : State) : Res := .next (i3cAnswer s (beBytes 2 s.i3c.mwl))
def execGetmrl (s : State) : Res := .next (i3cAnswer s (beBytes 2 s.i3c.mrl))
def execSetmwl (n : Nat) (s : State) : Res := .next (doSetmwl s n)
def execSetmrl (n : Nat) (s : State) : Res := .next (doSetmrl s n)
def execGetmxds (s : State) : Res := .next (i3cAnswer s (Config.i3cStatusBytes 1))
def execIbiRetry (acked : List Nat) (s : State) : Res := .next (doIbiRetry s acked)

end Sys2Proof.Machine
end

