-- ==== Sys2Proof/Machine/Clock.lean ====
section
/-! DEFINITION. One AK cycle (01 R27 to R29, R32; 13 R315, R319, R322): what step does on an empty queue (log 2). The clocks
advance, and what the device does of itself in a cycle is done: admitted rows land, waits that are met end, frames start, trace records
drain. -/

namespace Sys2Proof.Machine
open Sys2Proof

/-- n root periods of 0.3125 ns at y = 0. -/
def rootPeriods (n : Nat) : Mer := n * 5 * nsU / 16

/-- The AK counts of the sectors that are not gated rise. -/
def countSectors (c : Clk) : List Nat := c.sectorAk.zipIdx.map (fun x => if (c.gated.getD x.2 none).isSome then x.1 else x.1 + 1)

/-- The clocks over one AK cycle of k root periods: an MK edge falls within it when 16 periods are up, and counts from the cycle that
begins at or after it. -/
def clockCycle (s : State) (k : Nat) : State :=
  let p := s.clk.rootPhase + k
  let s := s.setClk { s.clk with stretch := 0, sectorAk := countSectors s.clk }
  let s := if 16 ≤ p then mkEdge (s.setClk { s.clk with rootPhase := 0 }) (s.clk.chipAk + 1) else s
  let s := s.setClk { s.clk with chipAk := s.clk.chipAk + 1, rootPhase := if 16 ≤ p then p - 16 else p }
  s.setClk { s.clk with shadow := stamp s }

/-- What happens of itself in a cycle; nothing of the fleet or of a route while the safe state freezes the array. -/
def cycleWork (s : State) : State :=
  let s := noteStop (sweepModels (landRows s))
  let s := if frozen s then s else settleWaits s
  let s := if fleetOn s then startFrames (drainPeers s) else s
  drainTrace s

/-- One AK cycle. While POR_N is low nothing runs; without the root PLL the Binnacle's time alone advances. -/
def tick (s : State) : State :=
  if !s.boot.por then s
  else
    let k := 4 + s.clk.stretch
    if !s.clk.locked then
      (s.setBoot { s.boot with age := s.boot.age + rootPeriods 4 }).setClk { s.clk with shadow := s.clk.shadow + rootPeriods 4 }
    else cycleWork (clockCycle (s.setBoot { s.boot with age := s.boot.age + rootPeriods k }) k)

end Sys2Proof.Machine
end

