-- ==== Sys2Proof/Machine/Cells.lean ====
section
/-! DEFINITION. The cells of the Rose: FIRST, MAC, MSUB, PRELOAD, DRAIN, IDLE (05 R117 to R138; 06 R145, R167 to R169). -/

namespace Sys2Proof.Machine
open Sys2Proof

/-! ### Operands and Vernier passes (05 R128, R129, R134, R135) -/

/-- The value of an operand: block elements take their exponent, others decode by their format. -/
def opndVal (o : Opnd) : Num :=
  if o.fmt = 1 ∨ o.fmt = 2 then decodeBlock 4 o.pat o.blockExp
  else if o.fmt = 4 ∨ o.fmt = 5 then decodeBlock 8 o.pat o.blockExp
  else match fmtOfCode o.fmt with
    | some f => (decode f o.pat).1
    | none => .nan

/-- Does an operand's pattern decode by a flush of a long-format subnormal (06 R145)? -/
def opndFlush (o : Opnd) : Bool :=
  match fmtOfCode o.fmt with
  | some .k4b | some .k8b | none => false
  | some f => (decode f o.pat).2

/-- The events of decoding an operand. -/
def opndEv (o : Opnd) : NumEv := { flushed := if opndFlush o then 1 else 0 }

/-- May the format enter the Rose: every chart format but binary64? -/
def roseFmt (code : Nat) : Bool := (fmtOfCode code).isSome && decide (code ≠ 10)

/-! ### Accumulators and the chunks in passage (05 R117, R118, R120, R121) -/

/-- The key of a cell's accumulator; `slot` is that of the run's problem. -/
def accKey (c : CellAt) : Nat := facetKey c.slot c.facet * 1024 + c.strip % 32 * 32 + c.pos % 32

/-- The content of an accumulator, none when it is empty (05 R118). -/
def accOf (s : State) (c : CellAt) : Option W48 := mget s.rose.acc (accKey c)

/-- Write an accumulator. -/
def setAcc (s : State) (c : CellAt) (v : W48) : State := s.setRose { s.rose with acc := mset s.rose.acc (accKey c) v }

/-- A cell by the slot of the problem of the run that works there: 0 outside a batch. -/
def CellAt.of (c : CellAt) (r : Run) : CellAt := { c with slot := runSlot r }

/-- Have all facets of a run's berths taken their ladder step (05 R126)? A binding's berth took them at STREAM_BIND, a batch unit's at
the batch's start. -/
def roseStarted (s : State) (r : Run) : Bool :=
  if r.slot.isSome then true
  else match r.stream with
    | some n => (match mget s.streams n with
      | some st => decide (st.startAk + 32 * (ceilDiv st.berth.size 4 - 1) ≤ s.clk.chipAk)
      | none => false)
    | none => decide (startedFacets r s.clk.chipAk = runSize r)

/-- The run that a cell works for, when it acts, its berth has left idle and the array is not frozen. -/
def cellRun (s : State) (c : CellAt) : Option Run :=
  if frozen s then none
  else match runOnFacet s c.facet c.slot with
    | some r => if acting s r && roseStarted s r then some r else none
    | none => none

/-- The berth of a run that holds a facet. -/
def berthOn (r : Run) (g : Nat) : Option Berth := r.berths.find? (fun b => b.facets.contains g)

/-- The west and the north neighbour of a cell inside its berth; none at the berth's edge, where the facet's own feeder injects
(05 R121). -/
def westOf (b : Berth) (c : CellAt) : Option CellAt :=
  if 0 < c.pos % 32 then some { c with pos := c.pos % 32 - 1 }
  else if dieCol c.facet = dieCol b.origin then none
  else some { c with facet := facetAt (dieRow c.facet) (dieCol c.facet - 1), pos := 31 }
def northOf (b : Berth) (c : CellAt) : Option CellAt :=
  if 0 < c.strip % 32 then some { c with strip := c.strip % 32 - 1 }
  else if dieRow c.facet = dieRow b.origin then none
  else some { c with facet := facetAt (dieRow c.facet - 1) (dieCol c.facet), strip := 31 }

/-- The key of what a cell passed on in an AK cycle; the entries of two cycles in a row stand side by side. -/
def passKey (c : CellAt) (ak : Nat) : Nat := ak % 2 * 524288 + accKey c

/-- The chunk that a neighbour passed on in the AK cycle before this one (01 R15, 05 R117). -/
def passed (s : State) (m : Map (Nat × Opnd)) : Option CellAt → Option Opnd
  | none => none
  | some c => match mget m (passKey c (s.clk.chipAk - 1)) with
    | some (t, o) => if t + 1 = s.clk.chipAk then some o else none
    | none => none

/-- The operand that reaches a cell: the neighbour's chunk, and without one the feeder's, which the command carries (log 132). The
second component counts a flush in the feeder (06 R145), once for each operand, on its first pass. -/
def reaching (s : State) (m : Map (Nat × Opnd)) (from0 : Option CellAt) (pass : Nat) (o : Opnd) : Opnd × NumEv :=
  match passed s m from0 with
  | some x => (x, {})
  | none => (o, if pass = 0 then opndEv o else {})

/-- A cell passes both chunks on to its east and south neighbours. -/
def passOn (s : State) (c : CellAt) (w n : Opnd) : State :=
  let k := passKey c s.clk.chipAk
  s.setRose { s.rose with
    east := mset s.rose.east k (s.clk.chipAk, w), south := mset s.rose.south k (s.clk.chipAk, n), rowZ := mdel s.rose.rowZ (accKey c) }

/-- The trap record of a cell operation (06 R168). -/
def cellTrap (c : CellAt) (op pass : Nat) (w n : Opnd) (res : W48) (site : TrapRec) : TrapRec :=
  { kind := 0, unitK := 0, opcode := op, count := 1, routeAddr := site.routeAddr, step := site.step, facet := c.facet,
    strip := c.strip % 32, pos := c.pos % 32, row := site.row, col := site.col, fmtA := w.fmt, fmtB := n.fmt, fmtR := 9,
    pass := pass, ak := 0, opndA := w.pat, opndB := n.pat, result := res.toNat }

/-- A product operation of a cell: 1 FIRST, 2 MAC, 3 MSUB. A MAC onto an empty accumulator, for which the spec gives no value,
leaves a free one (log 39). -/
def cellOp (s : State) (op : Nat) (c : CellAt) (w n : Opnd) (pass : Nat) (site : TrapRec) : State :=
  match cellRun s c with
  | none => s
  | some r =>
    if !roseFmt w.fmt || !roseFmt n.fmt then s
    else
      let strict := (runNum s r).strict
      let s := feedEcc s c.ecc
      let c := c.of r
      let b := berthOn r c.facet
      let (w, ew) := reaching s s.rose.east (b.bind (westOf · c)) pass w
      let (n, en) := reaching s s.rose.south (b.bind (northOf · c)) pass n
      let s := passOn (putRun s { r with counts := { r.counts with productCycles := r.counts.productCycles + 1 } }) c w n
      let ev0 := ew.add en
      match cellProduct r.route.vernier pass (opndVal w) (opndVal n), accOf s c, decide (op = 1) with
      | none, _, _ => s
      | some _, none, false =>
        let (v, s) := freeNat s 39
        setAcc s c (BitVec.ofNat 48 v)
      | some p, acc, _ =>
        let (v, e1) := toAcc strict p
        let (x, e2) := accAfter strict op (match acc with | some a => w48 a | none => .zero false) v
        let s := setAcc s c (toW48 x)
        match findRun s r.key with
        | some r => opEvents s r ((ev0.add e1).add e2) (cellTrap c op pass w n (toW48 x) site)
        | none => s

/-- FIRST. -/
def doFirst (s : State) (c : CellAt) (w n : Opnd) (pass : Nat) (site : TrapRec) : State := cellOp s 1 c w n pass site
/-- MAC; `words` are corrected words of its feeders' reads beside those that the cell itself names. -/
def doMac (s : State) (c : CellAt) (w n : Opnd) (pass : Nat) (site : TrapRec) (words : List Nat) : State :=
  cellOp s 2 { c with ecc := c.ecc ++ words } w n pass site
/-- MSUB. -/
def doMsub (s : State) (c : CellAt) (w n : Opnd) (pass : Nat) (site : TrapRec) : State := cellOp s 3 c w n pass site

/-- PRELOAD: the W48 value on the strip's operand bus. -/
def doPreload (s : State) (c : CellAt) (v : W48) : State :=
  match cellRun s c with
  | some r =>
    let s := feedEcc s c.ecc
    setAcc (s.setRose { s.rose with rowZ := mdel s.rose.rowZ (accKey (c.of r)) }) (c.of r) v
  | none => s

/-- IDLE: the strip holds its accumulators (01 R20). -/
def doIdle (s : State) (_c : CellAt) : State := s

/-! ### Writes of a route into its Plot (05 R139, R142; 08 R202, R203, R211, R212, R214) -/

/-- The berth among some whose Plot holds n bytes from a Chart address (08 R211). -/
def plotHolder (r : Run) (bs : List Berth) (a n : Nat) : Option Berth :=
  ((splitPlots r.route r.berths r.plots).find? (fun x => bs.contains x.1 && x.2.any (fun p => decide (plotBase p ≤ a) && decide (a + n ≤ plotBase p + p.lines * 2048)))).map (·.1)

/-- May a unit of a sector write bytes: inside its berth's own Plot, and in another sector through the berth window under the berth's
writer ID (08 R211, R212, R214)? `bs` are the berths of the run that the unit serves. -/
def routeMayWrite (s : State) (r : Run) (bs : List Berth) (sector a n : Nat) : Bool :=
  match plotHolder r bs a n with
  | some b => decide (a / 0x1000000 = sector) || admits s (a / 512 * 512) (berthWriter b) false
  | none => false

/-- What a watch on the run sees of a route's store of bytes at an address (18 R418, R419): a DUMP that still copies a range is torn at the
first byte of it; a STATS watch taps an element that its own step stores inside its range. -/
def Watch.sees (w : Watch) (base len step a : Nat) (data : List Byte) (el : Option (Nat × Nat)) : Watch :=
  match w.plot, w.dump with
  | some (b, n), true =>
    if w.copying ∧ a < b + n ∧ b < a + data.length then
      let o := a - b
      { w with torn := some (match w.torn with | some x => if x < o then x else o | none => o) }
    else w
  | none, true => w
  | _, false =>
    match el with
    | none => w
    | some (code, e) =>
      let room := if w.len < len - w.addr then w.len else len - w.addr
      if (w.fired ∧ !w.killed) ∨ step ≠ w.step ∨ a < base + w.addr ∨ base + w.addr + room < a + data.length then w
      else { w with taps := w.taps.filter (fun x => decide (x.addr < a)) ++ [⟨a, code, data, e⟩] ++ w.taps.filter (fun x => decide (a < x.addr)) }

/-- Every watch on a run sees its store. -/
def watchStore (s : State) (r : Run) (step a : Nat) (data : List Byte) (el : Option (Nat × Nat)) : State :=
  let (base, len) := match r.plots with | p :: _ => (plotBase p, p.lines * 2048) | [] => (0, 0)
  s.setPel { s.pel with watches := s.pel.watches.map (fun w => if w.target == r.key then w.sees base len step a data el else w) }

/-- A route's write of bytes, which holds its bank cycle at the latency of its path. A refused remote one is counted; that and an address
outside the Plot end the run with WINDOW_FAULT (10 R273, R274). -/
def routeWrite (s : State) (r : Run) (bs : List Berth) (sector step a : Nat) (data : List Byte) (el : Option (Nat × Nat)) : State :=
  let row := a / 512 * 512
  let writer := berthWriter ((bs ++ r.berths).headD ⟨0, 0, 0⟩)
  if routeMayWrite s r bs sector a data.length then
    let s := watchStore (admitBytes s a writer (sectorLatency sector (a / 0x1000000)) data) r step a data el
    match findRun s r.key with
    | some r => putRun s { r with counts := { r.counts with chartWr := r.counts.chartWr + data.length } }
    | none => s
  else windowFault (if (plotHolder r bs a data.length).isSome then countRefused s row else s) r row writer

/-- A write of a facet's units at a route step; `el` gives an element's chart format code and block exponent. -/
def facetWrite (s : State) (k : CmdKey) (g step a : Nat) (data : List Byte) (el : Option (Nat × Nat)) : State :=
  match findRun s k with
  | some r => if acting s r then routeWrite s r (r.berths.filter (fun b => b.facets.contains g)) (g / 16) step a data el else s
  | none => s

/-! ### Draining (05 R122, R136, R137) -/

/-- AK cycles of a drain (05 R122): by its storage format; HOLD drains nothing. -/
def drainAk : Option Nat → Nat
  | none => 0
  | some code => if code = 9 then 64 else 32

/-- Shift a strip one cell toward its bus end, which is position 0 (log 40): the value that leaves, none from an empty cell. -/
def shiftStrip (s : State) (c : CellAt) : Option W48 × State :=
  let out := accOf s { c with pos := 0 }
  let s := (List.range 32).foldl (fun s i =>
    match (if i < 31 then accOf s { c with pos := i + 1 } else none) with
    | some v => setAcc s { c with pos := i } v
    | none => s.setRose { s.rose with acc := mdel s.rose.acc (accKey { c with pos := i }) }) s
  (out, s)

/-- A drained value: an empty cell's is free (log 39). -/
def drained (s : State) (c : CellAt) : Num × State :=
  match shiftStrip s c with
  | (some v, s) => (w48 v, s)
  | (none, s) => let (v, s) := freeNat s 39; (w48 (BitVec.ofNat 48 v), s)

/-- The berth column of a cell (05 R124). -/
def cellCol (b : Berth) (c : CellAt) : Nat := 32 * (dieCol c.facet - dieCol b.origin) + c.pos % 32

/-- The cell of a berth column in the same berth row. -/
def cellAtCol (b : Berth) (c : CellAt) (j : Nat) : CellAt :=
  { c with facet := facetAt (dieRow c.facet) (dieCol b.origin + j / 32), pos := j % 32 }

/-- z of a row and point that the stage passes along the berth row (05 R137): what the primal column's drain left, or, when that column
has not drained yet, the value that will leave it; free where the cell is empty (log 39). -/
def rowPrimal (s : State) (p : CellAt) : Num × State :=
  match mget s.rose.rowZ (accKey p), accOf s p with
  | some z, _ => ((decode .b32 z).1, s)
  | none, some v => ((decode .b32 (patOf .b32 (w48 v))).1, s)
  | none, none => let (v, s) := freeNat s 39; ((decode .b32 (v % 2 ^ 32)).1, s)

/-- The value that leaves position i of a strip, after the activation stage, with its events (05 R136, R137): column t of a point is the
primal one for t = 0 and a tangent one otherwise. -/
def activate (s : State) (b : Berth) (strict : Bool) (c : CellAt) (act : ActMode) (v : Num) : Num × NumEv × State :=
  match act with
  | .none => (v, {}, s)
  | .layer code d =>
    let j := cellCol b c
    let t := j % (1 + d)
    let (x, e) := roundTo .b32 strict v
    if t = 0 then (actOf code false x, e, s.setRose { s.rose with rowZ := mset s.rose.rowZ (accKey c) (patOf .b32 x) })
    else
      let (z, s) := rowPrimal s (cellAtCol b c (j - t))
      let (y, e2) := mulR .b32 strict (actOf code true z) x
      (y, e.add e2, s)

/-- The trap record of the store path or the activation stage. -/
def drainTrap (c : CellAt) (pos : Nat) (stage : Bool) (fmtA fmtR : Nat) (a res : Nat) (site : TrapRec) : TrapRec :=
  { kind := 0, unitK := if stage then 1 else 3, opcode := if stage then 0x30 else 0x20, count := 1, routeAddr := site.routeAddr,
    step := site.step, facet := if stage then c.facet else c.facet / 16, strip := if stage then c.strip % 32 else 0,
    pos := if stage then pos else 0, row := site.row, col := site.col, fmtA := fmtA, fmtB := 0, fmtR := fmtR, pass := 0, ak := 0,
    opndA := a, opndB := 0, result := res }

/-- Events and a trap of a drained element. -/
def drainEvents (s : State) (k : CmdKey) (e : NumEv) (t : TrapRec) : State :=
  match findRun s k with
  | some r => opEvents s r e t
  | none => s

/-- Values that leave a strip, through the activation stage, in the order they leave. -/
def drainVals (s : State) (c : CellAt) (b : Berth) (r : Run) (act : ActMode) (site : TrapRec) : Nat → Nat → List Num × State
  | 0, _ => ([], s)
  | n + 1, i =>
    let strict := (runNum s r).strict
    let (v, s) := drained s c
    let (x, e, s) := activate s b strict { c with pos := i } act v
    let s := drainEvents s r.key e (drainTrap c i true 9 8 (patOf .w48 v) (patOf .b32 x) { site with row := site.row, col := site.col + i })
    let (xs, s) := drainVals s c b r act site n (i + 1)
    (x :: xs, s)

/-- The pattern of a value as it leaves the drain: W48, or binary32 after an activation. -/
def drainPat (fmtA : Nat) (v : Num) : Nat := if fmtA = 9 then patOf .w48 v else patOf .b32 v

/-- Store drained values in a plain format, one address each, under the command's mode (06 R155). -/
def storeEach (s : State) (c : CellAt) (k : CmdKey) (f : Fmt) (code fmtA : Nat) (site : TrapRec) : List Num → List Nat → State
  | v :: vs, a :: as0 =>
    match findRun s k with
    | none => s
    | some r =>
      let n := runNum s r
      let (p, e) := convert v f n.rm n.strict
      let s := drainEvents s k e (drainTrap c 0 false fmtA code (drainPat fmtA v) p site)
      storeEach (facetWrite s k c.facet site.step a (leBytes f.bytes p) (some (code, 0))) c k f code fmtA { site with col := site.col + 1 } vs as0
  | _, _ => s

/-- Store drained values as K8b blocks of b elements: elements at their addresses, exponents at theirs (06 R148); a trap names the first
element that overflows (R169). -/
def storeBlk (s : State) (c : CellAt) (k : CmdKey) (b code fmtA : Nat) (site : TrapRec) : Nat → List Num → List Nat → List Nat → State
  | 0, _, _, _ => s
  | fuel + 1, vs, as0, es =>
    match vs, es, findRun s k with
    | _ :: _, ea :: es', some r =>
      let n := runNum s r
      let blk := vs.take b
      let (E, qs, ev) := storeK8b (blk ++ List.replicate (b - blk.length) (Num.zero false)) n.rm n.strict
      let (i, v, q) := (blockFirst n.rm b blk).getD (0, blk.headD (.zero false), qs.headD 0)
      let s := drainEvents s k ev (drainTrap c 0 false fmtA code (drainPat fmtA v) q { site with col := site.col + i })
      let s := ((qs.take blk.length).zip as0).foldl (fun s x => facetWrite s k c.facet site.step x.2 (b1 x.1) (some (code, E)))
        (facetWrite s k c.facet site.step ea (b1 E) none)
      storeBlk s c k b code fmtA { site with col := site.col + b } fuel (vs.drop b) (as0.drop b) es'
    | _, _, _ => s

/-- Drain into the panel buffer. -/
def drainPanel (s : State) (c : CellAt) (k : CmdKey) (site : TrapRec) : List Nat → Nat → State
  | [], _ => s
  | el :: els, i =>
    match findRun s k with
    | none => s
    | some r =>
      let (v, s) := drained s c
      let (p, e) := enterPivot (runNum s r).strict v
      let s := s.setRose { s.rose with panel := mset s.rose.panel (facetKey c.slot c.facet * 1024 + el % 1024) p }
      let s := drainEvents s k e (drainTrap c i true 9 9 (patOf .w48 v) p.toNat { site with col := site.col + i })
      drainPanel s c k site els (i + 1)

/-- DRAIN: the strip shifts toward its bus end, once for each value that leaves. A panel drain is a route-step boundary (07 R176); K4b is
no storage format of results (06 R147). -/
def doDrain (s : State) (c : CellAt) (dst : DrainTo) (site : TrapRec) : State :=
  match cellRun s c with
  | none => s
  | some r =>
    let s := feedEcc s c.ecc
    let c := c.of r
    match dst with
    | .panel els => boundary (drainPanel s c r.key site els 0) r.key
    | .plot addrs fmt exps act =>
      if fmt = 1 ∨ fmt = 2 then s
      else
        let (vs, s) := drainVals s c ((berthOn r c.facet).getD ⟨c.facet, 1, 1⟩) r act site addrs.length 0
        let b := blockOf fmt
        let fa := match act with | .none => 9 | _ => 8
        if 0 < b then storeBlk s c r.key b fmt fa site vs.length vs addrs exps
        else match fmtOfCode fmt with
          | some f => storeEach s c r.key f fmt fa site vs addrs
          | none => s

def execFirstOp (c : CellAt) (w n : Opnd) (pass : Nat) (site : TrapRec) (s : State) : Res := .next (doFirst s c w n pass site)
def execMac (c : CellAt) (w n : Opnd) (pass : Nat) (site : TrapRec) (words : List Nat) (s : State) : Res :=
  .next (doMac s c w n pass site words)
def execMsub (c : CellAt) (w n : Opnd) (pass : Nat) (site : TrapRec) (s : State) : Res := .next (doMsub s c w n pass site)
def execPreload (c : CellAt) (v : W48) (s : State) : Res := .next (doPreload s c v)
def execDrainOp (c : CellAt) (dst : DrainTo) (site : TrapRec) (s : State) : Res := .next (doDrain s c dst site)
def execIdleOp (c : CellAt) (s : State) : Res := .next (doIdle s c)

end Sys2Proof.Machine
end

