-- ==== Sys2Proof/Machine/Sextant.lean ====
section
/-! DEFINITION. The Sextant lanes: FMA, ADD, SUB, MUL, DIV, SQRT, MAX, MIN, COMPARE, ABS, POW2_SCALE, CONVERT
(05 R139 to R142; 06 R151 to R164, R167; 03 R72). -/

namespace Sys2Proof.Machine
open Sys2Proof

/-! ### Fixed figures (05 R140) -/

/-- Latency and issue interval in AK cycles by the trap opcode of an operation; 0x1F stands for power-of-two scaling and
exponent extraction, 0x1E for comparison and absolute value. -/
def sextantTiming (op : Nat) : Nat × Nat :=
  if op = 0x14 then (14, 4) else if op = 0x15 then (16, 4) else if op = 0x18 then (3, 1)
  else if op = 0x16 ∨ op = 0x17 ∨ op = 0x1E ∨ op = 0x1F then (2, 1) else (4, 1)

/-! ### Lanes -/

/-- The key of a lane's result; in binary32 a lane issues two operations an AK cycle on separate data (05 R139). -/
def laneKey (x : SxtAt) : Nat := (x.sector % 16 * 64 + x.lane % 64) * 2 + (if x.single && x.half then 1 else 0)

/-- The lane's arithmetic format. -/
def laneFmt (x : SxtAt) : Fmt := if x.single then .b32 else .b64

/-- Its chart format code. -/
def laneCode (x : SxtAt) : Nat := if x.single then 8 else 10

/-- The result that a lane last left (05 R139). -/
def laneVal (s : State) (x : SxtAt) : Word64 := mgetD s.rose.sxt (laneKey x) 0

/-- The run that a Sextant lane works for: acting, its berth with facets in the lane's sector, the array not frozen. -/
def laneRun (s : State) (x : SxtAt) : Option Run :=
  if frozen s then none
  else match findRun s x.key with
    | some r => if acting s r && (runFacets r).any (fun g => decide (g / 16 = x.sector % 16)) then some r else none
    | none => none

/-- One operation that a lane issues, with the words that its Chart reads corrected. -/
def issue (s : State) (x : SxtAt) : State :=
  let s := feedEcc s x.ecc
  match findRun s x.key with
  | some r => putRun s { r with counts := { r.counts with sxtOps := r.counts.sxtOps + 1 } }
  | none => s

/-- The trap record of a Sextant operation (06 R168). -/
def laneTrap (x : SxtAt) (op : Nat) (a b : Opnd) (fmtR res : Nat) : TrapRec :=
  { kind := 0, unitK := 2, opcode := op, count := 1, routeAddr := x.site.routeAddr, step := x.site.step, facet := x.sector % 16,
    strip := x.lane % 64, pos := 0, row := x.site.row, col := x.site.col, fmtA := a.fmt, fmtB := b.fmt, fmtR := fmtR, pass := 0,
    ak := 0, opndA := a.pat, opndB := b.pat, result := res }

/-- No operand. -/
def noOpnd : Opnd := ⟨0, 0, 0⟩

/-- Events of a Sextant operation: flags, flush counters, and the trap (06 R165 to R168, 03 R72). -/
def laneEvents (s : State) (x : SxtAt) (e : NumEv) (t : TrapRec) : State :=
  let s := if e.flushed = 0 then s else gcount s (0x1070 + x.sector % 16) e.flushed
  match findRun s x.key with
  | some r => opEvents s { r with counts := { r.counts with sxtFlushed := r.counts.sxtFlushed + e.flushed } } e t
  | none => s

/-- The Sextant load path (06 R151): exact into binary64 but for flushed subnormals; into binary32 under the command's
mode. -/
def laneLoad (n : NumCtl) (x : SxtAt) (o : Opnd) : Num × NumEv :=
  let e0 := opndEv o
  if x.single then
    let (p, e) := convert (opndVal o) .b32 n.rm n.strict
    ((decode .b32 p).1, e0.add e)
  else (opndVal o, e0)

/-- Load an operand into a lane: an overflow of the conversion traps as CONVERT. -/
def loadOpnd (s : State) (x : SxtAt) (o : Opnd) : Num × State :=
  match findRun s x.key with
  | none => (.nan, s)
  | some r =>
    let (v, e) := laneLoad (runNum s r) x o
    (v, laneEvents s x e (laneTrap x 0x18 o noOpnd (laneCode x) (patOf (laneFmt x) v)))

/-- Leave a lane's result, as the pattern of the lane's format. -/
def setLane (s : State) (x : SxtAt) (p : Nat) : State :=
  s.setRose { s.rose with sxt := mset s.rose.sxt (laneKey x) (BitVec.ofNat 64 p) }

/-- A lane operation: the result of `f` under STRICT on the loaded operands, its events, and the result in the lane. -/
def laneOp (s : State) (x : SxtAt) (op : Nat) (ops : List Opnd) (f : Bool → List Num → Num × NumEv) : State :=
  match laneRun s x with
  | none => s
  | some r =>
    let strict := (runNum s r).strict
    let s := issue s x
    let (vs, s) := ops.foldl (fun (acc : List Num × State) o =>
      let (v, s) := loadOpnd acc.2 x o
      (acc.1 ++ [v], s)) ([], s)
    let (v, e) := f strict vs
    let s := setLane s x (patOf (laneFmt x) v)
    laneEvents s x e (laneTrap x op (ops.getD 0 noOpnd) (ops.getD 1 noOpnd) (laneCode x) (patOf (laneFmt x) v))

/-- Loaded operand i. -/
def arg (vs : List Num) (i : Nat) : Num := vs.getD i .nan

/-- FMA: a × b + c, rounded once. -/
def doFma (s : State) (x : SxtAt) (a b c : Opnd) : State :=
  laneOp s x 0x10 [a, b, c] (fun st vs => fmaR (laneFmt x) st (arg vs 0) (arg vs 1) (arg vs 2))
def doAdd (s : State) (x : SxtAt) (a b : Opnd) : State :=
  laneOp s x 0x11 [a, b] (fun st vs => addR (laneFmt x) st (arg vs 0) (arg vs 1))
def doSub (s : State) (x : SxtAt) (a b : Opnd) : State :=
  laneOp s x 0x12 [a, b] (fun st vs => addR (laneFmt x) st (arg vs 0) (arg vs 1).opp)
def doMul (s : State) (x : SxtAt) (a b : Opnd) : State :=
  laneOp s x 0x13 [a, b] (fun st vs => mulR (laneFmt x) st (arg vs 0) (arg vs 1))
/-- DIV (05 R141): a non-zero value over ±0 is ±Inf and counted; it is no overflow (06 R160). -/
def doDiv (s : State) (x : SxtAt) (a b : Opnd) : State :=
  laneOp s x 0x14 [a, b] (fun st vs => divR (laneFmt x) st (arg vs 0) (arg vs 1))
def doSqrt (s : State) (x : SxtAt) (a : Opnd) : State :=
  laneOp s x 0x15 [a] (fun st vs => sqrtR (laneFmt x) st (arg vs 0))
def doMax (s : State) (x : SxtAt) (a b : Opnd) : State :=
  laneOp s x 0x16 [a, b] (fun _ vs => (maxX (arg vs 0) (arg vs 1), {}))
def doMin (s : State) (x : SxtAt) (a b : Opnd) : State :=
  laneOp s x 0x17 [a, b] (fun _ vs => (minX (arg vs 0) (arg vs 1), {}))
def doAbs (s : State) (x : SxtAt) (a : Opnd) : State :=
  laneOp s x 0x1E [a] (fun _ vs => ((arg vs 0).abs, {}))

/-- A comparison (06 R163): with a NaN all are false but ne. -/
def compareX (op : CmpOp) (a b : Num) : Bool :=
  match op, cmpX a b with
  | .eq, some .eq => true
  | .ne, some .eq => false
  | .ne, _ => true
  | .lt, some .lt => true
  | .le, some .lt | .le, some .eq => true
  | .gt, some .gt => true
  | .ge, some .gt | .ge, some .eq => true
  | _, _ => false

/-- COMPARE: the lane holds 1 when the comparison is true and +0 when it is false (log 43). -/
def doCompare (s : State) (x : SxtAt) (op : CmpOp) (a b : Opnd) : State :=
  laneOp s x 0x1E [a, b] (fun _ vs => (if compareX op (arg vs 0) (arg vs 1) then .fin false 1 0 else .zero false, {}))

/-- POW2_SCALE: v × 2^k under the overflow section (06 R155), whose trap opcode the table does not give (log 38); or the
exponent of v, which the spec states for no zero, infinity or NaN (log 44). -/
def doPow2Scale (s : State) (x : SxtAt) (a : Opnd) (k : Option Int) : State :=
  match k with
  | some k =>
    let (op, s1) := freeNat s 38
    match laneRun s x with
    | none => s
    | some _ => laneOp s1 x (op % 256) [a] (fun st vs => finish (laneFmt x) st (scaleX (arg vs 0) k, false))
  | none =>
    match laneRun s x with
    | none => s
    | some _ =>
      let (fv, s1) := freeNat s 44
      laneOp s1 x 0x1E [a] (fun _ vs => match arg vs 0 with
        | .fin _ m e => (ofDyadic (topExp m e) 0 false, {})
        | _ => ((decode (laneFmt x) fv).1, {}))

/-! ### Conversion (06 R152, R155) -/

/-- The trap record of the sector's Chart store path. -/
def laneStoreTrap (x : SxtAt) (fmtR a res : Nat) (i : Nat) : TrapRec :=
  { kind := 0, unitK := 3, opcode := 0x20, count := 1, routeAddr := x.site.routeAddr, step := x.site.step, facet := x.sector % 16,
    strip := 0, pos := 0, row := x.site.row, col := x.site.col + i, fmtA := laneCode x, fmtB := 0, fmtR := fmtR, pass := 0, ak := 0,
    opndA := a, opndB := 0, result := res }

/-- A store of bytes by a Sextant, while its run acts: into the Plot of its own sector, and, for the lead conductor's Sextant, into
another sector's through the berth window (05 R139, R142). -/
def laneWrite (s : State) (x : SxtAt) (a : Nat) (data : List Byte) (el : Option (Nat × Nat)) : State :=
  match findRun s x.key with
  | some r =>
    let k := x.sector % 16
    let bs := r.berths.filter (fun b => b.sectors.contains k)
    let bs := if bs.any (fun b => decide (b.sectors.headD 0 = k)) ∨ a / 0x1000000 = k then bs else []
    if acting s r then routeWrite s r bs k x.site.step a data el else s
  | none => s

/-- Store converted elements one by one. -/
def laneStore (s : State) (x : SxtAt) (f : Fmt) (code : Nat) : List Num → List Nat → Nat → State
  | v :: vs, a :: as0, i =>
    match findRun s x.key with
    | none => s
    | some r =>
      let n := runNum s r
      let (p, e) := convert v f n.rm n.strict
      let s := laneEvents s x e (laneStoreTrap x code (patOf (laneFmt x) v) p i)
      laneStore (laneWrite s x a (leBytes f.bytes p) (some (code, 0))) x f code vs as0 (i + 1)
  | _, _, _ => s

/-- Store one K8b block (06 R148); lacking elements are the zero padding of R146, and a trap names the first element that overflows
(R169). -/
def laneStoreBlk (s : State) (x : SxtAt) (code : Nat) (vs : List Num) (addrs : List Nat) (ea : Nat) : State :=
  match findRun s x.key with
  | none => s
  | some r =>
    let n := runNum s r
    let blk := vs.take (blockOf code)
    let (E, qs, ev) := storeK8b (blk ++ List.replicate (blockOf code - blk.length) (Num.zero false)) n.rm n.strict
    let (i, v, q) := (blockFirst n.rm (blockOf code) blk).getD (0, blk.headD (.zero false), qs.headD 0)
    let s := laneEvents s x ev (laneStoreTrap x code (patOf (laneFmt x) v) q i)
    ((qs.take blk.length).zip addrs).foldl (fun s y => laneWrite s x y.2 (b1 y.1) (some (code, E))) (laneWrite s x ea (b1 E) none)

/-- CONVERT: within a lane into a format of R140, or through the store path into any format but K4b (06 R147, R151). DESIGN CHOICE
(log 133): the spec fixes the rounding of a conversion that stays in a lane neither as Sextant arithmetic nor as a load or store; it
takes the command's mode. -/
def doConvert (s : State) (x : SxtAt) (src : List Opnd) (dst : ConvTo) : State :=
  match laneRun s x with
  | none => s
  | some r =>
    let n := runNum s r
    match dst with
    | .lane code =>
      match fmtOfCode code, src with
      | some f, o :: _ =>
        if code < 6 then s
        else
          let s := issue s x
          let (p, e) := convert (opndVal o) f n.rm n.strict
          let s := setLane s x p
          laneEvents s x (e.add (opndEv o)) (laneTrap x 0x18 o noOpnd code p)
      | _, _ => s
    | .plot code addrs ea =>
      if code = 1 ∨ code = 2 then s
      else
        let s := issue s x
        let (vs, s) := src.foldl (fun (acc : List Num × State) o =>
          let (v, s) := loadOpnd acc.2 x o
          (acc.1 ++ [v], s)) ([], s)
        if 0 < blockOf code then laneStoreBlk s x code vs addrs ea
        else match fmtOfCode code with
          | some f => laneStore s x f code vs addrs 0
          | none => s

def execFma (x : SxtAt) (a b c : Opnd) (s : State) : Res := .next (doFma s x a b c)
def execAdd (x : SxtAt) (a b : Opnd) (s : State) : Res := .next (doAdd s x a b)
def execSub (x : SxtAt) (a b : Opnd) (s : State) : Res := .next (doSub s x a b)
def execMul (x : SxtAt) (a b : Opnd) (s : State) : Res := .next (doMul s x a b)
def execDivOp (x : SxtAt) (a b : Opnd) (s : State) : Res := .next (doDiv s x a b)
def execSqrt (x : SxtAt) (a : Opnd) (s : State) : Res := .next (doSqrt s x a)
def execMaxOp (x : SxtAt) (a b : Opnd) (s : State) : Res := .next (doMax s x a b)
def execMinOp (x : SxtAt) (a b : Opnd) (s : State) : Res := .next (doMin s x a b)
def execCompareOp (x : SxtAt) (op : CmpOp) (a b : Opnd) (s : State) : Res := .next (doCompare s x op a b)
def execAbsOp (x : SxtAt) (a : Opnd) (s : State) : Res := .next (doAbs s x a)
def execPow2Scale (x : SxtAt) (a : Opnd) (k : Option Int) (s : State) : Res := .next (doPow2Scale s x a k)
def execConvertOp (x : SxtAt) (src : List Opnd) (dst : ConvTo) (s : State) : Res := .next (doConvert s x src dst)

end Sys2Proof.Machine
end

