-- ==== Sys2Proof/Machine/Pivot.lean ====
section
/-! DEFINITION. The pivot units: COLUMN_STEP and PIVOT_DIV (07 R171 to R188; 06 R168, R187), and the cycle counts of the kernels
(07 R175 to R183, R188, R189). -/

namespace Sys2Proof.Machine
open Sys2Proof

/-! ### Cycle counts -/

/-- Columns of panel J of an n-column factor. -/
def panelCols (n j : Nat) : Nat := if n - 32 * j < 32 then n - 32 * j else 32

/-- A sum over panels. -/
def panelSum (n per0 perCol : Nat) : Nat :=
  (List.range (ceilDiv n 32)).foldl (fun a j => a + per0 + perCol * panelCols n j) 0

/-- T_chol of 07 R175, which LDLᵀ shares. -/
def tChol (n p f : Nat) : Nat := (f + 64) + panelSum n 64 6 + (ceilDiv n 32 - 1) * (f + 32 * p + 2 * (n - 1))
/-- T_lu of 07 R180. -/
def tLu (n p f : Nat) : Nat := (f + 64) + panelSum n 128 10 + (ceilDiv n 32 - 1) * (f + 32 * p + 2 * (n - 1))
/-- T_qr of 07 R181. -/
def tQr (r c p f : Nat) : Nat := (f + 64) + panelSum c 64 12 + (ceilDiv c 32 - 1) * 2 * (f + 32 * p + (r - 1) + (c - 1))
/-- One sweep of a triangular solve (07 R183). -/
def tSweep (n : Nat) : Nat := n + 2 * ceilDiv n 32
/-- A rank-1 change of a factor (07 R188). -/
def tRank1 (n : Nat) : Nat := 16 + 6 * n + 2 * ceilDiv n 32
/-- T_dmax, T_trsm, T_upd and T_tiled of 07 R177. -/
def tDmax (n f : Nat) : Nat := f + ceilDiv n 64 + 14
def tTrsm (k f : Nat) : Nat := (f + 64) + 6 * k + 64
def tUpd (sd p f : Nat) : Nat := (f + 64) + (f + p * sd + 2 * (sd - 1)) + 64
def tTiled (n sd p f : Nat) : Nat :=
  let ns := ceilDiv n sd
  tDmax n f + (List.range ns).foldl (fun a k =>
    let sk := if n - sd * k < sd then n - sd * k else sd
    a + tChol sk p f + (ns - 1 - k) * tTrsm sk f + (ns - 1 - k) * (ns - k) / 2 * tUpd sd p f) 0
/-- Π of the facet-batched mapping (07 R190). -/
def batchPeriod (nb p : Nat) : Nat :=
  let tr := (List.range (nb - 1)).foldl (fun a i => a + (nb - (i + 1)) * (133 + 32 * (i + 1) * p)) 0
  let tv := 192 * nb + 64 * nb * (nb - 1)
  if tr < tv then tv else tr
/-- A product step (05 R122): feed delay, chunk pairs, reduction length, output cells, the drain's format or HOLD. -/
def tProduct (f p k r c : Nat) (result : Option Nat) : Nat := f + p * k + (r - 1) + (c - 1) + drainAk result
/-- The load of a cached factor's tiles before a solve (07 R183), F_A the padded Almanac latency plus 1. -/
def tFactorLoad (fa : Nat) : Nat := fa + 64

/-! ### Panel buffers (07 R171, R173) -/

/-- Does a kernel change the rows of R, which lie along a berth row (07 R188)? -/
def ColStep.rowwise (x : ColStep) : Bool := decide (x.kernel = .append) || decide (x.kernel = .remove)

/-- The key of element (i, j) of the panel that the facets of a step hold, 32 rows each; for the rows of R, columns each. -/
def elemKey (slot : Nat) (x : ColStep) (i j : Nat) : Nat :=
  facetKey slot (x.facets.getD (i / 32) 0) * 1024 + (if x.rowwise then j % 32 * 32 + i % 32 else i % 32 * 32 + j % 32)

/-- Has an element entered the panel? -/
def inPanel (s : State) (slot : Nat) (x : ColStep) (i j : Nat) : Bool := (mget s.rose.panel (elemKey slot x i j)).isSome

/-- Element (i, j) of the panel. -/
def panelAt (s : State) (slot : Nat) (x : ColStep) (i j : Nat) : Num := w48 (mgetD s.rose.panel (elemKey slot x i j) 0)

/-- Write an element of the panel. -/
def setPanel (s : State) (slot : Nat) (x : ColStep) (i j : Nat) (v : Num) : State :=
  s.setRose { s.rose with panel := mset s.rose.panel (elemKey slot x i j) (toW48 v) }

/-- The berth row of panel row i. -/
def berthRow (b : Berth) (x : ColStep) (i : Nat) : Nat := 32 * (dieRow (x.facets.getD (i / 32) 0) - dieRow b.origin) + i % 32

/-- Rows of the panel below the pivot, and columns to the right of it. -/
def rowsBelow (x : ColStep) : List Nat := (List.range (32 * x.facets.length)).filter (fun i => decide (x.col < i))
def colsRight (x : ColStep) : List Nat := (List.range x.width).filter (fun j => decide (x.col < j))

/-- The trap record of a pivot-unit overflow at element (i, j) of the panel (07 R172). -/
def pivotTrap (x : ColStep) (i j : Nat) (num d res : Num) : TrapRec :=
  { kind := 0, unitK := 1, opcode := 0x19, count := 1, routeAddr := x.site.routeAddr, step := x.site.step,
    facet := x.facets.getD (i / 32) 0, strip := i % 32, pos := j, row := x.site.row + i, col := x.site.col + j, fmtA := 9, fmtB := 9,
    fmtR := 9, pass := 0, ak := 0, opndA := patOf .w48 num, opndB := patOf .w48 d, result := patOf .w48 res }

/-- The events of an operation at element (i, j). -/
def pivotEvents (s : State) (x : ColStep) (i j : Nat) (v : Num × NumEv) (num d : Num) : State :=
  match findRun s x.key with
  | some r => opEvents s r v.2 (pivotTrap x i j num d v.1)
  | none => s

/-- Write one element with its events and a trap. -/
def pivotPut (s : State) (slot : Nat) (x : ColStep) (i j : Nat) (v : Num × NumEv) (num d : Num) : State :=
  pivotEvents (setPanel s slot x i j v.1) x i j v num d

/-- Values that a step loads from Chart memory enter the pivot units (07 R173). -/
def loadPanel (s : State) (slot : Nat) (x : ColStep) (strict : Bool) : State :=
  x.load.foldl (fun s e =>
    let g := e.1 / 1024 % 256
    let (p, ev) := enterPivot strict (w48 e.2)
    let s := s.setRose { s.rose with panel := mset s.rose.panel (facetKey slot g * 1024 + e.1 % 1024) p }
    match findRun s x.key with
    | some r => opEvents s r ev { pivotTrap x 0 0 (w48 e.2) (.zero false) (w48 p) with
        opcode := 0x30, facet := g, strip := e.1 / 32 % 32, pos := e.1 % 32, opndB := 0, fmtB := 0 }
    | none => s) s

/-! ### Kernel entry (07 R174, R177, R180, R181, R184, R188) -/

/-- The berth on which a step's kernel runs, and the number under which it keeps its data. -/
def stepBerth (r : Run) (x : ColStep) : Berth := (berthOn r (x.facets.headD 0)).getD ⟨0, 1, 1⟩
def stepKey (r : Run) (x : ColStep) : Nat := facetKey (runSlot r) (stepBerth r x).origin

/-- The value of berth cell (i, j) at kernel entry: block column 0 has been drained into the panels, or holds a factor; the others
stand in the accumulators. -/
def entryAt (s : State) (slot : Nat) (b : Berth) (i j : Nat) : Option Num :=
  let g := facetAt (dieRow b.origin + i / 32) (dieCol b.origin + j / 32)
  let k := facetKey slot g * 1024 + i % 32 * 32 + j % 32
  ((mget s.rose.panel k).orElse (fun _ => mget s.rose.acc k)).map w48

/-- The values that dmax is the largest magnitude of: the diagonal; for LU the whole matrix; for QR the norms of the columns; for a
change of a Cholesky factor the squares of its diagonal. -/
def entryVals (s : State) (slot : Nat) (b : Berth) (kern : Kernel) (strict : Bool) : List Num :=
  let rows := List.range (32 * b.h)
  let cols := List.range (32 * b.w)
  let diag := (List.range (if b.h < b.w then 32 * b.h else 32 * b.w)).filterMap (fun k => entryAt s slot b k k)
  match kern with
  | .lu => (rows.map (fun i => cols.filterMap (fun j => entryAt s slot b i j))).flatten
  | .qr | .append => cols.map (fun j => (tailNorm strict (rows.filterMap (fun i => entryAt s slot b i j)) 0).1)
  | .update | .downdate | .remove => diag.map (fun v => (mulR .w48 strict v v).1)
  | _ => diag

/-- Kernel entry, at the first column of the matrix: dmax is computed once. At the first column of a berth's factor the permutation and
the vector start afresh. -/
def enterKernel (s : State) (r : Run) (x : ColStep) (strict : Bool) : State :=
  let k := stepKey r x
  let b := stepBerth r x
  let s := if x.site.col + x.col = 0 then
      let m := match x.scan with
        | some (sec, lane) => (decode .b64 (mgetD s.rose.sxt ((sec % 16 * 64 + lane % 64) * 2) 0).toNat).1
        | none => vNorm (entryVals s (runSlot r) b x.kernel strict)
      s.setRose { s.rose with dmax := mset s.rose.dmax k (toW48 (dmaxNum m)) }
    else s
  if x.facets.headD 0 = b.origin ∧ x.col = 0 then
    s.setRose { s.rose with perm := mset s.rose.perm k [], vec := mset s.rose.vec k x.vec }
  else s

/-- τ × dmax of the kernel on a berth. -/
def stepThr (s : State) (r : Run) (x : ColStep) : Num :=
  tauDmax r.route.tau (dmaxNum (w48 (mgetD s.rose.dmax (stepKey r x) 0)))

/-! ### Pivots (07 R184 to R187) -/

/-- What the test of a pivot decides: the value to use, whether it was replaced, abandoned, or ends the command. -/
inductive PivotOut where
  | keep (d : Num)
  | replaced (d : Num) (ev : NumEv) (inertia : Bool)
  | abandoned (d : Num)
  | abort
deriving DecidableEq, Repr

/-- Decide a pivot. -/
def pivotTest (s : State) (r : Run) (thr d : Num) (neg : Bool) : PivotOut :=
  let n := runNum s r
  let policy := dPolicy (runDesc s r)
  if !pivotBad thr d neg then .keep d
  else if policy = 1 then (if suppressed s r then .abandoned d else .abort)
  else
    let (v, e) := replacePivot n.strict policy thr d neg
    .replaced v e (decide (policy = 2))

/-- Count a bad pivot of a run. -/
def countPivot (s : State) (k : CmdKey) (reg inertia aband : Nat) : State :=
  match findRun s k with
  | some r => putRun s { r with counts := { r.counts with
      pivReg := r.counts.pivReg + reg, pivInertia := r.counts.pivInertia + inertia, pivAbandoned := r.counts.pivAbandoned + aband } }
  | none => s

/-- Take a pivot through the policy and go on with the value to use and whether it was replaced; an abort ends the command, and an
iteration already abandoned goes no further. -/
def withPivot (s : State) (r : Run) (x : ColStep) (row : Nat) (d : Num) (neg : Bool) (go : State → Num → Bool → State) : State :=
  match pivotTest s r (stepThr s r x) d neg with
  | .keep d => go s d false
  | .replaced v e inertia =>
    let s := countPivot s x.key (if inertia then 0 else 1) (if inertia then 1 else 0) 0
    go (pivotEvents s x row x.col (v, e) d d) v true
  | .abandoned _ => countPivot s x.key 0 0 1
  | .abort => match findRun s x.key with
    | some r => if r.trap.isSome then s else pivotAbort s r
    | none => s

/-! ### Cholesky and LDLᵀ (07 R174, R179) -/

/-- The column of L over some rows, its quotients by r. -/
def scaleRows (s : State) (slot : Nat) (x : ColStep) (strict : Bool) (rows : List Nat) (r d : Num) : State :=
  rows.foldl (fun s i =>
    let a := panelAt s slot x i x.col
    pivotPut s slot x i x.col (quotient strict a r) a d) s

/-- The factor's element at column j by which column step k updates: L[j,k], and d × L[j,k] for LDLᵀ. -/
def multiplier (s : State) (slot : Nat) (x : ColStep) (strict : Bool) (d : Num) (j : Nat) : Num × NumEv :=
  let lj := panelAt s slot x j x.col
  match x.kernel with
  | .ldl => mulR .w48 strict d lj
  | _ => (lj, {})

/-- The facet right of the diagonal that holds the transpose of row i's tile, when the berth has it (07 R174). -/
def mirrorOf (b : Berth) (x : ColStep) (i : Nat) : Option Nat :=
  let h := x.facets.headD 0
  let g := facetAt (dieRow h) (dieCol h + (dieRow (x.facets.getD (i / 32) 0) - dieRow h))
  if 32 ≤ i ∧ b.facets.contains g then some g else none

/-- Lᵀ of the completed column in the facets above the diagonal (07 R174). -/
def mirrorColumn (s : State) (slot : Nat) (b : Berth) (x : ColStep) : State :=
  (rowsBelow x).foldl (fun s i => match mirrorOf b x i with
    | some g =>
      let k := facetKey slot g * 1024 + x.col % 32 * 32 + i % 32
      s.setRose { s.rose with panel := mset s.rose.panel k (toW48 (panelAt s slot x i x.col)) }
    | none => s) s

/-- The pivot of a symmetric column step: A[k,k] + reg[k], δ = 2^-24 (03 R74). -/
def regPivot (s : State) (slot : Nat) (x : ColStep) (strict : Bool) : Num × NumEv :=
  let a := panelAt s slot x x.col x.col
  if x.regular then addR .w48 strict a (.fin (decide (x.kernel = .ldl) && x.eqRow) 1 (-24)) else (a, {})

/-- A column step of Cholesky and LDLᵀ: the pivot, the column of L, and in every row the updates in rising column. -/
def symmetricStep (s : State) (slot : Nat) (b : Berth) (x : ColStep) (strict : Bool) (d : Num) : State :=
  let k := x.col
  let r := recipOf x.kernel d
  let s := pivotEvents s x k k r d d
  let s := match x.kernel with
    | .chol => pivotPut s slot x k k (sqrtR .w48 strict d) d d
    | _ => setPanel s slot x k k d
  let s := scaleRows s slot x strict (rowsBelow x) r.1 d
  let s := (rowsBelow x).foldl (fun s i => (colsRight x).foldl (fun s j =>
    if j ≤ i then
      let m := multiplier s slot x strict d j
      let s := pivotEvents s x i j m (panelAt s slot x j k) d
      let a := panelAt s slot x i j
      pivotPut s slot x i j (fusedSub strict a (panelAt s slot x i k) m.1) a d
    else s) s) s
  mirrorColumn s slot b x

/-- A column of a tile that lies below a factored one: its quotients by the factor's r, and the updates of its later columns with the
factor's elements (07 R177, R189). -/
def solveStep (s : State) (slot : Nat) (x : ColStep) (strict : Bool) : State :=
  let rows := List.range (32 * x.facets.length)
  let r := w48 (x.vec.headD 0)
  let s := scaleRows s slot x strict rows r r
  rows.foldl (fun s i => (colsRight x).foldl (fun s j =>
    let a := panelAt s slot x i j
    pivotPut s slot x i j (fusedSub strict a (panelAt s slot x i x.col) (w48 (x.vec.getD (j - x.col) 0))) a r) s) s

/-! ### LU (07 R180) -/

/-- Rows in the panel that the permutation has not yet taken, in rising physical order. -/
def openRows (s : State) (r : Run) (x : ColStep) : List Nat :=
  let done := mgetD s.rose.perm (stepKey r x) []
  (List.range (32 * x.facets.length)).filter (fun i => inPanel s (runSlot r) x i x.col && !done.contains (berthRow (stepBerth r x) x i))

/-- The row of largest magnitude: a NaN ranks below every number, ties go to the lowest row. -/
def pivotRow (s : State) (slot : Nat) (x : ColStep) : List Nat → Option Nat
  | [] => none
  | i :: is =>
    match pivotRow s slot x is with
    | none => some i
    | some j =>
      let a := (panelAt s slot x i x.col).abs
      let b := (panelAt s slot x j x.col).abs
      if a.isNan && !b.isNan then some j else if !a.isNan && ltX a b then some j else some i

/-- The multipliers and updates of an LU column step; the permutation takes the pivot's row. -/
def luStep (s : State) (r : Run) (x : ColStep) (strict : Bool) (row : Nat) (d : Num) : State :=
  let slot := runSlot r
  let k := stepKey r x
  let s := s.setRose { s.rose with perm := mset s.rose.perm k (mgetD s.rose.perm k [] ++ [berthRow (stepBerth r x) x row]) }
  let s := setPanel s slot x row x.col d
  let q := recipOf .lu d
  let s := pivotEvents s x row x.col q d d
  let rows := openRows s r x
  let s := scaleRows s slot x strict rows q.1 d
  rows.foldl (fun s i => (colsRight x).foldl (fun s j =>
    let v := panelAt s slot x i j
    pivotPut s slot x i j (fusedSub strict v (panelAt s slot x i x.col) (panelAt s slot x row j)) v d) s) s

/-- A column of the block row of U right of a panel: the row that pivot k took loses L[k,l] × U[l,j] of the panel's earlier pivots, in
every facet to the right that has drained it (log 134). -/
def luRowStep (s : State) (r : Run) (x : ColStep) (strict : Bool) : State :=
  let slot := runSlot r
  let b := stepBerth r x
  let base := x.site.col
  let perm := mgetD s.rose.perm (stepKey r x) []
  let local0 (p : Nat) : Nat := ((List.range (32 * x.facets.length)).find? (fun i => decide (berthRow b x i = p))).getD 0
  let rowAt (l : Nat) : Nat := local0 (perm.getD (base + l) 0)
  let i := rowAt x.col
  let right := (List.range b.w).filter (fun w => decide (dieCol (x.facets.headD 0) < dieCol b.origin + w))
  right.foldl (fun s w =>
    let shifted (g : Nat) : Nat := facetAt (dieRow g) (dieCol b.origin + w)
    let y := { x with facets := x.facets.map shifted, site := { x.site with col := base + 32 * (dieCol b.origin + w - dieCol (x.facets.headD 0)) } }
    (List.range x.col).foldl (fun s l => (List.range 32).foldl (fun s j =>
      if inPanel s slot y i j then
        let a := panelAt s slot y i j
        pivotPut s slot y i j (fusedSub strict a (panelAt s slot x i l) (panelAt s slot y (rowAt l) j)) a (.zero false)
      else s) s) s) s

/-! ### Householder QR (07 R181) -/

/-- A column of the panel as rows from its first one on; rows that nothing drained are +0. -/
def panelCol (s : State) (slot : Nat) (x : ColStep) (j : Nat) : List Num :=
  (List.range (32 * x.facets.length)).map (fun i => panelAt s slot x i j)

/-- Write a column of the panel from row k on, the events of its operations at the pivot. -/
def putCol (s : State) (slot : Nat) (x : ColStep) (j : Nat) (v : List Num × NumEv) (d : Num) : State :=
  let s := (v.1.zipIdx.filter (fun e => decide (x.col ≤ e.2) && inPanel s slot x e.2 j)).foldl (fun s e => setPanel s slot x e.2 j e.1) s
  pivotEvents s x x.col j (v.1.getD x.col (.zero false), v.2) d d

/-- Record the reflector of a column: its first element and its factor; its other elements stand below the diagonal. -/
def keepReflector (s : State) (r : Run) (x : ColStep) (v0 beta : Num) : State :=
  let k := stepKey r x
  s.setRose { s.rose with vec := mset s.rose.vec k (mgetD s.rose.vec k [] ++ [toW48 v0, toW48 beta]) }

/-- A Householder column step: R's diagonal, its row to the right, and the reflector below the diagonal (log 121); a bad norm takes its
replacement with an identity reflector (07 R188). -/
def qrStep (s : State) (r : Run) (x : ColStep) (strict : Bool) (d : Num) (bad : Bool) : State :=
  let slot := runSlot r
  if bad then
    let s := (rowsBelow x).foldl (fun s i => if inPanel s slot x i x.col then setPanel s slot x i x.col (.zero false) else s) s
    keepReflector (setPanel s slot x x.col x.col d) r x (.zero false) (.zero false)
  else
    let (h, e) := reflectorOf strict (panelCol s slot x x.col) x.col d
    let s := pivotEvents s x x.col x.col (h.beta, e) d d
    let s := (colsRight x).foldl (fun s j => putCol s slot x j (reflect strict h (panelCol s slot x j)) d) s
    keepReflector (setPanel s slot x x.col x.col d) r x (h.v.headD (.zero false)) h.beta

/-! ### Rank-1 changes (07 R188) -/

/-- One rotation of chol_update with √d as the new diagonal; an identity one leaves the rest as it is. -/
def rotate (s : State) (r : Run) (x : ColStep) (strict down : Bool) (root : Num × NumEv) (same : Bool) : State :=
  let slot := runSlot r
  let b := stepBerth r x
  let k := x.col
  let g0 := x.site.col
  let lkk := panelAt s slot x k k
  let at0 (s : State) (i : Nat) : Num := w48 ((mgetD s.rose.vec (stepKey r x) []).getD i 0)
  let vk := at0 s (g0 + k)
  let s := pivotPut s slot x k k root lkk lkk
  if same then s
  else
    let c := divR .w48 strict root.1 lkk
    let sn := divR .w48 strict vk lkk
    let s := pivotEvents (pivotEvents s x k k c root.1 lkk) x k k sn vk lkk
    let n := (mgetD s.rose.vec (stepKey r x) []).length
    ((rowsBelow x).filter (fun i => decide (g0 + i < n))).foldl (fun s i =>
      let l := panelAt s slot x i k
      let v := at0 s (g0 + i)
      let t := fmaR .w48 strict (if down then sn.1.opp else sn.1) v l
      let q := divR .w48 strict t.1 c.1
      let cv := mulR .w48 strict c.1 v
      let w := fusedSub strict cv.1 sn.1 q.1
      let s := pivotPut (pivotEvents s x i k t l lkk) slot x i k q t.1 c.1
      let s := pivotEvents (pivotEvents s x i k cv v c.1) x i k w cv.1 lkk
      s.setRose { s.rose with vec := mset s.rose.vec (stepKey r x) ((mgetD s.rose.vec (stepKey r x) []).set (g0 + i) (toW48 w.1)) }) s

/-- A column of chol_update, or of a QR row append or deletion: d = L[k,k]² ± v[k]², its test for a downdate, and for an append the test
of its norm, which takes g and an identity rotation in place of a bad one. -/
def changeStep (s : State) (r : Run) (x : ColStep) (strict : Bool) : State :=
  let slot := runSlot r
  let down := decide (x.kernel = .downdate) || decide (x.kernel = .remove)
  let lkk := panelAt s slot x x.col x.col
  let vk := w48 ((mgetD s.rose.vec (stepKey r x) []).getD (x.site.col + x.col) 0)
  let q := mulR .w48 strict lkk lkk
  let d := fmaR .w48 strict (if down then vk.opp else vk) vk q.1
  let s := pivotEvents (pivotEvents s x x.col x.col q lkk lkk) x x.col x.col d vk lkk
  if down then withPivot s r x x.col d.1 false (fun s d _ => rotate s r x strict true (sqrtR .w48 strict d) false)
  else if x.kernel = .append then
    let norm := sqrtR .w48 strict d.1
    withPivot s r x x.col norm.1 false (fun s _ bad =>
      if bad then rotate s r x strict false (nextPow (stepThr s r x), {}) true else rotate s r x strict false norm false)
  else rotate s r x strict false (sqrtR .w48 strict d.1) false

/-! ### COLUMN_STEP and PIVOT_DIV -/

/-- Completed elements go to the Plot as each column completes, (row of the panel, Chart address), in W48 containers, through the store
path of the row's facet; for LDLᵀ L and d × L (07 R174, R179). -/
def storeColumn (s : State) (slot : Nat) (x : ColStep) (strict : Bool) : State :=
  let put (s : State) (i a : Nat) (v : Num) : State := facetWrite s x.key (x.facets.getD (i / 32) 0) x.site.step a (b8 (patOf .w48 v)) (some (9, 0))
  let s := x.store.foldl (fun s e => put s e.1 e.2 (panelAt s slot x e.1 x.col)) s
  x.storeLd.foldl (fun s e => put s e.1 e.2 (mulR .w48 strict (panelAt s slot x x.col x.col) (panelAt s slot x e.1 x.col)).1) s

/-- Carry a column step of a run out. -/
def columnStepOf (s : State) (r : Run) (x : ColStep) (strict : Bool) : State :=
  let slot := runSlot r
  match x.kernel with
  | .chol | .ldl =>
    let d := regPivot s slot x strict
    let s := pivotEvents s x x.col x.col d (panelAt s slot x x.col x.col) d.1
    withPivot s r x x.col d.1 (decide (x.kernel = .ldl) && x.eqRow) (fun s d _ => symmetricStep s slot (stepBerth r x) x strict d)
  | .lu =>
    let row := (pivotRow s slot x (openRows s r x)).getD x.col
    let d := panelAt s slot x row x.col
    withPivot s r x row d (match d with | .fin n _ _ => n | _ => false) (fun s d _ => luStep s r x strict row d)
  | .qr =>
    let d := tailNorm strict (panelCol s slot x x.col) x.col
    let s := pivotEvents s x x.col x.col d d.1 d.1
    withPivot s r x x.col d.1 false (fun s d bad => qrStep s r x strict (if bad then nextPow (stepThr s r x) else d) bad)
  | .luRow => luRowStep s r x strict
  | .solve => solveStep s slot x strict
  | .update | .downdate | .append | .remove => changeStep s r x strict

/-- The run for which a pivot unit acts: its facets lie in one berth of the run, which has left idle. -/
def pivotRun (s : State) (x : ColStep) : Option Run :=
  match findRun s x.key with
  | some r =>
    if frozen s || !acting s r || !roseStarted s r || decide (31 < x.col) ||
        !(match berthOn r (x.facets.headD 0) with | some b => x.facets.all (fun g => b.facets.contains g) | none => false)
    then none else some r
  | none => none

/-- COLUMN_STEP: a route-step boundary (07 R176). -/
def doColumnStep (s : State) (x : ColStep) : State :=
  match pivotRun s x with
  | none => s
  | some r =>
    let strict := (runNum s r).strict
    let s := loadPanel (feedEcc s x.ecc) (runSlot r) x strict
    let s := match findRun s x.key with
      | some r => columnStepOf (enterKernel s r x strict) r x strict
      | none => s
    boundary (storeColumn s (runSlot r) x strict) x.key

/-- PIVOT_DIV: the quotient of one lane, the numerator being the element (row, col) of the panel. -/
def doPivotDiv (s : State) (x : ColStep) (row : Nat) (pivot : W48) : State :=
  match pivotRun s x with
  | none => s
  | some r =>
    let a := panelAt s (runSlot r) x row x.col
    let q := recipOf x.kernel (w48 pivot)
    pivotPut (pivotEvents s x row x.col q a (w48 pivot)) (runSlot r) x row x.col (quotient (runNum s r).strict a q.1) a (w48 pivot)

def execColumnStep (x : ColStep) (s : State) : Res := .next (doColumnStep s x)
def execPivotDiv (x : ColStep) (row : Nat) (pivot : W48) (s : State) : Res := .next (doPivotDiv s x row pivot)

end Sys2Proof.Machine
end

