-- ==== Sys2Proof/Machine/Dispatch.lean ====
section
/-! DEFINITION. The dispatcher: one arm for each command. -/

namespace Sys2Proof.Machine
open Sys2Proof

/-- The effect of a command on everything but the queue. -/
def exec (i : Instr) (s : State) : Host.Outcome State Fault Refusal :=
  match i with
  | .doorbell fn page ring tail ep => Sys2Proof.Machine.execDoorbell fn page ring tail ep s
  | .ringEnable fn page ring w rec => Sys2Proof.Machine.execRingEnable fn page ring w rec s
  | .ringDisable fn page ring w => Sys2Proof.Machine.execRingDisable fn page ring w s
  | .descriptorAccept ctx ring badCopies res => Sys2Proof.Machine.execDescriptorAccept ctx ring badCopies res s
  | .loadModel k im => Sys2Proof.Machine.execLoadModel k im s
  | .fitCheck => Sys2Proof.Machine.execFitCheck s
  | .unloadModel k => Sys2Proof.Machine.execUnloadModel k s
  | .unloadComplete k => Sys2Proof.Machine.execUnloadComplete k s
  | .solveCmd k => Sys2Proof.Machine.execSolveCmd k s
  | .solveBatch k => Sys2Proof.Machine.execSolveBatch k s
  | .estimateCmd k => Sys2Proof.Machine.execEstimateCmd k s
  | .streamBind k => Sys2Proof.Machine.execStreamBind k s
  | .streamUnbind k => Sys2Proof.Machine.execStreamUnbind k s
  | .timedLaunch k => Sys2Proof.Machine.execTimedLaunch k s
  | .timedLaunchArm k => Sys2Proof.Machine.execTimedLaunchArm k s
  | .launchTrigger k => Sys2Proof.Machine.execLaunchTrigger k s
  | .beaconSignal k => Sys2Proof.Machine.execBeaconSignal k s
  | .beaconWait k => Sys2Proof.Machine.execBeaconWait k s
  | .beaconWaitSatisfied k => Sys2Proof.Machine.execBeaconWaitSatisfied k s
  | .beaconWaitTimeout k => Sys2Proof.Machine.execBeaconWaitTimeout k s
  | .fenceCmd k => Sys2Proof.Machine.execFenceCmd k s
  | .fenceComplete k => Sys2Proof.Machine.execFenceComplete k s
  | .watchCmd k => Sys2Proof.Machine.execWatchCmd k s
  | .watchFire k step org words => Sys2Proof.Machine.execWatchFire k step org words s
  | .watchCopyEnd k words lost => Sys2Proof.Machine.execWatchCopyEnd k words lost s
  | .watchTruncate k n words => Sys2Proof.Machine.execWatchTruncate k n words s
  | .attestCmd k => Sys2Proof.Machine.execAttestCmd k s
  | .schedulingRound => Sys2Proof.Machine.execSchedulingRound s
  | .ladderRetry k => Sys2Proof.Machine.execLadderRetry k s
  | .contextResidency ctx block => Sys2Proof.Machine.execContextResidency ctx block s
  | .queuedDeadlineExpiry k => Sys2Proof.Machine.execQueuedDeadlineExpiry k s
  | .launchCycle k => Sys2Proof.Machine.execLaunchCycle k s
  | .ladderStep k => Sys2Proof.Machine.execLadderStep k s
  | .setupEnd k data => Sys2Proof.Machine.execSetupEnd k data s
  | .iterationEnd k data => Sys2Proof.Machine.execIterationEnd k data s
  | .deadlineTrigger k => Sys2Proof.Machine.execDeadlineTrigger k s
  | .deadlineStop k => Sys2Proof.Machine.execDeadlineStop k s
  | .commitPoint k site => Sys2Proof.Machine.execCommitPoint k site s
  | .recheckEnd k fix fix2 words lost shadow => Sys2Proof.Machine.execRecheckEnd k fix fix2 words lost shadow s
  | .committing k fix lost upto => Sys2Proof.Machine.execCommitting k fix lost upto s
  | .batchTick ctx model quota => Sys2Proof.Machine.execBatchTick ctx model quota s
  | .firstOp c w n pass site => Sys2Proof.Machine.execFirstOp c w n pass site s
  | .mac c w n pass site words => Sys2Proof.Machine.execMac c w n pass site words s
  | .msub c w n pass site => Sys2Proof.Machine.execMsub c w n pass site s
  | .preload c v => Sys2Proof.Machine.execPreload c v s
  | .drainOp c dst site => Sys2Proof.Machine.execDrainOp c dst site s
  | .idleOp c => Sys2Proof.Machine.execIdleOp c s
  | .columnStep x => Sys2Proof.Machine.execColumnStep x s
  | .pivotDiv x row pivot => Sys2Proof.Machine.execPivotDiv x row pivot s
  | .fma x a b c => Sys2Proof.Machine.execFma x a b c s
  | .add x a b => Sys2Proof.Machine.execAdd x a b s
  | .sub x a b => Sys2Proof.Machine.execSub x a b s
  | .mul x a b => Sys2Proof.Machine.execMul x a b s
  | .divOp x a b => Sys2Proof.Machine.execDivOp x a b s
  | .sqrt x a => Sys2Proof.Machine.execSqrt x a s
  | .maxOp x a b => Sys2Proof.Machine.execMaxOp x a b s
  | .minOp x a b => Sys2Proof.Machine.execMinOp x a b s
  | .compareOp x op a b => Sys2Proof.Machine.execCompareOp x op a b s
  | .absOp x a => Sys2Proof.Machine.execAbsOp x a s
  | .pow2Scale x a k => Sys2Proof.Machine.execPow2Scale x a k s
  | .convertOp x src dst => Sys2Proof.Machine.execConvertOp x src dst s
  | .partitionReset k causes => Sys2Proof.Machine.execPartitionReset k causes s
  | .remoteWrite row writer data closing => Sys2Proof.Machine.execRemoteWrite row writer data closing s
  | .windowOpen win => Sys2Proof.Machine.execWindowOpen win s
  | .windowClose win => Sys2Proof.Machine.execWindowClose win s
  | .windowExpiry win => Sys2Proof.Machine.execWindowExpiry win s
  | .windowDescriptorWrite win word v => Sys2Proof.Machine.execWindowDescriptorWrite win word v s
  | .almLinesWrite b v => Sys2Proof.Machine.execAlmLinesWrite b v s
  | .bankPowerDownRequest n => Sys2Proof.Machine.execBankPowerDownRequest n s
  | .bankPowerDownStart n => Sys2Proof.Machine.execBankPowerDownStart n s
  | .bankDrainEnd n => Sys2Proof.Machine.execBankDrainEnd n s
  | .bankPowerRestore n => Sys2Proof.Machine.execBankPowerRestore n s
  | .bankZeroFillEnd n => Sys2Proof.Machine.execBankZeroFillEnd n s
  | .scrubRewrite => Sys2Proof.Machine.execScrubRewrite s
  | .scrubPeriod covered => Sys2Proof.Machine.execScrubPeriod covered s
  | .sectorGate b => Sys2Proof.Machine.execSectorGate b s
  | .sectorRestart b => Sys2Proof.Machine.execSectorRestart b s
  | .droopStretch mv => Sys2Proof.Machine.execDroopStretch mv s
  | .ctxDefine w block => Sys2Proof.Machine.execCtxDefine w block s
  | .ctxUpdate w block => Sys2Proof.Machine.execCtxUpdate w block s
  | .ctxUndefine w => Sys2Proof.Machine.execCtxUndefine w s
  | .ctxBaseWrite hi w => Sys2Proof.Machine.execCtxBaseWrite hi w s
  | .rsvFacetsWrite w => Sys2Proof.Machine.execRsvFacetsWrite w s
  | .fnCtxWrite f w => Sys2Proof.Machine.execFnCtxWrite f w s
  | .beaconRangeSet w => Sys2Proof.Machine.execBeaconRangeSet w s
  | .beaconRangeGet w => Sys2Proof.Machine.execBeaconRangeGet w s
  | .headingRangeSet w => Sys2Proof.Machine.execHeadingRangeSet w s
  | .headingRangeGet w => Sys2Proof.Machine.execHeadingRangeGet w s
  | .headingEntryLatch path w => Sys2Proof.Machine.execHeadingEntryLatch path w s
  | .contextReset ctx recs => Sys2Proof.Machine.execContextReset ctx recs s
  | .deviceEvent a facets => Sys2Proof.Machine.execDeviceEvent a facets s
  | .safeStateExit => Sys2Proof.Machine.execSafeStateExit s
  | .binRecover path w => Sys2Proof.Machine.execBinRecover path w s
  | .warmReset path w => Sys2Proof.Machine.execWarmReset path w s
  | .warmResetComplete failed => Sys2Proof.Machine.execWarmResetComplete failed s
  | .lockstepMismatch => Sys2Proof.Machine.execLockstepMismatch s
  | .binOscLoss => Sys2Proof.Machine.execBinOscLoss s
  | .clockMonitorWindow clock count expect => Sys2Proof.Machine.execClockMonitorWindow clock count expect s
  | .voltageSample rail mv => Sys2Proof.Machine.execVoltageSample rail mv s
  | .temperatureSample sensor tenths => Sys2Proof.Machine.execTemperatureSample sensor tenths s
  | .helmHeartbeat core => Sys2Proof.Machine.execHelmHeartbeat core s
  | .heartbeatTimeout core => Sys2Proof.Machine.execHeartbeatTimeout core s
  | .avsReadback mv => Sys2Proof.Machine.execAvsReadback mv s
  | .avsUpdate up => Sys2Proof.Machine.execAvsUpdate up s
  | .pmbAlert outputFault other => Sys2Proof.Machine.execPmbAlert outputFault other s
  | .deadlineWatch k => Sys2Proof.Machine.execDeadlineWatch k s
  | .traceabilityLoss => Sys2Proof.Machine.execTraceabilityLoss s
  | .spareSubstitution sector => Sys2Proof.Machine.execSpareSubstitution sector s
  | .facetLbistEnd unit0 pass => Sys2Proof.Machine.execFacetLbistEnd unit0 pass s
  | .inputReadError k spill => Sys2Proof.Machine.execInputReadError k spill s
  | .inputReadComplete k data off words lost => Sys2Proof.Machine.execInputReadComplete k data off words lost s
  | .functionLevelReset f => Sys2Proof.Machine.execFunctionLevelReset f s
  | .busMasterDisable f d3 => Sys2Proof.Machine.execBusMasterDisable f d3 s
  | .busMasterEnable f => Sys2Proof.Machine.execBusMasterEnable f s
  | .linkReset width speed => Sys2Proof.Machine.execLinkReset width speed s
  | .msixUnmask f e => Sys2Proof.Machine.execMsixUnmask f e s
  | .w1cClear path off w race => Sys2Proof.Machine.execW1cClear path off w race s
  | .rcCounterRead path off => Sys2Proof.Machine.execRcCounterRead path off s
  | .registerWrite path off w full ep => Sys2Proof.Machine.execRegisterWrite path off w full ep s
  | .snapMeridian w => Sys2Proof.Machine.execSnapMeridian w s
  | .setMeridian w => Sys2Proof.Machine.execSetMeridian w s
  | .switchSource w => Sys2Proof.Machine.execSwitchSource w s
  | .merNowRead path => Sys2Proof.Machine.execMerNowRead path s
  | .syncSample idx origin ingress => Sys2Proof.Machine.execSyncSample idx origin ingress s
  | .delayMeasurement idx t1 t2 t3 t4 => Sys2Proof.Machine.execDelayMeasurement idx t1 t2 t3 t4 s
  | .primarySampleTimeout => Sys2Proof.Machine.execPrimarySampleTimeout s
  | .holdLimit => Sys2Proof.Machine.execHoldLimit s
  | .announce idx utc valid ptp logSync => Sys2Proof.Machine.execAnnounce idx utc valid ptp logSync s
  | .ptpEventIngress p sub => Sys2Proof.Machine.execPtpEventIngress p sub s
  | .ptpEventEgress p sub seqId msgType carries => Sys2Proof.Machine.execPtpEventEgress p sub seqId msgType carries s
  | .outputArm n w => Sys2Proof.Machine.execOutputArm n w s
  | .outputEdge n => Sys2Proof.Machine.execOutputEdge n s
  | .inputEdge idx rise sub => Sys2Proof.Machine.execInputEdge idx rise sub s
  | .inputFifoPop idx => Sys2Proof.Machine.execInputFifoPop idx s
  | .hello => Sys2Proof.Machine.execHello s
  | .rastanFrameReceive port f wire => Sys2Proof.Machine.execRastanFrameReceive port f wire s
  | .rastanRetry c lseq => Sys2Proof.Machine.execRastanRetry c lseq s
  | .memberDown c => Sys2Proof.Machine.execMemberDown c s
  | .timedWaitLimit k => Sys2Proof.Machine.execTimedWaitLimit k s
  | .globalStopRequest w => Sys2Proof.Machine.execGlobalStopRequest w s
  | .globalStop places => Sys2Proof.Machine.execGlobalStop places s
  | .scanOutEnd => Sys2Proof.Machine.execScanOutEnd s
  | .globalResume w => Sys2Proof.Machine.execGlobalResume w s
  | .soundingFrameEnd port vc f => Sys2Proof.Machine.execSoundingFrameEnd port vc f s
  | .csiPacketIgnored port hdrEcc => Sys2Proof.Machine.execCsiPacketIgnored port hdrEcc s
  | .streamUnitLaunch n event => Sys2Proof.Machine.execStreamUnitLaunch n event s
  | .fixFrameEmit n => Sys2Proof.Machine.execFixFrameEmit n s
  | .fixFrameSent n => Sys2Proof.Machine.execFixFrameSent n s
  | .streamWatchdog n => Sys2Proof.Machine.execStreamWatchdog n s
  | .streamFailed n portFault => Sys2Proof.Machine.execStreamFailed n portFault s
  | .skewCalibration port dur => Sys2Proof.Machine.execSkewCalibration port dur s
  | .counterClear path w => Sys2Proof.Machine.execCounterClear path w s
  | .bsetRead path => Sys2Proof.Machine.execBsetRead path s
  | .counterRead path => Sys2Proof.Machine.execCounterRead path s
  | .serialRead path => Sys2Proof.Machine.execSerialRead path s
  | .traceLost => Sys2Proof.Machine.execTraceLost s
  | .wakePageLatch w => Sys2Proof.Machine.execWakePageLatch w s
  | .logWindowLatch path w => Sys2Proof.Machine.execLogWindowLatch path w s
  | .binCfgWrite path w => Sys2Proof.Machine.execBinCfgWrite path w s
  | .helmBreakpoint core pc => Sys2Proof.Machine.execHelmBreakpoint core pc s
  | .helmHalt w => Sys2Proof.Machine.execHelmHalt w s
  | .helmResume w => Sys2Proof.Machine.execHelmResume w s
  | .helmHalted core pc => Sys2Proof.Machine.execHelmHalted core pc s
  | .porPin mode i3cSa => Sys2Proof.Machine.execPorPin mode i3cSa s
  | .binnacleSelfTestEnd pass => Sys2Proof.Machine.execBinnacleSelfTestEnd pass s
  | .rootPllLock width speed => Sys2Proof.Machine.execRootPllLock width speed s
  | .bootRomEnd core0 key serial => Sys2Proof.Machine.execBootRomEnd core0 key serial s
  | .selfTestEnd facets spares sextants cores rows banks tables => Sys2Proof.Machine.execSelfTestEnd facets spares sextants cores rows banks tables s
  | .firmwareReadEnd octal => Sys2Proof.Machine.execFirmwareReadEnd octal s
  | .readyOp t0 t1 pmb init0 mv => Sys2Proof.Machine.execReadyOp t0 t1 pmb init0 mv s
  | .bootTimeout => Sys2Proof.Machine.execBootTimeout s
  | .supplyDetectReset core sram => Sys2Proof.Machine.execSupplyDetectReset core sram s
  | .powerDown short si lg => Sys2Proof.Machine.execPowerDown short si lg s
  | .mbxReport path => Sys2Proof.Machine.execMbxReport path s
  | .mbxAttest path => Sys2Proof.Machine.execMbxAttest path s
  | .mbxErase path => Sys2Proof.Machine.execMbxErase path s
  | .mbxWrite path => Sys2Proof.Machine.execMbxWrite path s
  | .mbxVerify path => Sys2Proof.Machine.execMbxVerify path s
  | .mbxReboot path => Sys2Proof.Machine.execMbxReboot path s
  | .mbxListen path => Sys2Proof.Machine.execMbxListen path s
  | .mbxDone good => Sys2Proof.Machine.execMbxDone good s
  | .i3cSetPage first page => Sys2Proof.Machine.execI3cSetPage first page s
  | .i3cWriteWords a data => Sys2Proof.Machine.execI3cWriteWords a data s
  | .i3cSetReadAddr a n => Sys2Proof.Machine.execI3cSetReadAddr a n s
  | .entdaa da => Sys2Proof.Machine.execEntdaa da s
  | .setdasa sa da => Sys2Proof.Machine.execSetdasa sa da s
  | .setnewda cur da => Sys2Proof.Machine.execSetnewda cur da s
  | .rstdaa => Sys2Proof.Machine.execRstdaa s
  | .enec events => Sys2Proof.Machine.execEnec events s
  | .disec events => Sys2Proof.Machine.execDisec events s
  | .getpid => Sys2Proof.Machine.execGetpid s
  | .getbcr => Sys2Proof.Machine.execGetbcr s
  | .getdcr => Sys2Proof.Machine.execGetdcr s
  | .getstatus => Sys2Proof.Machine.execGetstatus s
  | .getmwl => Sys2Proof.Machine.execGetmwl s
  | .getmrl => Sys2Proof.Machine.execGetmrl s
  | .setmwl n => Sys2Proof.Machine.execSetmwl n s
  | .setmrl n => Sys2Proof.Machine.execSetmrl n s
  | .getmxds => Sys2Proof.Machine.execGetmxds s
  | .ibiRetry acked => Sys2Proof.Machine.execIbiRetry acked s
  | .soundingFrameStart port vc => Sys2Proof.Machine.execSoundingFrameStart port vc s
  | .rastanSend k peer win off rows bcn waits => Sys2Proof.Machine.execRastanSend k peer win off rows bcn waits s
  | .pcieCompletionTimeout k fetch => Sys2Proof.Machine.execPcieCompletionTimeout k fetch s
  | .vfEnableClear => Sys2Proof.Machine.execVfEnableClear s
  | .vddSiOutOfWindow mv => Sys2Proof.Machine.execVddSiOutOfWindow mv s
  | .fallbackOscillatorStop => Sys2Proof.Machine.execFallbackOscillatorStop s
  | .vddSiLowReset mv => Sys2Proof.Machine.execVddSiLowReset mv s
  | .bootStepDeadline part => Sys2Proof.Machine.execBootStepDeadline part s

end Sys2Proof.Machine
end

