-- ==== Sys2Proof/Safety.lean ====
section
/-! DEFINITION. What counts as a well-formed state, in the terms that the statements use. -/

namespace Sys2Proof.Machine
open Sys2Proof

/-- The canonical form of a sorted association list: keys strictly rising. -/
def mapWfFrom {α : Type} : Nat → List (Nat × α) → Bool
  | _, [] => true
  | lo, (k, _) :: m => decide (lo ≤ k) && mapWfFrom (k + 1) m

/-- Keys strictly rising. -/
def mapWf {α : Type} (m : List (Nat × α)) : Bool := mapWfFrom 0 m

/-- The byte memories hold their canonical form: Chart memory and the mailbox buffer, where an unlisted byte reads 0, and the flash, where
it reads 0xFF. -/
def State.memoriesWf (s : State) : Bool :=
  memWf 0#8 s.chart.mem && memWf 0#8 s.mbx.buf && memWf 0xFF#8 s.flash.fw && memWf 0xFF#8 s.flash.cfg

/-- SAFE_N is high only at READY or in a warm reset, and only out of the safe state (16 R374, 19 R441). -/
def safeNOk (s : State) : Prop := s.bin.safeN = true → s.bin.safe = false ∧ (s.boot.state = 1 ∨ s.boot.state = 3)

/-- The invariant that every step keeps: canonical byte memories, and SAFE_N as 16 R374 has it. -/
def State.Inv (s : State) : Prop := s.memoriesWf = true ∧ safeNOk s

/-- One step goes on: no command of this block ends in a fault or a refusal. -/
def goesOn (s : State) : Prop := ∃ t, step s = .next t

/-- The command answers a next state, and that state has P. -/
def gives (c : Instr) (s : State) (P : State → Prop) : Prop := ∃ t, exec c s = .next t ∧ P t

/-- Between s and t a command's commit request that has p was filed at the end of the journal queue (09 R248). -/
def filedAs (s t : State) (k : CmdKey) (p : CommitReq → Prop) : Prop :=
  ∃ c q, findCmd t k = some c ∧ c.phase = .requested ∧ c.req = some q ∧ p q ∧ t.log.queue = s.log.queue ++ [k]

/-- The same by its status. -/
def filed (s t : State) (k : CmdKey) (status : Nat) : Prop := filedAs s t k (fun q => q.status = status)

/-- The safe state that a DEVICE event brings (16 R384): SAFE_N and ALERT_N low, the array frozen, the ports silent, the cause kept. -/
def safeStateBy (t : State) (cause : Nat) : Prop :=
  t.bin.safe = true ∧ t.bin.safeN = false ∧ t.bin.alertN = false ∧ t.bin.frozen = true ∧ t.bin.txCut = true ∧ t.bin.linksDown = true ∧
  t.bin.cause = cause

/-- SAFE-LISTEN with a FAIL code (17 R394, R405). -/
def listening (t : State) (fail : Nat) : Prop :=
  t.boot.state = 2 ∧ t.boot.fail = fail ∧ t.bin.safeN = false ∧ t.bin.alertN = false ∧ t.bin.txCut = true ∧ t.bin.linksDown = true

/-- A warm reset has begun (15 R369): nothing runs, every command waits to be fetched again or for its commit. -/
def warmBegun (t : State) : Prop :=
  t.boot.state = 3 ∧ t.bin.safe = false ∧ t.runs = [] ∧ t.batches = [] ∧ t.helm.armed = [] ∧ t.helm.ladder = [] ∧
  ∀ c, c ∈ t.cmds → c.phase = .refetch ∨ c.phase = .requested

/-! ### Frames -/

/-- The groups of State, by name; the queue is none of them, as exec never touches it. -/
inductive StateGroup where
  | clk | regs | boot | flash | mbx | helm | cmds | runs | batches | chart | rose | log | bin | ms | streams | csi | fleet | fns
  | msix | pci | i3c | pel | out | free
deriving DecidableEq, Repr

/-- The groups that the report of an event can touch (15 R357): its registers, the Logbook, ALERT_N, the interrupts, the byte counters. -/
def reportGroups : List StateGroup := [.regs, .log, .bin, .msix, .i3c, .pel, .out]

/-- t differs from s in the groups named at most, and keeps the queue. -/
def onlyChanged (gs : List StateGroup) (s t : State) : Prop :=
  t.pending = s.pending ∧
  (.clk ∈ gs ∨ t.clk = s.clk) ∧ (.regs ∈ gs ∨ t.regs = s.regs) ∧ (.boot ∈ gs ∨ t.boot = s.boot) ∧
  (.flash ∈ gs ∨ t.flash = s.flash) ∧ (.mbx ∈ gs ∨ t.mbx = s.mbx) ∧ (.helm ∈ gs ∨ t.helm = s.helm) ∧
  (.cmds ∈ gs ∨ t.cmds = s.cmds) ∧ (.runs ∈ gs ∨ t.runs = s.runs) ∧ (.batches ∈ gs ∨ t.batches = s.batches) ∧
  (.chart ∈ gs ∨ t.chart = s.chart) ∧ (.rose ∈ gs ∨ t.rose = s.rose) ∧ (.log ∈ gs ∨ t.log = s.log) ∧
  (.bin ∈ gs ∨ t.bin = s.bin) ∧ (.ms ∈ gs ∨ t.ms = s.ms) ∧ (.streams ∈ gs ∨ t.streams = s.streams) ∧
  (.csi ∈ gs ∨ t.csi = s.csi) ∧ (.fleet ∈ gs ∨ t.fleet = s.fleet) ∧ (.fns ∈ gs ∨ t.fns = s.fns) ∧
  (.msix ∈ gs ∨ t.msix = s.msix) ∧ (.pci ∈ gs ∨ t.pci = s.pci) ∧ (.i3c ∈ gs ∨ t.i3c = s.i3c) ∧
  (.pel ∈ gs ∨ t.pel = s.pel) ∧ (.out ∈ gs ∨ t.out = s.out) ∧ (.free ∈ gs ∨ t.free = s.free)

end Sys2Proof.Machine
end

