-- ==== Sys2Proof/Certificates/Slice0/Obligations.lean ====
section
/-! DEFINITION. The statements for the provers: the machine as a whole, then the commands family by family. -/

open Sys2Proof Sys2Proof.Machine

/-! ### The machine as a whole -/

/-- A step takes the command at the front of the queue and runs exec on it with the queue's rest (the model's queue, log 1). -/
def Obligations.StepRunsFront : Prop :=
  ∀ (c : Instr) (rest : List Instr) (s : State), s.pending = c :: rest → step s = exec c (s.setPending rest)

/-- No command touches the queue (log 1). -/
def Obligations.ExecKeepsQueue : Prop :=
  ∀ (c : Instr) (s t : State), exec c s = .next t → t.pending = s.pending

/-- Every step keeps the canonical form of the byte memories, and SAFE_N high only at READY or in a warm reset, out of the safe state
(16 R374, 19 R441). -/
def Obligations.StepKeepsInvariant : Prop :=
  ∀ (s t : State), s.Inv → step s = .next t → t.Inv

/-- Reset has the invariant. -/
def Obligations.ResetInvariant : Prop := State.reset.Inv

/-- What 17 R393, R397, 16 R374, 19 R441, 20 R448, R450 say of the device while POR_N is low: SAFE_N low, ALERT_N released, STATE 0,
no context, ring, model, command, run, Heading entry, Beacon or range of Beacons or entries, Chart memory 0, registers at their reset
values. -/
def Obligations.ResetHolds : Prop :=
  State.reset.bin.safeN = false ∧ State.reset.bin.alertN = true ∧ State.reset.boot.state = 0 ∧ State.reset.boot.por = false ∧
  State.reset.cmds = [] ∧ State.reset.runs = [] ∧ State.reset.streams = [] ∧ State.reset.helm.models = [] ∧
  (∀ c, ctxOf State.reset c = none) ∧ (∀ c r, (ringOf State.reset c r).enable = false) ∧ (∀ h, hdgOf State.reset h = Hdg.zero) ∧
  (∀ b, mgetD State.reset.helm.beacons b 0 = 0) ∧ (∀ c b, inRange (sigRange State.reset c) b = false ∧ inRange (waitRange State.reset c) b = false) ∧
  (∀ c h, inHdgRange State.reset c h = false) ∧ (∀ a, memRead 0#8 State.reset.chart.mem a = 0#8) ∧
  (∀ off ri, regInfo off = some ri → rget State.reset off = ri.reset)

/-- The commands that can change the flash: the mailbox, and the writes that reach it. -/
def mailboxLike : Instr → Bool
  | .mbxReport _ | .mbxAttest _ | .mbxErase _ | .mbxWrite _ | .mbxVerify _ | .mbxReboot _ | .mbxListen _ | .mbxDone _ => true
  | .registerWrite _ off _ _ _ => decide (0x100000 ≤ off)
  | .i3cWriteWords _ _ => true
  | _ => false

/-- Only the mailbox writes the flash (19 R435; 17 R406). -/
def Obligations.FlashOnlyMailbox : Prop :=
  ∀ (c : Instr) (s t : State), mailboxLike c = false → exec c s = .next t → t.flash = s.flash

/-- The commands that can set Meridian time or the count of AK cycles outside a clock cycle: the PLL's lock at 0, the resets. -/
def clockLike : Instr → Bool
  | .rootPllLock _ _ | .supplyDetectReset _ _ | .powerDown _ _ _ | .vddSiLowReset _ | .mbxReboot _ => true
  | .registerWrite _ off _ _ _ => decide (0x100000 ≤ off)
  | .i3cWriteWords _ _ => true
  | _ => false

/-- No event but the clocks and the start of Meridian time changes Meridian time or the AK count (13 R315, R317). -/
def Obligations.MeridianKept : Prop :=
  ∀ (c : Instr) (s t : State), clockLike c = false → exec c s = .next t → t.clk.mer = s.clk.mer ∧ t.clk.chipAk = s.clk.chipAk

/-- The commands that can end SAFE-LISTEN: REBOOT by any path, and POR_N, which the supply detectors drive too. -/
def endsListen : Instr → Bool
  | .supplyDetectReset _ _ | .powerDown _ _ _ | .vddSiLowReset _ | .mbxReboot _ => true
  | .registerWrite _ off _ _ _ => decide (0x100000 ≤ off)
  | .i3cWriteWords _ _ => true
  | _ => false

/-- SAFE-LISTEN ends only through REBOOT or POR_N (17 R405). -/
def Obligations.SafeListenEnds : Prop :=
  ∀ (c : Instr) (s t : State), s.boot.state = 2 → exec c s = .next t → endsListen c = false → t.boot.state = 2

/-- The commands that can end the safe state: the Binnacle's own exit, GO to BIN_RECOVER, and what restarts power-up. -/
def endsSafe : Instr → Bool
  | .safeStateExit | .binRecover _ _ => true
  | .supplyDetectReset _ _ | .powerDown _ _ _ | .vddSiLowReset _ | .mbxReboot _ => true
  | .registerWrite _ off _ _ _ => decide (off = 0xD0008) || decide (0x100000 ≤ off)
  | .i3cWriteWords _ _ => true
  | _ => false

/-- The safe state is left only by the warm reset of SAFE_STATE_EXIT or BIN_RECOVER, or by a new power-up (16 R385). -/
def Obligations.SafeStateEnds : Prop :=
  ∀ (c : Instr) (s t : State), s.bin.safe = true → exec c s = .next t → endsSafe c = false → t.bin.safe = true

/-! ### Rings and descriptors (09) -/

/-- The cases of a doorbell (09 R225, 10 R254, 15 R362) and the frame of each: ignored, stale, overrun, announced, for an undefined
context, with EP set. -/
def Obligations.DoorbellDecides : Prop :=
  ∀ (s : State) (fn page ring ctx : Nat) (tail : Word), ring < 8 → fnEnabled s fn = true → pageCtx s fn page = some ctx →
    let r := ringOf s ctx ring
    let c := Instr.doorbell fn page ring tail false
    gives (.doorbell fn page ring tail true) s (fun t => t.pci.epDropped = s.pci.epDropped + 1 ∧ onlyChanged [.pci] s t) ∧
    (ctxOf s ctx = none → gives c s (fun t => ringOf t ctx ring = { r with dbIgnored := true } ∧ onlyChanged [.helm, .pel] s t)) ∧
    (∀ x, ctxOf s ctx = some x →
      (r.enable = false → gives c s (fun t => ringOf t ctx ring = { r with dbIgnored := true } ∧ onlyChanged [.helm, .pel] s t)) ∧
      (r.enable = true → 2 ^ 31 ≤ (tail - r.head).toNat → gives c s (onlyChanged [.pel] s)) ∧
      (r.enable = true → (tail - r.head).toNat < 2 ^ 31 → 2 ^ r.log2e ≤ (tail - r.done).toNat →
        gives c s (fun t => ringOf t ctx ring = { r with dbOverrun := true } ∧ onlyChanged (.helm :: reportGroups) s t)) ∧
      (r.enable = true → (tail - r.head).toNat < 2 ^ 31 → (tail - r.done).toNat < 2 ^ r.log2e →
        gives c s (fun t => ringOf t ctx ring = { r with tail := newerTail r tail, next := (ringOf t ctx ring).next } ∧
          onlyChanged [.helm, .pel, .out] s t)))

/-- RING_ENABLE and RING_DISABLE (09 R224): a good record sets HEAD, DONE and TAIL, a bad one RECORD_ERR with ENABLE 0; while ACTIVE is 1 only
ENABLE_REFUSED is set; a disable leaves the pointers and every accepted command. -/
def Obligations.RingEnableDisable : Prop :=
  ∀ (s : State) (fn page ring ctx : Nat) (w : Word) (rec : Rec), ring < 8 → fnEnabled s fn = true → pageCtx s fn page = some ctx →
    let r := ringW1c (ringOf s ctx ring) w
    let c := Instr.ringEnable fn page ring w rec
    (∀ x, ctxOf s ctx = some x → ringActive s ctx ring = false →
      (recordOk s fn rec = true → gives c s (fun t =>
        (ringOf t ctx ring).enable = true ∧ (ringOf t ctx ring).head = recSeq0 rec ∧ (ringOf t ctx ring).done = recSeq0 rec ∧
        (ringOf t ctx ring).tail = recSeq0 rec - 1 ∧ (ringOf t ctx ring).log2e = recLog2E rec ∧
        (ringOf t ctx ring).sqBase = recSq rec ∧ (ringOf t ctx ring).cqBase = recCq rec ∧ onlyChanged [.helm, .pel] s t)) ∧
      (recordOk s fn rec = false → gives c s (fun t =>
        ringOf t ctx ring = { r with recordErr := true, enable := false } ∧ onlyChanged [.helm, .pel] s t))) ∧
    (ctxOf s ctx = none ∨ ringActive s ctx ring = true → gives c s (fun t =>
      ringOf t ctx ring = { r with enableRefused := true } ∧ onlyChanged [.helm, .pel] s t)) ∧
    gives (.ringDisable fn page ring w) s (fun t => ringOf t ctx ring = { r with enable := false } ∧ onlyChanged [.helm, .pel] s t)

/-- DESCRIPTOR_ACCEPT (09 R226): bytes are accepted as the command of the slot at HEAD, and HEAD passes it; a failed read accepts nothing,
stops fetching at its slot and sets FETCH_ERR. -/
def Obligations.DescriptorAccepted : Prop :=
  ∀ (s : State) (ctx ring : Nat) (d : Line),
    let r := ringOf s ctx ring
    canFetch s ctx ring r r.head = true → fetching r = true →
    (findCmd s ⟨ctx, ring, r.head⟩ = none → gives (.descriptorAccept ctx ring 0 (.bytes d)) s (fun t =>
      (ringOf t ctx ring).head = r.head + 1 ∧ (ringOf t ctx ring).tail = r.tail ∧ (ringOf t ctx ring).done = r.done ∧
      (∃ c, findCmd t ⟨ctx, ring, r.head⟩ = some c ∧ c.desc = d) ∧ t.runs = s.runs ∧ t.chart = s.chart ∧ t.streams = s.streams)) ∧
    gives (.descriptorAccept ctx ring 0 .failed) s (fun t =>
      ringOf t ctx ring = { r with fetchErr := true, stopped := true, next := r.head } ∧ onlyChanged (.helm :: reportGroups) s t)

/-! ### Contexts, ranges, Beacon grants (10, 20) -/

/-- CTX_DEFINE, CTX_UPDATE, CTX_UNDEFINE (10 R254): what each does when nothing stands against it, and that no other context changes. -/
def Obligations.ContextCommands : Prop :=
  ∀ (s : State) (w : Word) (b : Line), pfOpen s = true → bit w 31 = true →
    let ctx := cmdCtx w
    (cmdOp w = 1 → ctxOf s ctx = none → blkValid b = true → blkShares b ≠ 0 → quotaSum s ctx + blkQuota b ≤ rsvFacets s →
      gives (.ctxDefine w b) s (fun t =>
        ctxOf t ctx = some ⟨blkShares b, blkQuota b, none, 0, 0, false, 0, .idle, s.clk.mer, false⟩ ∧
        (∀ c, c ≠ ctx → ctxOf t c = ctxOf s c) ∧ t.helm = { s.helm with ctxs := t.helm.ctxs } ∧ onlyChanged [.regs, .helm, .pel] s t)) ∧
    (cmdOp w = 1 → (ctxOf s ctx).isSome = true ∨ blkValid b = false ∨ blkShares b = 0 ∨ rsvFacets s < quotaSum s ctx + blkQuota b →
      gives (.ctxDefine w b) s (fun t => (rget t 0x10010).testBit 29 = true ∧ onlyChanged [.regs, .pel] s t)) ∧
    (∀ c, cmdOp w = 2 → ctxOf s ctx = some c → blkShares b ≠ 0 → quotaSum s ctx + blkQuota b ≤ rsvFacets s →
      gives (.ctxUpdate w b) s (fun t =>
        ctxOf t ctx = some { c with upd := some (blkShares b, blkQuota b) } ∧ (∀ c, c ≠ ctx → ctxOf t c = ctxOf s c) ∧
        t.helm = { s.helm with ctxs := t.helm.ctxs } ∧ onlyChanged [.regs, .helm, .pel] s t)) ∧
    (cmdOp w = 3 → (ctxOf s ctx).isSome = true → (∀ i, i < 8 → (ringOf s ctx i).enable = false ∧ ringActive s ctx i = false) →
      gives (.ctxUndefine w) s (fun t =>
        t.helm = { s.helm with ctxs := mdel s.helm.ctxs ctx } ∧ onlyChanged [.regs, .helm] s t)) ∧
    (cmdOp w = 3 → (ctxOf s ctx = none ∨ ∃ i, i < 8 ∧ ((ringOf s ctx i).enable = true ∨ ringActive s ctx i = true)) →
      gives (.ctxUndefine w) s (fun t => (rget t 0x10010).testBit 29 = true ∧ onlyChanged [.regs] s t))

/-- CTX_BASE_WRITE, RSV_FACETS_WRITE, FN_CTX_WRITE (10 R253 to R255): the value written, or ERR and the old value. -/
def Obligations.ContextRegisters : Prop :=
  ∀ (s : State) (w : Word), pfOpen s = true →
    (s.helm.ctxs = [] →
      gives (.ctxBaseWrite false w) s (fun t => rget t 0x10000 = w.toNat / 2 ^ 21 * 2 ^ 21 ∧ onlyChanged [.regs] s t) ∧
      gives (.ctxBaseWrite true w) s (fun t => rget t 0x10004 = w.toNat ∧ onlyChanged [.regs] s t)) ∧
    (∀ hi, s.helm.ctxs ≠ [] → gives (.ctxBaseWrite hi w) s (fun t =>
      rget t 0x10000 = rget s 0x10000 ∧ rget t 0x10004 = rget s 0x10004 ∧ (rget t 0x10010).testBit 29 = true ∧ onlyChanged [.regs] s t)) ∧
    (quotaSum s 4096 ≤ bits w 8 0 → gives (.rsvFacetsWrite w) s (fun t => rsvFacets t = bits w 8 0 ∧ onlyChanged [.regs] s t)) ∧
    (bits w 8 0 < quotaSum s 4096 → gives (.rsvFacetsWrite w) s (fun t =>
      rsvFacets t = rsvFacets s ∧ (rget t 0x1000C).testBit 31 = true ∧ onlyChanged [.regs] s t)) ∧
    (∀ f, f < 64 → (0 < f → bits w 28 16 ≤ 256) →
      (∀ g, g < 64 → g ≠ f → rangesMeet (bits w 11 0) (bits w 28 16) (fnRange s g).1 (fnRange s g).2 = false) →
      (∀ c x, (c, x) ∈ s.helm.ctxs → ownsCtx s f c = true → bits w 11 0 ≤ c ∧ c < bits w 11 0 + bits w 28 16) →
      gives (.fnCtxWrite f w) s (fun t => fnRange t f = (bits w 11 0, bits w 28 16) ∧
        (∀ g, g ≠ f → fnRange t g = fnRange s g) ∧ onlyChanged [.regs] s t))

/-- BEACON_RANGE_SET and GET, HEADING_RANGE_SET and GET, HEADING_ENTRY_LATCH (20 R448, R450, R451). -/
def Obligations.RangeCommands : Prop :=
  ∀ (s : State) (w : Word), pfOpen s = true →
    let ctx := cmdCtx w
    (bit w 31 = true → cmdOp w = 1 →
      gives (.beaconRangeSet w) s (fun t => sigRange t ctx = rangeOf (rget s 0x70004) ∧ waitRange t ctx = rangeOf (rget s 0x70008) ∧
        (∀ c, c ≠ ctx → sigRange t c = sigRange s c ∧ waitRange t c = waitRange s c) ∧ onlyChanged [.regs, .helm] s t) ∧
      (hdgSetBad s ctx (rget s 0x78004 % 2 ^ 16) (rget s 0x78008 % 2 ^ 17) = false →
        gives (.headingRangeSet w) s (fun t =>
          t.helm = { s.helm with hdgRange := mset s.helm.hdgRange ctx (rget s 0x78004 % 2 ^ 16, rget s 0x78008 % 2 ^ 17) } ∧
          onlyChanged [.regs, .helm] s t)) ∧
      (hdgSetBad s ctx (rget s 0x78004 % 2 ^ 16) (rget s 0x78008 % 2 ^ 17) = true →
        gives (.headingRangeSet w) s (fun t => (rget t 0x78000).testBit 29 = true ∧ onlyChanged [.regs] s t))) ∧
    (bit w 31 = true → cmdOp w = 2 →
      gives (.beaconRangeGet w) s (fun t => rget t 0x70004 = rangeWord (sigRange s ctx) ∧ rget t 0x70008 = rangeWord (waitRange s ctx) ∧
        onlyChanged [.regs] s t) ∧
      gives (.headingRangeGet w) s (fun t => rget t 0x78004 = (mgetD s.helm.hdgRange ctx (0, 0)).1 % 2 ^ 32 ∧
        rget t 0x78008 = (mgetD s.helm.hdgRange ctx (0, 0)).2 % 2 ^ 32 ∧ onlyChanged [.regs] s t)) ∧
    (∀ path, path < 64 → fnEnabled s path = true → gives (.headingEntryLatch path w) s (fun t =>
      regRaw t path 0x78010 = bits w 15 0 + bitAt (hdgReadable s path (bits w 15 0)) 31 ∧
      (∀ i, i < 16 → regRaw t path (0x78040 + 4 * i) =
        leNat (((if hdgReadable s path (bits w 15 0) then hdgBytes (hdgOf s (bits w 15 0)) else zeros 64).drop (4 * i)).take 4)) ∧
      onlyChanged [.regs] s t))

/-! ### Models (02, 09) -/

/-- LOAD_MODEL and FIT_CHECK (02 R48, R57; 06 R168; 09 R232): an image that arrives whole awaits its fit check; a broken one is a
MODEL_MISMATCH, one with a NaN among its operands a NUMERIC_TRAP; one that fits is reserved, one that does not is NO_FIT with its report; the load after the
check asks for its commit, and one that runs again keeps its reservation. -/
def Obligations.ModelLoading : Prop :=
  ∀ (s : State) (k : CmdKey) (c : Cmd) (im : Image),
    let n := dModel c.desc % 4096
    (runnable s k 0x01 = some c → ownReserve s c = false → ¬ (im.routes.length = 2 ∧ dOutLen c.desc < 8) → mget s.helm.models n = none →
      (imageBroken im = false → imageNans im = [] → gives (.loadModel k im) s (fun t =>
        findCmd t k = some { c with image := some im, inputIn := true, phase := .awaitFit } ∧ onlyChanged [.cmds, .pel] s t)) ∧
      (imageBroken im = true → gives (.loadModel k im) s (fun t => filed s t k 0x31 ∧ onlyChanged [.cmds, .helm, .log, .pel] s t)) ∧
      (imageBroken im = false → imageNans im ≠ [] → gives (.loadModel k im) s (fun t =>
        filed s t k 0x21 ∧ onlyChanged [.cmds, .helm, .log, .pel, .out] s t))) ∧
    (runnable s k 0x01 = some c → ownReserve s c = true → c.image = some im → gives (.loadModel k im) s (fun t =>
      findCmd t k = some { c with phase := .fitted, inputIn := true } ∧ onlyChanged [.cmds, .pel] s t)) ∧
    (nextFit s = some c → c.image = some im → c.phase = .awaitFit → ready s = true → mget s.helm.models n = none →
      (fits (fitCheck s c im).1 (fitCheck s c im).2 = true → gives .fitCheck s (fun t =>
        findCmd t c.key = some { c with phase := .fitted } ∧
        t.helm = { s.helm with models := mset s.helm.models n (reservedModel c im (fitCheck s c im).1) } ∧ onlyChanged [.cmds, .helm] s t)) ∧
      (fits (fitCheck s c im).1 (fitCheck s c im).2 = false → gives .fitCheck s (fun t =>
        filed s t c.key 0x30 ∧ t.out = s.out ++ [.memWrite (fnFor s c.key.ctx) (dOutAddr c.desc) (fitBytes (fitCheck s c im).2)] ∧
        onlyChanged [.cmds, .helm, .log, .pel, .out] s t))) ∧
    (∀ m im', findCmd s k = some c → c.phase = .fitted → opOf c.desc = 0x01 → c.image = some im → mget s.helm.models n = some m →
      ready s = true → gives (.loadModel k im') s (fun t => filed s t k 0 ∧ onlyChanged [.cmds, .helm, .log, .chart, .pel, .out] s t))

/-- UNLOAD_MODEL and UNLOAD_COMPLETE (02 R50, 09 R232): the wait begins, or MODEL_MISMATCH; when nothing names the model any more the
commit is asked for, with the Almanac bytes that come free. -/
def Obligations.ModelUnloading : Prop :=
  ∀ (s : State) (k : CmdKey) (c : Cmd),
    let n := dModel c.desc % 4096
    (runnable s k 0x02 = some c →
      ((modelOf s n).isSome = true → unloadStands s c = false → gives (.unloadModel k) s (fun t =>
        findCmd t k = some { c with phase := .unloading } ∧ onlyChanged [.cmds] s t)) ∧
      (modelOf s n = none ∨ unloadStands s c = true → gives (.unloadModel k) s (fun t =>
        filed s t k 0x31 ∧ onlyChanged [.cmds, .helm, .log] s t))) ∧
    (∀ m, findCmd s k = some c → c.phase = .unloading → mget s.helm.models n = some m → unloadWaits s c n = false → ready s = true →
      gives (.unloadComplete k) s (fun t => filedAs s t k (fun q => q.status = 0 ∧ q.res0 = modelBytes m) ∧
        onlyChanged [.cmds, .helm, .log] s t))

/-! ### Commands that run on the Helm cores (09, 18) -/

/-- SOLVE, ESTIMATE and SOLVE_BATCH become launchable (09 R247); a batch problem's input is read at once (10 R270). -/
def Obligations.SolveLaunchable : Prop :=
  ∀ (s : State) (k : CmdKey) (c : Cmd), c.launchableAt = none → c.cover = none →
    let c' := { c with phase := CmdPhase.ready, launchableAt := some s.clk.mer }
    (runnable s k 0x10 = some c → gives (.solveCmd k) s (fun t => findCmd t k = some c' ∧ onlyChanged [.cmds] s t)) ∧
    (runnable s k 0x12 = some c → gives (.estimateCmd k) s (fun t => findCmd t k = some c' ∧ onlyChanged [.cmds] s t)) ∧
    (runnable s k 0x11 = some c → gives (.solveBatch k) s (fun t => findCmd t k = some c' ∧
      t.out = s.out ++ [.hostRead (fnFor s k.ctx) (dInAddr c.desc) (dInLen c.desc * 64)] ∧ onlyChanged [.cmds, .pel, .out] s t))

/-- BEACON_WAIT, its end by value and its timeout (09 R236): the wait begins once every earlier command of the ring has committed; a met
value gives OK, a passed timeout LATE, each with the Beacon's value. -/
def Obligations.BeaconWaits : Prop :=
  ∀ (s : State) (k : CmdKey) (c : Cmd),
    (runnable s k 0x41 = some c → ringHead s k = true → gives (.beaconWait k) s (fun t =>
      findCmd t k = some { c with phase := .waiting, since := stamp s } ∧ onlyChanged [.cmds, .regs, .pel] s t)) ∧
    (waitingCmd s k 0x41 = some c → waitMet s c.desc = true → ringHead s k = true →
      (∀ x, waitTimeout s c.desc = some x → s.clk.mer < x) → gives (.beaconWaitSatisfied k) s (fun t =>
        filedAs s t k (fun q => q.status = 0 ∧ q.res0 = (beaconOf s (waitTarget c.desc)).toNat) ∧
        onlyChanged [.cmds, .helm, .log, .regs, .pel] s t)) ∧
    (∀ x, findCmd s k = some c → opOf c.desc = 0x41 → (c.phase = .waiting ∨ waitingToRun c = true) → waitTimeout s c.desc = some x →
      x ≤ s.clk.mer → ready s = true → servedHalted s k.ctx = false → gives (.beaconWaitTimeout k) s (fun t =>
        filedAs s t k (fun q => q.status = 0x40 ∧ q.res0 = (beaconOf s (waitTarget c.desc)).toNat) ∧
        onlyChanged [.cmds, .helm, .log, .regs, .pel] s t))

/-- FENCE and FENCE_COMPLETE, ATTEST (09 R237, R239; 17 R410): the fence waits and then asks for its commit; the report or the certificate
is written to host memory, its length in the record. -/
def Obligations.FencesAndReports : Prop :=
  ∀ (s : State) (k : CmdKey) (c : Cmd),
    (runnable s k 0x42 = some c → gives (.fenceCmd k) s (fun t =>
      findCmd t k = some { c with phase := .waiting, since := stamp s } ∧ onlyChanged [.cmds] s t)) ∧
    (waitingCmd s k 0x42 = some c → fenceHolds s c = true → gives (.fenceComplete k) s (fun t =>
      filed s t k 0 ∧ onlyChanged [.cmds, .helm, .log] s t)) ∧
    (runnable s k 0x60 = some c → leField c.desc 34 1 = 0 → gives (.attestCmd k) s (fun t =>
      let bs := reportSigned s (leField c.desc 40 8) c.rows
      t.out = s.out ++ [.memWrite (fnFor s c.key.ctx) (dOutAddr c.desc) bs] ∧
      filedAs s t k (fun q => q.status = 0 ∧ q.res0 = bs.length) ∧ onlyChanged [.cmds, .helm, .log, .pel, .out] s t)) ∧
    (∀ m r, runnable s k 0x60 = some c → leField c.desc 34 1 = 1 → modelOf s (dModel c.desc % 4096) = some m →
      (if (leField c.desc 35 1).testBit 0 then batchRoute m else berthRoute m) = some r → unloadStands s c = false →
      gives (.attestCmd k) s (fun t =>
        let bs := certBytes s (dModel c.desc % 4096) m.sig r true (leField c.desc 40 8)
        t.out = s.out ++ [.memWrite (fnFor s c.key.ctx) (dOutAddr c.desc) bs] ∧
        filedAs s t k (fun q => q.status = 0 ∧ q.res0 = bs.length) ∧ onlyChanged [.cmds, .helm, .log, .pel, .out] s t)) ∧
    (runnable s k 0x60 = some c → leField c.desc 34 1 = 1 → modelOf s (dModel c.desc % 4096) = none →
      gives (.attestCmd k) s (fun t => filed s t k 0x31 ∧ onlyChanged [.cmds, .helm, .log] s t))

/-- WATCH, WATCH_FIRE, WATCH_COPY_END, WATCH_TRUNCATE (09 R238; 18 R418 to R420; 08 R206, R207): one of 64 watches is armed; at its step a DUMP
starts to copy and a STATS block is written, at another step nothing happens; a copy ends whole, cut after 10 ms, or cut before an
uncorrectable word (log 142); words that it corrects are counted. -/
def Obligations.WatchCommands : Prop :=
  ∀ (s : State) (k : CmdKey),
    (∀ c, runnable s k 0x50 = some c → s.pel.watches.length < 64 →
      ahead (ringOf s (newWatch k c.desc).target.ctx (newWatch k c.desc).target.ring).done (newWatch k c.desc).target.seq = false →
      gives (.watchCmd k) s (fun t => t.pel = { s.pel with watches := s.pel.watches ++ [newWatch k c.desc] } ∧ filed s t k 0 ∧
        onlyChanged [.cmds, .helm, .log, .pel] s t)) ∧
    (∀ w r c, findWatch s k = some w → findRun s w.target = some r → findCmd s w.target = some c → launched s r = true →
      r.phase ≠ .done → (w.fired = false ∨ w.killed = true) → ∀ b words, b ∈ r.berths →
      gives (.watchFire k w.step b.origin words) s (fun t =>
        (∃ w', findWatch t k = some w' ∧ w'.fired = true ∧ w'.killed = false ∧ w'.copying = w.dump ∧ w'.firedAk = sinceLaunch s r ∧
          w'.run = c.runs ∧ w'.origin = b.origin) ∧
        (w.dump = false → Output.memWrite (fnFor s w.key.ctx) (w.outAddr + 64) (statsBytes w.taps) ∈ t.out) ∧
        onlyChanged [.pel, .out] (if w.dump then feedEcc s words else s) t)) ∧
    (∀ w step org words, findWatch s k = some w → step ≠ w.step → gives (.watchFire k step org words) s (· = s)) ∧
    (∀ w a n words, findWatch s k = some w → w.copying = true → w.plot = some (a, n) →
      gives (.watchCopyEnd k words none) s (fun t =>
        (∃ w', findWatch t k = some w' ∧ w'.copying = false ∧ w'.truncated = false ∧ w'.copied = w.copied) ∧
        Output.memWrite (fnFor s w.key.ctx) (w.outAddr + 64) (chartGet s a w.copied) ∈ t.out ∧ onlyChanged [.pel, .out] (feedEcc s words) t) ∧
      (∀ m, m ≤ w.copied → gives (.watchCopyEnd k words (some m)) s (fun t =>
        (∃ w', findWatch t k = some w' ∧ w'.copying = false ∧ w'.truncated = true ∧ w'.copied = m) ∧
        Output.memWrite (fnFor s w.key.ctx) (w.outAddr + 64) (chartGet s a m) ∈ t.out ∧ onlyChanged [.pel, .out] (feedEcc s words) t))) ∧
    (∀ w n words, findWatch s k = some w → w.copying = true → n < w.copied → w.firedAt + 10000000 * nsU ≤ s.clk.mer →
      gives (.watchTruncate k n words) s (fun t =>
        (∃ w', findWatch t k = some w' ∧ w'.copying = false ∧ w'.truncated = true ∧ w'.copied = n) ∧
        onlyChanged [.pel, .out] (feedEcc s words) t))

/-! ### The scheduler (10, 11) -/

/-- SCHEDULING_ROUND (10 R263, R265): the one launchable quota command of the device is placed where a berth is free, and its input read. -/
def Obligations.RoundPlaces : Prop :=
  ∀ (s : State) (c : Cmd) (m : Model) (r : Route) (p : Placement), ready s = true → s.fleet.stopped = false →
    (∀ e, e ∈ s.cmds → dClass e.desc ≠ 0) →
    let s1 := snapshotStates s
    s.cmds.filter (fun e => decide (dClass e.desc ≠ 0) && launchable s1 e) = [c] → findCmd s c.key = some c →
    (∀ e, e ∈ s.cmds → awaitsBerth s1 e = true → modelMissing s1 e = false) →
    cmdRoute s1 c.desc = some (m, r) → quotaRoom s1 c.key.ctx (needFacets c.desc r) = true →
    placementFor s1 (occupancy s1) r (dDual c.desc) c.avoid = some p → findRun s c.key = none → 0 < dInLen c.desc →
    gives .schedulingRound s (fun t =>
      (∃ x, findCmd t c.key = some x ∧ x.phase = .placed) ∧
      (∃ x, findRun t c.key = some x ∧ x.berths = p.berths ∧ x.plots = p.plots ∧ x.triples = p.triples ∧ x.phase = .placed ∧ x.launchAk = 0) ∧
      t.out = s.out ++ [.hostRead (fnFor s c.key.ctx) (dInAddr c.desc) (dInLen c.desc * 64)] ∧ t.clk = s.clk ∧ t.bin = s.bin ∧
      t.boot = s.boot ∧ t.flash = s.flash)

/-- LADDER_RETRY, CONTEXT_RESIDENCY, QUEUED_DEADLINE_EXPIRY (11 R287, 10 R258, 04 R101): a step found in the ladder table is reserved; a
runnable context gets its slot, evicting the one that chooseSlot names; a queued command whose deadline has passed is LATE. -/
def Obligations.SchedulerCommands : Prop :=
  ∀ (s : State),
    (∀ k r c n, findRun s k = some r → findCmd s k = some c → r.phase = .placed → r.launchAk = 0 → c.waitRetry ≠ 0 → c.inputIn = true →
      r.armedOff = none → canServe s k.ctx = true → s.fleet.stopped = false → findStep s (runPattern r) = some n →
      tooLate c r.route (akTime s n) = false → gives (.ladderRetry k) s (fun t =>
        findRun t k = some { r with launchAk := n } ∧ findCmd t k = some { c with waitRetry := 0 } ∧
        onlyChanged [.cmds, .runs, .helm, .regs] s t)) ∧
    (∀ ctx c slot block, ctxOf s ctx = some c → c.resident = false → c.st = .runnable → ready s = true → s.fleet.stopped = false →
      chooseSlot s c = some (slot, none) → c.saved = false → gives (.contextResidency ctx block) s (fun t =>
        ctxOf t ctx = some { c with resident := true, slot := slot } ∧ (∀ d, d ≠ ctx → ctxOf t d = ctxOf s d) ∧
        onlyChanged [.helm, .pel, .out] s t)) ∧
    (∀ ctx c slot v b ch, ctxOf s ctx = some c → c.resident = false → c.st = .runnable → ready s = true → s.fleet.stopped = false →
      chooseSlot s c = some (slot, some v) → v ≠ ctx → c.saved = true → gives (.contextResidency ctx (some (b, ch))) s (fun t =>
        ctxOf t ctx = some { c with resident := true, slot := slot, balance := b, charged := ch, saved := false } ∧
        (∀ x, ctxOf t v = some x → x.resident = false ∧ x.saved = true))) ∧
    (∀ k c x, findCmd s k = some c → c.deadline = some x → waitingToRun c = true → x < s.clk.mer → ready s = true →
      servedHalted s k.ctx = false → gives (.queuedDeadlineExpiry k) s (fun t =>
        filed s t k 0x40 ∧ onlyChanged [.cmds, .helm, .log] s t))

/-- TIMED_LAUNCH, TIMED_LAUNCH_ARM, LAUNCH_TRIGGER (09 R234; 11 R291, R292): the command waits for t_L less 10 µs, arms its covered
commands or is LATE, and the trigger fixes S on a ladder step. -/
def Obligations.TimedLaunches : Prop :=
  ∀ (s : State) (k : CmdKey),
    (∀ c, runnable s k 0x30 = some c → gives (.timedLaunch k) s (fun t =>
      findCmd t k = some { c with phase := .waiting, deadline := some (launchTime s c.desc) } ∧ onlyChanged [.cmds] s t)) ∧
    (∀ c tl, waitingCmd s k 0x30 = some c → c.deadline = some tl → tl ≤ s.clk.mer + 10 * usU → s.fleet.stopped = false →
      s.clk.mer + 160 * nsU ≤ tl → gives (.timedLaunchArm k) s (fun t =>
        findCmd t k = some { c with phase := .armed } ∧ (∃ a, a ∈ t.helm.armed ∧ a.key = k ∧ a.tl = tl ∧ a.startAk = none))) ∧
    (∀ c tl, waitingCmd s k 0x30 = some c → c.deadline = some tl → tl < s.clk.mer + 160 * nsU → s.fleet.stopped = false →
      gives (.timedLaunchArm k) s (fun t => ∃ x q, findCmd t k = some x ∧ x.phase = .requested ∧ x.req = some q ∧ q.status = 0x40)) ∧
    (∀ a, s.helm.armed.find? (fun x => x.key == k) = some a → a.startAk = none → a.tl ≤ s.clk.mer → s.clk.mkAk + 2 ≤ s.clk.chipAk →
      s.bin.frozen = false → gives (.launchTrigger k) s (fun t =>
        t.helm.armed.find? (fun x => x.key == k) = some { a with startAk := some (ceilDiv s.clk.chipAk 32 * 32) } ∧
        onlyChanged [.helm, .runs, .cmds, .pel, .out] s t))

/-! ### Power-up, resets, the mailbox (17, 21) -/

/-- The steps of power-up and what BOOT_MODE makes of them (17 R395): each that passes leads to the next; each that fails to SAFE-LISTEN with
its FAIL code; mode 0b01 ends in SAFE-LISTEN with FAIL 0x0E after step 5, modes 0b10 and 0b11 with FAIL 0x10 after step 3. -/
def Obligations.PowerUpSteps : Prop :=
  ∀ (s : State),
    (∀ mode sa, s.boot.por = false → gives (.porPin mode sa) s (fun t =>
      t.boot.por = true ∧ t.boot.stage = 2 ∧ t.boot.passed = 1 ∧ t.boot.mode = mode % 4 ∧ t.boot.i3cSa = sa % 4 ∧
      onlyChanged [.boot, .clk] s t)) ∧
    (inStep s 2 = true →
      gives (.binnacleSelfTestEnd true) s (fun t => t.boot = { s.boot with passed := 2, stage := 3 } ∧ onlyChanged [.boot] s t) ∧
      gives (.binnacleSelfTestEnd false) s (fun t => listening t 0x01 ∧ t.flash = s.flash)) ∧
    (∀ w v, inStep s 3 = true →
      (s.boot.mode < 2 → gives (.rootPllLock w v) s (fun t => t.clk.locked = true ∧ t.clk.mer = 0 ∧ t.pci.dlUp = true ∧ t.pci.width = w ∧
        t.pci.speed = v ∧ t.boot = { s.boot with passed := 3, stage := 4 } ∧ onlyChanged [.clk, .pci, .boot] s t)) ∧
      (s.boot.mode = 2 ∨ s.boot.mode = 3 → gives (.rootPllLock w v) s (fun t => listening t 0x10))) ∧
    (∀ serial, inStep s 4 = true →
      gives (.bootRomEnd false true serial) s (fun t => listening t 0x03) ∧
      gives (.bootRomEnd true false serial) s (fun t => listening t 0x04) ∧
      (∀ f, blockFail (regionBytes s.flash.cfg 16384) = some f → gives (.bootRomEnd true true serial) s (fun t => listening t f)) ∧
      (blockFail (regionBytes s.flash.cfg 16384) = none → gives (.bootRomEnd true true serial) s (fun t =>
        t.boot = { keepBlock { s.boot with serial := serial, helmOk := 1, lodestone := true } (regionBytes s.flash.cfg 16384) with
          passed := 4, stage := 5 } ∧ onlyChanged [.boot, .helm] s t))) ∧
    (∀ fa sp sx co ro ba tables, inStep s 5 = true →
      let s' := selfTest s (sortNat fa) sp (sortNat sx) co ro (sortNat ba)
      (lbistFatal s' = true → gives (.selfTestEnd fa sp sx co ro ba tables) s (fun t => listening t 0x07)) ∧
      (lbistFatal s' = false → mbistFatal ba tables = true → gives (.selfTestEnd fa sp sx co ro ba tables) s (fun t => listening t 0x08)) ∧
      (lbistFatal s' = false → mbistFatal ba tables = false → s.boot.mode ≠ 1 → gives (.selfTestEnd fa sp sx co ro ba tables) s (fun t =>
        t.boot.passed = 5 ∧ t.boot.stage = 6 ∧ t.boot.helmOk = coresOk s' ∧ t.rose = s'.rose)) ∧
      (lbistFatal s' = false → mbistFatal ba tables = false → s.boot.mode = 1 → gives (.selfTestEnd fa sp sx co ro ba tables) s (fun t =>
        listening t 0x0E ∧ t.flash = s.flash ∧ t.boot.fwVersion = s.boot.fwVersion))) ∧
    (inStep s 6 = true →
      gives (.firmwareReadEnd false) s (fun t => listening t 0x09) ∧
      (∀ f, imageFail s.flash.fw s.boot.minFw s.boot.keyMask = some f → gives (.firmwareReadEnd true) s (fun t => listening t f)) ∧
      (imageFail s.flash.fw s.boot.minFw s.boot.keyMask = none → gives (.firmwareReadEnd true) s (fun t =>
        t.boot.passed = 6 ∧ t.boot.stage = 7 ∧ t.boot.fwVersion = fieldOf (regionBytes s.flash.fw 512) 8 4 ∧ onlyChanged [.boot] s t))) ∧
    (∀ mv, inStep s 7 = true → 680 ≤ mv → mv ≤ 820 →
      gives (.readyOp true true true false mv) s (fun t => listening t 0x0C) ∧
      (s.boot.cfgWrites = [] → gives (.readyOp true true true true mv) s (fun t =>
        t.boot.state = 1 ∧ t.boot.passed = 7 ∧ t.bin.safeN = true ∧ t.bin.safe = false ∧ t.cmds = s.cmds ∧ t.runs = s.runs ∧
        t.helm.ctxs = s.helm.ctxs ∧ t.helm.heading = s.helm.heading ∧ t.chart = s.chart ∧ t.flash = s.flash))) ∧
    (∀ part, s.boot.por = true → s.boot.state = 0 → pastBound s (stepBound s.boot.stage) = true →
      gives (.bootStepDeadline part) s (fun t => t.boot.state = 2 ∧
        t.boot.fail = (stepCodes s.boot.stage).getD part ((stepCodes s.boot.stage).getD 0 0))) ∧
    (s.boot.por = true → s.boot.state = 0 → pastBound s 180000 = true → gives .bootTimeout s (fun t => listening t 0x0F))

/-- POWER_DOWN, SUPPLY_DETECT_RESET, VDD_SI_LOW_RESET (15 R370; 16 R387; 21 R462): what a reset leaves; the flash stays, the journal store with
VDD_SI, the Logbook RAM with VDD_LOG. -/
def Obligations.PowerResets : Prop :=
  ∀ (s : State),
    let cleared (si lg : Bool) (t : State) : Prop :=
      t.boot.por = false ∧ t.boot.state = 0 ∧ t.bin = State.reset.bin ∧ t.helm = State.reset.helm ∧ t.regs = [] ∧ t.cmds = [] ∧ t.runs = [] ∧
      t.batches = [] ∧ t.streams = [] ∧ t.chart = State.reset.chart ∧ t.rose = State.reset.rose ∧ t.ms = State.reset.ms ∧
      t.clk = State.reset.clk ∧ t.pci = State.reset.pci ∧ t.i3c = State.reset.i3c ∧ t.fleet = State.reset.fleet ∧ t.pel = State.reset.pel ∧
      t.flash = s.flash ∧ t.out = s.out ∧ t.log.queue = [] ∧ t.log.journal = (if si then s.log.journal else []) ∧
      t.log.events = (if lg then s.log.events else []) ∧ t.log.next = (if si && lg then s.log.next else 1)
    (∀ si lg, gives (.powerDown false si lg) s (cleared si lg)) ∧
    (∀ core sram, detects core sram = true → gives (.supplyDetectReset core sram) s (cleared true true)) ∧
    (∀ core sram, detects core sram = false → gives (.supplyDetectReset core sram) s (· = s)) ∧
    (∀ mv, mv < 650 → gives (.vddSiLowReset mv) s (cleared false true)) ∧
    (∀ mv, 650 ≤ mv → gives (.vddSiLowReset mv) s (· = s))

/-- The mailbox commands (17 R406): what GO on each does where it is allowed, the refusal where it is not, and MBX_DONE. -/
def Obligations.MailboxCommands : Prop :=
  ∀ (s : State) (path : Nat), mbxReach s path 0 = true → s.mbx.busy = false →
    let began (t : State) (code result : Nat) : Prop := t.mbx.busy = true ∧ t.mbx.running = code ∧ t.mbx.doneResult = result
    gives (.mbxReport path) s (fun t =>
      began t 0x01 0 ∧ t.mbx.buf = memWriteBytes 0#8 s.mbx.buf 0 (reportFixed s 0 0) ∧ onlyChanged [.mbx] s t) ∧
    (s.boot.lodestone = false → gives (.mbxAttest path) s (fun t => began t 0x02 0x05 ∧ onlyChanged [.mbx] s t)) ∧
    (s.boot.lodestone = true → gives (.mbxAttest path) s (fun t => began t 0x02 0 ∧
      t.mbx.buf = memWriteBytes 0#8 s.mbx.buf 0
        (reportSigned s ((s.mbx.args.getD 2 0).toNat + (s.mbx.args.getD 3 0).toNat * 2 ^ 32) []) ∧ onlyChanged [.mbx] s t)) ∧
    (listens s = false →
      gives (.mbxErase path) s (fun t => began t 0x10 1 ∧ onlyChanged [.mbx] s t) ∧
      gives (.mbxWrite path) s (fun t => began t 0x11 1 ∧ onlyChanged [.mbx] s t) ∧
      gives (.mbxVerify path) s (fun t => began t 0x12 1 ∧ onlyChanged [.mbx] s t) ∧
      gives (.mbxReboot path) s (fun t => began t 0x20 1 ∧ onlyChanged [.mbx] s t)) ∧
    (listens s = true →
      (mbxRegion s = 0 → gives (.mbxErase path) s (fun t => began t 0x10 0 ∧ t.flash = { s.flash with fw := [], fwNext := some 0 } ∧
        onlyChanged [.mbx, .flash] s t)) ∧
      (mbxRegion s = 1 → gives (.mbxErase path) s (fun t => began t 0x10 0 ∧ t.flash = { s.flash with cfg := [], cfgNext := some 0 } ∧
        onlyChanged [.mbx, .flash] s t)) ∧
      (mbxWriteOk s = true → gives (.mbxWrite path) s (fun t => began t 0x11 0 ∧ t.mbx.chunk =
        some (decide (mbxRegion s = 1), (s.mbx.args.getD 0 0).toNat, memReadBytes 0#8 s.mbx.buf 0 (mbxLen s)) ∧ onlyChanged [.mbx] s t)) ∧
      (mbxRegion s ≤ 1 → verifyFail s (mbxRegion s) = none → gives (.mbxVerify path) s (fun t => began t 0x12 0 ∧ onlyChanged [.mbx] s t)) ∧
      (∀ f, mbxRegion s ≤ 1 → verifyFail s (mbxRegion s) = some f → gives (.mbxVerify path) s (fun t =>
        began t 0x12 3 ∧ t.mbx.failCode = some f ∧ onlyChanged [.mbx] s t)) ∧
      gives (.mbxReboot path) s (fun t => t.boot.state = 0 ∧ t.boot.por = true ∧
        t.boot.stage = (if s.boot.fail = 0x01 ∨ s.boot.fail = 0x02 then 2 else 3) ∧ t.cmds = [] ∧ t.runs = [] ∧ t.streams = [] ∧
        t.helm = State.reset.helm ∧ t.chart = State.reset.chart ∧ t.regs = s.regs ∧ t.flash = s.flash ∧ t.bin.safeN = false)) ∧
    (ready s = true → (∀ r, r ∈ s.helm.rings → r.2.enable = false) → s.streams = [] → gives (.mbxListen path) s (fun t => listening t 0)) ∧
    (ready s = false → gives (.mbxListen path) s (fun t => began t 0x21 1 ∧ onlyChanged [.mbx] s t))

/-- MBX_DONE (17 R406): BUSY falls, the result stands, a WRITE's bytes are in their region; after a flash error the result is 0x04. -/
def Obligations.MailboxDone : Prop :=
  ∀ (s : State), s.mbx.busy = true →
    gives (.mbxDone true) s (fun t => t.mbx.busy = false ∧ t.mbx.result = s.mbx.doneResult ∧
      onlyChanged [.mbx, .flash, .i3c, .pel, .out] s t ∧
      (s.mbx.chunk = none → t.flash = s.flash) ∧
      (∀ off bs, s.mbx.chunk = some (false, off, bs) →
        t.flash = { s.flash with fw := memWriteBytes 0xFF#8 s.flash.fw off bs, fwNext := some (off + bs.length) }) ∧
      (∀ off bs, s.mbx.chunk = some (true, off, bs) →
        t.flash = { s.flash with cfg := memWriteBytes 0xFF#8 s.flash.cfg off bs, cfgNext := some (off + bs.length) })) ∧
    (mbxUsesFlash s.mbx.running = true → s.mbx.doneResult ≠ 1 → s.mbx.doneResult ≠ 2 →
      gives (.mbxDone false) s (fun t => t.mbx.busy = false ∧ t.mbx.result = 0x04 ∧ t.mbx.args = s.mbx.args))

/-! ### The Binnacle (16, 21) -/

/-- The DEVICE conditions of 16 R376 bring the safe state (16 R384), with the cause that 16 R389 numbers; the stop of the fallback oscillator
brings it by the hardwired path (R374); a regulator follows its set point by 5 mV a step (21 R455). -/
def Obligations.DeviceConditions : Prop :=
  ∀ (s : State), s.boot.por = true → ready s = true →
    (∀ a fs, deviceCause a.cause = true → gives (.deviceEvent a fs) s (fun t => safeStateBy t (a.cause % 256) ∧ t.boot = s.boot ∧ t.flash = s.flash)) ∧
    gives .lockstepMismatch s (fun t => safeStateBy t 0x16 ∧ t.boot = s.boot) ∧
    (s.bin.fallback = false → gives .binOscLoss s (fun t => safeStateBy t 0x11 ∧ t.bin.fallback = true)) ∧
    (∀ mv, mv < 760 ∨ 840 < mv → gives (.vddSiOutOfWindow mv) s (fun t => safeStateBy t 0x12)) ∧
    (∀ i c, s.helm.cores[i]? = some c → c.ok = true → c.halted = false → c.heartbeat + 250 * usU ≤ s.clk.shadow →
      gives (.heartbeatTimeout i) s (fun t => safeStateBy t 0x14)) ∧
    (s.bin.fallback = true → gives .fallbackOscillatorStop s (fun t =>
      t.bin.safe = true ∧ t.bin.safeN = false ∧ t.bin.frozen = true ∧ t.bin.cause = 0x11 ∧ onlyChanged [.bin] s t)) ∧
    (∀ up, s.bin.avsAt + 50 * usU ≤ s.clk.shadow →
      let mv := if up then s.bin.setMv + 5 else s.bin.setMv - 5
      680 ≤ mv → mv ≤ 820 → gives (.avsUpdate (some up)) s (fun t =>
        t.bin = { s.bin with prevMv := s.bin.setMv, setMv := mv, avsAt := s.clk.shadow } ∧ t.out = s.out ++ [.pmbus .voutCommand mv] ∧
        onlyChanged [.bin, .pel, .out] s t)) ∧
    (∀ mv, mv + 15 < s.bin.setMv ∨ s.bin.setMv + 15 < mv → gives (.avsReadback mv) s (fun t => safeStateBy t 0x18)) ∧
    (∀ cl n e, 3 ≤ s.boot.passed → n = 0 ∨ clockNominal cl e < 100 * (if n < clockNominal cl e then clockNominal cl e - n else n - clockNominal cl e) →
      gives (.clockMonitorWindow cl n e) s (fun t => safeStateBy t 0x10)) ∧
    (∀ rail mv v, railSet s rail = some v → v < 20 * (if mv < v then v - mv else mv - v) → 3 ≤ mgetD s.bin.vBad rail 0 →
      gives (.voltageSample rail mv) s (fun t => safeStateBy t 0x12)) ∧
    (∀ n x, n < 20 → 1100 < x → gives (.temperatureSample n x) s (fun t => safeStateBy t 0x13)) ∧
    (∀ o, gives (.pmbAlert true o) s (fun t => safeStateBy t 0x12)) ∧
    (s.bin.traceFell = true → (rget s 0xD0004).testBit 2 = true → gives .traceabilityLoss s (fun t => safeStateBy t 0x05)) ∧
    (∀ k c x, s.bin.breached.find? (fun y => y.1 == k) = none → s.streams.find? (fun e => e.2.key == k) = none → findCmd s k = some c →
      watchedClass c.desc = true → c.watched = false → cmdBreach s c = some x → gives (.deadlineWatch k) s (fun t => safeStateBy t 0x04))

/-- The monitors within their limits, and what of the Binnacle is no DEVICE event (16 R374, R376, R377; 21 R455, R456). -/
def Obligations.MonitorsWithinLimits : Prop :=
  ∀ (s : State),
    (∀ rail mv v, railSet s rail = some v → 20 * (if mv < v then v - mv else mv - v) ≤ v →
      gives (.voltageSample rail mv) s (fun t => t.bin = { s.bin with vBad := mdel s.bin.vBad rail } ∧ onlyChanged [.bin] s t)) ∧
    (∀ n x, n < 20 → x ≤ 1050 → gives (.temperatureSample n x) s (fun t => t.bin = { s.bin with hot := t.bin.hot } ∧ onlyChanged [.bin] s t)) ∧
    (∀ n x, n < 20 → 1050 < x → x ≤ 1100 → gives (.temperatureSample n x) s (fun t => (rget t 0x100).testBit 0 = true ∧
      t.bin.safe = s.bin.safe ∧ onlyChanged reportGroups s t)) ∧
    (∀ i c, s.helm.cores[i]? = some c → c.ok = true → gives (.helmHeartbeat i) s (fun t =>
      t.helm.cores[i]? = some { c with heartbeat := s.clk.shadow } ∧ onlyChanged [.helm] s t)) ∧
    (∀ mv, mv ≤ s.bin.setMv + 15 → s.bin.setMv ≤ mv + 15 → gives (.avsReadback mv) s (fun t =>
      t.out = s.out ++ [.pmbus .readVout 0] ∧ onlyChanged [.pel, .out] s t)) ∧
    (∀ up, s.boot.state = 1 → s.bin.avsAt + 50 * usU ≤ s.clk.shadow →
      let mv := if up then s.bin.setMv + 5 else s.bin.setMv - 5
      680 ≤ mv → mv ≤ 820 → gives (.avsUpdate (some up)) s (fun t =>
        t.bin = { s.bin with prevMv := s.bin.setMv, setMv := mv, avsAt := s.clk.shadow } ∧ t.out = s.out ++ [.pmbus .voutCommand mv] ∧
        onlyChanged [.bin, .pel, .out] s t)) ∧
    (s.boot.por = true → gives (.pmbAlert false true) s (fun t => t.bin.safe = s.bin.safe ∧ (rget t 0x100).testBit 0 = true ∧
      onlyChanged reportGroups s t)) ∧
    (s.boot.por = true → s.bin.fallback = true → gives .fallbackOscillatorStop s (fun t =>
      t.bin.safe = true ∧ t.bin.safeN = false ∧ t.bin.frozen = true ∧ onlyChanged [.bin] s t)) ∧
    (s.bin.traceFell = true → (rget s 0xD0004).testBit 2 = false → gives .traceabilityLoss s (fun t =>
      t.bin.noLateMer = true ∧ t.bin.traceFell = false ∧ t.bin.safe = s.bin.safe ∧ (rget t 0x100).testBit 0 = true ∧
      onlyChanged reportGroups s t)) ∧
    (∀ cl n e, 3 ≤ s.boot.passed → n ≠ 0 → 100 * (if n < clockNominal cl e then clockNominal cl e - n else n - clockNominal cl e) ≤ clockNominal cl e →
      gives (.clockMonitorWindow cl n e) s (onlyChanged [.clk] s))

/-- The ways into and out of the warm reset (15 R369; 16 R385; 15 R368): SAFE_STATE_EXIT, BIN_RECOVER, WARM_RESET, WARM_RESET_COMPLETE, and
CONTEXT_RESET. -/
def Obligations.WarmResets : Prop :=
  ∀ (s : State),
    (mayLeave s false = true → gives .safeStateExit s warmBegun) ∧
    (∀ path w, pathAll path = true → pathOpen s path = true → bit w 31 = true → mayLeave s true = true →
      gives (.binRecover path w) s warmBegun) ∧
    (∀ path w, pathAll path = true → pathOpen s path = true → bit w 31 = true → s.boot.state = 1 → s.bin.safe = false →
      gives (.warmReset path w) s warmBegun) ∧
    (∀ failed, s.boot.state = 3 → s.bin.safe = false →
      gives (.warmResetComplete failed) s (fun t => t.boot.state = 1 ∧ t.bin.safe = false) ∧
      (s.streams = [] → s.helm.ctxs = [] → s.log.queue = [] → gives (.warmResetComplete failed) s (fun t =>
        t.boot.state = 1 ∧ t.bin.safe = false ∧ t.bin.safeN = true ∧ t.bin.txCut = false ∧ t.bin.linksDown = false))) ∧
    (∀ ctx recs, s.helm.ctxResetDue.contains ctx = true → ready s = true → gives (.contextReset ctx recs) s (fun t =>
      t.helm.ctxResetDue.contains ctx = false ∧ (∀ c, c ∈ t.cmds → c.key.ctx = ctx → c.phase = .refetch ∨ c.phase = .requested)))

/-! ### PCIe functions and the link (19) -/

/-- FUNCTION_LEVEL_RESET, BUS_MASTER_DISABLE and ENABLE, VF_ENABLE_CLEAR, MSIX_UNMASK, LINK_RESET (19 R426 to R429; 15 R369). -/
def Obligations.PcieFunctions : Prop :=
  ∀ (s : State) (f : Nat), fnAnswers s f = true →
    gives (.functionLevelReset f) s (fun t => t.fns.length = s.fns.length ∧
      (∀ g x, t.fns[g]? = some x → g = f ∨ f = 0 → x = ⟨false, false, false⟩) ∧ (∀ e, e ∈ t.msix → e.1 / 2048 ≠ f) ∧
      t.boot = s.boot ∧ t.flash = s.flash) ∧
    gives (.busMasterDisable f false) s (fun t => ∀ x, s.fns[f]? = some x → t.fns[f]? = some { x with bme := false }) ∧
    gives (.busMasterDisable f true) s (fun t => ∀ x, s.fns[f]? = some x → t.fns[f]? = some { x with d3 := true }) ∧
    (f ≤ s.boot.numVf → gives (.busMasterEnable f) s (fun t => ∀ x, t.fns[f]? = some x → x.bme = true ∧ x.d3 = false)) ∧
    (∀ e, e < msixSize s f → (mgetD s.msix (msixKey f e) ⟨true, false⟩).pend = false → gives (.msixUnmask f e) s (fun t =>
      mget t.msix (msixKey f e) = some ⟨false, false⟩ ∧ onlyChanged [.msix] s t)) ∧
    (∀ e, e < msixSize s f → (mgetD s.msix (msixKey f e) ⟨true, false⟩).pend = true → canMaster s f = true → gives (.msixUnmask f e) s (fun t =>
      mget t.msix (msixKey f e) = some ⟨false, false⟩ ∧ t.out = s.out ++ [.msix f e] ∧ onlyChanged [.msix, .pel, .out] s t)) ∧
    (f = 0 → gives .vfEnableClear s (fun t => ∀ g x, t.fns[g]? = some x → x.vfEn = false ∧ (0 < g → x = ⟨false, false, false⟩))) ∧
    (∀ w v, s.boot.por = true → 3 ≤ s.boot.passed → gives (.linkReset w v) s (fun t =>
      t.msix = [] ∧ t.pci = { s.pci with dlUp := true, width := w, speed := v } ∧ (∀ x, x ∈ t.fns → x = ⟨false, false, false⟩) ∧
      (s.boot.state = 1 → s.bin.safe = false → warmBegun t) ∧ (s.boot.state = 0 ∨ s.boot.state = 2 → t.boot = s.boot)))

/-! ### Setup registers (20), Pelorus (18), the island's registers (16) -/

/-- REGISTER_WRITE, W1C_CLEAR and RC_COUNTER_READ (15 R358, R359, R362; 20 R442, R443): partial byte enables and EP leave every register; a
register that takes a plain write takes its RW bits; a clear loses to a set in the same cycle, and TOP_W1C_RACE counts it; a read of
an RC counter clears what it read, but for a capture input's, which takes an entry off its FIFO (13 R338: INPUT_FIFO_POP). -/
def Obligations.RegisterAccess : Prop :=
  ∀ (s : State) (path off : Nat) (w race : Word),
    gives (.registerWrite path off w false false) s (onlyChanged [.pel] s) ∧
    (path < 64 → ∀ full, gives (.registerWrite path off w full true) s (fun t =>
      t.pci.epDropped = s.pci.epDropped + 1 ∧ onlyChanged [.pci] s t)) ∧
    (pfOpen s = true → gives (.registerWrite 0 0x108 w true false) s (fun t =>
      rget t 0x108 = maskIn (rget s 0x108) w.toNat 0x1F ∧ (∀ o, o ≠ 0x108 → rget t o = rget s o) ∧ onlyChanged [.regs, .pel] s t)) ∧
    (pfOpen s = true → gives (.registerWrite 0 0 w true false) s (onlyChanged [.pel] s)) ∧
    (pfOpen s = true → w &&& 0x3F ≠ 0 → gives (.w1cClear 0 0x100 w race) s (fun t =>
      (∀ i, i < 6 → (rget t 0x100).testBit i = ((rget s 0x100).testBit i && !bit w i || bit w i && bit race i)) ∧
      rget t 0x10C = satTo (2 ^ 32 - 1) (rget s 0x10C + popCount (w &&& race &&& 0x3F)) ∧ onlyChanged [.regs, .log, .bin] s t)) ∧
    (∀ ri, regInfo off = some ri → ri.rc ≠ 0 → inArray off 0x90208 16 4 = false → reads s path off = true → path ≠ i3cPath → gives (.rcCounterRead path off) s (fun t =>
      t.out = s.out ++ [.regRead path off (BitVec.ofNat 32 (regView s (regCopy ri off path) off))] ∧
      regRaw t (regCopy ri off path) off = maskIn (regRaw s (regCopy ri off path) off) 0 ri.rc ∧ onlyChanged [.regs, .pel, .out] s t))

/-- COUNTER_CLEAR, COUNTER_READ, BSET_READ, SERIAL_READ, TRACE_LOST, WAKE_PAGE_LATCH, LOG_WINDOW_LATCH, BIN_CFG_WRITE (18 R413 to R417; 15
R361; 16 R385, R389); a plain write, a clear and a counting read of setup registers (15 R358, R359; 20 R442). -/
def Obligations.LatchesAndCounters : Prop :=
  ∀ (s : State) (path : Nat) (w : Word), pfOpen s = true →
    (bit w 31 = true → gives (.counterClear 0 w) s (fun t => t.pel = { s.pel with gblCnt := [] } ∧ onlyChanged [.pel] s t)) ∧
    (∀ n, path < 64 → fnEnabled s path = true → selCounter s path = some n → gives (.counterRead path) s (fun t =>
      t.out = s.out ++ [.regRead path 0xC0024 (BitVec.ofNat 32 n)] ∧ regRaw t path 0xC0028 = n / 2 ^ 32 % 2 ^ 32 ∧
      onlyChanged [.regs, .pel, .out] s t)) ∧
    (∀ vals k live, path < 64 → fnEnabled s path = true → bsetSample s (regRaw s path 0xC0000 % 256) = some (vals, k, live) →
      pathOwns s path k.ctx = true → gives (.bsetRead path) s (fun t =>
        t.out = s.out ++ [.regRead path 0xC0004 (BitVec.ofNat 32 (vals.getD (regRaw s path 0xC0000 / 256 % 8) 0))] ∧
        regRaw t path 0xC000C = k.seq.toNat ∧ onlyChanged [.regs, .pel, .out] s t)) ∧
    (path < 64 → fnEnabled s path = true → gives (.serialRead path) s (fun t =>
      t.out = s.out ++ [.regRead path 0x4 (BitVec.ofNat 32 s.boot.serial.toNat)] ∧ onlyChanged [.regs, .pel, .out] s t)) ∧
    (s.pel.lostRun ≠ 0 → s.pel.queue.length < 1024 → (rget s 0xC0040).testBit 31 = true → (rget s 0xC0040).testBit 29 = false →
      gives .traceLost s (fun t => t.pel.lostRun = 0 ∧ (∃ r, t.pel.queue = s.pel.queue ++ [r] ∧ r.kind = 0x3F ∧
        r.arg0 = satTo (2 ^ 32 - 1) s.pel.lostRun) ∧ onlyChanged [.pel] s t)) ∧
    gives (.wakePageLatch w) s (fun t => rget t 0xC0050 = bits w 19 0 ∧
      (∀ i, i < 1024 → rget t (0xC1000 + 4 * i) = leNat (((wakePage s (bits w 19 0)).drop (4 * i)).take 4)) ∧ onlyChanged [.regs] s t) ∧
    gives (.logWindowLatch 0 w) s (fun t =>
      (∀ i, i < 16 → rget t (0xE0040 + 4 * i) = leNat (((logBlock s (bit w 31) (bits w 25 0)).drop (4 * i)).take 4)) ∧ onlyChanged [.regs] s t) ∧
    ((rget s 0xD0004).testBit 31 = true → gives (.binCfgWrite 0 w) s (· = s)) ∧
    ((rget s 0xD0004).testBit 31 = false → safeStands s = false → gives (.binCfgWrite 0 w) s (fun t =>
      rget t 0xD0004 = (w.toNat &&& 0x8000000F) ∧ onlyChanged [.regs] s t)) ∧
    gives (.registerWrite 0 0x108 w true false) s (fun t => rget t 0x108 = maskIn (rget s 0x108) w.toNat 0x1F ∧
      (∀ o, o ≠ 0x108 → rget t o = rget s o) ∧ onlyChanged [.regs, .pel] s t) ∧
    (∀ race : Word, w &&& 0x3F ≠ 0 → gives (.w1cClear 0 0x100 w race) s (fun t =>
      (∀ i, i < 6 → (rget t 0x100).testBit i = ((rget s 0x100).testBit i && !bit w i || bit w i && bit race i)) ∧
      onlyChanged [.regs, .log, .bin] s t)) ∧
    gives (.rcCounterRead 0 0x10C) s (fun t => t.out = s.out ++ [.regRead 0 0x10C (BitVec.ofNat 32 (rget s 0x10C))] ∧
      rget t 0x10C = 0 ∧ onlyChanged [.regs, .pel, .out] s t)

/-- HELM_BREAKPOINT, HALT, HELM_HALTED, RESUME (18 R422): a running core drains, halts, and runs on; a core in service sends
its heartbeat (16 R376). -/
def Obligations.HelmDebug : Prop :=
  ∀ (s : State) (i : Nat) (c : HelmCore) (pc : Word64) (w : Word), i < 8 → s.helm.cores[i]? = some c →
    (debugEn s = true → ready s = true → breaksAt s i pc = true → coreRuns c = true → gives (.helmBreakpoint i pc) s (fun t =>
      t.helm.cores[i]? = some { c with draining := true, pc := some pc } ∧ onlyChanged [.helm] s t)) ∧
    (bit w 30 = true → bit w 31 = false → debugEn s = true → pfOpen s = true → bit w i = true → coreRuns c = true →
      gives (.helmHalt w) s (fun t => t.helm.cores[i]? = some { c with draining := true, pc := none } ∧ onlyChanged [.helm, .regs] s t)) ∧
    (c.draining = true → c.resumeDue = false → gives (.helmHalted i pc) s (fun t =>
      t.helm.cores[i]? = some { c with draining := false, halted := true, pc := some (c.pc.getD pc) } ∧
      onlyChanged [.helm, .regs, .pel] s t)) ∧
    (bit w 31 = true → bit w 30 = false → pfOpen s = true → bit w i = true → c.halted = true → c.draining = false →
      gives (.helmResume w) s (fun t => ∃ x, t.helm.cores[i]? = some x ∧ x.halted = false ∧ x.ok = c.ok ∧ x.heartbeat = s.clk.shadow)) ∧
    (c.ok = true → gives (.helmHeartbeat i) s (fun t =>
      t.helm.cores[i]? = some { c with heartbeat := s.clk.shadow } ∧ (∀ j, j ≠ i → t.helm.cores[j]? = s.helm.cores[j]?) ∧
      onlyChanged [.helm] s t))

/-! ### Meridian time (13) -/

/-- SNAP, SET, SWITCH and the read of MER_NOW (13 R317, R318, R333; 20 R447): what is due at the next MK edge, and the refusals. -/
def Obligations.MeridianControl : Prop :=
  ∀ (s : State) (w : Word), pfOpen s = true →
    (bit w 31 = true → gives (.snapMeridian w) s (fun t => t.ms.snapDue = true ∧ onlyChanged [.ms, .regs, .bin] s t)) ∧
    (bit w 30 = true → bit w 2 = true → s.ms.servo = .free → s.streams = [] →
      (∀ c, c ∈ s.cmds → opOf c.desc ≠ 0x30 ∧ (c.deadline = none ∨ isSolve c.desc = false ∨ dClass c.desc = 0)) →
      rget s 0x90010 < 1000000000 → gives (.setMeridian w) s (fun t =>
        t.ms.setDue = some (stagedMer s) ∧ t.clk = s.clk ∧ onlyChanged [.ms, .regs, .bin] s t)) ∧
    (bit w 30 = true → 1000000000 ≤ rget s 0x90010 → gives (.setMeridian w) s (fun t =>
      t.ms.setDue = s.ms.setDue ∧ (rget t 0x90004).testBit 0 = true ∧ onlyChanged [.ms, .regs, .bin] s t)) ∧
    (bit w 29 = true → bit w 1 = true → srcEn s (primary s) = true →
      (consistent s = true → gives (.switchSource w) s (fun t => t.ms.switchDue = true ∧ onlyChanged [.ms, .regs, .bin] s t)) ∧
      (consistent s = false → gives (.switchSource w) s (fun t =>
        t.ms.switchDue = s.ms.switchDue ∧ (rget t 0x90004).testBit 0 = true ∧ onlyChanged [.ms, .regs, .bin] s t))) ∧
    (∀ path, path < 64 → fnEnabled s path = true → gives (.merNowRead path) s (fun t =>
      t.out = s.out ++ [.regRead path 0x90300 (BitVec.ofNat 32 (merSec s.clk.mer))] ∧ regRaw t path 0x90308 = merNs s.clk.mer ∧
      regRaw t path 0x9030C = merFrac s.clk.mer ∧ onlyChanged [.regs, .pel, .out] s t))

/-- SYNC_SAMPLE, DELAY_MEASUREMENT, PRIMARY_SAMPLE_TIMEOUT, HOLD_LIMIT, ANNOUNCE (13 R316, R328 to R334, R340): none of them moves Meridian
time; a sample is kept with its offset less the path delay, and in FREE it starts ACQUIRE; a delay is the mean of its exchange; the loss
of the primary gives HOLDOVER; its limit ends TRACEABLE. -/
def Obligations.MeridianServo : Prop :=
  ∀ (s : State) (i : Nat),
    (∀ x origin ingress, s.ms.slots[i]? = some x → servoEn s = true → srcEn s i = true → s.clk.locked = true →
      (s.ms.switchDue = false ∨ i ≠ primary s) → gives (.syncSample i origin ingress) s (fun t =>
        (∃ y, t.ms.slots[i]? = some y ∧ y.lastAt = some s.clk.mer ∧ y.delay = x.delay ∧
          y.samples.getLast? = some (s.clk.mer, ingress - origin - portCorr s (srcPort s i) 2 - x.delay)) ∧
        (s.ms.servo = .free → i = primary s → t.ms.servo = .acquire) ∧ onlyChanged [.ms, .regs, .bin] s t)) ∧
    (∀ x t1 t2 t3 t4, s.ms.slots[i]? = some x → servoEn s = true → srcEn s i = true → gives (.delayMeasurement i t1 t2 t3 t4) s (fun t =>
      (∃ y, t.ms.slots[i]? = some y ∧ y.delay = ((t2 - t1) + (t4 - t3)) / 2) ∧ onlyChanged [.ms, .regs, .bin] s t)) ∧
    (∀ x, s.ms.slots[primary s]? = some x → (∀ u, x.lastAt = some u → u + 3 * syncInterval s (primary s) ≤ s.clk.mer) →
      (s.ms.servo = .locked ∨ s.ms.servo = .slewing) → gives .primarySampleTimeout s (fun t =>
        t.ms.servo = .holdover ∧ t.ms.holdSince = s.clk.mer ∧ onlyChanged [.ms] s t)) ∧
    (s.ms.servo = .holdover → s.ms.holdSince + rget s 0x90038 * secU ≤ s.clk.mer → s.ms.traceable = true → gives .holdLimit s (fun t =>
      t.ms.traceable = false ∧ (rget t 0x90004).testBit 5 = true ∧ t.bin.traceFell = true ∧ onlyChanged [.ms, .regs, .bin] s t)) ∧
    (∀ utc v p n, i = primary s → srcEn s i = true → gives (.announce i utc v p n) s (fun t =>
      t.ms = { s.ms with utcOff := utc % 2 ^ 16, utcValid := v && p } ∧ nbits (srcCfg t i) 19 16 = n % 16 ∧ onlyChanged [.ms, .regs] s t))

/-- PTP stamps, pulse outputs, capture inputs (13 R325 to R327, R336 to R338). -/
def Obligations.PtpPulsesCaptures : Prop :=
  ∀ (s : State) (i : Nat), i < 4 →
    (∀ sub, (ptpCfg s i).testBit 31 = true → s.bin.linksDown = false → s.boot.portEn.testBit i = true →
      gives (.ptpEventIngress i sub) s (fun t =>
        t.out = s.out ++ [.ptp i (corrected (ballTime s sub) (-(portCorr s i 0)))] ∧ onlyChanged [.pel, .out] s t)) ∧
    (∀ sub q ty ca xs, (ptpCfg s i).testBit 31 = true → s.bin.linksDown = false → s.boot.portEn.testBit i = true →
      ((ptpCfg s i).testBit 30 = false → s.ms.egress[i]? = some xs → xs.length < 64 → gives (.ptpEventEgress i sub q ty ca) s (fun t =>
        t.ms.egress[i]? = some (xs ++ [⟨q, ty, corrected (ballTime s sub) (portCorr s i 1)⟩]) ∧ onlyChanged [.ms] s t)) ∧
      ((ptpCfg s i).testBit 30 = true → ca = true → ty = 0 ∨ ty = 3 → gives (.ptpEventEgress i sub q ty ca) s (fun t =>
        t.out = s.out ++ [.ptp i (corrected (ballTime s sub) (portCorr s i 1))] ∧ onlyChanged [.pel, .out] s t))) ∧
    (∀ n w x, n < 8 → pfOpen s = true → bit w 31 = true → s.ms.outs[n]? = some x → x.armed = false →
      let start := completeTime s (rget s (outReg n 1)) (rget s (outReg n 2))
      (w.toNat % 2 ^ 16 = 0 → gives (.outputArm n w) s (fun t => t.ms = s.ms ∧ (rget t (outReg n 0)).testBit 28 = true ∧
        (rget t (outReg n 0)).testBit 31 = false ∧ onlyChanged [.regs] s t)) ∧
      (w.toNat % 2 ^ 16 ≠ 0 → bit w 30 = false → s.clk.mer + merInc s + 20 * nsU ≤ start → gives (.outputArm n w) s (fun t =>
        t.ms.outs[n]? = some ⟨true, start, 0, 0, x.high⟩ ∧ (rget t (outReg n 0)).testBit 31 = true ∧ onlyChanged [.ms, .regs] s t))) ∧
    (∀ n x, s.ms.outs[n]? = some x → x.high = false → x.armed = true → edgeTime x x.nextK ≤ stamp s → gives (.outputEdge n) s (fun t =>
      t.out = s.out ++ [.pulse n (!(rget s (outReg n 0)).testBit 29) (edgeTime x x.nextK)] ∧
      (∃ y, t.ms.outs[n]? = some y ∧ y.high = true ∧ y.nextK = x.nextK + 1 ∧ y.armed = outPeriodic s n) ∧ t.clk = s.clk)) ∧
    (∀ n x, s.ms.outs[n]? = some x → x.high = true → edgeTime x (x.nextK - 1) + outWidth s n ≤ stamp s → gives (.outputEdge n) s (fun t =>
      t.out = s.out ++ [.pulse n ((rget s (outReg n 0)).testBit 29) (edgeTime x (x.nextK - 1) + outWidth s n)] ∧
      t.ms.outs[n]? = some { x with high := false } ∧ t.clk = s.clk)) ∧
    (∀ c rise sub, s.ms.ins[i]? = some c → (inCfg s i).testBit 31 = true → (inCfg s i).testBit (if rise then 29 else 30) = true → sub < 8 →
      s.clk.locked = true →
      (c.fifo.length < 4 → (∀ l, c.lastEdge = some l → l + 10 * nsU ≤ stamp s + sub * merInc s / 16) → gives (.inputEdge i rise sub) s (fun t =>
        t.ms.ins[i]? = some ⟨c.fifo ++ [(stamp s + sub * merInc s / 16, rise)], some (stamp s + sub * merInc s / 16)⟩ ∧
        onlyChanged [.ms] s t)) ∧
      (4 ≤ c.fifo.length → gives (.inputEdge i rise sub) s (fun t =>
        t.ms = s.ms ∧ (rget t (0x90200 + 16 * i)).testBit 28 = true ∧ onlyChanged [.regs] s t))) ∧
    (∀ c, s.ms.ins[i]? = some c → pfOpen s = true → gives (.inputFifoPop i) s (fun t =>
      t.ms.ins[i]? = some { c with fifo := c.fifo.drop 1 } ∧
      t.out = s.out ++ [.regRead 0 (0x90208 + 16 * i) (BitVec.ofNat 32 (merNs (capHead s i).1))] ∧ onlyChanged [.ms, .pel, .out] s t))

/-! ### I3C (19) -/

/-- The private transfers and the in-band interrupts (19 R432, R434): the page, a word written, a word read, the errors, a retry. -/
def Obligations.I3cTransfers : Prop :=
  ∀ (s : State), s.boot.por = true →
    (∀ p, p ≤ 0x10 → gives (.i3cSetPage 1 p) s (fun t => t.i3c = { s.i3c with page := p } ∧ onlyChanged [.i3c] s t)) ∧
    (∀ p, 0x10 < p → gives (.i3cSetPage 1 p) s (fun t => (rget t 0xF0100).testBit 2 = true ∧ onlyChanged [.regs] s t)) ∧
    (∀ f p, f = 0 ∨ 3 < f → gives (.i3cSetPage f p) s (fun t => (rget t 0xF0100).testBit 4 = true ∧ onlyChanged [.regs] s t)) ∧
    gives (.i3cWriteWords 0 []) s (· = s) ∧
    (∀ a, a % 4 = 0 → gives (.i3cSetReadAddr a 0) s (fun t =>
      t.i3c = { s.i3c with rdAddr := a % 0x10000 } ∧ onlyChanged [.i3c] s t)) ∧
    (∀ a d, a % 4 ≠ 0 → gives (.i3cWriteWords a d) s (fun t => (rget t 0xF0100).testBit 1 = true ∧ onlyChanged [.regs] s t)) ∧
    (∀ a d, d.length % 4 ≠ 0 ∨ 256 < d.length → gives (.i3cWriteWords a d) s (fun t =>
      (rget t 0xF0100).testBit 3 = true ∧ onlyChanged [.regs] s t)) ∧
    (∀ d, d.length = 4 → pfOpen s = true → s.i3c.page = 0 → gives (.i3cWriteWords 0x108 d) s (fun t =>
      rget t 0x108 = maskIn (rget s 0x108) (leNat d) 0x1F ∧ (∀ o, o ≠ 0x108 → rget t o = rget s o) ∧ onlyChanged [.regs] s t)) ∧
    (∀ a n, a % 4 ≠ 0 → gives (.i3cSetReadAddr a n) s (fun t => (rget t 0xF0100).testBit 1 = true ∧ onlyChanged [.regs] s t)) ∧
    (pfOpen s = true → s.i3c.page = 0 → gives (.i3cSetReadAddr 0 1) s (fun t =>
      t.out = s.out ++ [.i3cRead (leBytes 4 (regView s i3cPath 0))] ∧ t.i3c = { s.i3c with rdAddr := 4 } ∧ onlyChanged [.i3c, .pel, .out] s t)) ∧
    (∀ ks, (∀ e, e ∈ s.i3c.ibis → e.1 ∈ ks) → gives (.ibiRetry ks) s (fun t => t.i3c = { s.i3c with ibis := [] } ∧ onlyChanged [.i3c] s t)) ∧
    (∀ e, s.i3c.ibis = [e] → s.i3c.ibiEn = true → gives (.ibiRetry []) s (fun t =>
      t.out = s.out ++ [.ibi e.1 e.2] ∧ t.i3c = s.i3c ∧ onlyChanged [.pel, .out] s t))

/-- The common command codes (19 R430, R431, R433): addresses, event enables, lengths, and the answers to a target that has its address;
beside them the page, a word written, the read address and the end of in-band interrupts (R432, R434). -/
def Obligations.I3cCommands : Prop :=
  ∀ (s : State), s.boot.por = true →
    (∀ a, s.i3c.da = none → gives (.entdaa a) s (fun t => t.i3c = { s.i3c with da := some (a % 128) } ∧ onlyChanged [.i3c] s t)) ∧
    (∀ a, s.i3c.da = none → gives (.setdasa (0x50 + s.boot.i3cSa) a) s (fun t =>
      t.i3c = { s.i3c with da := some (a % 128) } ∧ onlyChanged [.i3c] s t)) ∧
    (∀ c a, s.i3c.da = some c → gives (.setnewda c a) s (fun t => t.i3c = { s.i3c with da := some (a % 128) } ∧ onlyChanged [.i3c] s t)) ∧
    gives .rstdaa s (fun t => t.i3c = { s.i3c with da := none } ∧ onlyChanged [.i3c] s t) ∧
    (∀ e, e.testBit 0 = true → gives (.enec e) s (fun t => t.i3c = { s.i3c with ibiEn := true } ∧ onlyChanged [.i3c] s t) ∧
      gives (.disec e) s (fun t => t.i3c = { s.i3c with ibiEn := false } ∧ onlyChanged [.i3c] s t)) ∧
    (∀ n, n < 2 ^ 16 → 8 ≤ n → gives (.setmwl n) s (fun t => t.i3c = { s.i3c with mwl := n } ∧ onlyChanged [.i3c] s t) ∧
      gives (.setmrl n) s (fun t => t.i3c = { s.i3c with mrl := n } ∧ onlyChanged [.i3c] s t)) ∧
    (∀ n, n < 8 → gives (.setmwl n) s (· = s) ∧ gives (.setmrl n) s (· = s)) ∧
    (s.i3c.da.isSome = true →
      let answers (c : Instr) (bs : List Byte) : Prop :=
        gives c s (fun t => t.out = s.out ++ [.i3cRead bs] ∧ onlyChanged [.pel, .out] s t)
      answers .getpid (leBytes 6 (0x1D47 * 2 ^ 33 + 0x7409 * 2 ^ 16 + s.boot.serial.toNat % 2 ^ 12)).reverse ∧ answers .getbcr [0x06#8] ∧
      answers .getdcr [0x00#8] ∧ answers .getmwl (leBytes 2 s.i3c.mwl).reverse ∧ answers .getmrl (leBytes 2 s.i3c.mrl).reverse ∧
      (∃ bs, answers .getstatus bs) ∧ (∃ bs, answers .getmxds bs)) ∧
    (∀ p, p ≤ 0x10 → gives (.i3cSetPage 1 p) s (fun t => t.i3c = { s.i3c with page := p } ∧ onlyChanged [.i3c] s t)) ∧
    (∀ d, d.length = 4 → pfOpen s = true → s.i3c.page = 0 → gives (.i3cWriteWords 0x108 d) s (fun t =>
      rget t 0x108 = maskIn (rget s 0x108) (leNat d) 0x1F ∧ onlyChanged [.regs] s t)) ∧
    (∀ a, a % 4 = 0 → gives (.i3cSetReadAddr a 0) s (fun t =>
      t.i3c = { s.i3c with rdAddr := a % 0x10000 } ∧ onlyChanged [.i3c] s t)) ∧
    (∀ ks, (∀ e, e ∈ s.i3c.ibis → e.1 ∈ ks) → gives (.ibiRetry ks) s (fun t => t.i3c = { s.i3c with ibis := [] } ∧ onlyChanged [.i3c] s t))

/-! ### Chart memory: windows, banks, scrubbing, gating (08, 13, 21) -/

/-- WINDOW_OPEN, CLOSE, EXPIRY and descriptor writes (08 R213 to R217): a good descriptor opens with REFUSED 0; an overlap or a bad one sets its
error flag and opens nothing; an open window's descriptor takes no write. -/
def Obligations.WindowCommands : Prop :=
  ∀ (s : State) (i : Nat), i < 1024 → pfOpen s = true →
    ((winOf s i).isOpen = false → windowOverlaps s i (winOf s i) = false → windowBad s (winOf s i) = false → gives (.windowOpen i) s (fun t =>
      winOf t i = { winOf s i with isOpen := true, refused := 0 } ∧ (∀ j, j ≠ i → winOf t j = winOf s j) ∧ onlyChanged [.chart] s t)) ∧
    ((winOf s i).isOpen = false → windowOverlaps s i (winOf s i) = true → gives (.windowOpen i) s (fun t =>
      t.chart = s.chart ∧ (rget t 0x30014).testBit 2 = true ∧ onlyChanged [.regs] s t)) ∧
    ((winOf s i).isOpen = false → windowBad s (winOf s i) = true → gives (.windowOpen i) s (fun t =>
      t.chart = s.chart ∧ (rget t 0x30014).testBit 1 = true ∧ onlyChanged [.regs] s t)) ∧
    gives (.windowClose i) s (fun t => (winOf t i).isOpen = false ∧ (winOf t i).base = (winOf s i).base ∧ t.chart.mem = s.chart.mem ∧
      onlyChanged [.chart] s t) ∧
    ((winOf s i).isOpen = true → winExpired s (winOf s i) = true → gives (.windowExpiry i) s (fun t =>
      winOf t i = { winOf s i with isOpen := false } ∧ onlyChanged [.chart] s t)) ∧
    (∀ j v, j < 8 → (winOf s i).isOpen = false → gives (.windowDescriptorWrite i j v) s (fun t =>
      winOf t i = winWord (winOf s i) j v.toNat ∧ onlyChanged [.chart] s t)) ∧
    (∀ j v, j < 8 → (winOf s i).isOpen = true → gives (.windowDescriptorWrite i j v) s (fun t =>
      t.chart = s.chart ∧ (rget t 0x30014).testBit 1 = true ∧ onlyChanged [.regs] s t))

/-- The power of a Chart bank (08 R219, R220): a refused request, one that waits for a live berth, one that drains; the content is gone when the
bank has drained, which then is off or, its request cleared meanwhile, is filled; it is back in service when its fill has ended. -/
def Obligations.BankPower : Prop :=
  ∀ (s : State) (n : Nat), n < 576 →
    (pfOpen s = true → bankNotOn s n = false → powerRefused s n = true → gives (.bankPowerDownRequest n) s (fun t =>
      t.chart = s.chart ∧ (rget t 0x30014).testBit 5 = true ∧ onlyChanged [.regs] s t)) ∧
    (pfOpen s = true → bankNotOn s n = false → powerRefused s n = false → bankLive s n = true → gives (.bankPowerDownRequest n) s (fun t =>
      mget t.chart.banks n = some .pending ∧ t.chart.mem = s.chart.mem ∧ onlyChanged [.regs, .chart] s t)) ∧
    (pfOpen s = true → bankNotOn s n = false → powerRefused s n = false → bankLive s n = false → gives (.bankPowerDownRequest n) s (fun t =>
      mget t.chart.banks n = some (.draining s.clk.chipAk) ∧ t.chart.mem = s.chart.mem ∧ onlyChanged [.regs, .chart] s t)) ∧
    (mget s.chart.banks n = some .pending → bankLive s n = false → gives (.bankPowerDownStart n) s (fun t =>
      mget t.chart.banks n = some (.draining s.clk.chipAk) ∧ t.chart.mem = s.chart.mem ∧ onlyChanged [.chart] s t)) ∧
    (∀ x, mget s.chart.banks n = some (.draining x) → s.chart.admitted = [] → bankRetired s n = false → gives (.bankDrainEnd n) s (fun t =>
      mget t.chart.banks n = some (if offReq s n then .off else .filling s.clk.chipAk) ∧ (∀ a, inBank n a = true → memRead 0#8 t.chart.mem a = 0#8) ∧
      (∀ a, inBank n a = false → memRead 0#8 t.chart.mem a = memRead 0#8 s.chart.mem a) ∧ onlyChanged [.chart] s t)) ∧
    (pfOpen s = true → mget s.chart.banks n = some .off → gives (.bankPowerRestore n) s (fun t =>
      mget t.chart.banks n = some (.filling s.clk.chipAk) ∧ t.chart.mem = s.chart.mem ∧ onlyChanged [.regs, .chart] s t)) ∧
    (∀ x, mget s.chart.banks n = some (.filling x) → x + fillAk n ≤ s.clk.chipAk → gives (.bankZeroFillEnd n) s (fun t =>
      t.chart = { s.chart with banks := mdel s.chart.banks n } ∧ onlyChanged [.chart] s t))

/-- ALM_LINES_WRITE, SCRUB_REWRITE, SCRUB_PERIOD, SECTOR_GATE, SECTOR_RESTART, DROOP_STRETCH (08 R194, R201, R206, R208; 13 R320; 21 R457). -/
def Obligations.ChartUpkeep : Prop :=
  ∀ (s : State) (b : Nat), b < 16 →
    (∀ v : Word, pfOpen s = true → v.toNat % 2 ^ 14 ≤ 8192 → (8192 - v.toNat % 2 ^ 14) * 2048 ≤ lowestItem s b →
      (almLines s b < v.toNat % 2 ^ 14 → plotAbove s b ((8192 - v.toNat % 2 ^ 14) * 2048) = false) → gives (.almLinesWrite b v) s (fun t =>
        almLines t b = v.toNat % 2 ^ 14 ∧ onlyChanged [.regs] s t)) ∧
    (∀ v : Word, pfOpen s = true → 8192 < v.toNat % 2 ^ 14 ∨ lowestItem s b < (8192 - v.toNat % 2 ^ 14) * 2048 →
      gives (.almLinesWrite b v) s (fun t => almLines t b = almLines s b ∧ (rget t (0x30100 + 4 * b)).testBit 31 = true ∧ onlyChanged [.regs] s t)) ∧
    (∀ a rest, memWf 0#8 s.chart.mem = true → s.chart.scrubQ = a :: rest →
      (lanesFree s [bankOf a] (fun l => decide (l = laneOfByte a)) = true → gives .scrubRewrite s (fun t => t.chart.scrubQ = rest ∧
        (∀ x, memRead 0#8 t.chart.mem x = memRead 0#8 s.chart.mem x) ∧ onlyChanged [.chart, .pel] s t)) ∧
      (lanesFree s [bankOf a] (fun l => decide (l = laneOfByte a)) = false → gives .scrubRewrite s (· = s))) ∧
    (s.chart.patrolMer + 64000000 * nsU ≤ s.clk.mer →
      gives (.scrubPeriod true) s (fun t => t.chart = { s.chart with patrolled := true, patrolMer := s.clk.mer } ∧ onlyChanged [.chart] s t) ∧
      gives (.scrubPeriod false) s (fun t => t.chart = { s.chart with patrolled := false, patrolMer := s.clk.mer } ∧
        (rget t 0x100).testBit 0 = true ∧ onlyChanged (.chart :: reportGroups) s t)) ∧
    (s.runs = [] → s.batches = [] → s.streams = [] → s.clk.gated[b]? = some none → s.chart.admitted = [] → gives (.sectorGate b) s (fun t =>
      t.clk = { s.clk with gated := lset s.clk.gated b (some (stampR s)) } ∧ t.chart.mem = s.chart.mem ∧ onlyChanged [.clk, .chart] s t)) ∧
    (sectorBusy s b = false → s.clk.gated[b]? = some none → undrained s b = true → gives (.sectorGate b) s (fun t =>
      t.chart.gating.contains b = true ∧ t.chart.mem = s.chart.mem ∧ onlyChanged [.chart] s t)) ∧
    (∀ x n, s.clk.gated[b]? = some (some x) → s.clk.sectorAk[b]? = some n → gives (.sectorRestart b) s (fun t =>
      t.clk = { s.clk with gated := lset s.clk.gated b none, sectorAk := lset s.clk.sectorAk b (resumeCount n s.clk.chipAk) } ∧
      resumeCount n s.clk.chipAk % 32 = s.clk.chipAk % 32 ∧ n ≤ resumeCount n s.clk.chipAk ∧ onlyChanged [.clk, .regs, .pel] s t)) ∧
    (∀ mv, gives (.droopStretch mv) s (fun t =>
      t.clk = { s.clk with stretch := if s.clk.stretch < stretchOf mv then stretchOf mv else s.clk.stretch } ∧ onlyChanged [.clk] s t))

/-! ### Fleets (14) -/

/-- HELLO, MEMBER_DOWN, RASTAN_RETRY (14 R343, R344): a HELLO goes to each member and the next is due HELLO_US later; a silent member goes
DOWN and loses the frames that had not started; an unacknowledged frame goes out again with RETRY set. -/
def Obligations.FleetMembers : Prop :=
  ∀ (s : State) (c : Nat),
    (fleetOn s = true → s.fleet.helloAt ≤ stamp s →
      gives .hello s (fun t => t.fleet.helloAt = stamp s + helloTime s ∧ onlyChanged [.fleet, .pel, .out] s t) ∧
      (members s = [c] → altEn s c = false → ethOn s (peerPort s c false) = true → gives .hello s (fun t =>
        t.out = s.out ++ [.rastan (peerPort s c false % 4) { newFrame s .hello c with ack := (peerOf s c).applied }]))) ∧
    ((peerOf s c).up = true → fltEn s = true → isMember s c = true → (peerOf s c).heard + 3 * helloTime s ≤ stamp s → signalsTo s c = [] →
      gives (.memberDown c) s (fun t => (peerOf t c).up = false ∧ 
        (peerOf t c).sent = ((peerOf s c).sent.filter (fun f => f.started)).map (fun f => { f with key := none }) ∧
        onlyChanged (.fleet :: reportGroups) s t)) ∧
    (∀ q f, (peerOf s c).sent.find? (fun f => f.started && decide (f.frame.lseq = q)) = some f → fleetOn s = true → f.at0 + retryTime s ≤ stamp s →
      let alt := altEn s c && !f.frame.alt
      ethOn s (peerPort s c alt) = true → gives (.rastanRetry c q) s (fun t =>
        t.out = s.out ++ [.rastan (peerPort s c alt % 4) { f.frame with retry := true, alt := alt, ack := (peerOf s c).applied }] ∧
        onlyChanged [.fleet, .pel, .out] s t))

/-- RASTAN_SEND and BEACON_SIGNAL (09 R235; 14 R346, R348): rows become WRITE frames of up to 8, a Beacon follows; a local signal asks for its
commit, a remote one is queued for its member and waits, and one to a member that is not UP is a COMMAND event. -/
def Obligations.FleetSends : Prop :=
  ∀ (s : State) (k : CmdKey),
    (∀ r peer win off rows (b : Option (Nat × Word × Bool)), findRun s k = some r → working r = true → launched s r = true → frozen s = false → s.fleet.stopped = false →
      suppressed s r = false → isMember s peer = true → fltEn s = true → (peerOf s peer).up = true →
      let frames := writeFrames (rows.length + 1) { newFrame s .write peer with winId := win % 1024 } off (rows.map (fun a => chartGet s a 512)) ++
        (match b with
         | some (n, v, raise) => [{ newFrame s .beacon peer with value := v, aux := n % 32768, raise := raise }]
         | none => [])
      gives (.rastanSend k peer win off rows b []) s (fun t =>
        (peerOf t peer).sent = (peerOf s peer).sent ++ frames.map (fun f => ⟨f, 0, 0, false, some k⟩) ∧
        onlyChanged [.fleet, .runs, .pel] s t)) ∧
    (∀ c, runnable s k 0x40 = some c → (leField c.desc 35 1).testBit 7 = false → gives (.beaconSignal k) s (fun t =>
      filed s t k 0 ∧ onlyChanged [.cmds, .helm, .log] s t)) ∧
    (∀ c, runnable s k 0x40 = some c → (leField c.desc 35 1).testBit 7 = true → ringHead s k = true →
      let p := leField c.desc 35 1 % 32
      (isMember s p = true → (peerOf s p).up = true → fltEn s = true → gives (.beaconSignal k) s (fun t =>
        findCmd t k = some { c with phase := .waiting, since := stamp s } ∧
        (peerOf t p).sent = (peerOf s p).sent ++ [⟨{ newFrame s .beacon p with
          value := BitVec.ofNat 32 (leField c.desc 40 4), aux := leField c.desc 36 2 % 32768,
          raise := decide (leField c.desc 34 1 = 1) }, 0, 0, false, some k⟩] ∧ onlyChanged [.cmds, .fleet] s t)) ∧
      (isMember s p = false ∨ (peerOf s p).up = false ∨ fltEn s = false → gives (.beaconSignal k) s (fun t =>
        (rget t 0x100).testBit 2 = true)))

/-- RASTAN_FRAME_RECEIVE (14 R341, R343 to R345, R353): a frame that fails a check is dropped and counted; a WRITE in its turn is admitted row
by row; one already applied is only acknowledged again; a STOP to every member arms. -/
def Obligations.FramesReceived : Prop :=
  ∀ (s : State) (port : Nat) (f : RFrame) (w : RWire), fleetOn s = true → ethOn s port = true →
    (dropped s f w = true → gives (.rastanFrameReceive port f w) s (onlyChanged [.pel] s)) ∧
    (dropped s f w = false → f.dst = chipId s → (peerOf s f.src).sent = [] →
      (f.kind = .hello → gives (.rastanFrameReceive port f w) s (fun t => (peerOf t f.src).up = true ∧ (peerOf t f.src).heard = stamp s ∧
        onlyChanged (.fleet :: reportGroups) s t)) ∧
      (f.kind = .write → (peerOf s f.src).held = [] → f.lseq = (peerOf s f.src).applied + 1 →
        (∀ i, i < f.rows.length → admits s ((winOf s f.winId).base + f.addr + 512 * i) (0x3000 + f.src) false = true) →
        gives (.rastanFrameReceive port f w) s (fun t => (peerOf t f.src).applied = f.lseq ∧ (peerOf t f.src).ackDue = true ∧
          t.chart.mem = s.chart.mem ∧ t.chart.admitted.length = s.chart.admitted.length + f.rows.length ∧
          onlyChanged (.fleet :: .chart :: .runs :: reportGroups) s t)) ∧
      (f.kind = .write → ahead f.lseq (peerOf s f.src).applied = false → gives (.rastanFrameReceive port f w) s (fun t =>
        (peerOf t f.src).applied = (peerOf s f.src).applied ∧ (peerOf t f.src).ackDue = true ∧ onlyChanged (.fleet :: reportGroups) s t))) ∧
    (dropped s f w = false → f.dst ≠ chipId s → f.kind = .stop → s.fleet.stopped = false → s.fleet.stop = none →
      stamp s ≤ completeTime s f.aux f.value.toNat → gives (.rastanFrameReceive port f w) s (fun t =>
        t.fleet.stop = some (completeTime s f.aux f.value.toNat, f.streams) ∧ onlyChanged (.fleet :: reportGroups) s t))

/-- GLOBAL_STOP_REQUEST, GLOBAL_STOP, SCAN_OUT_END, GLOBAL_RESUME, TIMED_WAIT_LIMIT (11 R278; 14 R352 to R355; 18 R423): REQ arms the stop LEAD_US from
now, the stop fills the scan area and leaves the chip STOPPED, RESUME ends that; at its limit a timed wait goes on. The stop acts once an AK
cycle's stamp has reached T_stop, and at most 24 cycles after it. -/
def Obligations.GlobalStops : Prop :=
  ∀ (s : State),
    (∀ w, bit w 31 = true → bit w 30 = false → pfOpen s = true → fltEn s = true → s.fleet.stopped = false → s.fleet.stop = none →
      let lead := if bits w 15 0 = 0 then nbits (rget s 0xA0008) 15 0 else bits w 15 0
      gives (.globalStopRequest w) s (fun t => t.fleet.stop = some ((stampR s + lead * usU) / nsU * nsU, bit w 29) ∧
        onlyChanged [.fleet, .regs] s t)) ∧
    (∀ places, s.fleet.reached = none → gives (.globalStop places) s (· = s)) ∧
    (∀ t0 st places a, s.fleet.stop = some (t0, st) → s.fleet.reached = some a → s.clk.chipAk ≤ a + 24 → s.fleet.stopped = false → frozen s = false →
      gives (.globalStop places) s (fun t => t.fleet.stopped = true ∧ t.fleet.stop = none ∧ t.pel.stopIndex = s.pel.stopIndex + 1 ∧
        t.pel.scanning = true ∧ (∀ g, g < 256 → ∃ x, mget t.pel.scan g = some x ∧ x.index = s.pel.stopIndex + 1 ∧ x.stop = stampR s) ∧
        t.clk = s.clk ∧ t.boot = s.boot ∧ t.flash = s.flash)) ∧
    (s.pel.scanning = true → gives .scanOutEnd s (fun t => t.pel.scanning = false ∧ t.pel.scan = s.pel.scan ∧ onlyChanged [.pel] s t)) ∧
    (∀ w, bit w 30 = true → bit w 31 = false → pfOpen s = true → fltEn s = true → s.fleet.stopped = true →
      gives (.globalResume w) s (fun t => t.fleet.stopped = false ∧ t.clk = s.clk ∧ t.runs = s.runs ∧ t.chart = s.chart)) ∧
    (∀ k r, findRun s k = some r → r.waits ≠ [] → working r = true → frozen s = false → gives (.timedWaitLimit k) s (fun t =>
      findRun t k = some { r with waits := [], phaseEnd := r.phaseEnd + (s.clk.chipAk - r.waitAk) } ∧ onlyChanged [.runs, .regs, .pel] s t))

/-! ### Remote writes, input reads, faulty units (08, 11, 15) -/

/-- REMOTE_WRITE, INPUT_READ_COMPLETE, INPUT_READ_ERROR, PCIE_COMPLETION_TIMEOUT (08 R212, R217; 15 R362; 19 R424): a row is admitted or refused, and a refused
one of a host function's DMA ends the command whose input it brings (log 139); an input that is in is parsed and stands in the Plot, where a merge
may correct words or meet an uncorrectable one (08 R198, R206, R207); one that fails is a COMMAND event; a timed-out descriptor read is a failed read. -/
def Obligations.WritesAndInputs : Prop :=
  ∀ (s : State),
    (∀ row writer data closing, row % 512 = 0 → row < coreBase → s.boot.state = 1 →
      (admits s row writer closing = true → gives (.remoteWrite row writer data closing) s (fun t =>
        t.chart = { s.chart with admitted := s.chart.admitted ++ [⟨row, s.clk.chipAk + writeLatency row writer - 4, writer, fitTo 512 data⟩] } ∧
        onlyChanged [.chart] s t)) ∧
      (∀ r c, admits s row writer closing = false → writer / 4096 = 1 → dmaRun s row (writer % 64) = some r → findCmd s r.key = some c →
        r.commitAt ≠ some s.clk.chipAk → gives (.remoteWrite row writer data closing) s (fun t => findRun t r.key = none ∧
          filed s t r.key 0x51 ∧ t.chart.mem = s.chart.mem ∧ (rget t 0x30014).testBit 3 = true)) ∧
      (admits s row writer closing = false → writer / 4096 ≠ 2 → writer / 4096 ≠ 4 →
        (writer / 4096 = 1 → dmaRun s row (writer % 64) = none) → gives (.remoteWrite row writer data closing) s (fun t =>
        t.chart.mem = s.chart.mem ∧ t.chart.admitted = s.chart.admitted ∧ (rget t 0x30014).testBit 3 = true ∧
        onlyChanged [.chart, .regs, .pel] s t))) ∧
    (∀ k c rows off words, findCmd s k = some c → readingInput s c = true → ready s = true →
      let s1 := feedEcc s words
      let layout := match mget s.helm.models (dModel c.desc % 4096) with | some m => m.layout | none => []
      let bs := (padTo (dInLen c.desc * 64) rows).take (dInLen c.desc * 64)
      (findRun s k = none → gives (.inputReadComplete k rows off words none) s (fun t =>
        findCmd t k = some (withInst c layout bs off) ∧ onlyChanged [.cmds, .pel] s1 t)) ∧
      (∀ r, findRun s k = some r → r.armedOff.isSome = true → gives (.inputReadComplete k rows off words none) s (fun t =>
        findCmd t k = some (withInst c layout bs off) ∧
        (∀ b p, r.berths = [b] → r.plots = [p] → b.sectors.contains p.sector = true → off + bs.length ≤ p.lines * 2048 →
          t.chart.mem = memWriteBytes 0#8 s.chart.mem (plotBase p + off) bs) ∧ onlyChanged [.cmds, .chart, .pel] s1 t)) ∧
      (∀ r a, findRun s k = some r → r.armedOff = none → r.launchAk = 0 → findStep s (runPattern r) = some a →
        tooLate c r.route (akTime s a) = false → gives (.inputReadComplete k rows off words none) s (fun t => findRun t k = some { r with launchAk := a } ∧
          (∃ x, findCmd t k = some x ∧ x.inst = parseInst layout bs ∧ x.inputIn = true) ∧
          onlyChanged [.cmds, .runs, .helm, .regs, .chart, .pel] s1 t)) ∧
      (∀ a, findRun s k = none → c.faultKills = 0 → inPlot s (a / 8 * 8) = true → s.chart.rowHist.contains (a / 8 * 8) = false →
        gives (.inputReadComplete k rows off words (some a)) s (fun t =>
          t.chart.mem = (chartClear s (a / 8 * 8) (a / 8 * 8 + 8)).chart.mem ∧
          ∃ x, findCmd t k = some x ∧ x.faultKills = 1 ∧ x.rerun = true ∧ x.inputIn = false))) ∧
    (∀ k c, findCmd s k = some c → readingInput s c = true → ready s = true → findRun s k = none → c.faultKills = 0 →
      gives (.inputReadError k none) s (fun t => (rget t 0x100).testBit 2 = true ∧
        (∃ x, findCmd t k = some x ∧ x.faultKills = 1 ∧ x.rerun = true ∧ x.inputIn = false ∧ x.phase = c.phase) ∧
        onlyChanged (.cmds :: reportGroups) s t)) ∧
    (∀ k, exec (.pcieCompletionTimeout k false) s = exec (.inputReadError k none) s) ∧
    (∀ k, ready s = true → fetching (ringOf s k.ctx k.ring) = true → gives (.pcieCompletionTimeout k true) s (fun t =>
      ringOf t k.ctx k.ring = { ringOf s k.ctx k.ring with fetchErr := true, stopped := true, next := (ringOf s k.ctx k.ring).head } ∧
      onlyChanged (.helm :: reportGroups) s t))

/-- PARTITION_RESET (10 R273, R274; 15 R363): a parity fault is a PARTITION event; the first reruns the command, the second commits it
FAILED_FAULT; an access outside the Plot commits WINDOW_FAULT. FACET_LBIST_END and SPARE_SUBSTITUTION (15 R365; 11 R289). -/
def Obligations.FaultyUnits : Prop :=
  ∀ (s : State),
    (∀ k r c g j, findRun s k = some r → findCmd s k = some c → launched s r = true → frozen s = false → r.stream = none → r.phase ≠ .done →
      r.commitAt ≠ some s.clk.chipAk → c.phase ≠ .requested → (runFacets r).contains g = true → j < 32 →
      (c.faultKills = 0 → gives (.partitionReset k [.parity (.strip g j)]) s (fun t =>
        findRun t k = none ∧ (∃ x, findCmd t k = some x ∧ x.phase = .ready ∧ x.rerun = true ∧ x.faultKills = 1) ∧
        (rget t 0x100).testBit 3 = true ∧ (mgetD t.rose.parity g 0).testBit j = true ∧ t.clk = s.clk ∧ t.boot = s.boot ∧ t.flash = s.flash)) ∧
      (c.faultKills = 1 → gives (.partitionReset k [.parity (.strip g j)]) s (fun t =>
        findRun t k = none ∧ filed s t k 0x50 ∧ (rget t 0x100).testBit 3 = true ∧ (mgetD t.rose.parity g 0).testBit j = true)) ∧
      (∀ a, gives (.partitionReset k [.outsidePlot (.strip g j) a]) s (fun t =>
        findRun t k = none ∧ filed s t k 0x51 ∧ (rget t 0x100).testBit 3 = true))) ∧
    (∀ u, s.rose.lbist.contains u = true →
      gives (.facetLbistEnd u true) s (fun t =>
        t.rose = { s.rose with lbist := s.rose.lbist.filter (fun v => decide (v ≠ u)) } ∧ onlyChanged [.rose] s t) ∧
      (∀ x, u < 256 → s.rose.sectors[u / 16]? = some x → x.subPos ≠ some (u % 16) → gives (.facetLbistEnd u false) s (fun t =>
        (∃ y, t.rose.sectors[u / 16]? = some y ∧ y.failed.testBit (u % 16) = true ∧ y.subPos = x.subPos) ∧
        onlyChanged (.rose :: reportGroups) s t)) ∧
      (∀ x, 256 ≤ u → s.rose.sectors[u - 256]? = some x → gives (.facetLbistEnd u false) s (fun t =>
        t.rose.sectors[u - 256]? = some { x with sxtFailed := true } ∧ onlyChanged (.rose :: reportGroups) s t))) ∧
    (∀ u pass, s.rose.lbist.contains u = false → gives (.facetLbistEnd u pass) s (· = s)) ∧
    (∀ n x l, s.rose.sectors[n]? = some x → x.pendingSub = some l →
      ((heldFacets s).contains (16 * n + l) = false → x.spareFail = false → gives (.spareSubstitution n) s (fun t =>
        t.rose.sectors[n]? = some { x with subPos := some l, pendingSub := none } ∧ onlyChanged (.rose :: reportGroups) s t)) ∧
      ((heldFacets s).contains (16 * n + l) = true → gives (.spareSubstitution n) s (· = s)))

/-! ### Runs (01, 02, 03, 04, 11) -/

/-- LAUNCH_CYCLE and LADDER_STEP (01 R31; 11 R283 to R286): at its launch cycle a run starts setup and its command runs; the facets of a ladder
step start empty. -/
def Obligations.RunLaunches : Prop :=
  ∀ (s : State) (k : CmdKey) (r : Run), findRun s k = some r → frozen s = false →
    (∀ c, s.helm.armed = [] → findCmd s k = some c → r.stream = none → r.phase = .placed → r.launchAk ≠ 0 → r.launchAk = s.clk.chipAk →
      gives (.launchCycle k) s (fun t =>
        (∃ x, findRun t k = some x ∧ x.phase = .setup ∧ x.launchAk = s.clk.chipAk ∧ x.launchMer = stamp s ∧ x.phaseStart = s.clk.chipAk ∧
          x.phaseEnd = s.clk.chipAk + setupEndAk s r ∧ x.berths = r.berths ∧ x.route = r.route) ∧
        findCmd t k = some { c with phase := .running, runs := c.runs + 1 } ∧ onlyChanged [.runs, .cmds, .fleet, .pel, .regs] s t)) ∧
    (s.helm.armed = [] → r.launchAk ≠ s.clk.chipAk → gives (.launchCycle k) s (· = s)) ∧
    (s.clk.chipAk % 32 = 0 → launched s r = true → r.stream = none → r.slot = none → gives (.ladderStep k) s (fun t =>
      (∀ g n, g ∈ stepFacets s r → g < 256 → n < 1024 → mget t.rose.acc (1024 * g + n) = none ∧ mget t.rose.panel (1024 * g + n) = none) ∧
      t.rose.sxt = s.rose.sxt ∧ onlyChanged [.rose] s t))

/-- Events of an operation that raise no trap of the run (06 R165, R168). -/
def quietEv (n : NumCtl) (e : NumEv) : Prop := (e.nanGen = 0 ∨ n.nanTrap = false) ∧ e.strictOvf = 0

/-- The arithmetic of a phase that ends its run with no trap and no PIVOT_ABORT (06 R168; 07 R186). -/
def quietTally (n : NumCtl) (t : Tally) : Prop := quietEv n t.ev ∧ t.aborts = 0

/-- SETUP_END and ITERATION_END (02 R37, R38; 03 R60, R75, R82, R86, R88; 06 R168): setup ends in iterations, with the problem, the starting point
and its residuals that the device computes; a NaN of the instance in NAN_TRAP; an impossible bound pair in INFEASIBLE_PRIMAL; an iterate passes
the convergence test when its three residuals are within their tolerances and its merit value is no NaN (03 R67); a direct update ends by its
merit value; a QP iteration that converges ends OK, one that finds the problem infeasible ends so with its certificate, and another below the limit
goes on. -/
def Obligations.SetupAndIterations : Prop :=
  ∀ (s : State) (k : CmdKey) (r : Run) (m : Model), findRun s k = some r → runModel s r = some m → frozen s = false → suppressed s r = false →
    let n := runNum s r
    (∀ res, converged res (runDesc s r) = true ↔ (leX (f64 res.rp) (epsOf (dEpsP (runDesc s r))) = true ∧
      leX (f64 res.rd) (epsOf (dEpsD (runDesc s r))) = true ∧ leX (f64 res.rg) (epsOf (dEpsG (runDesc s r))) = true ∧
      (f64 res.merit).isNan = false)) ∧
    (r.phase = .setup → ∀ data,
      let begun (x : Run) : Prop := x.phase = .iterating ∧ x.phaseStart = s.clk.chipAk ∧ x.phaseEnd = s.clk.chipAk + iterLen r.route 1
      (∀ e fm pat c, instanceNan s r = some ((e, fm, pat), c) → dueNow s (r.launchAk + nanEndAk s r) = true →
        gives (.setupEnd k data) s (fun t => (∃ x y, findRun t k = some x ∧ x.status = some 0x21 ∧ x.trap = some y ∧ y.kind = 2 ∧ y.row = e ∧
          y.fmtA = fm ∧ y.opndA = pat) ∧ onlyChanged [.runs] s t)) ∧
      (instanceNan s r = none → runImpossible s r m = true → dueNow s (r.launchAk + leadIn s r + r.route.boundAk) = true →
        gives (.setupEnd k data) s (fun t => (∃ x, findRun t k = some x ∧ x.status = some 0x10) ∧ onlyChanged [.runs] s t)) ∧
      (instanceNan s r = none → runImpossible s r m = false → dueNow s r.phaseEnd = true → r.waits = [] →
        (m.chart.kalman = true → gives (.setupEnd k data) s (fun t =>
          (∃ x, findRun t k = some x ∧ begun x) ∧ onlyChanged [.runs] s t)) ∧
        (m.chart.kalman = false →
          let st := (runSetup s r m).1.1
          let tally := (runSetup s r m).1.2
          quietTally n { tally with ev := tally.ev.add (runSetup s r m).2.ev } → gives (.setupEnd k data) s (fun t =>
            (∃ x, findRun t k = some x ∧ begun x ∧ x.prob = some st.prob ∧ x.last = some st.cand ∧ x.work = st.work) ∧
            onlyChanged [.runs, .pel, .rose, .free] s t)))) ∧
    (r.phase = .iterating → dueNow s r.phaseEnd = true → r.waits = [] → ∀ data,
      (m.chart.kalman = true → quietTally n (runUpdate s r m).2 → gives (.iterationEnd k data) s (fun t =>
        (∃ x, findRun t k = some x ∧ x.phase = .commit ∧ x.iter = 1 ∧
          let v := f64 (w64 (runUpdate s r m).1.2)
          x.status = some (if v.isNan then 0x21 else if leX v (epsOf (dEpsP (runDesc s r))) then 0 else 2)) ∧
        onlyChanged [.runs, .pel, .free] s t)) ∧
      (m.chart.kalman = false → ∀ p prev, r.prob = some p → r.last = some prev → quietTally n (runIter s r m p prev).2 →
        let o := (runIter s r m p prev).1
        let ends := converged o.cand.res (runDesc s r) && consensusEnds (runDesc s r) r.route data
        (ends = true → gives (.iterationEnd k data) s (fun t =>
          (∃ x, findRun t k = some x ∧ x.phase = .commit ∧ x.status = some 0 ∧ x.iter = r.iter + 1 ∧ x.last = some o.cand ∧
            x.commitAt = some (s.clk.chipAk + r.route.commitAk)) ∧ onlyChanged [.runs, .pel] s t)) ∧
        (∀ st, ends = false → o.inf.status = some st → gives (.iterationEnd k data) s (fun t =>
          (∃ x, findRun t k = some x ∧ x.phase = .commit ∧ x.status = some st ∧ x.cert = packVec o.inf.cert) ∧ onlyChanged [.runs, .pel] s t)) ∧
        (ends = false → o.inf.status = none → m.chart.method ≠ 3 → r.iter + 1 < r.limit → r.trig = none →
          gives (.iterationEnd k data) s (fun t =>
            (∃ x, findRun t k = some x ∧ x.phase = .iterating ∧ x.iter = r.iter + 1 ∧ x.last = some o.cand ∧ x.work = o.work ∧ x.rhoExp = o.rho ∧
              x.phaseEnd = s.clk.chipAk + iterLen r.route (r.iter + 2)) ∧ onlyChanged [.runs, .pel] s t))))

/-- DEADLINE_TRIGGER and DEADLINE_STOP (04 R96 to R99): the trigger marks the run; within 96 AK cycles it stops, 6 more select the buffer, and the
status is OK_BEST; LATE inside setup; later NAN_TRAP where no candidate has a number. The fields of that trap record are free (log 36). -/
def Obligations.Deadlines : Prop :=
  ∀ (s : State) (k : CmdKey) (r : Run), findRun s k = some r → working r = true → frozen s = false →
    (r.trig = none → budgetDue s r = true ∨ meridianDue s r = true →
      ((r.phase = .setup ∨ r.iter = 0 ∨ r.phaseStart ≠ s.clk.chipAk) → gives (.deadlineTrigger k) s (fun t =>
        (∃ x, findRun t k = some x ∧ x.trig = some ⟨s.clk.chipAk, meridianDue s r, false⟩ ∧ x.phase = r.phase ∧ x.status = r.status) ∧
        onlyChanged [.runs] s t)) ∧
      (r.phase = .iterating → 0 < r.iter → r.phaseStart = s.clk.chipAk → r.best.isSome = true → gives (.deadlineTrigger k) s (fun t =>
        (∃ x, findRun t k = some x ∧ x.phase = .commit ∧ x.status = some 1 ∧ x.commitAt = some (s.clk.chipAk + r.route.commitAk)) ∧
        onlyChanged [.runs] s t))) ∧
    (∀ tr, r.trig = some tr → tr.ak < s.clk.chipAk → s.clk.chipAk ≤ tr.ak + 96 → r.slot = none →
      let stopped (x : Run) : Prop := x.phase = .commit ∧ x.abandoned = true ∧ x.commitAt = some (s.clk.chipAk + 6 + r.route.commitAk)
      (r.phase = .iterating → r.best.isSome = true → gives (.deadlineStop k) s (fun t =>
        (∃ x, findRun t k = some x ∧ stopped x ∧ x.status = some 1) ∧ onlyChanged [.runs] s t)) ∧
      (r.phase = .iterating → r.best = none → gives (.deadlineStop k) s (fun t =>
        (∃ x, findRun t k = some x ∧ stopped x ∧ x.status = some 0x21 ∧ x.trap.isSome = true) ∧ onlyChanged [.runs, .free] s t)) ∧
      (r.phase = .setup → gives (.deadlineStop k) s (fun t =>
        (∃ x, findRun t k = some x ∧ stopped x ∧ x.status = some 0x40) ∧ onlyChanged [.runs] s t)))

/-- COMMIT_POINT, RECHECK_END, COMMITTING (01 R26; 04 R104; 09 R249; 12 R306; 16 R379 to R381): the run hands its request to the journal queue and
gives its berth back; a recheck that passes frees the Plot, one that fails brings the safe state, and one that
meets an uncorrectable word repairs it and reruns the command (15 R362, 08 R207); the commit sequence posts the
record, takes the command off its ring and moves DONE past it; a unit's ends the unit. -/
def Obligations.Commits : Prop :=
  ∀ (s : State) (k : CmdKey),
    (∀ r m st c site, findRun s k = some r → runModel s r = some m → r.status = some st → r.phase = .commit →
      r.commitAt = some s.clk.chipAk → frozen s = false → r.stream = none → findCmd s k = some c → gives (.commitPoint k site) s (fun t =>
        filedAs s t k (fun q => q.status = (commitPhase s r m site st).status ∧ q.iterRun = r.iter ∧ q.launchAk = r.launchAk ∧
          q.fixWritten = true) ∧ (dClass c.desc ≠ 2 → findRun t k = none) ∧
        onlyChanged [.regs, .pel, .out, .chart, .rose, .runs, .batches, .cmds, .helm, .log] s t)) ∧
    (∀ x fix fix2 words shadow, queued s k = some x → recheckNow s = some k → s.bin.safe = false →
      let s1 := feedEcc s words
      let same := dDual x.desc = false ∨ firstDiff fix fix2 = none
      let ends (P : State → Prop) : Prop := gives (.recheckEnd k fix fix2 words none shadow) s P
      (freshQueued s1 x fix = false → ends (fun t => safeStateBy t 0x03 ∧ t.boot = s1.boot)) ∧
      (freshQueued s1 x fix = true → dDual x.desc = true → (firstDiff fix fix2).isSome = true →
        ends (fun t => safeStateBy t 0x02 ∧ t.boot = s1.boot)) ∧
      (freshQueued s1 x fix = true → same → stamp s1 < recheckDue s1 k x.req → ends (· = s1)) ∧
      (∀ v, freshQueued s1 x fix = true → same → recheckDue s1 k x.req ≤ stamp s1 → recheckResid s1 k x.req fix = some v →
        (residTest x.desc x.req.status (reportedBy x fix) v = false → ends (fun t => safeStateBy t 0x01 ∧ t.boot = s1.boot)) ∧
        (∀ c q, residTest x.desc x.req.status (reportedBy x fix) v = true → x.stream = none → findCmd s k = some c → c.req = some q →
          ends (fun t => findRun t k = none ∧ findCmd t k = some { c with req := some { q with recheckDone := true } } ∧
            t.log = { s1.log with recheckAt := stamp s1 } ∧ onlyChanged [.cmds, .runs, .log] s1 t))) ∧
      (∀ c a, x.stream = none → findCmd s k = some c → c.faultKills = 0 → inPlot s (a / 8 * 8) = true →
        s.chart.rowHist.contains (a / 8 * 8) = false → gives (.recheckEnd k fix fix2 words (some a) none) s (fun t =>
          t.chart.mem = (chartClear s (a / 8 * 8) (a / 8 * 8 + 8)).chart.mem ∧ t.log.queue.contains k = false ∧ findRun t k = none ∧
          ∃ y, findCmd t k = some y ∧ y.faultKills = 1 ∧ y.rerun = true ∧ y.req = none))) ∧
    (∀ x c fix, queued s k = some x → x.stream = none → mayCommit s k x = true → findCmd s k = some c → journalled s k = false →
      (x.req.fixWritten = true → x.req.recheckDone = false → freshQueued s x fix = true) → gives (.committing k fix [] 7) s (fun t =>
        findCmd t k = none ∧ (ringOf t k.ctx k.ring).done = k.seq + 1 ∧ mget t.log.last (ringKey k.ctx k.ring) = some k.seq ∧
        t.log.queue.contains k = false ∧
        Output.memWrite (fnFor s k.ctx) ((ringOf s k.ctx k.ring).cqBase + 32 * slotOf (ringOf s k.ctx k.ring) k.seq)
          (cplBytes (recordOf s c (withSignalValue s c x.req))) ∈ t.out ∧ t.clk = s.clk ∧ t.boot = s.boot ∧ t.flash = s.flash)) ∧
    (∀ x n st u fix, queued s k = some x → x.stream = some n → mget s.streams n = some st → st.unit = some u → mayCommit s k x = true →
      streamJournalled s n = false → (x.req.fixWritten = true → x.req.recheckDone = false → freshQueued s x fix = true) →
      gives (.committing k fix [] 7) s (fun t => (∃ y, mget t.streams n = some y ∧ y.unit = none ∧ y.faultKills = 0) ∧
        streamJournalled t n = true ∧ onlyChanged [.streams, .log, .helm, .chart, .pel, .bin] s t))

/-- BATCH_TICK (10 R270 to R272): between boundaries nothing happens; at one, a problem that has stopped begins its commit phase, a batch
whose problems are all gone ends, and a command that waits joins a free slot, this boundary its launch cycle. -/
def Obligations.BatchTicks : Prop :=
  ∀ (s : State) (ctx model : Nat) (quota : Bool) (rt : Route), (modelOf s model).bind batchRoute = some rt → frozen s = false → ready s = true →
    (∀ bi b, batchOf s ctx model quota = some (bi, b) → (s.clk.chipAk - b.origin) % rt.iterAk ≠ 0 → gives (.batchTick ctx model quota) s (· = s)) ∧
    (batchOf s ctx model quota = none → joinQueue s ctx model quota = [] → gives (.batchTick ctx model quota) s (· = s)) ∧
    (∀ bi b, batchOf s ctx model quota = some (bi, b) → rt.iterAk ≠ 0 → (s.clk.chipAk - b.origin) % rt.iterAk = 0 →
      (∀ k r, (∀ c, c ∈ s.cmds → opOf c.desc ≠ 0x11 ∨ c.phase ≠ .ready) → k ∈ batchKeys b → findRun s k = some r → r.phase = .stopping →
        gives (.batchTick ctx model quota) s (fun t => findRun t k = some (endRun r s.clk.chipAk (r.status.getD 0x21) 0) ∧ t.cmds = s.cmds)) ∧
      ((∀ c, c ∈ s.cmds → opOf c.desc ≠ 0x11 ∨ c.phase ≠ .ready) → s.batches = [b] → (∀ k, k ∈ batchKeys b → findRun s k = none) →
        gives (.batchTick ctx model quota) s (fun t => t.batches = [] ∧ onlyChanged [.batches, .rose, .chart] s t)) ∧
      (∀ c g i u rest, joinQueue s ctx model quota = [c] → s.fleet.stopped = false → findCmd s c.key = some c → findRun s c.key = none →
        freeSlots b = (g, i, u) :: rest → (∀ v, v ∈ b.units → v.slots.any (·.isSome) = true) →
        (∀ k, k ∈ batchKeys b → ∃ r, findRun s k = some r ∧ r.phase = .iterating ∧ r.trig = none ∧ r.commitAt = none) →
        tooLate c rt (stamp s) = false → covered263 s c rt quota = true → gives (.batchTick ctx model quota) s (fun t =>
          (∃ x, findRun t c.key = some x ∧ x.phase = .setup ∧ x.launchAk = s.clk.chipAk ∧ x.slot = some (u.berth.origin, i)) ∧
          (∃ y, findCmd t c.key = some y ∧ y.phase = .running) ∧ t.clk = s.clk ∧ t.log.queue = s.log.queue)))

/-! ### The arithmetic units (05, 06, 07) -/

/-- The six cell operations (05 R117 to R122, R135): IDLE holds, PRELOAD and FIRST write the accumulator, MAC adds to it and MSUB subtracts
from it, each rounded to W48; both chunks, the neighbours' or else the feeders', pass on to the east and the south neighbour; a special
operand acts on the first pass alone; DRAIN shifts the strip by one cell and hands the value to the panel buffer or to the store path; words
that the operation's reads corrected are counted (08 R206). The value that a MAC leaves in an empty accumulator is free (log 39). -/
def Obligations.CellOperations : Prop :=
  ∀ (s : State) (c : CellAt) (r : Run), cellRun s c = some r → findRun s r.key = some r →
    let n := runNum s r
    let s1 := feedEcc s c.ecc
    let k := c.of r
    let b := berthOn r c.facet
    let others (t : State) : Prop := ∀ d, accKey d ≠ accKey k → accOf t d = accOf s d
    let shifted (t : State) : Prop :=
      (∀ i, i < 31 → accOf t { k with pos := i } = accOf s { k with pos := i + 1 }) ∧ accOf t { k with pos := 31 } = none
    gives (.idleOp c) s (· = s) ∧
    (∀ v, gives (.preload c v) s (fun t => accOf t k = some v ∧ others t ∧ onlyChanged [.rose] s1 t)) ∧
    (∀ w o pass site words, roseFmt w.fmt = true → roseFmt o.fmt = true →
      let s2 := feedEcc s (c.ecc ++ words)
      let west := reaching s s.rose.east (b.bind (westOf · k)) pass w
      let north := reaching s s.rose.south (b.bind (northOf · k)) pass o
      let passes (t : State) : Prop := mget t.rose.east (passKey k s.clk.chipAk) = some (s.clk.chipAk, west.1) ∧
        mget t.rose.south (passKey k s.clk.chipAk) = some (s.clk.chipAk, north.1)
      (∀ p, cellProduct r.route.vernier pass (opndVal west.1) (opndVal north.1) = some p →
        let v := toAcc n.strict p
        let ev := (west.2.add north.2).add v.2
        (quietEv n ev → gives (.firstOp c w o pass site) s (fun t =>
          accOf t k = some (toW48 v.1) ∧ others t ∧ passes t ∧ onlyChanged [.rose, .runs] s1 t)) ∧
        (∀ a, accOf s k = some a →
          (quietEv n (ev.add (addR .w48 n.strict (w48 a) v.1).2) → gives (.mac c w o pass site words) s (fun t =>
            accOf t k = some (toW48 (addR .w48 n.strict (w48 a) v.1).1) ∧ others t ∧ passes t ∧ onlyChanged [.rose, .runs] s2 t)) ∧
          (quietEv n (ev.add (addR .w48 n.strict (w48 a) v.1.opp).2) → gives (.msub c w o pass site) s (fun t =>
            accOf t k = some (toW48 (addR .w48 n.strict (w48 a) v.1.opp).1) ∧ others t ∧ passes t ∧ onlyChanged [.rose, .runs] s1 t))) ∧
        (accOf s k = none → gives (.mac c w o pass site words) s (fun t => (accOf t k).isSome = true ∧ others t ∧ passes t ∧
          t.free = s.free + 1 ∧ onlyChanged [.rose, .runs, .free] s2 t))) ∧
      (cellProduct r.route.vernier pass (opndVal west.1) (opndVal north.1) = none →
        gives (.mac c w o pass site words) s (fun t => t.rose.acc = s.rose.acc ∧ passes t ∧ onlyChanged [.rose, .runs] s2 t))) ∧
    (∀ a, mapWf s.rose.acc = true → accOf s { k with pos := 0 } = some a →
      (∀ el site, quietEv n (enterPivot n.strict (w48 a)).2 → gives (.drainOp c (.panel [el]) site) s (fun t =>
        mget t.rose.panel (facetKey k.slot k.facet * 1024 + el % 1024) = some (enterPivot n.strict (w48 a)).1 ∧ shifted t ∧
        onlyChanged [.rose, .runs] s1 t)) ∧
      (∀ addr code f exps site, fmtOfCode code = some f → blockOf code = 0 → quietEv n (convert (w48 a) f n.rm n.strict).2 →
        let bs := r.berths.filter (fun x => x.facets.contains c.facet)
        routeMayWrite s r bs (c.facet / 16) addr f.bytes = true → gives (.drainOp c (.plot [addr] code exps .none) site) s (fun t =>
          t.chart.admitted = s.chart.admitted ++ [⟨addr, s.clk.chipAk + sectorLatency (c.facet / 16) (addr / 0x1000000) - 4,
            berthWriter ((bs ++ r.berths).headD ⟨0, 0, 0⟩), leBytes f.bytes (convert (w48 a) f n.rm n.strict).1⟩] ∧
          t.chart.mem = s.chart.mem ∧ shifted t ∧ onlyChanged [.rose, .runs, .chart, .pel] s1 t))) ∧
    (∀ addrs code exps act site, code = 1 ∨ code = 2 → gives (.drainOp c (.plot addrs code exps act) site) s (· = s))

/-- PIVOT_DIV and COLUMN_STEP (07 R172 to R188): a quotient is A × r rounded once; a good pivot stands in the panel (its root for Cholesky, the
norm of its column for QR) over its column of quotients; a bad one is counted under its policy, or, abandoned, by itself, and under ABORT ends the
command PIVOT_ABORT; LU records its pivot row; a column below a factored tile is divided by the factor's r; a rank-1 update takes the root of
L² + v². The order of QR's norm is the model's (log 121). -/
def Obligations.PivotOperations : Prop :=
  ∀ (s : State) (x : ColStep) (r : Run), pivotRun s x = some r →
    let n := runNum s r
    let slot := runSlot r
    let cell (t : State) (i : Nat) : Option W48 := mget t.rose.panel (elemKey slot x i x.col)
    (∀ row pivot, let q := recipOf x.kernel (w48 pivot)
      let v := quotient n.strict (panelAt s slot x row x.col) q.1
      quietEv n q.2 → quietEv n v.2 → gives (.pivotDiv x row pivot) s (fun t =>
        cell t row = some (toW48 v.1) ∧ onlyChanged [.rose, .runs] s t)) ∧
    (x.load = [] → x.store = [] → x.storeLd = [] → x.width ≤ 32 → x.facets.Nodup →
      let s1 := feedEcc s x.ecc
      let e := enterKernel s1 r x n.strict
      let thr := stepThr e r x
      let still := n.nanTrap = false ∧ n.strict = false
      let step (P : State → Prop) : Prop := gives (.columnStep x) s (fun t => P t ∧ onlyChanged [.rose, .runs] s1 t)
      (x.kernel = .chol ∨ x.kernel = .ldl →
          (∀ g, g ∈ x.facets.drop 1 → g < 256 ∧ dieRow (x.facets.headD 0) < dieRow g ∧ dieCol g = dieCol (x.facets.headD 0)) →
        let d := (regPivot s slot x n.strict).1
        let neg := decide (x.kernel = .ldl) && x.eqRow
        (pivotBad thr d neg = false → still → step (fun t =>
          cell t x.col = some (toW48 (if x.kernel = .chol then (sqrtR .w48 false d).1 else d)) ∧
          (∀ i, i ∈ rowsBelow x → cell t i = some (toW48 (quotient false (panelAt s slot x i x.col) (recipOf x.kernel d).1).1)))) ∧
        (pivotBad thr d neg = true → dPolicy (runDesc s r) ≠ 1 → still → step (fun t => ∃ y, findRun t x.key = some y ∧
          y.counts.pivReg = r.counts.pivReg + (if dPolicy (runDesc s r) = 2 then 0 else 1) ∧
          y.counts.pivInertia = r.counts.pivInertia + (if dPolicy (runDesc s r) = 2 then 1 else 0) ∧ y.phase = r.phase)) ∧
        (pivotBad thr d neg = true → dPolicy (runDesc s r) = 1 → suppressed s r = true → still → step (fun t =>
          ∃ y, findRun t x.key = some y ∧ y.counts.pivAbandoned = r.counts.pivAbandoned + 1 ∧ y.phase = r.phase)) ∧
        (pivotBad thr d neg = true → dPolicy (runDesc s r) = 1 → suppressed s r = false → r.trap = none → r.slot = none → still →
          step (fun t => ∃ y, findRun t x.key = some y ∧ y.phase = .commit ∧ y.status = some 0x20 ∧
            y.commitAt = some (s.clk.chipAk + 6 + r.route.commitAk)))) ∧
      (x.kernel = .lu →
        let row := (pivotRow e slot x (openRows e r x)).getD x.col
        let d := panelAt s slot x row x.col
        pivotBad thr d (match d with | .fin m _ _ => m | _ => false) = false → still → step (fun t =>
          mgetD t.rose.perm (stepKey r x) [] = mgetD e.rose.perm (stepKey r x) [] ++ [berthRow (stepBerth r x) x row])) ∧
      (x.kernel = .qr →
        let d := (tailNorm n.strict (panelCol s slot x x.col) x.col).1
        (pivotBad thr d false = false → still → step (fun t => cell t x.col = some (toW48 d))) ∧
        (pivotBad thr d false = true → dPolicy (runDesc s r) ≠ 1 → still → step (fun t => cell t x.col = some (toW48 (nextPow thr)) ∧
          mgetD t.rose.vec (stepKey r x) [] = mgetD e.rose.vec (stepKey r x) [] ++ [toW48 (.zero false), toW48 (.zero false)]))) ∧
      (x.kernel = .solve → still → step (fun t => ∀ i, i < 32 * x.facets.length →
        cell t i = some (toW48 (quotient false (panelAt s slot x i x.col) (w48 (x.vec.headD 0))).1))) ∧
      (x.kernel = .update → still →
        let l := panelAt s slot x x.col x.col
        let v := w48 ((mgetD e.rose.vec (stepKey r x) []).getD (x.site.col + x.col) 0)
        step (fun t => cell t x.col = some (toW48 (sqrtR .w48 false (fmaR .w48 false v v (mulR .w48 false l l).1).1).1))))

/-- The Sextant operations (05 R139 to R141; 06 R151, R155, R160 to R164): the lane holds the operation on its loaded operands, rounded once to
the lane's format, and one operation is counted; comparisons follow IEEE 754 (06 R163). The spec gives COMPARE's value in the lane in no words (log 43), nor the exponent of
a zero, an infinity or a NaN (log 44). -/
def Obligations.SextantOperations : Prop :=
  ∀ (s : State) (x : SxtAt) (r : Run), laneRun s x = some r →
    let n := runNum s r
    let s1 := feedEcc s x.ecc
    let st := n.strict
    let f := laneFmt x
    let ld (o : Opnd) : Machine.Num := (laneLoad n x o).1
    let leaves (i : Instr) (v : Machine.Num) : Prop := gives i s (fun t => laneVal t x = BitVec.ofNat 64 (patOf f v) ∧
      (∃ y, findRun t x.key = some y ∧ y.counts.sxtOps = r.counts.sxtOps + 1) ∧ onlyChanged [.rose, .runs, .pel] s1 t)
    (∀ op a b, a.isNan = true ∨ b.isNan = true → compareX op a b = decide (op = .ne)) ∧
    (∀ op m n', compareX op (.zero m) (.zero n') = compareX op (.zero false) (.zero false)) ∧ compareX .eq (.zero true) (.zero false) = true ∧
    (∀ a b, a.isNan = true ∨ b.isNan = true → leX a b = false) ∧
    (∀ a b c, leaves (.fma x a b c) (fmaR f st (ld a) (ld b) (ld c)).1) ∧
    (∀ a b, leaves (.add x a b) (addR f st (ld a) (ld b)).1 ∧ leaves (.sub x a b) (addR f st (ld a) (ld b).opp).1 ∧
      leaves (.mul x a b) (mulR f st (ld a) (ld b)).1 ∧ leaves (.divOp x a b) (divR f st (ld a) (ld b)).1 ∧
      leaves (.maxOp x a b) (maxX (ld a) (ld b)) ∧ leaves (.minOp x a b) (minX (ld a) (ld b)) ∧
      (∀ op, leaves (.compareOp x op a b) (if compareX op (ld a) (ld b) then .fin false 1 0 else .zero false))) ∧
    (∀ a, leaves (.sqrt x a) (sqrtR f st (ld a)).1 ∧ leaves (.absOp x a) (ld a).abs) ∧
    (∀ a k, gives (.pow2Scale x a (some k)) s (fun t =>
      laneVal t x = BitVec.ofNat 64 (patOf f (finish f st (scaleX (ld a) k, false)).1) ∧ onlyChanged [.rose, .runs, .pel, .free] s1 t)) ∧
    (∀ a neg m e, ld a = .fin neg m e → gives (.pow2Scale x a none) s (fun t =>
      laneVal t x = BitVec.ofNat 64 (patOf f (ofDyadic (topExp m e) 0 false)) ∧ onlyChanged [.rose, .runs, .pel, .free] s1 t)) ∧
    (∀ code g o rest, fmtOfCode code = some g → 6 ≤ code → gives (.convertOp x (o :: rest) (.lane code)) s (fun t =>
      laneVal t x = BitVec.ofNat 64 (convert (opndVal o) g n.rm st).1 ∧ onlyChanged [.rose, .runs, .pel] s1 t)) ∧
    (∀ code g o a ea, fmtOfCode code = some g → blockOf code = 0 → code ≠ 1 → code ≠ 2 → quietEv n (laneLoad n x o).2 →
      quietEv n (convert (ld o) g n.rm st).2 →
      let k := x.sector % 16
      let mine := r.berths.filter (fun b => b.sectors.contains k)
      let bs := if mine.any (fun b => decide (b.sectors.headD 0 = k)) ∨ a / 0x1000000 = k then mine else []
      routeMayWrite s r bs k a g.bytes = true → gives (.convertOp x [o] (.plot code [a] ea)) s (fun t =>
        t.chart.admitted = s.chart.admitted ++ [⟨a, s.clk.chipAk + sectorLatency k (a / 0x1000000) - 4,
          berthWriter ((bs ++ r.berths).headD ⟨0, 0, 0⟩), leBytes g.bytes (convert (ld o) g n.rm st).1⟩] ∧
        t.chart.mem = s.chart.mem ∧ onlyChanged [.runs, .chart, .pel] s1 t))

/-! ### Streams (12) -/

/-- STREAM_BIND and STREAM_UNBIND (12 R298 to R301): models that do not fit are STRUCTURE_MISMATCH; a binding that is placed has its window open,
and its commit asked for, which alone will mark its entry (02 R56); an unbind stops it and leaves the UNBOUND frame due. -/
def Obligations.StreamBinding : Prop :=
  ∀ (s : State) (k : CmdKey) (c : Cmd), findCmd s k = some c →
    let n := leField c.desc 48 1 % 64
    (opOf c.desc = 0x20 → waitingToRun c = true → mget s.streams n = none →
      (mayStart s c = true → bindMismatch s c.desc = true → gives (.streamBind k) s (fun t => filed s t k 0x31 ∧ onlyChanged [.cmds, .helm, .log] s t)) ∧
      (∀ em er cm cr sm step p, bindMismatch s c.desc = false → bindModels s c.desc = some (em, er, cm, cr, sm) → mayStart s c = true →
        unloadStands s c = false → noRecheck s c.desc = false → canServe s k.ctx = true → s.fleet.stopped = false → quotaRoom s k.ctx (cr.berthW * cr.berthH) = true →
        findStep s (ladderPattern (cr.berthW * cr.berthH)) = some step →
        quotaPlacement s (unitRoute er cr) false c.avoid = some (s, p) →
        let win := leField c.desc 50 2 % 1024
        (winOf s win).isOpen = false → windowOpens s win (streamWindow c.key.ctx n (placeBase p) (2 * bufBytes sm)) = true →
        gives (.streamBind k) s (fun t => filed s t k 0 ∧ (winOf t win).isOpen = true ∧ (winOf t win).base = placeBase p ∧
          (∃ x, mget t.streams n = some x ∧ x.key = k ∧ x.startAk = step ∧ x.fixCount = 0 ∧ x.failed = false) ∧
          t.helm.heading = s.helm.heading ∧
          onlyChanged [.streams, .chart, .cmds, .helm, .log] s t))) ∧
    (opOf c.desc = 0x21 → waitingToRun c = true → mayStart s c = true → canServe s k.ctx = true →
      (mget s.streams n = none → gives (.streamUnbind k) s (fun t => filed s t k 0x31 ∧ onlyChanged [.cmds, .helm, .log] s t)) ∧
      (∀ x, mget s.streams n = some x → x.ctlHandle = dHandle c.desc → x.suspended = false → x.failed = false → x.unbind = none →
        gives (.streamUnbind k) s (fun t => findCmd t k = some { c with phase := .waiting } ∧
          (∃ y, mget t.streams n = some y ∧ y.stopAt = some (stampIk s) ∧ y.unbind = some k ∧
            holdDue (stampIk s + fixDelay s n) 8 0 none false ∈ y.due) ∧ onlyChanged [.cmds, .streams] s t)))

/-- SOUNDING_FRAME_START and END, CSI_PACKET_IGNORED, STREAM_UNIT_LAUNCH (12 R294, R296, R297, R302 to R304): a frame opens; an unreadable one is
counted; a whole one becomes a unit; packets of no binding are counted; a unit launches on a multiple of 32 cycles. -/
def Obligations.SoundingFrames : Prop :=
  ∀ (s : State) (port vc : Nat), rxEn s (port % 4) = true → s.bin.txCut = false →
    let n := 16 * (port % 4) + vc % 16
    gives (.csiPacketIgnored port false) s (fun t =>
      mgetD t.pel.gblCnt (0x5008 + port % 4) 0 = satTo (2 ^ 64 - 1) (mgetD s.pel.gblCnt (0x5008 + port % 4) 0 + 1) ∧ onlyChanged [.pel] s t) ∧
    gives (.csiPacketIgnored port true) s (fun t => (∀ e, e ∈ t.streams → e.1 / 16 = port % 4 → e.2.frameOpen.isSome = true → e.2.badHdr = true) ∧
      onlyChanged [.streams, .pel] s t) ∧
    (∀ f, mget s.streams n = none → gives (.soundingFrameEnd port vc f) s (onlyChanged [.pel] s)) ∧
    (∀ x, mget s.streams n = some x → takes s x = true →
      (x.frameOpen = none → gives (.soundingFrameStart port vc) s (fun t =>
        t.streams = mset s.streams n { x with frameOpen := some (stampIk s), refusedRow := false, badHdr := false } ∧ onlyChanged [.streams] s t)) ∧
      (∀ f, readableHdr x f = none → gives (.soundingFrameEnd port vc f) s (fun t =>
        t.streams = mset s.streams n (frameEnded s n x (stampIk s)) ∧ onlyChanged [.streams, .pel, .regs] s t)) ∧
      (∀ f h, readableHdr x f = some h → x.next = none ∨ x.next = some h.seq → x.unit = none → x.stopAt = none → x.lastServed = none →
        x.refusedRow = false → x.badHdr = false → f.payGood = true → f.shapeGood = true → h.format = (mapOf s x).format →
        h.elems = (mapOf s x).elems →
        (storeFrame (gcount s (0x5000 + port % 4) (64 * bitAt f.hdr.isSome 0 + ceilDiv f.payload.length 4 * 4)) n x (mapOf s x) h f).2 = false →
        gives (.soundingFrameEnd port vc f) s (fun t =>
          (∃ y u, mget t.streams n = some y ∧ y.unit = some u ∧ u.seq = h.seq ∧ u.tfe = stampIk s ∧ u.launchAk = none ∧
            y.lastServed = some (stampIk s) ∧ y.frameOpen = none) ∧ onlyChanged [.streams, .chart, .regs, .pel] s t))) ∧
    (∀ x u rt ev y, mget s.streams n = some x → x.unit = some u → (mget s.helm.models x.ctlModel).bind berthRoute = some rt →
      u.launchAk = none → u.req = none → x.failed = false → x.suspended = false → x.stopAt = none → frozen s = false →
      findRun s x.key = none → s.clk.chipAk % 32 = 0 → x.startAk ≤ s.clk.chipAk → u.complete = some y → y ≤ ev → ev + 8 ≤ s.clk.chipAk →
      s.clk.chipAk < ev + 40 → runWinsOpen s rt [x.berth] x.plots = true → gives (.streamUnitLaunch n ev) s (fun t =>
        (∃ z, findRun t x.key = some z ∧ z.phase = .setup ∧ z.launchAk = s.clk.chipAk ∧ z.stream = some n) ∧
        (∃ z, mget t.streams n = some z ∧ z.unit = some { u with launchAk := some s.clk.chipAk }) ∧
        onlyChanged [.streams, .runs, .chart, .pel, .regs] s t))

/-- FIX_FRAME_EMIT, FIX_FRAME_SENT, STREAM_WATCHDOG, STREAM_FAILED, SKEW_CALIBRATION (12 R295, R309, R311 to R313): a due frame starts on a free port;
when it has left, the port is free; without a frame for WATCHDOG a HOLD is due; a port fault silences the binding. -/
def Obligations.FixFrames : Prop :=
  ∀ (s : State), s.bin.txCut = false →
    (∀ n x d rest c, mget s.streams n = some x → x.due = d :: rest → s.csi[x.tx / 16 % 4]? = some c → x.failed = false → x.suspended = false →
      x.onLanes = none → d.due ≤ stampIk s → stampIk s ≤ d.due + 10 * usU → d.ready = true → portFree c d.due (stampIk s) = true →
      txEn s (x.tx / 16 % 4) = true → gives (.fixFrameEmit n) s (fun t =>
        (∃ y, mget t.streams n = some y ∧ y.due = rest ∧ y.onLanes = some (d, stampIk s) ∧ y.fixCount = x.fixCount + 1 ∧ y.emitted.isSome = true) ∧
        (∃ e, t.csi[x.tx / 16 % 4]? = some e ∧ e.busy = true) ∧ onlyChanged (.streams :: .csi :: .free :: reportGroups) s t)) ∧
    (∀ n x d t0 f, mget s.streams n = some x → x.onLanes = some (d, t0) → x.emitted = some f → d.reason ≠ 8 → gives (.fixFrameSent n) s (fun t =>
      t.out = s.out ++ [.fix (x.tx / 16 % 4) (x.tx % 16) f] ∧ (∃ y, mget t.streams n = some y ∧ y.onLanes = none ∧ y.emitted = none) ∧
      onlyChanged [.streams, .csi, .pel, .out, .log] s t)) ∧
    (∀ n x d t0 f k c, mget s.streams n = some x → x.onLanes = some (d, t0) → x.emitted = some f → d.reason = 8 → x.unbind = some k →
      findCmd s k = some c → gives (.fixFrameSent n) s (fun t => filed s t k 0 ∧ t.out = s.out ++ [.fix (x.tx / 16 % 4) (x.tx % 16) f])) ∧
    (∀ n x t0 w, mget s.streams n = some x → x.dogAt = some t0 → watchdogOf s n = some w → t0 < stampIk s → takes s x = true → x.stopAt = none →
      gives (.streamWatchdog n) s (fun t =>
        t.streams = mset s.streams n { x with dogAt := some (t0 + w), due := insDue (holdDue t0 7 0 none false) x.due } ∧
        onlyChanged [.streams] s t)) ∧
    (∀ n x, mget s.streams n = some x → x.suspended = false → x.failed = false → gives (.streamFailed n true) s (fun t =>
      (∃ y, mget t.streams n = some y ∧ y.failed = true ∧ y.due = [] ∧ y.onLanes = none) ∧ (rget t 0x100).testBit 4 = true ∧
      t.helm.ctxResetDue = s.helm.ctxResetDue ++ [x.key.ctx] ∧ onlyChanged (.streams :: .csi :: .helm :: reportGroups) s t)) ∧
    (∀ port dur c, s.csi[port % 4]? = some c → txEn s (port % 4) = true → skewMs s (port % 4) ≠ 0 → c.busy = false →
      c.skewAt + skewMs s (port % 4) * 1000 * usU ≤ stamp s →
      (∀ e, e ∈ s.streams → e.2.tx / 16 % 4 = port % 4 → ∀ d, d ∈ e.2.due → stamp s + dur + usU ≤ d.due) →
      gives (.skewCalibration port dur) s (fun t => t.out = s.out ++ [.skew (port % 4)] ∧ onlyChanged [.csi, .out] s t))
end

