-- ==== Sys2Proof/Laws/Kept.lean ====
section
/-! SUPPORT. What every operation of the machine keeps, said once: the queue of commands, the canonical form of the byte memories, SAFE_N low
unless the device is READY or in a warm reset and out of the safe state; and, where an operation does not name them, the flash, Meridian time
and the AK count, the power-up group, the absence of the safe state. -/

namespace Sys2Proof.Laws
open Sys2Proof Sys2Proof.Machine

/-- What is held fixed: the queue always, the rest where it is given. -/
structure Keep where
  pending : List Instr
  flash : Option Flash
  time : Option (Mer × Nat)
  boot : Option Boot
  calm : Bool
  up : Bool
  inv : Bool
  held : Bool

/-- A state that keeps what is held fixed. -/
structure Kept (k : Keep) (s : State) : Prop where
  pending : s.pending = k.pending
  mems : k.inv = true → s.memoriesWf = true
  safeN : k.inv = true → safeNOk s
  flash : ∀ x, k.flash = some x → s.flash = x
  time : ∀ x, k.time = some x → s.clk.mer = x.1 ∧ s.clk.chipAk = x.2
  boot : ∀ x, k.boot = some x → s.boot = x
  calm : k.calm = true → s.bin.safe = false
  up : k.up = true → s.boot.state = 1 ∨ s.boot.state = 3
  held : k.held = true → s.bin.safe = true

variable {k : Keep} {s : State}

/-! ### Branches and folds -/

theorem kept_ite {c : Prop} [Decidable c] {a b : State} (ha : Kept k a) (hb : Kept k b) : Kept k (if c then a else b) := by
  split <;> assumption

theorem kept_foldl {α : Type} {f : State → α → State} {l : List α} (h : Kept k s) (hf : ∀ s x, Kept k s → Kept k (f s x)) :
    Kept k (l.foldl f s) := by
  induction l generalizing s with
  | nil => exact h
  | cons x xs ih => exact ih (hf s x h)

/-- A pair that one branch computes and the other takes as it stands. -/
theorem kept_ite_pair {α : Type} {c : Prop} [Decidable c] {f : α × State} {a v : α} {t : State}
    (e : (if c then f else (a, s)) = (v, t)) (hf : f = (v, t) → Kept k t) (h : Kept k s) : Kept k t := by
  split at e
  · exact hf e
  · cases e
    exact h

theorem kept_fst {α : Type} {p : State × α} {t : State} {a : α} (e : p = (t, a)) (h : Kept k p.1) : Kept k t := by
  rw [e] at h
  exact h

theorem kept_snd {α : Type} {p : α × State} {t : State} {a : α} (e : p = (a, t)) (h : Kept k p.2) : Kept k t := by
  rw [e] at h
  exact h

theorem kept_foldl_snd {α β : Type} {f : α × State → β → α × State} {l : List β} {p : α × State} (h : Kept k p.2)
    (hf : ∀ p x, Kept k p.2 → Kept k (f p x).2) : Kept k (l.foldl f p).2 := by
  induction l generalizing p with
  | nil => exact h
  | cons x xs ih => exact ih (hf p x h)

theorem kept_foldl_fst {α β : Type} {f : State × α → β → State × α} {l : List β} {p : State × α} (h : Kept k p.1)
    (hf : ∀ p x, Kept k p.1 → Kept k (f p x).1) : Kept k (l.foldl f p).1 := by
  induction l generalizing p with
  | nil => exact h
  | cons x xs ih => exact ih (hf p x h)

/-! ### Byte memories -/

theorem memWfFrom_mono {d : Byte} {m : List (Nat × Byte)} {lo hi : Nat} (h : memWfFrom d hi m = true) (hl : lo ≤ hi) :
    memWfFrom d lo m = true := by
  cases m with
  | nil => rfl
  | cons e m =>
    obtain ⟨a, v⟩ := e
    simp only [memWfFrom, Bool.and_eq_true, decide_eq_true_eq] at *
    exact ⟨⟨by omega, h.1.2⟩, h.2⟩

theorem memWfFrom_write {d : Byte} (m : List (Nat × Byte)) (lo a : Nat) (v : Byte) (h : memWfFrom d lo m = true) (hl : lo ≤ a) :
    memWfFrom d lo (memWrite d m a v) = true := by
  induction m generalizing lo with
  | nil =>
    simp only [memWrite]
    split
    · rfl
    · simp_all [memWfFrom]
  | cons e m ih =>
    obtain ⟨b, w⟩ := e
    simp only [memWfFrom, Bool.and_eq_true, decide_eq_true_eq] at h
    obtain ⟨⟨h1, h2⟩, h3⟩ := h
    simp only [memWrite]
    split
    · split
      · simp [memWfFrom, h1, h2, h3]
      · rename_i hlt hv
        simp [memWfFrom, hl, hv, h2, h3, Nat.succ_le_of_lt hlt]
    · split
      · subst_vars
        split
        · exact memWfFrom_mono h3 (by omega)
        · simp_all [memWfFrom]
      · simp only [memWfFrom, Bool.and_eq_true, decide_eq_true_eq]
        exact ⟨⟨h1, h2⟩, ih _ h3 (by omega)⟩

/-- A write keeps the canonical form. -/
theorem memWf_write {d : Byte} {m : List (Nat × Byte)} (a : Nat) (v : Byte) (h : memWf d m = true) : memWf d (memWrite d m a v) = true :=
  memWfFrom_write m 0 a v h (Nat.zero_le a)

/-- A write of bytes keeps the canonical form. -/
theorem memWf_writeBytes {d : Byte} {m : List (Nat × Byte)} (a : Nat) (bs : List Byte) (h : memWf d m = true) :
    memWf d (memWriteBytes d m a bs) = true := by
  induction bs generalizing m a with
  | nil => exact h
  | cons b bs ih => exact ih (a + 1) (memWf_write a b h)

theorem memWfFrom_filter {d : Byte} (p : Nat × Byte → Bool) (m : List (Nat × Byte)) (lo : Nat) (h : memWfFrom d lo m = true) :
    memWfFrom d lo (m.filter p) = true := by
  induction m generalizing lo with
  | nil => rfl
  | cons e m ih =>
    obtain ⟨b, w⟩ := e
    simp only [memWfFrom, Bool.and_eq_true, decide_eq_true_eq] at h
    obtain ⟨⟨h1, h2⟩, h3⟩ := h
    simp only [List.filter_cons]
    split
    · simp only [memWfFrom, Bool.and_eq_true, decide_eq_true_eq]
      exact ⟨⟨h1, h2⟩, ih _ h3⟩
    · exact memWfFrom_mono (ih _ h3) (by omega)

/-- Dropping entries keeps the canonical form. -/
theorem memWf_filter {d : Byte} {m : List (Nat × Byte)} (p : Nat × Byte → Bool) (h : memWf d m = true) : memWf d (m.filter p) = true :=
  memWfFrom_filter p m 0 h

/-- Clearing a range keeps the canonical form. -/
theorem memWf_clear {d : Byte} {m : List (Nat × Byte)} (lo hi : Nat) (h : memWf d m = true) : memWf d (memClear m lo hi) = true :=
  memWf_filter _ h

theorem mget_write_ne {d : Byte} (m : List (Nat × Byte)) {a b : Nat} (v : Byte) (h : b ≠ a) :
    mget (memWrite d m a v) b = mget m b := by
  induction m with
  | nil =>
    simp only [memWrite]
    split <;> simp [mget, Ne.symm h]
  | cons e m ih =>
    obtain ⟨c, w⟩ := e
    simp only [memWrite]
    repeat' split
    all_goals simp_all [mget]
    all_goals have h' := Ne.symm h
    all_goals simp_all

/-- A write leaves every other byte alone. -/
theorem memRead_write_ne {d : Byte} (m : List (Nat × Byte)) {a b : Nat} (v : Byte) (h : b ≠ a) :
    memRead d (memWrite d m a v) b = memRead d m b := by
  simp [memRead, mgetD, mget_write_ne m v h]

theorem mget_below {d : Byte} (m : List (Nat × Byte)) (lo a : Nat) (h : memWfFrom d lo m = true) (ha : a < lo) : mget m a = none := by
  induction m generalizing lo with
  | nil => rfl
  | cons e m ih =>
    obtain ⟨b, w⟩ := e
    simp only [memWfFrom, Bool.and_eq_true, decide_eq_true_eq] at h
    simp only [mget]
    rw [if_neg (by omega)]
    exact ih _ h.2 (by omega)

theorem memRead_write_same_from {d : Byte} (m : List (Nat × Byte)) (lo a : Nat) (v : Byte) (h : memWfFrom d lo m = true) :
    memRead d (memWrite d m a v) a = v := by
  induction m generalizing lo with
  | nil =>
    simp only [memWrite]
    split <;> simp_all [memRead, mgetD, mget]
  | cons e m ih =>
    obtain ⟨b, w⟩ := e
    simp only [memWfFrom, Bool.and_eq_true, decide_eq_true_eq] at h
    simp only [memWrite]
    split
    · split
      · rename_i hlt hv
        simp only [memRead, mgetD, mget]
        rw [if_neg (by omega), mget_below m _ a h.2 (by omega)]
        simp [hv]
      · simp [memRead, mgetD, mget]
    · split
      · subst_vars
        split
        · rename_i hv
          simp only [memRead, mgetD]
          rw [mget_below m _ _ h.2 (by omega)]
          simp [hv]
        · simp [memRead, mgetD, mget]
      · rename_i h1 h2
        have := ih _ h.2
        simp only [memRead, mgetD, mget] at *
        rw [if_neg (fun hh => h2 hh.symm)]
        exact this

/-- A byte just written reads as the byte written. -/
theorem memRead_write_same {d : Byte} (m : List (Nat × Byte)) (a : Nat) (v : Byte) (h : memWf d m = true) :
    memRead d (memWrite d m a v) a = v := memRead_write_same_from m 0 a v h

/-- Bytes written from an address leave every byte outside their range alone. -/
theorem memRead_writeBytes_out {d : Byte} (m : List (Nat × Byte)) (a b : Nat) (bs : List Byte) (h : b < a ∨ a + bs.length ≤ b) :
    memRead d (memWriteBytes d m a bs) b = memRead d m b := by
  induction bs generalizing m a with
  | nil => rfl
  | cons x xs ih =>
    simp only [memWriteBytes, List.length_cons] at *
    rw [ih _ _ (by omega), memRead_write_ne _ _ (by omega)]

/-! ### Updates of one group -/

theorem mems_of {s t : State} (h : s.memoriesWf = true) (h1 : t.chart.mem = s.chart.mem) (h2 : t.mbx.buf = s.mbx.buf) (h3 : t.flash = s.flash) :
    t.memoriesWf = true := by
  simp only [State.memoriesWf, h1, h2, h3] at *
  exact h

theorem setRegs_kept {v : Map Word} (h : Kept k s) : Kept k (s.setRegs v) := ⟨h.1, h.2, h.3, h.4, h.5, h.6, h.7, h.8, h.9⟩
theorem setHelm_kept {v : Helm} (h : Kept k s) : Kept k (s.setHelm v) := ⟨h.1, h.2, h.3, h.4, h.5, h.6, h.7, h.8, h.9⟩
theorem setCmds_kept {v : List Cmd} (h : Kept k s) : Kept k (s.setCmds v) := ⟨h.1, h.2, h.3, h.4, h.5, h.6, h.7, h.8, h.9⟩
theorem setRuns_kept {v : List Run} (h : Kept k s) : Kept k (s.setRuns v) := ⟨h.1, h.2, h.3, h.4, h.5, h.6, h.7, h.8, h.9⟩
theorem setBatches_kept {v : List Batch} (h : Kept k s) : Kept k (s.setBatches v) := ⟨h.1, h.2, h.3, h.4, h.5, h.6, h.7, h.8, h.9⟩
theorem setRose_kept {v : Rose} (h : Kept k s) : Kept k (s.setRose v) := ⟨h.1, h.2, h.3, h.4, h.5, h.6, h.7, h.8, h.9⟩
theorem setLog_kept {v : LogSt} (h : Kept k s) : Kept k (s.setLog v) := ⟨h.1, h.2, h.3, h.4, h.5, h.6, h.7, h.8, h.9⟩
theorem setMs_kept {v : MerSt} (h : Kept k s) : Kept k (s.setMs v) := ⟨h.1, h.2, h.3, h.4, h.5, h.6, h.7, h.8, h.9⟩
theorem setStreams_kept {v : Map Stream} (h : Kept k s) : Kept k (s.setStreams v) := ⟨h.1, h.2, h.3, h.4, h.5, h.6, h.7, h.8, h.9⟩
theorem setCsi_kept {v : List CsiTx} (h : Kept k s) : Kept k (s.setCsi v) := ⟨h.1, h.2, h.3, h.4, h.5, h.6, h.7, h.8, h.9⟩
theorem setFleet_kept {v : Fleet} (h : Kept k s) : Kept k (s.setFleet v) := ⟨h.1, h.2, h.3, h.4, h.5, h.6, h.7, h.8, h.9⟩
theorem setFns_kept {v : List Fn} (h : Kept k s) : Kept k (s.setFns v) := ⟨h.1, h.2, h.3, h.4, h.5, h.6, h.7, h.8, h.9⟩
theorem setMsix_kept {v : Map MsixEnt} (h : Kept k s) : Kept k (s.setMsix v) := ⟨h.1, h.2, h.3, h.4, h.5, h.6, h.7, h.8, h.9⟩
theorem setPci_kept {v : Pci} (h : Kept k s) : Kept k (s.setPci v) := ⟨h.1, h.2, h.3, h.4, h.5, h.6, h.7, h.8, h.9⟩
theorem setI3c_kept {v : I3cSt} (h : Kept k s) : Kept k (s.setI3c v) := ⟨h.1, h.2, h.3, h.4, h.5, h.6, h.7, h.8, h.9⟩
theorem setPel_kept {v : Pel} (h : Kept k s) : Kept k (s.setPel v) := ⟨h.1, h.2, h.3, h.4, h.5, h.6, h.7, h.8, h.9⟩
theorem setOut_kept {v : List Output} (h : Kept k s) : Kept k (s.setOut v) := ⟨h.1, h.2, h.3, h.4, h.5, h.6, h.7, h.8, h.9⟩
theorem setFree_kept {v : Nat} (h : Kept k s) : Kept k (s.setFree v) := ⟨h.1, h.2, h.3, h.4, h.5, h.6, h.7, h.8, h.9⟩

/-- Clocks: Meridian time and the AK count untouched. -/
theorem setClk_kept {v : Clk} (h : Kept k s) (h1 : v.mer = s.clk.mer) (h2 : v.chipAk = s.clk.chipAk) : Kept k (s.setClk v) :=
  ⟨h.1, h.2, h.3, h.4, fun x hx => ⟨h1.trans (h.5 x hx).1, h2.trans (h.5 x hx).2⟩, h.6, h.7, h.8, h.9⟩

/-- Clocks, where time is not held fixed. -/
theorem setClk_kept_free {v : Clk} (h : Kept k s) (ht : k.time = none) : Kept k (s.setClk v) :=
  ⟨h.1, h.2, h.3, h.4, fun x hx => absurd (ht.symm.trans hx) (by simp), h.6, h.7, h.8, h.9⟩

/-- Chart memory: a change beside the bytes. -/
theorem setChart_kept {v : ChartSt} (h : Kept k s) (h1 : v.mem = s.chart.mem) : Kept k (s.setChart v) :=
  ⟨h.1, fun hi => mems_of (h.2 hi) h1 rfl rfl, h.3, h.4, h.5, h.6, h.7, h.8, h.9⟩

/-- Chart memory: bytes in canonical form. -/
theorem setChart_kept_mem {v : ChartSt} (h : Kept k s) (h1 : memWf 0#8 s.chart.mem = true → memWf 0#8 v.mem = true) : Kept k (s.setChart v) := by
  refine ⟨h.1, fun hi => ?_, h.3, h.4, h.5, h.6, h.7, h.8, h.9⟩
  have := h.2 hi
  simp only [State.memoriesWf, State.setChart, Bool.and_eq_true] at *
  exact ⟨⟨⟨h1 this.1.1.1, this.1.1.2⟩, this.1.2⟩, this.2⟩

/-- The mailbox: bytes in canonical form. -/
theorem setMbx_kept {v : Mbx} (h : Kept k s) (h1 : memWf 0#8 s.mbx.buf = true → memWf 0#8 v.buf = true) : Kept k (s.setMbx v) := by
  refine ⟨h.1, fun hi => ?_, h.3, h.4, h.5, h.6, h.7, h.8, h.9⟩
  have := h.2 hi
  simp only [State.memoriesWf, State.setMbx, Bool.and_eq_true] at *
  exact ⟨⟨⟨this.1.1.1, h1 this.1.1.2⟩, this.1.2⟩, this.2⟩

/-- The flash, where it is not held fixed. -/
theorem setFlash_kept {v : Flash} (h : Kept k s) (hf : k.flash = none) (h1 : memWf 0xFF#8 s.flash.fw = true → memWf 0xFF#8 v.fw = true)
    (h2 : memWf 0xFF#8 s.flash.cfg = true → memWf 0xFF#8 v.cfg = true) : Kept k (s.setFlash v) := by
  refine ⟨h.1, fun hi => ?_, h.3, fun x hx => absurd (hf.symm.trans hx) (by simp), h.5, h.6, h.7, h.8, h.9⟩
  have := h.2 hi
  simp only [State.memoriesWf, State.setFlash, Bool.and_eq_true] at *
  exact ⟨⟨this.1.1, h1 this.1.2⟩, h2 this.2⟩

/-- The Binnacle: the safe state and SAFE_N untouched. -/
theorem setBin_kept {v : Bin} (h : Kept k s) (h1 : v.safe = s.bin.safe) (h2 : v.safeN = s.bin.safeN) : Kept k (s.setBin v) :=
  ⟨h.1, h.2, fun hi hx => by have := h.3 hi (h2.symm.trans hx); exact ⟨h1.trans this.1, this.2⟩, h.4, h.5, h.6, fun hc => h1.trans (h.7 hc), h.8,
   fun hh => h1.trans (h.9 hh)⟩

/-- The Binnacle enters the safe state: SAFE_N goes low. -/
theorem setBin_kept_low {v : Bin} (h : Kept k s) (h1 : v.safeN = false) (h2 : k.calm = false) (h3 : v.safe = true) : Kept k (s.setBin v) :=
  ⟨h.1, h.2, fun _ hx => absurd (h1.symm.trans hx) (by simp), h.4, h.5, h.6, fun hc => absurd (h2.symm.trans hc) (by simp), h.8, fun _ => h3⟩

/-- Power-up: STATE untouched. -/
theorem setBoot_kept {v : Boot} (h : Kept k s) (hb : k.boot = none) (h1 : v.state = s.boot.state) : Kept k (s.setBoot v) :=
  ⟨h.1, h.2, fun hi hx => by have := h.3 hi hx; exact ⟨this.1, by simpa [State.setBoot, h1] using this.2⟩, h.4, h.5,
   fun x hx => absurd (hb.symm.trans hx) (by simp), h.7, fun hu => by simpa [State.setBoot, h1] using h.8 hu, h.9⟩

/-- The Binnacle: out of the safe state, SAFE_N untouched. -/
theorem setBin_kept_off {v : Bin} (h : Kept k s) (hh : k.held = false) (h1 : v.safe = false) (h2 : v.safeN = s.bin.safeN) : Kept k (s.setBin v) :=
  ⟨h.1, h.2, fun hi hx => ⟨h1, (h.3 hi (h2.symm.trans hx)).2⟩, h.4, h.5, h.6, fun _ => h1, h.8, fun hc => absurd (hh.symm.trans hc) (by simp)⟩

/-- The Binnacle: SAFE_N goes high at READY or in a warm reset, out of the safe state. -/
theorem setBin_kept_high {v : Bin} (h : Kept k s) (hc : k.calm = true) (hu : k.up = true) (h1 : v.safe = s.bin.safe) : Kept k (s.setBin v) :=
  ⟨h.1, h.2, fun _ _ => ⟨h1.trans (h.7 hc), h.8 hu⟩, h.4, h.5, h.6, fun _ => h1.trans (h.7 hc), h.8, fun hh => h1.trans (h.9 hh)⟩

/-- Power-up: STATE becomes READY or the warm reset. -/
theorem setBoot_kept_run {v : Boot} (h : Kept k s) (hb : k.boot = none) (h1 : v.state = 1 ∨ v.state = 3) : Kept k (s.setBoot v) :=
  ⟨h.1, h.2, fun hi hx => ⟨(h.3 hi hx).1, h1⟩, h.4, h.5, fun x hx => absurd (hb.symm.trans hx) (by simp), h.7, fun _ => h1, h.9⟩

/-- STATE becomes anything while SAFE_N goes low. -/
theorem setBootBin_kept {v : Boot} {w : Bin} (h : Kept k s) (hb : k.boot = none) (hu : k.up = false) (h1 : w.safe = s.bin.safe)
    (h2 : w.safeN = false) : Kept k ((s.setBoot v).setBin w) :=
  ⟨h.1, h.2, fun _ hx => absurd (h2.symm.trans hx) (by simp), h.4, h.5, fun x hx => absurd (hb.symm.trans hx) (by simp),
   fun hc => h1.trans (h.7 hc), fun hx => absurd (hu.symm.trans hx) (by simp), fun hh => h1.trans (h.9 hh)⟩

/-- What is held fixed may be less. -/
theorem kept_weaken {k' : Keep} (h : Kept k' s) (h1 : k'.pending = k.pending) (h2 : k'.flash = k.flash) (h3 : k'.time = k.time)
    (h4 : k'.boot = k.boot) (h5 : k.calm = true → k'.calm = true) (h6 : k.up = true → k'.up = true) (h7 : k'.inv = k.inv)
    (h8 : k'.held = k.held) : Kept k s :=
  ⟨h.1.trans h1, fun hi => h.2 (h7.trans hi), fun hi => h.3 (h7.trans hi), fun x hx => h.4 x (h2.trans hx), fun x hx => h.5 x (h3.trans hx),
   fun x hx => h.6 x (h4.trans hx), fun hc => h.7 (h5 hc), fun hu => h.8 (h6 hu), fun hh => h.9 (h8.trans hh)⟩

/-- What a state holds may be held fixed too. -/
theorem kept_strengthen {c u : Bool} (h : Kept k s) (h1 : c = true → s.bin.safe = false) (h2 : u = true → s.boot.state = 1 ∨ s.boot.state = 3) :
    Kept { k with calm := c, up := u } s := ⟨h.1, h.2, h.3, h.4, h.5, h.6, h1, h2, h.9⟩

end Sys2Proof.Laws
end

