-- ==== Sys2Proof/Laws/KeptOps.lean ====
section
/-! SUPPORT. What the operations of Machine/Ops.lean keep (Laws/Kept.lean). -/

namespace Sys2Proof.Laws
open Sys2Proof Sys2Proof.Machine

set_option linter.unusedTactic false
set_option linter.unreachableTactic false
set_option linter.unusedVariables false

variable {K : Keep}

theorem regPut_kept (s : State) (copy off v : Nat) (hK : Kept K s) : Kept K (regPut s copy off v) := by
  unfold regPut
  repeat' first
    | with_reducible assumption
    | with_reducible apply kept_ite
    | with_reducible apply setRegs_kept
    | split
    | dsimp only

theorem rput_kept (s : State) (off v : Nat) (hK : Kept K s) : Kept K (rput s off v) := by
  unfold rput
  repeat' first
    | with_reducible assumption
    | with_reducible apply kept_ite
    | with_reducible apply regPut_kept
    | split
    | dsimp only

theorem rflag_kept (s : State) (off i : Nat) (hK : Kept K s) : Kept K (rflag s off i) := by
  unfold rflag
  repeat' first
    | with_reducible assumption
    | with_reducible apply kept_ite
    | with_reducible apply rput_kept
    | split
    | dsimp only

theorem rcount_kept (s : State) (off hi lo n : Nat) (hK : Kept K s) : Kept K (rcount s off hi lo n) := by
  unfold rcount
  repeat' first
    | with_reducible assumption
    | with_reducible apply kept_ite
    | with_reducible apply rput_kept
    | split
    | dsimp only

theorem gcount_kept (s : State) (id n : Nat) (hK : Kept K s) : Kept K (gcount s id n) := by
  unfold gcount
  repeat' first
    | with_reducible assumption
    | with_reducible apply kept_ite
    | with_reducible apply setPel_kept
    | split
    | dsimp only

theorem ccount_kept (s : State) (ctx id n : Nat) (hK : Kept K s) : Kept K (ccount s ctx id n) := by
  unfold ccount
  repeat' first
    | with_reducible assumption
    | with_reducible apply kept_ite
    | with_reducible apply setPel_kept
    | split
    | dsimp only

theorem ccounts_kept (s : State) (ctx : Nat) (y0 : List (Nat × Nat)) (hK : Kept K s) : Kept K (ccounts s ctx y0) := by
  fun_induction ccounts s ctx y0
  all_goals repeat' first
    | with_reducible assumption
    | with_reducible apply kept_ite
    | with_reducible apply ccount_kept
    | with_reducible apply_assumption
    | split
    | dsimp +zetaDelta only

theorem trace_kept (s : State) (r : TraceRec) (hK : Kept K s) : Kept K (trace s r) := by
  unfold trace
  repeat' first
    | with_reducible assumption
    | with_reducible apply kept_ite
    | with_reducible apply rcount_kept
    | with_reducible apply setPel_kept
    | split
    | dsimp only

theorem traceCmd_kept (s : State) (kind flags unitNo : Nat) (k : CmdKey) (ak arg0 arg1 : Nat) (hK : Kept K s) : Kept K (traceCmd s kind flags unitNo k ak arg0 arg1) := by
  unfold traceCmd
  repeat' first
    | with_reducible assumption
    | with_reducible apply kept_ite
    | with_reducible apply trace_kept
    | split
    | dsimp only

theorem pcieIn_kept (s : State) (n : Nat) (hK : Kept K s) : Kept K (pcieIn s n) := by
  unfold pcieIn
  repeat' first
    | with_reducible assumption
    | with_reducible apply kept_ite
    | with_reducible apply gcount_kept
    | split
    | dsimp only

theorem emit_kept (s : State) (o : Output) (hK : Kept K s) : Kept K (emit s o) := by
  unfold emit
  repeat' first
    | with_reducible assumption
    | with_reducible apply kept_ite
    | with_reducible apply gcount_kept
    | with_reducible apply setOut_kept
    | split
    | dsimp only

theorem raiseMsix_kept (s : State) (f e : Nat) (hK : Kept K s) : Kept K (raiseMsix s f e) := by
  unfold raiseMsix
  repeat' first
    | with_reducible assumption
    | with_reducible apply kept_ite
    | with_reducible apply setMsix_kept
    | with_reducible apply emit_kept
    | split
    | dsimp only

theorem raiseIbi_kept (s : State) (kind payload : Nat) (hK : Kept K s) : Kept K (raiseIbi s kind payload) := by
  unfold raiseIbi
  repeat' first
    | with_reducible assumption
    | with_reducible apply kept_ite
    | with_reducible apply setI3c_kept
    | with_reducible apply emit_kept
    | split
    | dsimp only

theorem reportClass_kept (s : State) (cls : Nat) (index : Option Nat) (hK : Kept K s) : Kept K (reportClass s cls index) := by
  unfold reportClass
  repeat' first
    | with_reducible assumption
    | with_reducible apply kept_ite
    | with_reducible apply rflag_kept
    | with_reducible apply rput_kept
    | ((with_reducible apply setBin_kept); rotate_left; exact rfl; exact rfl)
    | with_reducible apply raiseMsix_kept
    | with_reducible apply raiseIbi_kept
    | split
    | dsimp only

theorem logEvent_kept (s : State) (e : Event) (hK : Kept K s) : Kept K (logEvent s e) := by
  unfold logEvent
  repeat' first
    | with_reducible assumption
    | with_reducible apply kept_ite
    | with_reducible apply gcount_kept
    | with_reducible apply setLog_kept
    | split
    | dsimp only

theorem raiseEvent_kept (s : State) (a : EvArg) (hK : Kept K s) : Kept K (raiseEvent s a) := by
  unfold raiseEvent
  repeat' first
    | with_reducible assumption
    | with_reducible apply kept_ite
    | with_reducible apply reportClass_kept
    | with_reducible apply logEvent_kept
    | split
    | dsimp only

theorem raiseNotice_kept (s : State) (src : Nat) (always : Bool) (a : EvArg) (hK : Kept K s) : Kept K (raiseNotice s src always a) := by
  unfold raiseNotice
  repeat' first
    | with_reducible assumption
    | with_reducible apply kept_ite
    | with_reducible apply setLog_kept
    | with_reducible apply reportClass_kept
    | with_reducible apply logEvent_kept
    | split
    | dsimp only

theorem setRing_kept (s : State) (ctx ring : Nat) (r : Ring) (hK : Kept K s) : Kept K (setRing s ctx ring r) := by
  unfold setRing
  repeat' first
    | with_reducible assumption
    | with_reducible apply kept_ite
    | with_reducible apply setHelm_kept
    | split
    | dsimp only

theorem putCmd_kept (s : State) (c : Cmd) (hK : Kept K s) : Kept K (putCmd s c) := by
  unfold putCmd
  repeat' first
    | with_reducible assumption
    | with_reducible apply kept_ite
    | with_reducible apply setCmds_kept
    | split
    | dsimp only

theorem dropCmd_kept (s : State) (k : CmdKey) (hK : Kept K s) : Kept K (dropCmd s k) := by
  unfold dropCmd
  repeat' first
    | with_reducible assumption
    | with_reducible apply kept_ite
    | with_reducible apply setCmds_kept
    | split
    | dsimp only

theorem putRun_kept (s : State) (r : Run) (hK : Kept K s) : Kept K (putRun s r) := by
  unfold putRun
  repeat' first
    | with_reducible assumption
    | with_reducible apply kept_ite
    | with_reducible apply setRuns_kept
    | split
    | dsimp only

theorem dropRun_kept (s : State) (k : CmdKey) (hK : Kept K s) : Kept K (dropRun s k) := by
  unfold dropRun
  repeat' first
    | with_reducible assumption
    | with_reducible apply kept_ite
    | with_reducible apply setRuns_kept
    | split
    | dsimp only

theorem setHdg_kept (s : State) (h : Nat) (e : Hdg) (hK : Kept K s) : Kept K (setHdg s h e) := by
  unfold setHdg
  repeat' first
    | with_reducible assumption
    | with_reducible apply kept_ite
    | with_reducible apply setHelm_kept
    | with_reducible apply setLog_kept
    | split
    | dsimp only

theorem setHdgState_kept (s : State) (h st : Nat) (hK : Kept K s) : Kept K (setHdgState s h st) := by
  unfold setHdgState
  repeat' first
    | with_reducible assumption
    | with_reducible apply kept_ite
    | with_reducible apply setHelm_kept
    | split
    | dsimp only

end Sys2Proof.Laws
end

