-- ==== Sys2Proof/Laws/KeptWindows.lean ====
section
/-! SUPPORT. What the operations of Machine/Windows.lean keep (Laws/Kept.lean). -/

namespace Sys2Proof.Laws
open Sys2Proof Sys2Proof.Machine

set_option linter.unusedTactic false
set_option linter.unreachableTactic false
set_option linter.unusedVariables false

variable {K : Keep}

theorem setWin_kept (s : State) (i : Nat) (w : Window) (hK : Kept K s) : Kept K (setWin s i w) := by
  unfold setWin
  repeat' first
    | with_reducible assumption
    | with_reducible apply kept_ite
    | ((with_reducible apply setChart_kept); rotate_left; exact rfl)
    | ((with_reducible apply setChart_kept_mem); rotate_left; first | exact memWf_writeBytes _ _ | exact memWf_clear _ _ | exact memWf_filter _)
    | split
    | dsimp only

theorem openWin_kept (s : State) (i : Nat) (w : Window) (hK : Kept K s) : Kept K (openWin s i w) := by
  unfold openWin
  repeat' first
    | with_reducible assumption
    | with_reducible apply kept_ite
    | with_reducible apply setWin_kept
    | split
    | dsimp only

theorem closeWin_kept (s : State) (i : Nat) (hK : Kept K s) : Kept K (closeWin s i) := by
  unfold closeWin
  repeat' first
    | with_reducible assumption
    | with_reducible apply kept_ite
    | with_reducible apply setWin_kept
    | split
    | dsimp only

theorem closeWins_kept (s : State) (y0 : List Nat) (hK : Kept K s) : Kept K (closeWins s y0) := by
  fun_induction closeWins s y0
  all_goals repeat' first
    | with_reducible assumption
    | with_reducible apply kept_ite
    | with_reducible apply closeWin_kept
    | with_reducible apply_assumption
    | split
    | dsimp +zetaDelta only

theorem doWindowOpen_kept (s : State) (win : Nat) (hK : Kept K s) : Kept K (doWindowOpen s win) := by
  unfold doWindowOpen
  repeat' first
    | with_reducible assumption
    | with_reducible apply kept_ite
    | with_reducible apply rflag_kept
    | with_reducible apply openWin_kept
    | split
    | dsimp only

theorem doWindowClose_kept (s : State) (win : Nat) (hK : Kept K s) : Kept K (doWindowClose s win) := by
  unfold doWindowClose
  repeat' first
    | with_reducible assumption
    | with_reducible apply kept_ite
    | with_reducible apply closeWin_kept
    | split
    | dsimp only

theorem doWindowExpiry_kept (s : State) (win : Nat) (hK : Kept K s) : Kept K (doWindowExpiry s win) := by
  unfold doWindowExpiry
  repeat' first
    | with_reducible assumption
    | with_reducible apply kept_ite
    | with_reducible apply closeWin_kept
    | split
    | dsimp only

theorem doWindowDescriptorWrite_kept (s : State) (win word : Nat) (v : Word) (hK : Kept K s) : Kept K (doWindowDescriptorWrite s win word v) := by
  unfold doWindowDescriptorWrite
  repeat' first
    | with_reducible assumption
    | with_reducible apply kept_ite
    | with_reducible apply rflag_kept
    | with_reducible apply setWin_kept
    | split
    | dsimp only

theorem countRefused_kept (s : State) (row : Nat) (hK : Kept K s) : Kept K (countRefused s row) := by
  unfold countRefused
  repeat' first
    | with_reducible assumption
    | with_reducible apply kept_ite
    | with_reducible apply setWin_kept
    | with_reducible apply gcount_kept
    | with_reducible apply rflag_kept
    | split
    | dsimp only

theorem chartPut_kept (s : State) (a : Nat) (bs : List Byte) (hK : Kept K s) : Kept K (chartPut s a bs) := by
  unfold chartPut
  repeat' first
    | with_reducible assumption
    | with_reducible apply kept_ite
    | ((with_reducible apply setChart_kept); rotate_left; exact rfl)
    | ((with_reducible apply setChart_kept_mem); rotate_left; first | exact memWf_writeBytes _ _ | exact memWf_clear _ _ | exact memWf_filter _)
    | split
    | dsimp only

theorem chartClear_kept (s : State) (lo hi : Nat) (hK : Kept K s) : Kept K (chartClear s lo hi) := by
  unfold chartClear
  repeat' first
    | with_reducible assumption
    | with_reducible apply kept_ite
    | ((with_reducible apply setChart_kept); rotate_left; exact rfl)
    | ((with_reducible apply setChart_kept_mem); rotate_left; first | exact memWf_writeBytes _ _ | exact memWf_clear _ _ | exact memWf_filter _)
    | split
    | dsimp only

theorem countChartWr_kept (s : State) (a n : Nat) (hK : Kept K s) : Kept K (countChartWr s a n) := by
  unfold countChartWr
  repeat' first
    | with_reducible assumption
    | with_reducible apply kept_ite
    | with_reducible apply gcount_kept
    | split
    | dsimp only

theorem countChartRd_kept (s : State) (a n : Nat) (hK : Kept K s) : Kept K (countChartRd s a n) := by
  unfold countChartRd
  repeat' first
    | with_reducible assumption
    | with_reducible apply kept_ite
    | with_reducible apply gcount_kept
    | split
    | dsimp only

theorem admitBytes_kept (s : State) (a writer latency : Nat) (data : List Byte) (hK : Kept K s) : Kept K (admitBytes s a writer latency data) := by
  unfold admitBytes
  repeat' first
    | with_reducible assumption
    | with_reducible apply kept_ite
    | ((with_reducible apply setChart_kept); rotate_left; exact rfl)
    | ((with_reducible apply setChart_kept_mem); rotate_left; first | exact memWf_writeBytes _ _ | exact memWf_clear _ _ | exact memWf_filter _)
    | split
    | dsimp only

theorem admitRow_kept (s : State) (row writer : Nat) (data : List Byte) (hK : Kept K s) : Kept K (admitRow s row writer data) := by
  unfold admitRow
  repeat' first
    | with_reducible assumption
    | with_reducible apply kept_ite
    | with_reducible apply admitBytes_kept
    | split
    | dsimp only

theorem landOne_kept (x : State × List Nat × List Admitted) (w : Admitted) (hK : Kept K x.1) : Kept K (landOne x w).1 := by
  obtain ⟨s, taken, rest⟩ := x
  dsimp only [landOne]
  split
  · exact hK
  · exact countChartWr_kept _ _ _ (chartPut_kept _ _ _ hK)

theorem landRows_kept (s : State) (hK : Kept K s) : Kept K (landRows s) := by
  unfold landRows
  exact setChart_kept (kept_foldl_fst (p := (s, [], [])) hK (fun p x h => landOne_kept p x h)) rfl

theorem doAlmLinesWrite_kept (s : State) (b : Nat) (v : Word) (hK : Kept K s) : Kept K (doAlmLinesWrite s b v) := by
  unfold doAlmLinesWrite
  repeat' first
    | with_reducible assumption
    | with_reducible apply kept_ite
    | with_reducible apply rput_kept
    | split
    | dsimp only

theorem setOffReq_kept (s : State) (n : Nat) (on : Bool) (hK : Kept K s) : Kept K (setOffReq s n on) := by
  unfold setOffReq
  repeat' first
    | with_reducible assumption
    | with_reducible apply kept_ite
    | with_reducible apply rput_kept
    | split
    | dsimp only

theorem setBank_kept (s : State) (n : Nat) (b : Option BankState) (hK : Kept K s) : Kept K (setBank s n b) := by
  unfold setBank
  repeat' first
    | with_reducible assumption
    | with_reducible apply kept_ite
    | ((with_reducible apply setChart_kept); rotate_left; exact rfl)
    | ((with_reducible apply setChart_kept_mem); rotate_left; first | exact memWf_writeBytes _ _ | exact memWf_clear _ _ | exact memWf_filter _)
    | split
    | dsimp only

theorem closeOnBank_kept (s : State) (n : Nat) (hK : Kept K s) : Kept K (closeOnBank s n) := by
  unfold closeOnBank
  repeat' first
    | with_reducible assumption
    | with_reducible apply kept_ite
    | with_reducible apply closeWins_kept
    | split
    | dsimp only

theorem startPowerDown_kept (s : State) (n : Nat) (hK : Kept K s) : Kept K (startPowerDown s n) := by
  unfold startPowerDown
  repeat' first
    | with_reducible assumption
    | with_reducible apply kept_ite
    | with_reducible apply closeOnBank_kept
    | with_reducible apply setBank_kept
    | split
    | dsimp only

theorem doBankPowerDownRequest_kept (s : State) (n : Nat) (hK : Kept K s) : Kept K (doBankPowerDownRequest s n) := by
  unfold doBankPowerDownRequest
  repeat' first
    | with_reducible assumption
    | with_reducible apply kept_ite
    | with_reducible apply setOffReq_kept
    | with_reducible apply rflag_kept
    | with_reducible apply setBank_kept
    | with_reducible apply startPowerDown_kept
    | split
    | dsimp only

theorem doBankPowerDownStart_kept (s : State) (n : Nat) (hK : Kept K s) : Kept K (doBankPowerDownStart s n) := by
  unfold doBankPowerDownStart
  repeat' first
    | with_reducible assumption
    | with_reducible apply kept_ite
    | with_reducible apply startPowerDown_kept
    | split
    | dsimp only

theorem doBankDrainEnd_kept (s : State) (n : Nat) (hK : Kept K s) : Kept K (doBankDrainEnd s n) := by
  unfold doBankDrainEnd
  repeat' first
    | with_reducible assumption
    | with_reducible apply kept_ite
    | with_reducible apply setBank_kept
    | ((with_reducible apply setChart_kept); rotate_left; exact rfl)
    | ((with_reducible apply setChart_kept_mem); rotate_left; first | exact memWf_writeBytes _ _ | exact memWf_clear _ _ | exact memWf_filter _)
    | split
    | dsimp only

theorem doBankPowerRestore_kept (s : State) (n : Nat) (hK : Kept K s) : Kept K (doBankPowerRestore s n) := by
  unfold doBankPowerRestore
  repeat' first
    | with_reducible assumption
    | with_reducible apply kept_ite
    | with_reducible apply setOffReq_kept
    | with_reducible apply setBank_kept
    | split
    | dsimp only

theorem doBankZeroFillEnd_kept (s : State) (n : Nat) (hK : Kept K s) : Kept K (doBankZeroFillEnd s n) := by
  unfold doBankZeroFillEnd
  repeat' first
    | with_reducible assumption
    | with_reducible apply kept_ite
    | with_reducible apply setBank_kept
    | split
    | dsimp only

theorem eccCorrected_kept (s : State) (a : Nat) (hK : Kept K s) : Kept K (eccCorrected s a) := by
  unfold eccCorrected
  repeat' first
    | with_reducible assumption
    | with_reducible apply kept_ite
    | ((with_reducible apply setChart_kept); rotate_left; exact rfl)
    | ((with_reducible apply setChart_kept_mem); rotate_left; first | exact memWf_writeBytes _ _ | exact memWf_clear _ _ | exact memWf_filter _)
    | with_reducible apply gcount_kept
    | with_reducible apply raiseEvent_kept
    | split
    | dsimp only

theorem feedEcc_kept (s : State) (words : List Nat) (hK : Kept K s) : Kept K (feedEcc s words) := by
  unfold feedEcc
  repeat' first
    | with_reducible assumption
    | with_reducible apply kept_ite
    | with_reducible apply kept_foldl
    | with_reducible apply eccCorrected_kept
    | (intro _ _ _)
    | split
    | dsimp only

theorem doScrubRewrite_kept (s : State) (hK : Kept K s) : Kept K (doScrubRewrite s) := by
  unfold doScrubRewrite
  repeat' first
    | with_reducible assumption
    | with_reducible apply kept_ite
    | ((with_reducible apply setChart_kept); rotate_left; exact rfl)
    | ((with_reducible apply setChart_kept_mem); rotate_left; first | exact memWf_writeBytes _ _ | exact memWf_clear _ _ | exact memWf_filter _)
    | with_reducible apply countChartWr_kept
    | with_reducible apply chartPut_kept
    | split
    | dsimp only

theorem doScrubPeriod_kept (s : State) (covered : Bool) (hK : Kept K s) : Kept K (doScrubPeriod s covered) := by
  unfold doScrubPeriod
  repeat' first
    | with_reducible assumption
    | with_reducible apply kept_ite
    | ((with_reducible apply setChart_kept); rotate_left; exact rfl)
    | ((with_reducible apply setChart_kept_mem); rotate_left; first | exact memWf_writeBytes _ _ | exact memWf_clear _ _ | exact memWf_filter _)
    | with_reducible apply raiseNotice_kept
    | with_reducible apply gcount_kept
    | split
    | dsimp only

theorem doSectorGate_kept (s : State) (b : Nat) (hK : Kept K s) : Kept K (doSectorGate s b) := by
  unfold doSectorGate
  repeat' first
    | with_reducible assumption
    | with_reducible apply kept_ite
    | with_reducible apply closeWins_kept
    | ((with_reducible apply setChart_kept); rotate_left; exact rfl)
    | ((with_reducible apply setChart_kept_mem); rotate_left; first | exact memWf_writeBytes _ _ | exact memWf_clear _ _ | exact memWf_filter _)
    | ((with_reducible apply setClk_kept); rotate_left; exact rfl; exact rfl)
    | split
    | dsimp only

theorem doSectorRestart_kept (s : State) (b : Nat) (hK : Kept K s) : Kept K (doSectorRestart s b) := by
  unfold doSectorRestart
  repeat' first
    | with_reducible assumption
    | with_reducible apply kept_ite
    | ((with_reducible apply setClk_kept); rotate_left; exact rfl; exact rfl)
    | with_reducible apply trace_kept
    | split
    | dsimp only

theorem doDroopStretch_kept (s : State) (mv : Nat) (hK : Kept K s) : Kept K (doDroopStretch s mv) := by
  unfold doDroopStretch
  repeat' first
    | with_reducible assumption
    | with_reducible apply kept_ite
    | ((with_reducible apply setClk_kept); rotate_left; exact rfl; exact rfl)
    | split
    | dsimp only

end Sys2Proof.Laws
end

