-- ==== Sys2Proof/Laws/KeptRings.lean ====
section
/-! SUPPORT. What the operations of Machine/Rings.lean keep (Laws/Kept.lean). -/

namespace Sys2Proof.Laws
open Sys2Proof Sys2Proof.Machine

set_option linter.unusedTactic false
set_option linter.unreachableTactic false
set_option linter.unusedVariables false

variable {K : Keep}

theorem fileReq_kept (s : State) (c : Cmd) (r : CommitReq) (hK : Kept K s) : Kept K (fileReq s c r) := by
  unfold fileReq
  repeat' first
    | with_reducible assumption
    | with_reducible apply kept_ite
    | with_reducible apply putCmd_kept
    | with_reducible apply setHelm_kept
    | with_reducible apply setLog_kept
    | split
    | dsimp only

theorem fileStatus_kept (s : State) (c : Cmd) (status : Nat) (hK : Kept K s) : Kept K (fileStatus s c status) := by
  unfold fileStatus
  repeat' first
    | with_reducible assumption
    | with_reducible apply kept_ite
    | with_reducible apply fileReq_kept
    | split
    | dsimp only

theorem fileFieldError_kept (s : State) (c : Cmd) (off reason : Nat) (hK : Kept K s) : Kept K (fileFieldError s c off reason) := by
  unfold fileFieldError
  repeat' first
    | with_reducible assumption
    | with_reducible apply kept_ite
    | with_reducible apply fileReq_kept
    | split
    | dsimp only

theorem pumpN_kept (y0 : Nat) (y1 : State) (y2 : Nat) (y3 : Nat) (hK : Kept K y1) : Kept K (pumpN y0 y1 y2 y3) := by
  fun_induction pumpN y0 y1 y2 y3
  all_goals repeat' first
    | with_reducible assumption
    | with_reducible apply kept_ite
    | with_reducible apply setRing_kept
    | with_reducible apply emit_kept
    | with_reducible apply_assumption
    | split
    | dsimp +zetaDelta only

theorem pump_kept (s : State) (ctx ring : Nat) (hK : Kept K s) : Kept K (pump s ctx ring) := by
  unfold pump
  repeat' first
    | with_reducible assumption
    | with_reducible apply kept_ite
    | with_reducible apply pumpN_kept
    | split
    | dsimp only

theorem pumpCtx_kept (s : State) (ctx : Nat) (hK : Kept K s) : Kept K (pumpCtx s ctx) := by
  unfold pumpCtx
  repeat' first
    | with_reducible assumption
    | with_reducible apply kept_ite
    | with_reducible apply kept_foldl
    | with_reducible apply pump_kept
    | (intro _ _ _)
    | split
    | dsimp only

theorem raiseRing_kept (s : State) (ctx : Nat) (r : Ring) (hK : Kept K s) : Kept K (raiseRing s ctx r) := by
  unfold raiseRing
  repeat' first
    | with_reducible assumption
    | with_reducible apply kept_ite
    | with_reducible apply raiseMsix_kept
    | split
    | dsimp only

theorem doorbellAct_kept (s : State) (ctx ring : Nat) (tail : Word) (hK : Kept K s) : Kept K (doorbellAct s ctx ring tail) := by
  unfold doorbellAct
  repeat' first
    | with_reducible assumption
    | with_reducible apply kept_ite
    | with_reducible apply setRing_kept
    | with_reducible apply raiseNotice_kept
    | with_reducible apply raiseRing_kept
    | with_reducible apply pump_kept
    | split
    | dsimp only

theorem doDoorbell_kept (s : State) (fn page ring : Nat) (tail : Word) (ep : Bool) (hK : Kept K s) : Kept K (doDoorbell s fn page ring tail ep) := by
  unfold doDoorbell
  repeat' first
    | with_reducible assumption
    | with_reducible apply kept_ite
    | with_reducible apply setPci_kept
    | with_reducible apply pcieIn_kept
    | with_reducible apply setRing_kept
    | with_reducible apply doorbellAct_kept
    | split
    | dsimp only

theorem doRingEnable_kept (s : State) (fn page ring : Nat) (w : Word) (rec : Rec) (hK : Kept K s) : Kept K (doRingEnable s fn page ring w rec) := by
  unfold doRingEnable
  repeat' first
    | with_reducible assumption
    | with_reducible apply kept_ite
    | with_reducible apply pcieIn_kept
    | with_reducible apply setRing_kept
    | split
    | dsimp only

theorem doRingDisable_kept (s : State) (fn page ring : Nat) (w : Word) (hK : Kept K s) : Kept K (doRingDisable s fn page ring w) := by
  unfold doRingDisable
  repeat' first
    | with_reducible assumption
    | with_reducible apply kept_ite
    | with_reducible apply setRing_kept
    | with_reducible apply pcieIn_kept
    | split
    | dsimp only

theorem busyNamed_kept (s : State) (y0 : List Nat) (hK : Kept K s) : Kept K (busyNamed s y0) := by
  fun_induction busyNamed s y0
  all_goals repeat' first
    | with_reducible assumption
    | with_reducible apply kept_ite
    | with_reducible apply setHdgState_kept
    | with_reducible apply_assumption
    | split
    | dsimp +zetaDelta only

theorem settleAccepted_kept (s : State) (c : Cmd) (hK : Kept K s) : Kept K (settleAccepted s c) := by
  unfold settleAccepted
  repeat' first
    | with_reducible assumption
    | with_reducible apply kept_ite
    | with_reducible apply fileFieldError_kept
    | with_reducible apply busyNamed_kept
    | with_reducible apply fileReq_kept
    | with_reducible apply fileStatus_kept
    | split
    | dsimp only

theorem fetchFailed_kept (s : State) (ctx ring : Nat) (hK : Kept K s) : Kept K (fetchFailed s ctx ring) := by
  unfold fetchFailed
  repeat' first
    | with_reducible assumption
    | with_reducible apply kept_ite
    | with_reducible apply setRing_kept
    | with_reducible apply raiseNotice_kept
    | with_reducible apply raiseRing_kept
    | split
    | dsimp only

theorem freeDropped_kept (s : State) (k : CmdKey) (y0 : List Nat) (hK : Kept K s) : Kept K (freeDropped s k y0) := by
  fun_induction freeDropped s k y0
  all_goals repeat' first
    | with_reducible assumption
    | with_reducible apply kept_ite
    | with_reducible apply setHdgState_kept
    | with_reducible apply_assumption
    | split
    | dsimp +zetaDelta only

theorem acceptDesc_kept (s : State) (ctx ring : Nat) (d : Line) (hK : Kept K s) : Kept K (acceptDesc s ctx ring d) := by
  unfold acceptDesc
  repeat' first
    | with_reducible assumption
    | with_reducible apply kept_ite
    | with_reducible apply setRing_kept
    | with_reducible apply freeDropped_kept
    | with_reducible apply settleAccepted_kept
    | with_reducible apply putCmd_kept
    | with_reducible apply setCmds_kept
    | with_reducible apply setHelm_kept
    | split
    | dsimp only

theorem doDescriptorAccept_kept (s : State) (ctx ring badCopies : Nat) (res : FetchRes) (hK : Kept K s) : Kept K (doDescriptorAccept s ctx ring badCopies res) := by
  unfold doDescriptorAccept
  repeat' first
    | with_reducible assumption
    | with_reducible apply kept_ite
    | with_reducible apply raiseEvent_kept
    | with_reducible apply setHelm_kept
    | with_reducible apply fetchFailed_kept
    | with_reducible apply pump_kept
    | with_reducible apply acceptDesc_kept
    | with_reducible apply pcieIn_kept
    | split
    | dsimp only

theorem timeoutFetch_kept (s : State) (ctx ring : Nat) (hK : Kept K s) : Kept K (timeoutFetch s ctx ring) := by
  unfold timeoutFetch
  repeat' first
    | with_reducible assumption
    | with_reducible apply kept_ite
    | with_reducible apply fetchFailed_kept
    | split
    | dsimp only

end Sys2Proof.Laws
end

