-- ==== Sys2Proof/Laws/KeptPlace.lean ====
section
/-! SUPPORT. What the operations of Machine/Place.lean keep (Laws/Kept.lean). -/

namespace Sys2Proof.Laws
open Sys2Proof Sys2Proof.Machine

set_option linter.unusedTactic false
set_option linter.unreachableTactic false
set_option linter.unusedVariables false

variable {K : Keep}

theorem reserve_kept (s : State) (k : Nat) (y0 : List Nat) (hK : Kept K s) : Kept K (reserve s k y0) := by
  fun_induction reserve s k y0
  all_goals repeat' first
    | with_reducible assumption
    | with_reducible apply kept_ite
    | with_reducible apply setHelm_kept
    | with_reducible apply_assumption
    | split
    | dsimp +zetaDelta only

theorem unreserve_kept (s : State) (k : Nat) (y0 : List Nat) (hK : Kept K s) : Kept K (unreserve s k y0) := by
  fun_induction unreserve s k y0
  all_goals repeat' first
    | with_reducible assumption
    | with_reducible apply kept_ite
    | with_reducible apply setHelm_kept
    | with_reducible apply_assumption
    | split
    | dsimp +zetaDelta only

theorem noteWait_kept (s : State) (waited : Nat) (hK : Kept K s) : Kept K (noteWait s waited) := by
  unfold noteWait
  repeat' first
    | with_reducible assumption
    | with_reducible apply kept_ite
    | with_reducible apply rput_kept
    | with_reducible apply rcount_kept
    | split
    | dsimp only

end Sys2Proof.Laws
end

