-- ==== Sys2Proof/Laws/KeptKill.lean ====
section
/-! SUPPORT. What the operations of Machine/Kill.lean keep (Laws/Kept.lean). -/

namespace Sys2Proof.Laws
open Sys2Proof Sys2Proof.Machine

set_option linter.unusedTactic false
set_option linter.unreachableTactic false
set_option linter.unusedVariables false

variable {K : Keep}

theorem emptyKeys_kept (s : State) (p : Nat → Bool) (hK : Kept K s) : Kept K (emptyKeys s p) := by
  unfold emptyKeys
  repeat' first
    | with_reducible assumption
    | with_reducible apply kept_ite
    | with_reducible apply setRose_kept
    | split
    | dsimp only

theorem emptyFacets_kept (s : State) (fs : List Nat) (hK : Kept K s) : Kept K (emptyFacets s fs) := by
  unfold emptyFacets
  repeat' first
    | with_reducible assumption
    | with_reducible apply kept_ite
    | with_reducible apply emptyKeys_kept
    | split
    | dsimp only

theorem emptySlot_kept (s : State) (r : Run) (hK : Kept K s) : Kept K (emptySlot s r) := by
  unfold emptySlot
  repeat' first
    | with_reducible assumption
    | with_reducible apply kept_ite
    | with_reducible apply emptyKeys_kept
    | split
    | dsimp only

theorem emptyRun_kept (s : State) (r : Run) (hK : Kept K s) : Kept K (emptyRun s r) := by
  unfold emptyRun
  repeat' first
    | with_reducible assumption
    | with_reducible apply kept_ite
    | with_reducible apply emptySlot_kept
    | with_reducible apply emptyFacets_kept
    | split
    | dsimp only

theorem freeSlot_kept (s : State) (k : CmdKey) (hK : Kept K s) : Kept K (freeSlot s k) := by
  unfold freeSlot
  repeat' first
    | with_reducible assumption
    | with_reducible apply kept_ite
    | with_reducible apply setBatches_kept
    | split
    | dsimp only

theorem dropLive_kept (s : State) (org : Nat) (k : CmdKey) (hK : Kept K s) : Kept K (dropLive s org k) := by
  unfold dropLive
  repeat' first
    | with_reducible assumption
    | with_reducible apply kept_ite
    | with_reducible apply setPel_kept
    | split
    | dsimp only

theorem addBalance_kept (s : State) (ctx : Nat) (n : Int) (hK : Kept K s) : Kept K (addBalance s ctx n) := by
  unfold addBalance
  repeat' first
    | with_reducible assumption
    | with_reducible apply kept_ite
    | with_reducible apply setHelm_kept
    | split
    | dsimp only

theorem dropFrames_kept (s : State) (k : CmdKey) (hK : Kept K s) : Kept K (dropFrames s k) := by
  unfold dropFrames
  repeat' first
    | with_reducible assumption
    | with_reducible apply kept_ite
    | with_reducible apply setFleet_kept
    | split
    | dsimp only

theorem emitWatchHdr_kept (s : State) (w : Watch) (notReached killed : Bool) (copied : Nat) (hK : Kept K s) : Kept K (emitWatchHdr s w notReached killed copied) := by
  unfold emitWatchHdr
  repeat' first
    | with_reducible assumption
    | with_reducible apply kept_ite
    | with_reducible apply emit_kept
    | split
    | dsimp only

theorem killWatches_kept (s : State) (k : CmdKey) (hK : Kept K s) : Kept K (killWatches s k) := by
  unfold killWatches
  repeat' first
    | with_reducible assumption
    | with_reducible apply kept_ite
    | with_reducible apply kept_foldl
    | with_reducible apply emitWatchHdr_kept
    | with_reducible apply setPel_kept
    | (intro _ _ _)
    | split
    | dsimp only

theorem releaseRun_kept (s : State) (r : Run) (hK : Kept K s) : Kept K (releaseRun s r) := by
  unfold releaseRun
  repeat' first
    | with_reducible assumption
    | with_reducible apply kept_ite
    | with_reducible apply kept_foldl
    | with_reducible apply closeWins_kept
    | with_reducible apply emptyRun_kept
    | with_reducible apply freeSlot_kept
    | with_reducible apply unreserve_kept
    | with_reducible apply dropLive_kept
    | with_reducible apply dropFrames_kept
    | with_reducible apply dropRun_kept
    | (intro _ _ _)
    | split
    | dsimp only

theorem returnCmd_kept (s : State) (k : CmdKey) (charge : Nat) (ran : Bool) (hK : Kept K s) : Kept K (returnCmd s k charge ran) := by
  unfold returnCmd
  repeat' first
    | with_reducible assumption
    | with_reducible apply kept_ite
    | with_reducible apply putCmd_kept
    | split
    | dsimp only

theorem returnUnit_kept (s : State) (n : Nat) (hK : Kept K s) : Kept K (returnUnit s n) := by
  unfold returnUnit
  repeat' first
    | with_reducible assumption
    | with_reducible apply kept_ite
    | with_reducible apply setStreams_kept
    | split
    | dsimp only

theorem killRun_kept (s : State) (r : Run) (cause : Nat) (charged : Bool) (hK : Kept K s) : Kept K (killRun s r cause charged) := by
  unfold killRun
  repeat' first
    | with_reducible assumption
    | with_reducible apply kept_ite
    | with_reducible apply traceCmd_kept
    | with_reducible apply logEvent_kept
    | with_reducible apply killWatches_kept
    | with_reducible apply releaseRun_kept
    | with_reducible apply gcount_kept
    | with_reducible apply addBalance_kept
    | with_reducible apply returnUnit_kept
    | with_reducible apply returnCmd_kept
    | split
    | dsimp only

theorem killRuns_kept (s : State) (p : Run → Bool) (cause : Nat) (hK : Kept K s) : Kept K (killRuns s p cause) := by
  unfold killRuns
  repeat' first
    | with_reducible assumption
    | with_reducible apply kept_ite
    | with_reducible apply kept_foldl
    | with_reducible apply killRun_kept
    | (intro _ _ _)
    | split
    | dsimp only

theorem fileFault_kept (s : State) (c : Cmd) (idx : Nat) (hK : Kept K s) : Kept K (fileFault s c idx) := by
  unfold fileFault
  repeat' first
    | with_reducible assumption
    | with_reducible apply kept_ite
    | with_reducible apply fileReq_kept
    | split
    | dsimp only

theorem countFault_kept (s : State) (k : CmdKey) (avoid : List Nat) (idx : Nat) (hK : Kept K s) : Kept K (countFault s k avoid idx) := by
  unfold countFault
  repeat' first
    | with_reducible assumption
    | with_reducible apply kept_ite
    | with_reducible apply fileFault_kept
    | with_reducible apply putCmd_kept
    | split
    | dsimp only

theorem fileUnit_kept (s : State) (n : Nat) (r : CommitReq) (hK : Kept K s) : Kept K (fileUnit s n r) := by
  unfold fileUnit
  repeat' first
    | with_reducible assumption
    | with_reducible apply kept_ite
    | with_reducible apply setStreams_kept
    | with_reducible apply setHelm_kept
    | with_reducible apply setLog_kept
    | split
    | dsimp only

theorem faultKill_kept (s : State) (r : Run) (idx : Nat) (hK : Kept K s) : Kept K (faultKill s r idx) := by
  unfold faultKill
  repeat' first
    | with_reducible assumption
    | with_reducible apply kept_ite
    | with_reducible apply killRun_kept
    | with_reducible apply countFault_kept
    | with_reducible apply setStreams_kept
    | with_reducible apply fileUnit_kept
    | split
    | dsimp only

theorem jobFaultEvent_kept (s : State) (r : Run) (kind unitNo : Nat) (detail : List Byte) (hK : Kept K s) : Kept K (jobFaultEvent s r kind unitNo detail) := by
  unfold jobFaultEvent
  repeat' first
    | with_reducible assumption
    | with_reducible apply kept_ite
    | with_reducible apply raiseEvent_kept
    | split
    | dsimp only

theorem jobFault_kept (s : State) (r : Run) (kind unitNo : Nat) (detail : List Byte) (hK : Kept K s) : Kept K (jobFault s r kind unitNo detail) := by
  unfold jobFault
  repeat' first
    | with_reducible assumption
    | with_reducible apply kept_ite
    | with_reducible apply faultKill_kept
    | with_reducible apply jobFaultEvent_kept
    | split
    | dsimp only

theorem windowFault_kept (s : State) (r : Run) (row writer : Nat) (hK : Kept K s) : Kept K (windowFault s r row writer) := by
  unfold windowFault
  repeat' first
    | with_reducible assumption
    | with_reducible apply kept_ite
    | with_reducible apply jobFaultEvent_kept
    | with_reducible apply killRun_kept
    | with_reducible apply fileUnit_kept
    | with_reducible apply fileReq_kept
    | split
    | dsimp only

theorem commandFault_kept (s : State) (k : CmdKey) (detail : List Byte) (hK : Kept K s) : Kept K (commandFault s k detail) := by
  unfold commandFault
  repeat' first
    | with_reducible assumption
    | with_reducible apply kept_ite
    | with_reducible apply raiseEvent_kept
    | with_reducible apply faultKill_kept
    | with_reducible apply countFault_kept
    | with_reducible apply putCmd_kept
    | split
    | dsimp only

end Sys2Proof.Laws
end

