-- ==== Sys2Proof/Laws/KeptModels.lean ====
section
/-! SUPPORT. What the operations of Machine/Models.lean keep (Laws/Kept.lean). -/

namespace Sys2Proof.Laws
open Sys2Proof Sys2Proof.Machine

set_option linter.unusedTactic false
set_option linter.unreachableTactic false
set_option linter.unusedVariables false

variable {K : Keep}

theorem hostWrite_kept (s : State) (c : Cmd) (bs : List Byte) (hK : Kept K s) : Kept K (hostWrite s c bs) := by
  unfold hostWrite
  repeat' first
    | with_reducible assumption
    | with_reducible apply kept_ite
    | with_reducible apply emit_kept
    | split
    | dsimp only

theorem fileLoad_kept (s : State) (c : Cmd) (im : Image) (status written : Nat) (hK : Kept K s) : Kept K (fileLoad s c im status written) := by
  unfold fileLoad
  repeat' first
    | with_reducible assumption
    | with_reducible apply kept_ite
    | with_reducible apply fileReq_kept
    | split
    | dsimp only

theorem startLoad_kept (s : State) (c : Cmd) (im : Image) (hK : Kept K s) : Kept K (startLoad s c im) := by
  unfold startLoad
  repeat' first
    | with_reducible assumption
    | with_reducible apply kept_ite
    | with_reducible apply putCmd_kept
    | with_reducible apply pcieIn_kept
    | with_reducible apply setHelm_kept
    | with_reducible apply fileFieldError_kept
    | with_reducible apply fileLoad_kept
    | with_reducible apply hostWrite_kept
    | split
    | dsimp only

theorem setModel_kept (s : State) (n : Nat) (m : Model) (hK : Kept K s) : Kept K (setModel s n m) := by
  unfold setModel
  repeat' first
    | with_reducible assumption
    | with_reducible apply kept_ite
    | with_reducible apply setHelm_kept
    | split
    | dsimp only

theorem doFitCheck_kept (s : State) (hK : Kept K s) : Kept K (doFitCheck s) := by
  unfold doFitCheck
  repeat' first
    | with_reducible assumption
    | with_reducible apply kept_ite
    | with_reducible apply fileLoad_kept
    | with_reducible apply setModel_kept
    | with_reducible apply putCmd_kept
    | with_reducible apply hostWrite_kept
    | split
    | dsimp only

theorem writeItem_kept (s : State) (a : Nat) (data : List Byte) (hK : Kept K s) : Kept K (writeItem s a data) := by
  unfold writeItem
  repeat' first
    | with_reducible assumption
    | with_reducible apply kept_ite
    | with_reducible apply countChartWr_kept
    | with_reducible apply chartPut_kept
    | ((with_reducible apply setChart_kept); rotate_left; exact rfl)
    | ((with_reducible apply setChart_kept_mem); rotate_left; first | exact memWf_writeBytes _ _ | exact memWf_clear _ _ | exact memWf_filter _)
    | split
    | dsimp only

theorem writeItems_kept (s : State) (y0 : List (Nat × List Byte)) (hK : Kept K s) : Kept K (writeItems s y0) := by
  fun_induction writeItems s y0
  all_goals repeat' first
    | with_reducible assumption
    | with_reducible apply kept_ite
    | with_reducible apply writeItem_kept
    | with_reducible apply_assumption
    | split
    | dsimp +zetaDelta only

theorem finishLoad_kept (s : State) (c : Cmd) (im : Image) (n : Nat) (m : Model) (hK : Kept K s) : Kept K (finishLoad s c im n m) := by
  unfold finishLoad
  repeat' first
    | with_reducible assumption
    | with_reducible apply kept_ite
    | with_reducible apply writeItems_kept
    | with_reducible apply fileLoad_kept
    | with_reducible apply hostWrite_kept
    | split
    | dsimp only

theorem doLoadModel_kept (s : State) (k : CmdKey) (im : Image) (hK : Kept K s) : Kept K (doLoadModel s k im) := by
  unfold doLoadModel
  repeat' first
    | with_reducible assumption
    | with_reducible apply kept_ite
    | with_reducible apply startLoad_kept
    | with_reducible apply finishLoad_kept
    | split
    | dsimp only

theorem doUnloadModel_kept (s : State) (k : CmdKey) (hK : Kept K s) : Kept K (doUnloadModel s k) := by
  unfold doUnloadModel
  repeat' first
    | with_reducible assumption
    | with_reducible apply kept_ite
    | with_reducible apply fileStatus_kept
    | with_reducible apply putCmd_kept
    | split
    | dsimp only

theorem doUnloadComplete_kept (s : State) (k : CmdKey) (hK : Kept K s) : Kept K (doUnloadComplete s k) := by
  unfold doUnloadComplete
  repeat' first
    | with_reducible assumption
    | with_reducible apply kept_ite
    | with_reducible apply fileReq_kept
    | split
    | dsimp only

theorem freeEntries_kept (s : State) (first : Nat) (y0 : Nat) (hK : Kept K s) : Kept K (freeEntries s first y0) := by
  fun_induction freeEntries s first y0
  all_goals repeat' first
    | with_reducible assumption
    | with_reducible apply kept_ite
    | with_reducible apply setHdg_kept
    | with_reducible apply_assumption
    | split
    | dsimp +zetaDelta only

theorem bindEntries_kept (s : State) (n : Nat) (m : Model) (y0 : Nat) (hK : Kept K s) : Kept K (bindEntries s n m y0) := by
  fun_induction bindEntries s n m y0
  all_goals repeat' first
    | with_reducible assumption
    | with_reducible apply kept_ite
    | with_reducible apply setHdg_kept
    | with_reducible apply_assumption
    | split
    | dsimp +zetaDelta only

theorem commitLoad_kept (s : State) (n : Nat) (hK : Kept K s) : Kept K (commitLoad s n) := by
  unfold commitLoad
  repeat' first
    | with_reducible assumption
    | with_reducible apply kept_ite
    | with_reducible apply bindEntries_kept
    | with_reducible apply setModel_kept
    | split
    | dsimp only

theorem commitUnload_kept (s : State) (n : Nat) (hK : Kept K s) : Kept K (commitUnload s n) := by
  unfold commitUnload
  repeat' first
    | with_reducible assumption
    | with_reducible apply kept_ite
    | with_reducible apply freeEntries_kept
    | with_reducible apply setHelm_kept
    | split
    | dsimp only

end Sys2Proof.Laws
end

