-- ==== Sys2Proof/Laws/KeptCommands.lean ====
section
/-! SUPPORT. What the operations of Machine/Commands.lean keep (Laws/Kept.lean). -/

namespace Sys2Proof.Laws
open Sys2Proof Sys2Proof.Machine

set_option linter.unusedTactic false
set_option linter.unreachableTactic false
set_option linter.unusedVariables false

variable {K : Keep}

theorem takeSolve_kept (s : State) (k : CmdKey) (op : Nat) (hK : Kept K s) : Kept K (takeSolve s k op) := by
  unfold takeSolve
  repeat' first
    | with_reducible assumption
    | with_reducible apply kept_ite
    | with_reducible apply putCmd_kept
    | with_reducible apply emit_kept
    | split
    | dsimp only

theorem doSolve_kept (s : State) (k : CmdKey) (hK : Kept K s) : Kept K (doSolve s k) := by
  unfold doSolve
  repeat' first
    | with_reducible assumption
    | with_reducible apply kept_ite
    | with_reducible apply takeSolve_kept
    | split
    | dsimp only

theorem doSolveBatch_kept (s : State) (k : CmdKey) (hK : Kept K s) : Kept K (doSolveBatch s k) := by
  unfold doSolveBatch
  repeat' first
    | with_reducible assumption
    | with_reducible apply kept_ite
    | with_reducible apply takeSolve_kept
    | split
    | dsimp only

theorem doEstimate_kept (s : State) (k : CmdKey) (hK : Kept K s) : Kept K (doEstimate s k) := by
  unfold doEstimate
  repeat' first
    | with_reducible assumption
    | with_reducible apply kept_ite
    | with_reducible apply takeSolve_kept
    | split
    | dsimp only

theorem signalBeacon_kept (s : State) (b : Nat) (v : Word) (raise : Bool) (who : Nat) (seq : Word) (remote : Bool) (hK : Kept K s) : Kept K (signalBeacon s b v raise who seq remote) := by
  unfold signalBeacon
  repeat' first
    | with_reducible assumption
    | with_reducible apply kept_ite
    | with_reducible apply setHelm_kept
    | split
    | dsimp only

theorem commitSignal_kept (s : State) (k : CmdKey) (b : Nat) (v : Word) (raise : Bool) (hK : Kept K s) : Kept K (commitSignal s k b v raise) := by
  unfold commitSignal
  repeat' first
    | with_reducible assumption
    | with_reducible apply kept_ite
    | with_reducible apply traceCmd_kept
    | with_reducible apply signalBeacon_kept
    | split
    | dsimp only

theorem doBeaconWait_kept (s : State) (k : CmdKey) (hK : Kept K s) : Kept K (doBeaconWait s k) := by
  unfold doBeaconWait
  repeat' first
    | with_reducible assumption
    | with_reducible apply kept_ite
    | with_reducible apply traceCmd_kept
    | with_reducible apply putCmd_kept
    | split
    | dsimp only

theorem doBeaconWaitSatisfied_kept (s : State) (k : CmdKey) (hK : Kept K s) : Kept K (doBeaconWaitSatisfied s k) := by
  unfold doBeaconWaitSatisfied
  repeat' first
    | with_reducible assumption
    | with_reducible apply kept_ite
    | with_reducible apply traceCmd_kept
    | with_reducible apply fileReq_kept
    | split
    | dsimp only

theorem doBeaconWaitTimeout_kept (s : State) (k : CmdKey) (hK : Kept K s) : Kept K (doBeaconWaitTimeout s k) := by
  unfold doBeaconWaitTimeout
  repeat' first
    | with_reducible assumption
    | with_reducible apply kept_ite
    | with_reducible apply traceCmd_kept
    | with_reducible apply fileReq_kept
    | split
    | dsimp only

theorem doFence_kept (s : State) (k : CmdKey) (hK : Kept K s) : Kept K (doFence s k) := by
  unfold doFence
  repeat' first
    | with_reducible assumption
    | with_reducible apply kept_ite
    | with_reducible apply putCmd_kept
    | split
    | dsimp only

theorem doFenceComplete_kept (s : State) (k : CmdKey) (hK : Kept K s) : Kept K (doFenceComplete s k) := by
  unfold doFenceComplete
  repeat' first
    | with_reducible assumption
    | with_reducible apply kept_ite
    | with_reducible apply fileReq_kept
    | split
    | dsimp only

theorem doWatch_kept (s : State) (k : CmdKey) (hK : Kept K s) : Kept K (doWatch s k) := by
  unfold doWatch
  repeat' first
    | with_reducible assumption
    | with_reducible apply kept_ite
    | with_reducible apply emitWatchHdr_kept
    | with_reducible apply fileReq_kept
    | with_reducible apply setPel_kept
    | split
    | dsimp only

theorem putWatch_kept (s : State) (w : Watch) (hK : Kept K s) : Kept K (putWatch s w) := by
  unfold putWatch
  repeat' first
    | with_reducible assumption
    | with_reducible apply kept_ite
    | with_reducible apply setPel_kept
    | split
    | dsimp only

theorem watchPayload_kept (s : State) (w : Watch) (bs : List Byte) (hK : Kept K s) : Kept K (watchPayload s w bs) := by
  unfold watchPayload
  repeat' first
    | with_reducible assumption
    | with_reducible apply kept_ite
    | with_reducible apply emit_kept
    | split
    | dsimp only

theorem doWatchFire_kept (s : State) (k : CmdKey) (step org : Nat) (words : List Nat) (hK : Kept K s) : Kept K (doWatchFire s k step org words) := by
  unfold doWatchFire
  repeat' first
    | with_reducible assumption
    | with_reducible apply kept_ite
    | with_reducible apply feedEcc_kept
    | with_reducible apply putWatch_kept
    | with_reducible apply emitWatchHdr_kept
    | with_reducible apply watchPayload_kept
    | split
    | dsimp only

theorem endCopy_kept (s : State) (w : Watch) (n : Nat) (cut : Bool) (hK : Kept K s) : Kept K (endCopy s w n cut) := by
  unfold endCopy
  repeat' first
    | with_reducible assumption
    | with_reducible apply kept_ite
    | with_reducible apply putWatch_kept
    | with_reducible apply emitWatchHdr_kept
    | with_reducible apply watchPayload_kept
    | with_reducible apply countChartRd_kept
    | split
    | dsimp only

theorem doWatchCopyEnd_kept (s : State) (k : CmdKey) (words : List Nat) (lost : Option Nat) (hK : Kept K s) : Kept K (doWatchCopyEnd s k words lost) := by
  unfold doWatchCopyEnd
  repeat' first
    | with_reducible assumption
    | with_reducible apply kept_ite
    | with_reducible apply endCopy_kept
    | with_reducible apply feedEcc_kept
    | split
    | dsimp only

theorem doWatchTruncate_kept (s : State) (k : CmdKey) (n : Nat) (words : List Nat) (hK : Kept K s) : Kept K (doWatchTruncate s k n words) := by
  unfold doWatchTruncate
  repeat' first
    | with_reducible assumption
    | with_reducible apply kept_ite
    | with_reducible apply endCopy_kept
    | with_reducible apply feedEcc_kept
    | split
    | dsimp only

theorem expireWatches_kept (s : State) (k : CmdKey) (runs : Nat) (origin : Nat) (hK : Kept K s) : Kept K (expireWatches s k runs origin) := by
  unfold expireWatches
  repeat' first
    | with_reducible assumption
    | with_reducible apply kept_ite
    | with_reducible apply kept_foldl
    | with_reducible apply emitWatchHdr_kept
    | with_reducible apply setPel_kept
    | (intro _ _ _)
    | split
    | dsimp only

theorem doAttest_kept (s : State) (k : CmdKey) (hK : Kept K s) : Kept K (doAttest s k) := by
  unfold doAttest
  repeat' first
    | with_reducible assumption
    | with_reducible apply kept_ite
    | with_reducible apply fileReq_kept
    | with_reducible apply hostWrite_kept
    | with_reducible apply fileStatus_kept
    | split
    | dsimp only

end Sys2Proof.Laws
end

