-- ==== Sys2Proof/Laws/KeptSchedule.lean ====
section
/-! SUPPORT. What the operations of Machine/Schedule.lean keep (Laws/Kept.lean). -/

namespace Sys2Proof.Laws
open Sys2Proof Sys2Proof.Machine

set_option linter.unusedTactic false
set_option linter.unreachableTactic false
set_option linter.unusedVariables false

variable {K : Keep}

theorem snapshotStates_kept (s : State) (hK : Kept K s) : Kept K (snapshotStates s) := by
  unfold snapshotStates
  repeat' first
    | with_reducible assumption
    | with_reducible apply kept_ite
    | with_reducible apply setHelm_kept
    | split
    | dsimp only

theorem killUnit_kept (s : State) (bi : Nat) (u : BatchUnit) (cause : Nat) (hK : Kept K s) : Kept K (killUnit s bi u cause) := by
  unfold killUnit
  repeat' first
    | with_reducible assumption
    | with_reducible apply kept_ite
    | with_reducible apply kept_foldl
    | with_reducible apply killRun_kept
    | with_reducible apply emptyFacets_kept
    | with_reducible apply closeWins_kept
    | with_reducible apply setBatches_kept
    | (intro _ _ _)
    | split
    | dsimp only

theorem dropEmptyBatches_kept (s : State) (hK : Kept K s) : Kept K (dropEmptyBatches s) := by
  unfold dropEmptyBatches
  repeat' first
    | with_reducible assumption
    | with_reducible apply kept_ite
    | with_reducible apply setBatches_kept
    | split
    | dsimp only

theorem killBatches_kept (s : State) (p : Batch → Bool) (cause : Nat) (hK : Kept K s) : Kept K (killBatches s p cause) := by
  unfold killBatches
  repeat' first
    | with_reducible assumption
    | with_reducible apply kept_ite
    | with_reducible apply kept_foldl
    | with_reducible apply dropEmptyBatches_kept
    | with_reducible apply killUnit_kept
    | (intro _ _ _)
    | split
    | dsimp only

theorem evict_kept (s : State) (ctx : Nat) (hK : Kept K s) : Kept K (evict s ctx) := by
  unfold evict
  repeat' first
    | with_reducible assumption
    | with_reducible apply kept_ite
    | with_reducible apply kept_foldl
    | with_reducible apply killBatches_kept
    | with_reducible apply killRuns_kept
    | with_reducible apply emit_kept
    | with_reducible apply setRing_kept
    | with_reducible apply setHelm_kept
    | (intro _ _ _)
    | split
    | dsimp only

theorem doContextResidency_kept (s : State) (ctx : Nat) (block : Option (Int × Nat)) (hK : Kept K s) : Kept K (doContextResidency s ctx block) := by
  unfold doContextResidency
  repeat' first
    | with_reducible assumption
    | with_reducible apply kept_ite
    | with_reducible apply evict_kept
    | with_reducible apply raiseEvent_kept
    | with_reducible apply setHelm_kept
    | with_reducible apply pumpCtx_kept
    | split
    | dsimp only

theorem unplace_kept (s : State) (r : Run) (hK : Kept K s) : Kept K (unplace s r) := by
  unfold unplace
  repeat' first
    | with_reducible assumption
    | with_reducible apply kept_ite
    | with_reducible apply releaseRun_kept
    | with_reducible apply addBalance_kept
    | split
    | dsimp only

theorem fixLaunch_kept (s : State) (r : Run) (hK : Kept K s) : Kept K (fixLaunch s r) := by
  unfold fixLaunch
  repeat' first
    | with_reducible assumption
    | with_reducible apply kept_ite
    | with_reducible apply rcount_kept
    | with_reducible apply putCmd_kept
    | with_reducible apply fileStatus_kept
    | with_reducible apply unplace_kept
    | with_reducible apply noteWait_kept
    | with_reducible apply rput_kept
    | with_reducible apply reserve_kept
    | with_reducible apply putRun_kept
    | split
    | dsimp only

theorem doLadderRetry_kept (s : State) (k : CmdKey) (hK : Kept K s) : Kept K (doLadderRetry s k) := by
  unfold doLadderRetry
  repeat' first
    | with_reducible assumption
    | with_reducible apply kept_ite
    | with_reducible apply fixLaunch_kept
    | split
    | dsimp only

theorem writeInst_kept (s : State) (r : Run) (bs : List Byte) (off : Nat) (hK : Kept K s) : Kept K (writeInst s r bs off) := by
  unfold writeInst
  repeat' first
    | with_reducible assumption
    | with_reducible apply kept_ite
    | with_reducible apply kept_foldl
    | with_reducible apply countChartWr_kept
    | with_reducible apply chartPut_kept
    | (intro _ _ _)
    | split
    | dsimp only

theorem openWins_kept (s : State) (y0 : List (Nat × Window)) (hK : Kept K s) : Kept K (openWins s y0) := by
  fun_induction openWins s y0
  all_goals repeat' first
    | with_reducible assumption
    | with_reducible apply kept_ite
    | with_reducible apply openWin_kept
    | with_reducible apply_assumption
    | split
    | dsimp +zetaDelta only

theorem place_kept (s : State) (c : Cmd) (m : Nat) (r : Route) (p : Placement) (off : Option Nat) (hK : Kept K s) : Kept K (place s c m r p off) := by
  unfold place
  repeat' first
    | with_reducible assumption
    | with_reducible apply kept_ite
    | with_reducible apply putCmd_kept
    | with_reducible apply setRuns_kept
    | with_reducible apply openWins_kept
    | with_reducible apply addBalance_kept
    | with_reducible apply emit_kept
    | with_reducible apply fixLaunch_kept
    | split
    | dsimp only

theorem killFor_kept (s : State) (p : Placement) (hK : Kept K s) : Kept K (killFor s p) := by
  unfold killFor
  repeat' first
    | with_reducible assumption
    | with_reducible apply kept_ite
    | with_reducible apply kept_foldl
    | with_reducible apply killUnit_kept
    | with_reducible apply killRun_kept
    | with_reducible apply dropEmptyBatches_kept
    | (intro _ _ _)
    | split
    | dsimp only

theorem quotaPlacement_kept {s : State} {r : Route} {dual : Bool} {avoid : List Nat} {t : State} {p : Placement}
    (e : quotaPlacement s r dual avoid = some (t, p)) (hK : Kept K s) : Kept K t := by
  unfold quotaPlacement at e
  split at e
  · cases e
    exact hK
  · dsimp only at e
    split at e
    · cases e
    · simp only [Option.map_eq_some_iff, Prod.mk.injEq] at e
      obtain ⟨_, _, rfl, _⟩ := e
      exact killFor_kept _ _ hK

theorem tryQuota_kept (s : State) (k : CmdKey) (hK : Kept K s) : Kept K (tryQuota s k) := by
  unfold tryQuota
  repeat' first
    | with_reducible assumption
    | with_reducible apply kept_ite
    | with_reducible refine quotaPlacement_kept (by assumption) ?_
    | with_reducible apply place_kept
    | split
    | dsimp only

theorem rejectMissing_kept (s : State) (hK : Kept K s) : Kept K (rejectMissing s) := by
  unfold rejectMissing
  repeat' first
    | with_reducible assumption
    | with_reducible apply kept_ite
    | with_reducible apply kept_foldl
    | with_reducible apply fileStatus_kept
    | (intro _ _ _)
    | split
    | dsimp only

theorem softPlacement_kept {s : State} {c : Cmd} {r : Route} {t : State} {p : Placement}
    (e : softPlacement s c r = some (t, p)) (hK : Kept K s) : Kept K t := by
  unfold softPlacement at e
  split at e
  · cases e
    exact hK
  · split at e
    · cases e
    · split at e
      · cases e
      · simp only [Option.map_eq_some_iff, Prod.mk.injEq] at e
        obtain ⟨_, _, rfl, _⟩ := e
        exact kept_foldl hK (fun _ _ h => killRun_kept _ _ _ _ h)

theorem found_kept {s t : State} {p : Placement} {a b c : Bool} {o : Option Placement} {q : Option (State × Placement)}
    (e : (if a = true then none else if b = true then o.map (fun p => (s, p)) else if c = true then q else none) = some (t, p))
    (hq : q = some (t, p) → Kept K t) (hK : Kept K s) : Kept K t := by
  split at e
  · cases e
  · split at e
    · simp only [Option.map_eq_some_iff, Prod.mk.injEq] at e
      obtain ⟨_, _, rfl, _⟩ := e
      exact hK
    · split at e
      · exact hq e
      · cases e

theorem softLoop_keptp (y0 : Nat) (y1 : State) (y2 : Nat) (y3 : Nat) (hK : Kept K y1) : Kept K (softLoop y0 y1 y2 y3).1 := by
  fun_induction softLoop y0 y1 y2 y3
  all_goals repeat' first
    | with_reducible assumption
    | (dsimp only; with_reducible assumption)
    | with_reducible apply kept_ite
    | with_reducible refine softPlacement_kept (by assumption) ?_
    | with_reducible apply place_kept
    | with_reducible apply_assumption
    | refine kept_fst (by assumption) ?_
    | split
    | dsimp +zetaDelta only

theorem softLoop_kept {y0 : Nat} {y1 : State} {y2 : Nat} {y3 : Nat} {r0 : State} {r1 : Nat} (e : softLoop y0 y1 y2 y3 = (r0, r1)) (hK : Kept K y1)  : Kept K r0 := by
  have := softLoop_keptp y0 y1 y2 y3 hK 
  rw [e] at this
  exact this

theorem serveSlot_kept (s : State) (i : Nat) (hK : Kept K s) : Kept K (serveSlot s i) := by
  unfold serveSlot
  repeat' first
    | with_reducible assumption
    | with_reducible apply kept_ite
    | with_reducible apply setHelm_kept
    | with_reducible refine softLoop_kept (by assumption) ?_
    | with_reducible apply softLoop_keptp
    | split
    | dsimp only

theorem doSchedulingRound_kept (s : State) (hK : Kept K s) : Kept K (doSchedulingRound s) := by
  unfold doSchedulingRound
  repeat' first
    | with_reducible assumption
    | with_reducible apply kept_ite
    | with_reducible apply kept_foldl
    | with_reducible apply rejectMissing_kept
    | with_reducible apply snapshotStates_kept
    | with_reducible apply tryQuota_kept
    | with_reducible apply serveSlot_kept
    | (intro _ _ _)
    | split
    | dsimp only

theorem doQueuedDeadlineExpiry_kept (s : State) (k : CmdKey) (hK : Kept K s) : Kept K (doQueuedDeadlineExpiry s k) := by
  unfold doQueuedDeadlineExpiry
  repeat' first
    | with_reducible assumption
    | with_reducible apply kept_ite
    | with_reducible apply fileStatus_kept
    | split
    | dsimp only

theorem doTimedLaunch_kept (s : State) (k : CmdKey) (hK : Kept K s) : Kept K (doTimedLaunch s k) := by
  unfold doTimedLaunch
  repeat' first
    | with_reducible assumption
    | with_reducible apply kept_ite
    | with_reducible apply putCmd_kept
    | split
    | dsimp only

theorem markLate_kept (s : State) (k : CmdKey) (seqs : List Word) (hK : Kept K s) : Kept K (markLate s k seqs) := by
  unfold markLate
  repeat' first
    | with_reducible assumption
    | with_reducible apply kept_ite
    | with_reducible apply setHelm_kept
    | split
    | dsimp only

theorem armCovered_keptp (s : State) (k : CmdKey) (tl : Mer) (q : Word) (off : Nat) (hK : Kept K s) : Kept K (armCovered s k tl q off).1 := by
  unfold armCovered
  repeat' first
    | with_reducible assumption
    | (dsimp only; with_reducible assumption)
    | with_reducible apply kept_ite
    | with_reducible apply fileStatus_kept
    | with_reducible refine quotaPlacement_kept (by assumption) ?_
    | with_reducible apply place_kept
    | (refine found_kept (by assumption) (fun e => quotaPlacement_kept e ?_) ?_)
    | split
    | dsimp only

theorem armCovered_kept {s : State} {k : CmdKey} {tl : Mer} {q : Word} {off : Nat} {r0 : State} {r1 : List (CmdKey × Nat)} (e : armCovered s k tl q off = (r0, r1)) (hK : Kept K s)  : Kept K r0 := by
  have := armCovered_keptp s k tl q off hK 
  rw [e] at this
  exact this

theorem armAll_keptp (s : State) (k : CmdKey) (tl : Mer) (y0 : List Word) (y1 : Nat) (y2 : List (CmdKey × Nat)) (hK : Kept K s) : Kept K (armAll s k tl y0 y1 y2).1 := by
  fun_induction armAll s k tl y0 y1 y2
  all_goals repeat' first
    | with_reducible assumption
    | (dsimp only; with_reducible assumption)
    | with_reducible apply kept_ite
    | with_reducible refine armCovered_kept (by assumption) ?_
    | with_reducible apply armCovered_keptp
    | with_reducible apply_assumption
    | refine kept_fst (by assumption) ?_
    | split
    | dsimp +zetaDelta only

theorem armAll_kept {s : State} {k : CmdKey} {tl : Mer} {y0 : List Word} {y1 : Nat} {y2 : List (CmdKey × Nat)} {r0 : State} {r1 : List (CmdKey × Nat)} {r2 : Nat} (e : armAll s k tl y0 y1 y2 = (r0, r1, r2)) (hK : Kept K s)  : Kept K r0 := by
  have := armAll_keptp s k tl y0 y1 y2 hK 
  rw [e] at this
  exact this

theorem doTimedLaunchArm_kept (s : State) (k : CmdKey) (hK : Kept K s) : Kept K (doTimedLaunchArm s k) := by
  unfold doTimedLaunchArm
  repeat' first
    | with_reducible assumption
    | with_reducible apply kept_ite
    | with_reducible apply kept_foldl
    | with_reducible apply fileStatus_kept
    | with_reducible apply markLate_kept
    | with_reducible apply fileReq_kept
    | with_reducible refine armAll_kept (by assumption) ?_
    | with_reducible apply armAll_keptp
    | with_reducible apply setHelm_kept
    | with_reducible apply putCmd_kept
    | (intro _ _ _)
    | split
    | dsimp only

theorem fixCovered_kept (s : State) (start : Nat) (x : CmdKey × Nat) (hK : Kept K s) : Kept K (fixCovered s start x) := by
  unfold fixCovered
  repeat' first
    | with_reducible assumption
    | with_reducible apply kept_ite
    | with_reducible apply putRun_kept
    | with_reducible apply reserve_kept
    | with_reducible apply emit_kept
    | with_reducible apply putCmd_kept
    | split
    | dsimp only

theorem doLaunchTrigger_kept (s : State) (k : CmdKey) (hK : Kept K s) : Kept K (doLaunchTrigger s k) := by
  unfold doLaunchTrigger
  repeat' first
    | with_reducible assumption
    | with_reducible apply kept_ite
    | with_reducible apply kept_foldl
    | with_reducible apply setHelm_kept
    | with_reducible apply fixCovered_kept
    | (intro _ _ _)
    | split
    | dsimp only

end Sys2Proof.Laws
end

