-- ==== Sys2Proof/Laws/KeptRastan.lean ====
section
/-! SUPPORT. What the operations of Machine/Rastan.lean keep (Laws/Kept.lean). -/

namespace Sys2Proof.Laws
open Sys2Proof Sys2Proof.Machine

set_option linter.unusedTactic false
set_option linter.unreachableTactic false
set_option linter.unusedVariables false

variable {K : Keep}

theorem setPeer_kept (s : State) (c : Nat) (p : Peer) (hK : Kept K s) : Kept K (setPeer s c p) := by
  unfold setPeer
  repeat' first
    | with_reducible assumption
    | with_reducible apply kept_ite
    | with_reducible apply setFleet_kept
    | split
    | dsimp only

theorem putOnWire_kept (s : State) (port : Nat) (f : RFrame) (hK : Kept K s) : Kept K (putOnWire s port f) := by
  unfold putOnWire
  repeat' first
    | with_reducible assumption
    | with_reducible apply kept_ite
    | with_reducible apply emit_kept
    | with_reducible apply gcount_kept
    | split
    | dsimp only

theorem queueFrame_kept (s : State) (c : Nat) (f : RFrame) (key : Option CmdKey) (hK : Kept K s) : Kept K (queueFrame s c f key) := by
  unfold queueFrame
  repeat' first
    | with_reducible assumption
    | with_reducible apply kept_ite
    | with_reducible apply setPeer_kept
    | split
    | dsimp only

theorem startFrame_kept (s : State) (c : Nat) (hK : Kept K s) : Kept K (startFrame s c) := by
  unfold startFrame
  repeat' first
    | with_reducible assumption
    | with_reducible apply kept_ite
    | with_reducible apply putOnWire_kept
    | with_reducible apply setPeer_kept
    | split
    | dsimp only

theorem startFrames_kept (s : State) (hK : Kept K s) : Kept K (startFrames s) := by
  unfold startFrames
  repeat' first
    | with_reducible assumption
    | with_reducible apply kept_ite
    | with_reducible apply kept_foldl
    | with_reducible apply startFrame_kept
    | (intro _ _ _)
    | split
    | dsimp only

theorem askPeers_kept (s : State) (r : Run) (hK : Kept K s) : Kept K (askPeers s r) := by
  unfold askPeers
  repeat' first
    | with_reducible assumption
    | with_reducible apply kept_ite
    | with_reducible apply kept_foldl
    | with_reducible apply queueFrame_kept
    | (intro _ _ _)
    | split
    | dsimp only

end Sys2Proof.Laws
end

