-- ==== Sys2Proof/Laws/KeptRunOps.lean ====
section
/-! SUPPORT. What the operations of Machine/RunOps.lean keep (Laws/Kept.lean). -/

namespace Sys2Proof.Laws
open Sys2Proof Sys2Proof.Machine

set_option linter.unusedTactic false
set_option linter.unreachableTactic false
set_option linter.unusedVariables false

variable {K : Keep}

theorem freeNat_keptp (s : State) (kind : Nat) (hK : Kept K s) : Kept K (freeNat s kind).2 := by
  unfold freeNat
  repeat' first
    | with_reducible assumption
    | (dsimp only; with_reducible assumption)
    | with_reducible apply kept_ite
    | with_reducible apply setFree_kept
    | split
    | dsimp only

theorem freeNat_kept {s : State} {kind : Nat} {r0 : Nat} {r1 : State} (e : freeNat s kind = (r0, r1)) (hK : Kept K s)  : Kept K r1 := by
  have := freeNat_keptp s kind hK 
  rw [e] at this
  exact this

theorem boundary_kept (s : State) (k : CmdKey) (hK : Kept K s) : Kept K (boundary s k) := by
  unfold boundary
  repeat' first
    | with_reducible assumption
    | with_reducible apply kept_ite
    | with_reducible apply putRun_kept
    | split
    | dsimp only

theorem addCounts_kept (s : State) (r : Run) (c : RunCounts) (hK : Kept K s) : Kept K (addCounts s r c) := by
  unfold addCounts
  repeat' first
    | with_reducible assumption
    | with_reducible apply kept_ite
    | with_reducible apply putRun_kept
    | split
    | dsimp only

theorem phaseCounts_kept (s : State) (r : Run) (t : Tally) (tr : Traffic) (hK : Kept K s) : Kept K (phaseCounts s r t tr) := by
  unfold phaseCounts
  repeat' first
    | with_reducible assumption
    | with_reducible apply kept_ite
    | with_reducible apply gcount_kept
    | with_reducible apply putRun_kept
    | split
    | dsimp only

theorem trapRun_kept (s : State) (r : Run) (t : TrapRec) (hK : Kept K s) : Kept K (trapRun s r t) := by
  unfold trapRun
  repeat' first
    | with_reducible assumption
    | with_reducible apply kept_ite
    | with_reducible apply kept_foldl
    | with_reducible apply putRun_kept
    | with_reducible apply emptyFacets_kept
    | with_reducible apply dropLive_kept
    | (intro _ _ _)
    | split
    | dsimp only

theorem pivotAbort_kept (s : State) (r : Run) (hK : Kept K s) : Kept K (pivotAbort s r) := by
  unfold pivotAbort
  repeat' first
    | with_reducible assumption
    | with_reducible apply kept_ite
    | with_reducible apply putRun_kept
    | split
    | dsimp only

theorem phaseStop_kept {s : State} {r : Run} {t : Tally} {site : TrapRec} {u : State} (e : phaseStop s r t site = some u) (hK : Kept K s) :
    Kept K u := by
  unfold phaseStop at e
  split at e
  · cases e
    exact trapRun_kept _ _ _ hK
  · split at e
    · cases e
      exact trapRun_kept _ _ _ hK
    · split at e
      · cases e
        exact pivotAbort_kept _ _ hK
      · cases e

theorem opEvents_kept (s : State) (r : Run) (e : NumEv) (site : TrapRec) (hK : Kept K s) : Kept K (opEvents s r e site) := by
  unfold opEvents
  repeat' first
    | with_reducible assumption
    | with_reducible apply kept_ite
    | with_reducible apply putRun_kept
    | with_reducible apply trapRun_kept
    | split
    | dsimp only

end Sys2Proof.Laws
end

