-- ==== Sys2Proof/Laws/KeptDevice.lean ====
section
/-! SUPPORT. What the operations of Machine/Device.lean keep (Laws/Kept.lean). -/

namespace Sys2Proof.Laws
open Sys2Proof Sys2Proof.Machine

set_option linter.unusedTactic false
set_option linter.unreachableTactic false
set_option linter.unusedVariables false

variable {K : Keep}

theorem discardReq_kept (s : State) (c : Cmd) (hK : Kept K s) : Kept K (discardReq s c) := by
  unfold discardReq
  repeat' first
    | with_reducible assumption
    | with_reducible apply kept_ite
    | with_reducible apply dropRun_kept
    | with_reducible apply putCmd_kept
    | split
    | dsimp only

theorem discardRequests_kept (s : State) (hK : Kept K s) : Kept K (discardRequests s) := by
  unfold discardRequests
  repeat' first
    | with_reducible assumption
    | with_reducible apply kept_ite
    | with_reducible apply kept_foldl
    | with_reducible apply discardReq_kept
    | with_reducible apply setStreams_kept
    | with_reducible apply setLog_kept
    | (intro _ _ _)
    | split
    | dsimp only

theorem deviceRecords_kept (s : State) (a : EvArg) (entry : Bool) (hK : Kept K s) : Kept K (deviceRecords s a entry) := by
  unfold deviceRecords
  repeat' first
    | with_reducible assumption
    | with_reducible apply kept_ite
    | with_reducible apply logEvent_kept
    | with_reducible apply reportClass_kept
    | split
    | dsimp only

theorem deviceEvent_kept (s : State) (a : EvArg) (facets : List Nat) (hK : Kept K s) (hC : K.calm = false) : Kept K (deviceEvent s a facets) := by
  unfold deviceEvent
  repeat' first
    | with_reducible assumption
    | with_reducible apply kept_ite
    | ((with_reducible apply setBin_kept_low); rotate_left; exact rfl; assumption; exact rfl)
    | ((with_reducible apply setBin_kept); rotate_left; exact rfl; exact rfl)
    | with_reducible apply setStreams_kept
    | with_reducible apply setCsi_kept
    | with_reducible apply deviceRecords_kept
    | with_reducible apply discardRequests_kept
    | assumption
    | split
    | dsimp only

end Sys2Proof.Laws
end

