-- ==== Sys2Proof/Laws/KeptCells.lean ====
section
/-! SUPPORT. What the operations of Machine/Cells.lean keep (Laws/Kept.lean). -/

namespace Sys2Proof.Laws
open Sys2Proof Sys2Proof.Machine

set_option linter.unusedTactic false
set_option linter.unreachableTactic false
set_option linter.unusedVariables false

variable {K : Keep}

theorem setAcc_kept (s : State) (c : CellAt) (v : W48) (hK : Kept K s) : Kept K (setAcc s c v) := by
  unfold setAcc
  repeat' first
    | with_reducible assumption
    | with_reducible apply kept_ite
    | with_reducible apply setRose_kept
    | split
    | dsimp only

theorem passOn_kept (s : State) (c : CellAt) (w n : Opnd) (hK : Kept K s) : Kept K (passOn s c w n) := by
  unfold passOn
  repeat' first
    | with_reducible assumption
    | with_reducible apply kept_ite
    | with_reducible apply setRose_kept
    | split
    | dsimp only

theorem cellOp_kept (s : State) (op : Nat) (c : CellAt) (w n : Opnd) (pass : Nat) (site : TrapRec) (hK : Kept K s) : Kept K (cellOp s op c w n pass site) := by
  unfold cellOp
  repeat' first
    | with_reducible assumption
    | with_reducible apply kept_ite
    | with_reducible apply feedEcc_kept
    | with_reducible apply passOn_kept
    | with_reducible apply putRun_kept
    | with_reducible refine freeNat_kept (by assumption) ?_
    | with_reducible apply freeNat_keptp
    | with_reducible apply setAcc_kept
    | with_reducible apply opEvents_kept
    | split
    | dsimp only

theorem doFirst_kept (s : State) (c : CellAt) (w n : Opnd) (pass : Nat) (site : TrapRec) (hK : Kept K s) : Kept K (doFirst s c w n pass site) := by
  unfold doFirst
  repeat' first
    | with_reducible assumption
    | with_reducible apply kept_ite
    | with_reducible apply cellOp_kept
    | split
    | dsimp only

theorem doMac_kept (s : State) (c : CellAt) (w n : Opnd) (pass : Nat) (site : TrapRec) (words : List Nat) (hK : Kept K s) : Kept K (doMac s c w n pass site words) := by
  unfold doMac
  repeat' first
    | with_reducible assumption
    | with_reducible apply kept_ite
    | with_reducible apply cellOp_kept
    | split
    | dsimp only

theorem doMsub_kept (s : State) (c : CellAt) (w n : Opnd) (pass : Nat) (site : TrapRec) (hK : Kept K s) : Kept K (doMsub s c w n pass site) := by
  unfold doMsub
  repeat' first
    | with_reducible assumption
    | with_reducible apply kept_ite
    | with_reducible apply cellOp_kept
    | split
    | dsimp only

theorem doPreload_kept (s : State) (c : CellAt) (v : W48) (hK : Kept K s) : Kept K (doPreload s c v) := by
  unfold doPreload
  repeat' first
    | with_reducible assumption
    | with_reducible apply kept_ite
    | with_reducible apply feedEcc_kept
    | with_reducible apply setAcc_kept
    | with_reducible apply setRose_kept
    | split
    | dsimp only

theorem doIdle_kept (s : State) (_c : CellAt) (hK : Kept K s) : Kept K (doIdle s _c) := by
  unfold doIdle
  repeat' first
    | with_reducible assumption
    | with_reducible apply kept_ite
    | split
    | dsimp only

theorem watchStore_kept (s : State) (r : Run) (step a : Nat) (data : List Byte) (el : Option (Nat × Nat)) (hK : Kept K s) : Kept K (watchStore s r step a data el) := by
  unfold watchStore
  repeat' first
    | with_reducible assumption
    | with_reducible apply kept_ite
    | with_reducible apply setPel_kept
    | split
    | dsimp only

theorem routeWrite_kept (s : State) (r : Run) (bs : List Berth) (sector step a : Nat) (data : List Byte) (el : Option (Nat × Nat)) (hK : Kept K s) : Kept K (routeWrite s r bs sector step a data el) := by
  unfold routeWrite
  repeat' first
    | with_reducible assumption
    | with_reducible apply kept_ite
    | with_reducible apply watchStore_kept
    | with_reducible apply admitBytes_kept
    | with_reducible apply putRun_kept
    | with_reducible apply windowFault_kept
    | with_reducible apply countRefused_kept
    | split
    | dsimp only

theorem facetWrite_kept (s : State) (k : CmdKey) (g step a : Nat) (data : List Byte) (el : Option (Nat × Nat)) (hK : Kept K s) : Kept K (facetWrite s k g step a data el) := by
  unfold facetWrite
  repeat' first
    | with_reducible assumption
    | with_reducible apply kept_ite
    | with_reducible apply routeWrite_kept
    | split
    | dsimp only

theorem shiftStrip_keptp (s : State) (c : CellAt) (hK : Kept K s) : Kept K (shiftStrip s c).2 := by
  unfold shiftStrip
  repeat' first
    | with_reducible assumption
    | (dsimp only; with_reducible assumption)
    | with_reducible apply kept_ite
    | with_reducible apply kept_foldl
    | with_reducible apply setAcc_kept
    | with_reducible apply setRose_kept
    | (intro _ _ _)
    | split
    | dsimp only

theorem shiftStrip_kept {s : State} {c : CellAt} {r0 : Option W48} {r1 : State} (e : shiftStrip s c = (r0, r1)) (hK : Kept K s)  : Kept K r1 := by
  have := shiftStrip_keptp s c hK 
  rw [e] at this
  exact this

theorem drained_keptp (s : State) (c : CellAt) (hK : Kept K s) : Kept K (drained s c).2 := by
  unfold drained
  repeat' first
    | with_reducible assumption
    | (dsimp only; with_reducible assumption)
    | with_reducible apply kept_ite
    | with_reducible refine shiftStrip_kept (by assumption) ?_
    | with_reducible apply shiftStrip_keptp
    | with_reducible refine freeNat_kept (by assumption) ?_
    | with_reducible apply freeNat_keptp
    | split
    | dsimp only

theorem drained_kept {s : State} {c : CellAt} {r0 : Machine.Num} {r1 : State} (e : drained s c = (r0, r1)) (hK : Kept K s)  : Kept K r1 := by
  have := drained_keptp s c hK 
  rw [e] at this
  exact this

theorem rowPrimal_keptp (s : State) (p : CellAt) (hK : Kept K s) : Kept K (rowPrimal s p).2 := by
  unfold rowPrimal
  repeat' first
    | with_reducible assumption
    | (dsimp only; with_reducible assumption)
    | with_reducible apply kept_ite
    | with_reducible refine freeNat_kept (by assumption) ?_
    | with_reducible apply freeNat_keptp
    | split
    | dsimp only

theorem rowPrimal_kept {s : State} {p : CellAt} {r0 : Machine.Num} {r1 : State} (e : rowPrimal s p = (r0, r1)) (hK : Kept K s)  : Kept K r1 := by
  have := rowPrimal_keptp s p hK 
  rw [e] at this
  exact this

theorem activate_keptp (s : State) (b : Berth) (strict : Bool) (c : CellAt) (act : ActMode) (v : Machine.Num) (hK : Kept K s) : Kept K (activate s b strict c act v).2.2 := by
  unfold activate
  repeat' first
    | with_reducible assumption
    | (dsimp only; with_reducible assumption)
    | with_reducible apply kept_ite
    | with_reducible apply setRose_kept
    | with_reducible refine rowPrimal_kept (by assumption) ?_
    | with_reducible apply rowPrimal_keptp
    | (refine kept_ite_pair (by assumption) (fun e => freeNat_kept e ?_) ?_)
    | split
    | dsimp only

theorem activate_kept {s : State} {b : Berth} {strict : Bool} {c : CellAt} {act : ActMode} {v : Machine.Num} {r0 : Machine.Num} {r1 : NumEv} {r2 : State} (e : activate s b strict c act v = (r0, r1, r2)) (hK : Kept K s)  : Kept K r2 := by
  have := activate_keptp s b strict c act v hK 
  rw [e] at this
  exact this

theorem drainEvents_kept (s : State) (k : CmdKey) (e : NumEv) (t : TrapRec) (hK : Kept K s) : Kept K (drainEvents s k e t) := by
  unfold drainEvents
  repeat' first
    | with_reducible assumption
    | with_reducible apply kept_ite
    | with_reducible apply opEvents_kept
    | split
    | dsimp only

theorem drainVals_keptp (s : State) (c : CellAt) (b : Berth) (r : Run) (act : ActMode) (site : TrapRec) (y0 : Nat) (y1 : Nat) (hK : Kept K s) : Kept K (drainVals s c b r act site y0 y1).2 := by
  fun_induction drainVals s c b r act site y0 y1
  all_goals repeat' first
    | with_reducible assumption
    | (dsimp only; with_reducible assumption)
    | with_reducible apply kept_ite
    | with_reducible refine drained_kept (by assumption) ?_
    | with_reducible apply drained_keptp
    | with_reducible refine activate_kept (by assumption) ?_
    | with_reducible apply activate_keptp
    | with_reducible apply drainEvents_kept
    | with_reducible apply_assumption
    | refine kept_snd (by assumption) ?_
    | split
    | dsimp +zetaDelta only

theorem drainVals_kept {s : State} {c : CellAt} {b : Berth} {r : Run} {act : ActMode} {site : TrapRec} {y0 : Nat} {y1 : Nat} {r0 : List Machine.Num} {r1 : State} (e : drainVals s c b r act site y0 y1 = (r0, r1)) (hK : Kept K s)  : Kept K r1 := by
  have := drainVals_keptp s c b r act site y0 y1 hK 
  rw [e] at this
  exact this

theorem storeEach_kept (s : State) (c : CellAt) (k : CmdKey) (f : Fmt) (code fmtA : Nat) (site : TrapRec) (y0 : List Machine.Num) (y1 : List Nat) (hK : Kept K s) : Kept K (storeEach s c k f code fmtA site y0 y1) := by
  fun_induction storeEach s c k f code fmtA site y0 y1
  all_goals repeat' first
    | with_reducible assumption
    | with_reducible apply kept_ite
    | with_reducible apply drainEvents_kept
    | with_reducible apply facetWrite_kept
    | with_reducible apply_assumption
    | split
    | dsimp +zetaDelta only

theorem storeBlk_kept (s : State) (c : CellAt) (k : CmdKey) (b code fmtA : Nat) (site : TrapRec) (y0 : Nat) (y1 : List Machine.Num)
    (y2 : List Nat) (y3 : List Nat) (hK : Kept K s) : Kept K (storeBlk s c k b code fmtA site y0 y1 y2 y3) := by
  induction y0 generalizing s site y1 y2 y3 with
  | zero => exact hK
  | succ n ih =>
    unfold storeBlk
    split
    · dsimp only
      exact ih _ _ _ _ _ (kept_foldl (facetWrite_kept _ _ _ _ _ _ _ (drainEvents_kept _ _ _ _ hK))
        (fun _ _ h => facetWrite_kept _ _ _ _ _ _ _ h))
    · exact hK

theorem drainPanel_kept (s : State) (c : CellAt) (k : CmdKey) (site : TrapRec) (y0 : List Nat) (y1 : Nat) (hK : Kept K s) : Kept K (drainPanel s c k site y0 y1) := by
  fun_induction drainPanel s c k site y0 y1
  all_goals repeat' first
    | with_reducible assumption
    | with_reducible apply kept_ite
    | with_reducible refine drained_kept (by assumption) ?_
    | with_reducible apply drained_keptp
    | with_reducible apply setRose_kept
    | with_reducible apply drainEvents_kept
    | with_reducible apply_assumption
    | split
    | dsimp +zetaDelta only

theorem doDrain_kept (s : State) (c : CellAt) (dst : DrainTo) (site : TrapRec) (hK : Kept K s) : Kept K (doDrain s c dst site) := by
  unfold doDrain
  repeat' first
    | with_reducible assumption
    | with_reducible apply kept_ite
    | with_reducible apply feedEcc_kept
    | with_reducible apply boundary_kept
    | with_reducible apply drainPanel_kept
    | with_reducible refine drainVals_kept (by assumption) ?_
    | with_reducible apply drainVals_keptp
    | with_reducible apply storeBlk_kept
    | with_reducible apply storeEach_kept
    | split
    | dsimp only

end Sys2Proof.Laws
end

