-- ==== Sys2Proof/Laws/KeptSextant.lean ====
section
/-! SUPPORT. What the operations of Machine/Sextant.lean keep (Laws/Kept.lean). -/

namespace Sys2Proof.Laws
open Sys2Proof Sys2Proof.Machine

set_option linter.unusedTactic false
set_option linter.unreachableTactic false
set_option linter.unusedVariables false

variable {K : Keep}

theorem issue_kept (s : State) (x : SxtAt) (hK : Kept K s) : Kept K (issue s x) := by
  unfold issue
  repeat' first
    | with_reducible assumption
    | with_reducible apply kept_ite
    | with_reducible apply feedEcc_kept
    | with_reducible apply putRun_kept
    | split
    | dsimp only

theorem laneEvents_kept (s : State) (x : SxtAt) (e : NumEv) (t : TrapRec) (hK : Kept K s) : Kept K (laneEvents s x e t) := by
  unfold laneEvents
  repeat' first
    | with_reducible assumption
    | with_reducible apply kept_ite
    | with_reducible apply gcount_kept
    | with_reducible apply opEvents_kept
    | split
    | dsimp only

theorem loadOpnd_keptp (s : State) (x : SxtAt) (o : Opnd) (hK : Kept K s) : Kept K (loadOpnd s x o).2 := by
  unfold loadOpnd
  repeat' first
    | with_reducible assumption
    | (dsimp only; with_reducible assumption)
    | with_reducible apply kept_ite
    | with_reducible apply laneEvents_kept
    | split
    | dsimp only

theorem loadOpnd_kept {s : State} {x : SxtAt} {o : Opnd} {r0 : Machine.Num} {r1 : State} (e : loadOpnd s x o = (r0, r1)) (hK : Kept K s)  : Kept K r1 := by
  have := loadOpnd_keptp s x o hK 
  rw [e] at this
  exact this

theorem setLane_kept (s : State) (x : SxtAt) (p : Nat) (hK : Kept K s) : Kept K (setLane s x p) := by
  unfold setLane
  repeat' first
    | with_reducible assumption
    | with_reducible apply kept_ite
    | with_reducible apply setRose_kept
    | split
    | dsimp only

theorem laneOp_kept (s : State) (x : SxtAt) (op : Nat) (ops : List Opnd) (f : Bool → List Machine.Num → Machine.Num × NumEv) (hK : Kept K s) : Kept K (laneOp s x op ops f) := by
  unfold laneOp
  repeat' first
    | with_reducible assumption
    | with_reducible apply kept_ite
    | with_reducible apply kept_foldl
    | with_reducible apply kept_foldl_snd
    | with_reducible apply kept_foldl_fst
    | with_reducible apply issue_kept
    | with_reducible refine loadOpnd_kept (by assumption) ?_
    | with_reducible apply loadOpnd_keptp
    | with_reducible apply setLane_kept
    | with_reducible apply laneEvents_kept
    | (intro _ _ _)
    | split
    | dsimp only

theorem doFma_kept (s : State) (x : SxtAt) (a b c : Opnd) (hK : Kept K s) : Kept K (doFma s x a b c) := by
  unfold doFma
  repeat' first
    | with_reducible assumption
    | with_reducible apply kept_ite
    | with_reducible apply laneOp_kept
    | split
    | dsimp only

theorem doAdd_kept (s : State) (x : SxtAt) (a b : Opnd) (hK : Kept K s) : Kept K (doAdd s x a b) := by
  unfold doAdd
  repeat' first
    | with_reducible assumption
    | with_reducible apply kept_ite
    | with_reducible apply laneOp_kept
    | split
    | dsimp only

theorem doSub_kept (s : State) (x : SxtAt) (a b : Opnd) (hK : Kept K s) : Kept K (doSub s x a b) := by
  unfold doSub
  repeat' first
    | with_reducible assumption
    | with_reducible apply kept_ite
    | with_reducible apply laneOp_kept
    | split
    | dsimp only

theorem doMul_kept (s : State) (x : SxtAt) (a b : Opnd) (hK : Kept K s) : Kept K (doMul s x a b) := by
  unfold doMul
  repeat' first
    | with_reducible assumption
    | with_reducible apply kept_ite
    | with_reducible apply laneOp_kept
    | split
    | dsimp only

theorem doDiv_kept (s : State) (x : SxtAt) (a b : Opnd) (hK : Kept K s) : Kept K (doDiv s x a b) := by
  unfold doDiv
  repeat' first
    | with_reducible assumption
    | with_reducible apply kept_ite
    | with_reducible apply laneOp_kept
    | split
    | dsimp only

theorem doSqrt_kept (s : State) (x : SxtAt) (a : Opnd) (hK : Kept K s) : Kept K (doSqrt s x a) := by
  unfold doSqrt
  repeat' first
    | with_reducible assumption
    | with_reducible apply kept_ite
    | with_reducible apply laneOp_kept
    | split
    | dsimp only

theorem doMax_kept (s : State) (x : SxtAt) (a b : Opnd) (hK : Kept K s) : Kept K (doMax s x a b) := by
  unfold doMax
  repeat' first
    | with_reducible assumption
    | with_reducible apply kept_ite
    | with_reducible apply laneOp_kept
    | split
    | dsimp only

theorem doMin_kept (s : State) (x : SxtAt) (a b : Opnd) (hK : Kept K s) : Kept K (doMin s x a b) := by
  unfold doMin
  repeat' first
    | with_reducible assumption
    | with_reducible apply kept_ite
    | with_reducible apply laneOp_kept
    | split
    | dsimp only

theorem doAbs_kept (s : State) (x : SxtAt) (a : Opnd) (hK : Kept K s) : Kept K (doAbs s x a) := by
  unfold doAbs
  repeat' first
    | with_reducible assumption
    | with_reducible apply kept_ite
    | with_reducible apply laneOp_kept
    | split
    | dsimp only

theorem doCompare_kept (s : State) (x : SxtAt) (op : CmpOp) (a b : Opnd) (hK : Kept K s) : Kept K (doCompare s x op a b) := by
  unfold doCompare
  repeat' first
    | with_reducible assumption
    | with_reducible apply kept_ite
    | with_reducible apply laneOp_kept
    | split
    | dsimp only

theorem doPow2Scale_kept (s : State) (x : SxtAt) (a : Opnd) (k : Option Int) (hK : Kept K s) : Kept K (doPow2Scale s x a k) := by
  unfold doPow2Scale
  repeat' first
    | with_reducible assumption
    | with_reducible apply kept_ite
    | with_reducible refine freeNat_kept (by assumption) ?_
    | with_reducible apply freeNat_keptp
    | with_reducible apply laneOp_kept
    | split
    | dsimp only

theorem laneWrite_kept (s : State) (x : SxtAt) (a : Nat) (data : List Byte) (el : Option (Nat × Nat)) (hK : Kept K s) : Kept K (laneWrite s x a data el) := by
  unfold laneWrite
  repeat' first
    | with_reducible assumption
    | with_reducible apply kept_ite
    | with_reducible apply routeWrite_kept
    | split
    | dsimp only

theorem laneStore_kept (s : State) (x : SxtAt) (f : Fmt) (code : Nat) (y0 : List Machine.Num) (y1 : List Nat) (y2 : Nat) (hK : Kept K s) : Kept K (laneStore s x f code y0 y1 y2) := by
  fun_induction laneStore s x f code y0 y1 y2
  all_goals repeat' first
    | with_reducible assumption
    | with_reducible apply kept_ite
    | with_reducible apply laneEvents_kept
    | with_reducible apply laneWrite_kept
    | with_reducible apply_assumption
    | split
    | dsimp +zetaDelta only

theorem laneStoreBlk_kept (s : State) (x : SxtAt) (code : Nat) (vs : List Machine.Num) (addrs : List Nat) (ea : Nat) (hK : Kept K s) : Kept K (laneStoreBlk s x code vs addrs ea) := by
  unfold laneStoreBlk
  repeat' first
    | with_reducible assumption
    | with_reducible apply kept_ite
    | with_reducible apply kept_foldl
    | with_reducible apply laneEvents_kept
    | with_reducible apply laneWrite_kept
    | (intro _ _ _)
    | split
    | dsimp only

theorem doConvert_kept (s : State) (x : SxtAt) (src : List Opnd) (dst : ConvTo) (hK : Kept K s) : Kept K (doConvert s x src dst) := by
  unfold doConvert
  repeat' first
    | with_reducible assumption
    | with_reducible apply kept_ite
    | with_reducible apply kept_foldl
    | with_reducible apply kept_foldl_snd
    | with_reducible apply kept_foldl_fst
    | with_reducible apply issue_kept
    | with_reducible apply setLane_kept
    | with_reducible apply laneEvents_kept
    | with_reducible refine loadOpnd_kept (by assumption) ?_
    | with_reducible apply loadOpnd_keptp
    | with_reducible apply laneStoreBlk_kept
    | with_reducible apply laneStore_kept
    | (intro _ _ _)
    | split
    | dsimp only

end Sys2Proof.Laws
end

