-- ==== Sys2Proof/Laws/KeptPivot.lean ====
section
/-! SUPPORT. What the operations of Machine/Pivot.lean keep (Laws/Kept.lean). -/

namespace Sys2Proof.Laws
open Sys2Proof Sys2Proof.Machine

set_option linter.unusedTactic false
set_option linter.unreachableTactic false
set_option linter.unusedVariables false

variable {K : Keep}

theorem setPanel_kept (s : State) (slot : Nat) (x : ColStep) (i j : Nat) (v : Machine.Num) (hK : Kept K s) : Kept K (setPanel s slot x i j v) := by
  unfold setPanel
  repeat' first
    | with_reducible assumption
    | with_reducible apply kept_ite
    | with_reducible apply setRose_kept
    | split
    | dsimp only

theorem pivotEvents_kept (s : State) (x : ColStep) (i j : Nat) (v : Machine.Num × NumEv) (num d : Machine.Num) (hK : Kept K s) : Kept K (pivotEvents s x i j v num d) := by
  unfold pivotEvents
  repeat' first
    | with_reducible assumption
    | with_reducible apply kept_ite
    | with_reducible apply opEvents_kept
    | split
    | dsimp only

theorem pivotPut_kept (s : State) (slot : Nat) (x : ColStep) (i j : Nat) (v : Machine.Num × NumEv) (num d : Machine.Num) (hK : Kept K s) : Kept K (pivotPut s slot x i j v num d) := by
  unfold pivotPut
  repeat' first
    | with_reducible assumption
    | with_reducible apply kept_ite
    | with_reducible apply pivotEvents_kept
    | with_reducible apply setPanel_kept
    | split
    | dsimp only

theorem loadPanel_kept (s : State) (slot : Nat) (x : ColStep) (strict : Bool) (hK : Kept K s) : Kept K (loadPanel s slot x strict) := by
  unfold loadPanel
  repeat' first
    | with_reducible assumption
    | with_reducible apply kept_ite
    | with_reducible apply kept_foldl
    | with_reducible apply setRose_kept
    | with_reducible apply opEvents_kept
    | (intro _ _ _)
    | split
    | dsimp only

theorem enterKernel_kept (s : State) (r : Run) (x : ColStep) (strict : Bool) (hK : Kept K s) : Kept K (enterKernel s r x strict) := by
  unfold enterKernel
  repeat' first
    | with_reducible assumption
    | with_reducible apply kept_ite
    | with_reducible apply setRose_kept
    | split
    | dsimp only

theorem countPivot_kept (s : State) (k : CmdKey) (reg inertia aband : Nat) (hK : Kept K s) : Kept K (countPivot s k reg inertia aband) := by
  unfold countPivot
  repeat' first
    | with_reducible assumption
    | with_reducible apply kept_ite
    | with_reducible apply putRun_kept
    | split
    | dsimp only

theorem withPivot_kept (s : State) (r : Run) (x : ColStep) (row : Nat) (d : Machine.Num) (neg : Bool) (go : State → Machine.Num → Bool → State)
    (hK : Kept K s) (hg : ∀ t v b, Kept K t → Kept K (go t v b)) : Kept K (withPivot s r x row d neg go) := by
  unfold withPivot
  split
  · exact hg _ _ _ hK
  · dsimp only
    exact hg _ _ _ (pivotEvents_kept _ _ _ _ _ _ _ (countPivot_kept _ _ _ _ _ hK))
  · exact countPivot_kept _ _ _ _ _ hK
  · repeat' first
      | with_reducible assumption
      | with_reducible apply pivotAbort_kept
      | split

theorem scaleRows_kept (s : State) (slot : Nat) (x : ColStep) (strict : Bool) (rows : List Nat) (r d : Machine.Num) (hK : Kept K s) : Kept K (scaleRows s slot x strict rows r d) := by
  unfold scaleRows
  repeat' first
    | with_reducible assumption
    | with_reducible apply kept_ite
    | with_reducible apply kept_foldl
    | with_reducible apply pivotPut_kept
    | (intro _ _ _)
    | split
    | dsimp only

theorem mirrorColumn_kept (s : State) (slot : Nat) (b : Berth) (x : ColStep) (hK : Kept K s) : Kept K (mirrorColumn s slot b x) := by
  unfold mirrorColumn
  repeat' first
    | with_reducible assumption
    | with_reducible apply kept_ite
    | with_reducible apply kept_foldl
    | with_reducible apply setRose_kept
    | (intro _ _ _)
    | split
    | dsimp only

theorem symmetricStep_kept (s : State) (slot : Nat) (b : Berth) (x : ColStep) (strict : Bool) (d : Machine.Num) (hK : Kept K s) : Kept K (symmetricStep s slot b x strict d) := by
  unfold symmetricStep
  repeat' first
    | with_reducible assumption
    | with_reducible apply kept_ite
    | with_reducible apply kept_foldl
    | with_reducible apply pivotEvents_kept
    | with_reducible apply pivotPut_kept
    | with_reducible apply setPanel_kept
    | with_reducible apply scaleRows_kept
    | with_reducible apply mirrorColumn_kept
    | (intro _ _ _)
    | split
    | dsimp only

theorem solveStep_kept (s : State) (slot : Nat) (x : ColStep) (strict : Bool) (hK : Kept K s) : Kept K (solveStep s slot x strict) := by
  unfold solveStep
  repeat' first
    | with_reducible assumption
    | with_reducible apply kept_ite
    | with_reducible apply kept_foldl
    | with_reducible apply scaleRows_kept
    | with_reducible apply pivotPut_kept
    | (intro _ _ _)
    | split
    | dsimp only

theorem luStep_kept (s : State) (r : Run) (x : ColStep) (strict : Bool) (row : Nat) (d : Machine.Num) (hK : Kept K s) : Kept K (luStep s r x strict row d) := by
  unfold luStep
  repeat' first
    | with_reducible assumption
    | with_reducible apply kept_ite
    | with_reducible apply kept_foldl
    | with_reducible apply setRose_kept
    | with_reducible apply setPanel_kept
    | with_reducible apply pivotEvents_kept
    | with_reducible apply scaleRows_kept
    | with_reducible apply pivotPut_kept
    | (intro _ _ _)
    | split
    | dsimp only

theorem luRowStep_kept (s : State) (r : Run) (x : ColStep) (strict : Bool) (hK : Kept K s) : Kept K (luRowStep s r x strict) := by
  unfold luRowStep
  repeat' first
    | with_reducible assumption
    | with_reducible apply kept_ite
    | with_reducible apply kept_foldl
    | with_reducible apply pivotPut_kept
    | (intro _ _ _)
    | split
    | dsimp only

theorem putCol_kept (s : State) (slot : Nat) (x : ColStep) (j : Nat) (v : List Machine.Num × NumEv) (d : Machine.Num) (hK : Kept K s) : Kept K (putCol s slot x j v d) := by
  unfold putCol
  repeat' first
    | with_reducible assumption
    | with_reducible apply kept_ite
    | with_reducible apply kept_foldl
    | with_reducible apply setPanel_kept
    | with_reducible apply pivotEvents_kept
    | (intro _ _ _)
    | split
    | dsimp only

theorem keepReflector_kept (s : State) (r : Run) (x : ColStep) (v0 beta : Machine.Num) (hK : Kept K s) : Kept K (keepReflector s r x v0 beta) := by
  unfold keepReflector
  repeat' first
    | with_reducible assumption
    | with_reducible apply kept_ite
    | with_reducible apply setRose_kept
    | split
    | dsimp only

theorem qrStep_kept (s : State) (r : Run) (x : ColStep) (strict : Bool) (d : Machine.Num) (bad : Bool) (hK : Kept K s) : Kept K (qrStep s r x strict d bad) := by
  unfold qrStep
  repeat' first
    | with_reducible assumption
    | with_reducible apply kept_ite
    | with_reducible apply kept_foldl
    | with_reducible apply setPanel_kept
    | with_reducible apply keepReflector_kept
    | with_reducible apply pivotEvents_kept
    | with_reducible apply putCol_kept
    | (intro _ _ _)
    | split
    | dsimp only

theorem rotate_kept (s : State) (r : Run) (x : ColStep) (strict down : Bool) (root : Machine.Num × NumEv) (same : Bool) (hK : Kept K s) : Kept K (rotate s r x strict down root same) := by
  unfold rotate
  repeat' first
    | with_reducible assumption
    | with_reducible apply kept_ite
    | with_reducible apply kept_foldl
    | with_reducible apply pivotPut_kept
    | with_reducible apply pivotEvents_kept
    | with_reducible apply setRose_kept
    | (intro _ _ _)
    | split
    | dsimp only

theorem changeStep_kept (s : State) (r : Run) (x : ColStep) (strict : Bool) (hK : Kept K s) : Kept K (changeStep s r x strict) := by
  unfold changeStep
  repeat' first
    | with_reducible assumption
    | with_reducible apply kept_ite
    | with_reducible apply pivotEvents_kept
    | with_reducible apply withPivot_kept
    | with_reducible apply rotate_kept
    | (intro _ _ _ _)
    | split
    | dsimp only

theorem storeColumn_kept (s : State) (slot : Nat) (x : ColStep) (strict : Bool) (hK : Kept K s) : Kept K (storeColumn s slot x strict) := by
  unfold storeColumn
  repeat' first
    | with_reducible assumption
    | with_reducible apply kept_ite
    | with_reducible apply kept_foldl
    | with_reducible apply facetWrite_kept
    | (intro _ _ _)
    | split
    | dsimp only

theorem columnStepOf_kept (s : State) (r : Run) (x : ColStep) (strict : Bool) (hK : Kept K s) : Kept K (columnStepOf s r x strict) := by
  unfold columnStepOf
  repeat' first
    | with_reducible assumption
    | with_reducible apply kept_ite
    | with_reducible apply pivotEvents_kept
    | with_reducible apply withPivot_kept
    | with_reducible apply symmetricStep_kept
    | with_reducible apply luStep_kept
    | with_reducible apply qrStep_kept
    | with_reducible apply luRowStep_kept
    | with_reducible apply solveStep_kept
    | with_reducible apply changeStep_kept
    | (intro _ _ _ _)
    | split
    | dsimp only

theorem doColumnStep_kept (s : State) (x : ColStep) (hK : Kept K s) : Kept K (doColumnStep s x) := by
  unfold doColumnStep
  repeat' first
    | with_reducible assumption
    | with_reducible apply kept_ite
    | with_reducible apply loadPanel_kept
    | with_reducible apply feedEcc_kept
    | with_reducible apply columnStepOf_kept
    | with_reducible apply enterKernel_kept
    | with_reducible apply boundary_kept
    | with_reducible apply storeColumn_kept
    | split
    | dsimp only

theorem doPivotDiv_kept (s : State) (x : ColStep) (row : Nat) (pivot : W48) (hK : Kept K s) : Kept K (doPivotDiv s x row pivot) := by
  unfold doPivotDiv
  repeat' first
    | with_reducible assumption
    | with_reducible apply kept_ite
    | with_reducible apply pivotPut_kept
    | with_reducible apply pivotEvents_kept
    | split
    | dsimp only

end Sys2Proof.Laws
end

