-- ==== Sys2Proof/Laws/KeptHelmDebug.lean ====
section
/-! SUPPORT. What the operations of Machine/HelmDebug.lean keep (Laws/Kept.lean). -/

namespace Sys2Proof.Laws
open Sys2Proof Sys2Proof.Machine

set_option linter.unusedTactic false
set_option linter.unreachableTactic false
set_option linter.unusedVariables false

variable {K : Keep}

theorem updCore_kept (s : State) (core : Nat) (f : HelmCore → HelmCore) (hK : Kept K s) : Kept K (updCore s core f) := by
  unfold updCore
  repeat' first
    | with_reducible assumption
    | with_reducible apply kept_ite
    | with_reducible apply setHelm_kept
    | split
    | dsimp only

theorem doHelmBreakpoint_kept (s : State) (core : Nat) (pc : Word64) (hK : Kept K s) : Kept K (doHelmBreakpoint s core pc) := by
  unfold doHelmBreakpoint
  repeat' first
    | with_reducible assumption
    | with_reducible apply kept_ite
    | with_reducible apply updCore_kept
    | split
    | dsimp only

theorem traceCore_kept (s : State) (kind core : Nat) (pc : Word64) (hK : Kept K s) : Kept K (traceCore s kind core pc) := by
  unfold traceCore
  repeat' first
    | with_reducible assumption
    | with_reducible apply kept_ite
    | with_reducible apply trace_kept
    | split
    | dsimp only

theorem resumeCore_kept (s : State) (core : Nat) (hK : Kept K s) : Kept K (resumeCore s core) := by
  unfold resumeCore
  repeat' first
    | with_reducible assumption
    | with_reducible apply kept_ite
    | with_reducible apply kept_foldl
    | with_reducible apply traceCore_kept
    | with_reducible apply updCore_kept
    | with_reducible apply pumpCtx_kept
    | (intro _ _ _)
    | split
    | dsimp only

theorem dbgWrite_kept (s : State) (w : Word) (hK : Kept K s) : Kept K (dbgWrite s w) := by
  unfold dbgWrite
  repeat' first
    | with_reducible assumption
    | with_reducible apply kept_ite
    | with_reducible apply kept_foldl
    | with_reducible apply rput_kept
    | with_reducible apply updCore_kept
    | with_reducible apply resumeCore_kept
    | (intro _ _ _)
    | split
    | dsimp only

theorem doHalt_kept (s : State) (w : Word) (hK : Kept K s) : Kept K (doHalt s w) := by
  unfold doHalt
  repeat' first
    | with_reducible assumption
    | with_reducible apply kept_ite
    | with_reducible apply dbgWrite_kept
    | split
    | dsimp only

theorem doResume_kept (s : State) (w : Word) (hK : Kept K s) : Kept K (doResume s w) := by
  unfold doResume
  repeat' first
    | with_reducible assumption
    | with_reducible apply kept_ite
    | with_reducible apply dbgWrite_kept
    | split
    | dsimp only

theorem doHelmHalted_kept (s : State) (core : Nat) (pc : Word64) (hK : Kept K s) : Kept K (doHelmHalted s core pc) := by
  unfold doHelmHalted
  repeat' first
    | with_reducible assumption
    | with_reducible apply kept_ite
    | with_reducible apply traceCore_kept
    | with_reducible apply updCore_kept
    | with_reducible apply resumeCore_kept
    | split
    | dsimp only

end Sys2Proof.Laws
end

