-- ==== Sys2Proof/Laws/KeptRun.lean ====
section
/-! SUPPORT. What the operations of Machine/Run.lean keep (Laws/Kept.lean). -/

namespace Sys2Proof.Laws
open Sys2Proof Sys2Proof.Machine

set_option linter.unusedTactic false
set_option linter.unreachableTactic false
set_option linter.unusedVariables false

variable {K : Keep}

theorem tagLive_kept (s : State) (r : Run) (hK : Kept K s) : Kept K (tagLive s r) := by
  unfold tagLive
  repeat' first
    | with_reducible assumption
    | with_reducible apply kept_ite
    | with_reducible apply kept_foldl
    | with_reducible apply setPel_kept
    | (intro _ _ _)
    | split
    | dsimp only

theorem traceLaunch_kept (s : State) (r : Run) (hK : Kept K s) : Kept K (traceLaunch s r) := by
  unfold traceLaunch
  repeat' first
    | with_reducible assumption
    | with_reducible apply kept_ite
    | with_reducible apply kept_foldl
    | with_reducible apply traceCmd_kept
    | (intro _ _ _)
    | split
    | dsimp only

theorem startRun_kept (s : State) (r : Run) (hK : Kept K s) : Kept K (startRun s r) := by
  unfold startRun
  repeat' first
    | with_reducible assumption
    | with_reducible apply kept_ite
    | with_reducible apply traceLaunch_kept
    | with_reducible apply tagLive_kept
    | with_reducible apply putRun_kept
    | with_reducible apply askPeers_kept
    | with_reducible apply putCmd_kept
    | split
    | dsimp only

theorem fileTimed_kept (s : State) (a : Armed) (hK : Kept K s) : Kept K (fileTimed s a) := by
  unfold fileTimed
  repeat' first
    | with_reducible assumption
    | with_reducible apply kept_ite
    | with_reducible apply setHelm_kept
    | with_reducible apply fileReq_kept
    | split
    | dsimp only

theorem doLaunchCycle_kept (s : State) (k : CmdKey) (hK : Kept K s) : Kept K (doLaunchCycle s k) := by
  unfold doLaunchCycle
  repeat' first
    | with_reducible assumption
    | with_reducible apply kept_ite
    | with_reducible apply fileTimed_kept
    | with_reducible apply startRun_kept
    | split
    | dsimp only

theorem doLadderStep_kept (s : State) (k : CmdKey) (hK : Kept K s) : Kept K (doLadderStep s k) := by
  unfold doLadderStep
  repeat' first
    | with_reducible assumption
    | with_reducible apply kept_ite
    | with_reducible apply emptyFacets_kept
    | split
    | dsimp only

theorem finish0_kept (s : State) (r : Run) (status after : Nat) (hK : Kept K s) : Kept K (finish0 s r status after) := by
  unfold finish0
  repeat' first
    | with_reducible assumption
    | with_reducible apply kept_ite
    | with_reducible apply putRun_kept
    | split
    | dsimp only

theorem putTileElem_kept (s : State) (slot : Nat) (b : Berth) (i j : Nat) (v : W48) (hK : Kept K s) : Kept K (putTileElem s slot b i j v) := by
  unfold putTileElem
  repeat' first
    | with_reducible assumption
    | with_reducible apply kept_ite
    | with_reducible apply setRose_kept
    | split
    | dsimp only

theorem loadTiles_kept (s : State) (r : Run) (m : Model) (hK : Kept K s) : Kept K (loadTiles s r m) := by
  unfold loadTiles
  repeat' first
    | with_reducible assumption
    | with_reducible apply kept_ite
    | with_reducible apply kept_foldl
    | with_reducible apply putTileElem_kept
    | (intro _ _ _)
    | split
    | dsimp only

theorem endSetup_kept (s : State) (r : Run) (m : Model) (data : SetupData) (hK : Kept K s) : Kept K (endSetup s r m data) := by
  unfold endSetup
  repeat' first
    | with_reducible assumption
    | with_reducible apply kept_ite
    | with_reducible apply phaseCounts_kept
    | with_reducible apply setFree_kept
    | with_reducible refine phaseStop_kept (by assumption) ?_
    | with_reducible apply putRun_kept
    | with_reducible apply loadTiles_kept
    | split
    | dsimp only

theorem endKalmanSetup_kept (s : State) (r : Run) (data : SetupData) (hK : Kept K s) : Kept K (endKalmanSetup s r data) := by
  unfold endKalmanSetup
  repeat' first
    | with_reducible assumption
    | with_reducible apply kept_ite
    | with_reducible apply phaseCounts_kept
    | with_reducible apply putRun_kept
    | split
    | dsimp only

theorem doSetupEnd_kept (s : State) (k : CmdKey) (data : SetupData) (hK : Kept K s) : Kept K (doSetupEnd s k data) := by
  unfold doSetupEnd
  repeat' first
    | with_reducible assumption
    | with_reducible apply kept_ite
    | with_reducible apply finish0_kept
    | with_reducible apply endKalmanSetup_kept
    | with_reducible apply endSetup_kept
    | split
    | dsimp only

theorem freeTrap_keptp (s : State) (hK : Kept K s) : Kept K (freeTrap s).2 := by
  unfold freeTrap
  repeat' first
    | with_reducible assumption
    | (dsimp only; with_reducible assumption)
    | with_reducible apply kept_ite
    | with_reducible refine freeNat_kept (by assumption) ?_
    | with_reducible apply freeNat_keptp
    | split
    | dsimp only

theorem freeTrap_kept {s : State} {r0 : TrapRec} {r1 : State} (e : freeTrap s = (r0, r1)) (hK : Kept K s)  : Kept K r1 := by
  have := freeTrap_keptp s hK 
  rw [e] at this
  exact this

theorem endIter_kept (s : State) (r : Run) (status : Nat) (hK : Kept K s) : Kept K (endIter s r status) := by
  unfold endIter
  repeat' first
    | with_reducible assumption
    | with_reducible apply kept_ite
    | with_reducible apply putRun_kept
    | split
    | dsimp only

theorem endNum_kept (s : State) (r : Run) (status : Nat) (hK : Kept K s) : Kept K (endNum s r status) := by
  unfold endNum
  repeat' first
    | with_reducible assumption
    | with_reducible apply kept_ite
    | with_reducible refine freeTrap_kept (by assumption) ?_
    | with_reducible apply freeTrap_keptp
    | with_reducible apply endIter_kept
    | split
    | dsimp only

theorem endTests_kept (s : State) (r : Run) (m : Model) (o : IterOut) (data : IterData) (n : Nat) (hK : Kept K s) : Kept K (endTests s r m o data n) := by
  unfold endTests
  repeat' first
    | with_reducible assumption
    | with_reducible apply kept_ite
    | with_reducible apply endIter_kept
    | with_reducible apply endNum_kept
    | with_reducible apply putRun_kept
    | split
    | dsimp only

theorem endQp_kept (s : State) (r : Run) (m : Model) (p : ProbData) (prev : Cand) (data : IterData) (hK : Kept K s) : Kept K (endQp s r m p prev data) := by
  unfold endQp
  repeat' first
    | with_reducible assumption
    | with_reducible apply kept_ite
    | with_reducible apply phaseCounts_kept
    | with_reducible refine phaseStop_kept (by assumption) ?_
    | with_reducible apply endTests_kept
    | split
    | dsimp only

theorem kalmanCand_keptp (s : State) (u : Iter × Machine.Num) (t : Tally) (hK : Kept K s) : Kept K (kalmanCand s u t).2 := by
  unfold kalmanCand
  repeat' first
    | with_reducible assumption
    | (dsimp only; with_reducible assumption)
    | with_reducible apply kept_ite
    | with_reducible refine freeNat_kept (by assumption) ?_
    | with_reducible apply freeNat_keptp
    | split
    | dsimp only

theorem kalmanCand_kept {s : State} {u : Iter × Machine.Num} {t : Tally} {r0 : Cand} {r1 : State} (e : kalmanCand s u t = (r0, r1)) (hK : Kept K s)  : Kept K r1 := by
  have := kalmanCand_keptp s u t hK 
  rw [e] at this
  exact this

theorem endKalman_kept (s : State) (r : Run) (m : Model) (data : IterData) (hK : Kept K s) : Kept K (endKalman s r m data) := by
  unfold endKalman
  repeat' first
    | with_reducible assumption
    | with_reducible apply kept_ite
    | with_reducible apply phaseCounts_kept
    | with_reducible refine phaseStop_kept (by assumption) ?_
    | with_reducible refine kalmanCand_kept (by assumption) ?_
    | with_reducible apply kalmanCand_keptp
    | with_reducible refine freeTrap_kept (by assumption) ?_
    | with_reducible apply freeTrap_keptp
    | with_reducible apply endIter_kept
    | split
    | dsimp only

theorem putUnit_kept (s : State) (n : Nat) (st : Stream) (u : UnitSt) (hK : Kept K s) : Kept K (putUnit s n st u) := by
  unfold putUnit
  repeat' first
    | with_reducible assumption
    | with_reducible apply kept_ite
    | with_reducible apply setStreams_kept
    | split
    | dsimp only

theorem endEstimator_kept (s : State) (r : Run) (n : Nat) (st : Stream) (u : UnitSt) (em : Model) (data : IterData) (hK : Kept K s) : Kept K (endEstimator s r n st u em data) := by
  unfold endEstimator
  repeat' first
    | with_reducible assumption
    | with_reducible apply kept_ite
    | with_reducible apply phaseCounts_kept
    | with_reducible refine phaseStop_kept (by assumption) ?_
    | with_reducible refine kalmanCand_kept (by assumption) ?_
    | with_reducible apply kalmanCand_keptp
    | with_reducible apply putUnit_kept
    | with_reducible refine freeTrap_kept (by assumption) ?_
    | with_reducible apply freeTrap_keptp
    | with_reducible apply putRun_kept
    | split
    | dsimp only

theorem doIterationEnd_kept (s : State) (k : CmdKey) (data : IterData) (hK : Kept K s) : Kept K (doIterationEnd s k data) := by
  unfold doIterationEnd
  repeat' first
    | with_reducible assumption
    | with_reducible apply kept_ite
    | with_reducible apply endEstimator_kept
    | with_reducible apply endKalman_kept
    | with_reducible apply endQp_kept
    | split
    | dsimp only

theorem doDeadlineTrigger_kept (s : State) (k : CmdKey) (hK : Kept K s) : Kept K (doDeadlineTrigger s k) := by
  unfold doDeadlineTrigger
  repeat' first
    | with_reducible assumption
    | with_reducible apply kept_ite
    | with_reducible apply endNum_kept
    | with_reducible apply putRun_kept
    | split
    | dsimp only

theorem stopRun_kept (s : State) (r : Run) (after : Nat) (hK : Kept K s) : Kept K (stopRun s r after) := by
  unfold stopRun
  repeat' first
    | with_reducible assumption
    | with_reducible apply kept_ite
    | with_reducible refine freeTrap_kept (by assumption) ?_
    | with_reducible apply freeTrap_keptp
    | with_reducible apply putRun_kept
    | split
    | dsimp only

theorem doDeadlineStop_kept (s : State) (k : CmdKey) (hK : Kept K s) : Kept K (doDeadlineStop s k) := by
  unfold doDeadlineStop
  repeat' first
    | with_reducible assumption
    | with_reducible apply kept_ite
    | with_reducible apply stopRun_kept
    | split
    | dsimp only

end Sys2Proof.Laws
end

