-- ==== Sys2Proof/Laws/KeptCommit.lean ====
section
/-! SUPPORT. What the operations of Machine/Commit.lean keep (Laws/Kept.lean). -/

namespace Sys2Proof.Laws
open Sys2Proof Sys2Proof.Machine

set_option linter.unusedTactic false
set_option linter.unreachableTactic false
set_option linter.unusedVariables false

variable {K : Keep}

theorem snapshotSets_kept (s : State) (r : Run) (c : RunCounts) (hK : Kept K s) : Kept K (snapshotSets s r c) := by
  unfold snapshotSets
  repeat' first
    | with_reducible assumption
    | with_reducible apply kept_ite
    | with_reducible apply kept_foldl
    | with_reducible apply setPel_kept
    | (intro _ _ _)
    | split
    | dsimp only

theorem releaseAtCommit_kept (s : State) (r : Run) (hK : Kept K s) : Kept K (releaseAtCommit s r) := by
  unfold releaseAtCommit
  repeat' first
    | with_reducible assumption
    | with_reducible apply kept_ite
    | with_reducible apply closeWins_kept
    | with_reducible apply dropRun_kept
    | with_reducible apply emptySlot_kept
    | with_reducible apply freeSlot_kept
    | with_reducible apply emptyFacets_kept
    | with_reducible apply putRun_kept
    | split
    | dsimp only

theorem streamCount_kept (s : State) (ctx n k : Nat) (hK : Kept K s) : Kept K (streamCount s ctx n k) := by
  unfold streamCount
  repeat' first
    | with_reducible assumption
    | with_reducible apply kept_ite
    | with_reducible apply ccount_kept
    | split
    | dsimp only

theorem settleDue_kept (s : State) (n : Nat) (seq : Word) (status flags merit : Nat) (payload : List Byte) (hK : Kept K s) : Kept K (settleDue s n seq status flags merit payload) := by
  unfold settleDue
  repeat' first
    | with_reducible assumption
    | with_reducible apply kept_ite
    | with_reducible apply setStreams_kept
    | split
    | dsimp only

theorem writeFix_kept (s : State) (c : Cmd) (h : FixHdr) (payload : List Byte) (hK : Kept K s) : Kept K (writeFix s c h payload) := by
  unfold writeFix
  repeat' first
    | with_reducible assumption
    | with_reducible apply kept_ite
    | with_reducible apply emit_kept
    | split
    | dsimp only

theorem doCommitPoint_kept (s : State) (k : CmdKey) (site : TrapRec) (hK : Kept K s) : Kept K (doCommitPoint s k site) := by
  unfold doCommitPoint
  repeat' first
    | with_reducible assumption
    | with_reducible apply kept_ite
    | with_reducible apply gcount_kept
    | with_reducible apply traceCmd_kept
    | with_reducible apply snapshotSets_kept
    | with_reducible apply settleDue_kept
    | with_reducible apply fileUnit_kept
    | with_reducible apply releaseAtCommit_kept
    | with_reducible apply writeFix_kept
    | with_reducible apply fileReq_kept
    | split
    | dsimp only

theorem updReq_kept (s : State) (k : CmdKey) (f : CommitReq → CommitReq) (hK : Kept K s) : Kept K (updReq s k f) := by
  unfold updReq
  repeat' first
    | with_reducible assumption
    | with_reducible apply kept_ite
    | with_reducible apply putCmd_kept
    | with_reducible apply setStreams_kept
    | split
    | dsimp only

theorem checkFailed_kept (s : State) (k : CmdKey) (cause : Nat) (detail : List Byte) (hK : Kept K s) (hC : K.calm = false) : Kept K (checkFailed s k cause detail) := by
  unfold checkFailed
  repeat' first
    | with_reducible assumption
    | with_reducible apply kept_ite
    | with_reducible apply deviceEvent_kept
    | with_reducible apply putCmd_kept
    | assumption
    | split
    | dsimp only

theorem recheckOver_kept (s : State) (hK : Kept K s) : Kept K (recheckOver s) := by
  unfold recheckOver
  repeat' first
    | with_reducible assumption
    | with_reducible apply kept_ite
    | with_reducible apply setLog_kept
    | split
    | dsimp only

theorem putStore_kept (s : State) (e : Hdg) (store : Option (List Byte)) (hK : Kept K s) : Kept K (putStore s e store) := by
  unfold putStore
  repeat' first
    | with_reducible assumption
    | with_reducible apply kept_ite
    | with_reducible apply countChartWr_kept
    | with_reducible apply chartPut_kept
    | split
    | dsimp only

theorem writeJournal_kept (s : State) (e : JEntry) (hK : Kept K s) : Kept K (writeJournal s e) := by
  unfold writeJournal
  repeat' first
    | with_reducible assumption
    | with_reducible apply kept_ite
    | with_reducible apply setLog_kept
    | split
    | dsimp only

theorem journalCommitting_kept (s : State) (c : Cmd) (rec : CplRec) (img : Option Hdg) (hK : Kept K s) : Kept K (journalCommitting s c rec img) := by
  unfold journalCommitting
  repeat' first
    | with_reducible assumption
    | with_reducible apply kept_ite
    | with_reducible apply writeJournal_kept
    | split
    | dsimp only

theorem postRecord_kept (s : State) (c : Cmd) (bs : List Byte) (hK : Kept K s) : Kept K (postRecord s c bs) := by
  unfold postRecord
  repeat' first
    | with_reducible assumption
    | with_reducible apply kept_ite
    | with_reducible apply emit_kept
    | split
    | dsimp only

theorem chargeCtx_kept (s : State) (ctx : Nat) (soft : Bool) (charge : Nat) (credit : Int) (hK : Kept K s) : Kept K (chargeCtx s ctx soft charge credit) := by
  unfold chargeCtx
  repeat' first
    | with_reducible assumption
    | with_reducible apply kept_ite
    | with_reducible apply setHelm_kept
    | split
    | dsimp only

theorem freeOthers_kept (s : State) (k : CmdKey) (y0 : List Nat) (hK : Kept K s) : Kept K (freeOthers s k y0) := by
  fun_induction freeOthers s k y0
  all_goals repeat' first
    | with_reducible assumption
    | with_reducible apply kept_ite
    | with_reducible apply setHdgState_kept
    | with_reducible apply_assumption
    | split
    | dsimp +zetaDelta only

theorem unbindStream_kept (s : State) (k : CmdKey) (n : Nat) (hK : Kept K s) : Kept K (unbindStream s k n) := by
  unfold unbindStream
  repeat' first
    | with_reducible assumption
    | with_reducible apply kept_ite
    | with_reducible apply dropRun_kept
    | with_reducible apply closeWin_kept
    | with_reducible apply emptyFacets_kept
    | with_reducible apply setStreams_kept
    | with_reducible apply setHdg_kept
    | split
    | dsimp only

theorem boundStream_kept (s : State) (h n : Nat) (hK : Kept K s) : Kept K (boundStream s h n) := by
  unfold boundStream
  repeat' first
    | with_reducible assumption
    | with_reducible apply kept_ite
    | with_reducible apply setHdg_kept
    | split
    | dsimp only

theorem headingStep_kept (s : State) (c : Cmd) (q : CommitReq) (img : Option Hdg) (hK : Kept K s) : Kept K (headingStep s c q img) := by
  unfold headingStep
  repeat' first
    | with_reducible assumption
    | with_reducible apply kept_ite
    | with_reducible apply setHdg_kept
    | with_reducible apply putStore_kept
    | with_reducible apply freeOthers_kept
    | with_reducible apply commitLoad_kept
    | with_reducible apply commitUnload_kept
    | with_reducible apply boundStream_kept
    | with_reducible apply unbindStream_kept
    | with_reducible apply ccounts_kept
    | with_reducible apply chargeCtx_kept
    | split
    | dsimp only

theorem beaconStep_kept (s : State) (c : Cmd) (q : CommitReq) (hK : Kept K s) : Kept K (beaconStep s c q) := by
  unfold beaconStep
  repeat' first
    | with_reducible assumption
    | with_reducible apply kept_ite
    | with_reducible apply commitSignal_kept
    | with_reducible apply raiseRing_kept
    | split
    | dsimp only

theorem noteBreach_kept (s : State) (k : CmdKey) (x : Option Mer) (hK : Kept K s) : Kept K (noteBreach s k x) := by
  unfold noteBreach
  repeat' first
    | with_reducible assumption
    | with_reducible apply kept_ite
    | ((with_reducible apply setBin_kept); rotate_left; exact rfl; exact rfl)
    | split
    | dsimp only

theorem committedStep_kept (s : State) (c : Cmd) (replayed : Bool) (hK : Kept K s) : Kept K (committedStep s c replayed) := by
  unfold committedStep
  repeat' first
    | with_reducible assumption
    | with_reducible apply kept_ite
    | with_reducible apply setLog_kept
    | with_reducible apply writeJournal_kept
    | with_reducible apply expireWatches_kept
    | with_reducible apply noteBreach_kept
    | with_reducible apply dropCmd_kept
    | with_reducible apply dropRun_kept
    | with_reducible apply setHelm_kept
    | with_reducible apply pump_kept
    | with_reducible apply setRing_kept
    | split
    | dsimp only

theorem commitCmd_kept (s : State) (c : Cmd) (q : CommitReq) (upto : Nat) (hK : Kept K s) : Kept K (commitCmd s c q upto) := by
  unfold commitCmd
  repeat' first
    | with_reducible assumption
    | with_reducible apply kept_ite
    | with_reducible apply journalCommitting_kept
    | with_reducible apply postRecord_kept
    | with_reducible apply updReq_kept
    | with_reducible apply headingStep_kept
    | with_reducible apply beaconStep_kept
    | with_reducible apply committedStep_kept
    | split
    | dsimp only

theorem commitUnit_kept (s : State) (n : Nat) (st : Stream) (u : UnitSt) (q : CommitReq) (upto : Nat) (hK : Kept K s) : Kept K (commitUnit s n st u q upto) := by
  unfold commitUnit
  repeat' first
    | with_reducible assumption
    | with_reducible apply kept_ite
    | with_reducible apply writeJournal_kept
    | with_reducible apply setHdg_kept
    | with_reducible apply putStore_kept
    | with_reducible apply ccounts_kept
    | with_reducible apply streamCount_kept
    | with_reducible apply settleDue_kept
    | with_reducible apply setLog_kept
    | with_reducible apply noteBreach_kept
    | with_reducible apply setStreams_kept
    | split
    | dsimp only

theorem rebuildHdg_kept (s : State) (h : Nat) (hK : Kept K s) : Kept K (rebuildHdg s h) := by
  unfold rebuildHdg
  repeat' first
    | with_reducible assumption
    | with_reducible apply kept_ite
    | with_reducible apply setHelm_kept
    | with_reducible apply raiseEvent_kept
    | split
    | dsimp only

theorem doCommitting_kept (s : State) (k : CmdKey) (fix : List Byte) (lost : List Nat) (upto : Nat) (hK : Kept K s) (hC : K.calm = false) : Kept K (doCommitting s k fix lost upto) := by
  unfold doCommitting
  repeat' first
    | with_reducible assumption
    | with_reducible apply kept_ite
    | with_reducible apply kept_foldl
    | with_reducible apply rebuildHdg_kept
    | with_reducible apply checkFailed_kept
    | with_reducible apply commitCmd_kept
    | with_reducible apply commitUnit_kept
    | assumption
    | (intro _ _ _)
    | split
    | dsimp only

end Sys2Proof.Laws
end

