-- ==== Sys2Proof/Laws/KeptBatching.lean ====
section
/-! SUPPORT. What the operations of Machine/Batching.lean keep (Laws/Kept.lean). -/

namespace Sys2Proof.Laws
open Sys2Proof Sys2Proof.Machine

set_option linter.unusedTactic false
set_option linter.unreachableTactic false
set_option linter.unusedVariables false

variable {K : Keep}

theorem beginCommit_kept (s : State) (k : CmdKey) (hK : Kept K s) : Kept K (beginCommit s k) := by
  unfold beginCommit
  repeat' first
    | with_reducible assumption
    | with_reducible apply kept_ite
    | with_reducible apply putRun_kept
    | with_reducible apply stopRun_kept
    | split
    | dsimp only

theorem leaveSlot_kept (s : State) (k : CmdKey) (hK : Kept K s) : Kept K (leaveSlot s k) := by
  unfold leaveSlot
  repeat' first
    | with_reducible assumption
    | with_reducible apply kept_ite
    | with_reducible apply emptySlot_kept
    | with_reducible apply freeSlot_kept
    | split
    | dsimp only

theorem releaseUnits_kept (s : State) (bi : Nat) (b : Batch) (hK : Kept K s) : Kept K (releaseUnits s bi b) := by
  unfold releaseUnits
  repeat' first
    | with_reducible assumption
    | with_reducible apply kept_ite
    | with_reducible apply kept_foldl
    | with_reducible apply emptyFacets_kept
    | with_reducible apply closeWins_kept
    | with_reducible apply setBatches_kept
    | (intro _ _ _)
    | split
    | dsimp only

theorem joinSlot_kept (s : State) (bi : Nat) (c : Cmd) (m : Nat) (r : Route) (facet slot : Nat) (u : BatchUnit) (hK : Kept K s) : Kept K (joinSlot s bi c m r facet slot u) := by
  unfold joinSlot
  repeat' first
    | with_reducible assumption
    | with_reducible apply kept_ite
    | with_reducible apply writeInst_kept
    | with_reducible apply emptySlot_kept
    | with_reducible apply setBatches_kept
    | with_reducible apply addBalance_kept
    | with_reducible apply startRun_kept
    | with_reducible apply setRuns_kept
    | split
    | dsimp only

theorem joinAll_kept (y0 : Nat) (y1 : State) (y2 : Nat) (y3 : Nat) (y4 : Nat) (y5 : Bool) (y6 : Route) (hK : Kept K y1) : Kept K (joinAll y0 y1 y2 y3 y4 y5 y6) := by
  fun_induction joinAll y0 y1 y2 y3 y4 y5 y6
  all_goals repeat' first
    | with_reducible assumption
    | with_reducible apply kept_ite
    | with_reducible apply fileStatus_kept
    | with_reducible apply joinSlot_kept
    | with_reducible apply_assumption
    | split
    | dsimp +zetaDelta only

theorem addUnit_kept {s : State} {bi ctx model : Nat} {quota : Bool} {r : Route} {t : State}
    (e : addUnit s bi ctx model quota r = some t) (hK : Kept K s) : Kept K t := by
  unfold addUnit at e
  split at e
  · cases e
  · dsimp only at e
    split at e
    · cases e
    · split at e
      · rename_i s' b ts ps hf
        have hs : Kept K s' := by
          split at hf
          · split at hf
            · exact quotaPlacement_kept hf hK
            · cases hf
          · exact softPlacement_kept hf hK
        cases e
        exact joinAll_kept _ _ _ _ _ _ _ (setBatches_kept (reserve_kept _ _ _ (openWins_kept _ _ hs)))
      · cases e

theorem addUnits_kept (y0 : Nat) (y1 : State) (y2 : Nat) (y3 : Nat) (y4 : Nat) (y5 : Bool) (y6 : Route) (hK : Kept K y1) : Kept K (addUnits y0 y1 y2 y3 y4 y5 y6) := by
  fun_induction addUnits y0 y1 y2 y3 y4 y5 y6
  all_goals repeat' first
    | with_reducible assumption
    | with_reducible apply kept_ite
    | with_reducible refine addUnit_kept (by assumption) ?_
    | with_reducible apply_assumption
    | split
    | dsimp +zetaDelta only

theorem tickBatch_kept (s : State) (bi : Nat) (b : Batch) (r : Route) (hK : Kept K s) : Kept K (tickBatch s bi b r) := by
  unfold tickBatch
  repeat' first
    | with_reducible assumption
    | with_reducible apply kept_ite
    | with_reducible apply kept_foldl
    | with_reducible apply beginCommit_kept
    | with_reducible apply leaveSlot_kept
    | with_reducible apply releaseUnits_kept
    | with_reducible apply dropEmptyBatches_kept
    | with_reducible apply joinAll_kept
    | with_reducible apply addUnits_kept
    | (intro _ _ _)
    | split
    | dsimp only

theorem doBatchTick_kept (s : State) (ctx model : Nat) (quota : Bool) (hK : Kept K s) : Kept K (doBatchTick s ctx model quota) := by
  unfold doBatchTick
  repeat' first
    | with_reducible assumption
    | with_reducible apply kept_ite
    | with_reducible apply tickBatch_kept
    | with_reducible apply setBatches_kept
    | split
    | dsimp only

end Sys2Proof.Laws
end

