-- ==== Sys2Proof/Laws/KeptStreams.lean ====
section
/-! SUPPORT. What the operations of Machine/Streams.lean keep (Laws/Kept.lean). -/

namespace Sys2Proof.Laws
open Sys2Proof Sys2Proof.Machine

set_option linter.unusedTactic false
set_option linter.unreachableTactic false
set_option linter.unusedVariables false

variable {K : Keep}

theorem traceStream_kept (s : State) (n : Nat) (st : Stream) (seq : Word) (kind reason : Nat) (hK : Kept K s) : Kept K (traceStream s n st seq kind reason) := by
  unfold traceStream
  repeat' first
    | with_reducible assumption
    | with_reducible apply kept_ite
    | with_reducible apply trace_kept
    | split
    | dsimp only

theorem setStream_kept (s : State) (n : Nat) (st : Stream) (hK : Kept K s) : Kept K (setStream s n st) := by
  unfold setStream
  repeat' first
    | with_reducible assumption
    | with_reducible apply kept_ite
    | with_reducible apply setStreams_kept
    | split
    | dsimp only

theorem bindAt_kept (s : State) (c : Cmd) (n : Nat) (sm : StreamMap) (p : Placement) (step : Nat) (hK : Kept K s) : Kept K (bindAt s c n sm p step) := by
  unfold bindAt
  repeat' first
    | with_reducible assumption
    | with_reducible apply kept_ite
    | with_reducible apply fileReq_kept
    | with_reducible apply openWin_kept
    | with_reducible apply reserve_kept
    | with_reducible apply setStream_kept
    | split
    | dsimp only

theorem doStreamBind_kept (s : State) (k : CmdKey) (hK : Kept K s) : Kept K (doStreamBind s k) := by
  unfold doStreamBind
  repeat' first
    | with_reducible assumption
    | with_reducible apply kept_ite
    | with_reducible apply fileReq_kept
    | with_reducible apply fileStatus_kept
    | with_reducible refine quotaPlacement_kept (by assumption) ?_
    | with_reducible apply bindAt_kept
    | split
    | dsimp only

theorem doStreamUnbind_kept (s : State) (k : CmdKey) (hK : Kept K s) : Kept K (doStreamUnbind s k) := by
  unfold doStreamUnbind
  repeat' first
    | with_reducible assumption
    | with_reducible apply kept_ite
    | with_reducible apply fileStatus_kept
    | with_reducible apply fileReq_kept
    | with_reducible apply putCmd_kept
    | with_reducible apply setStream_kept
    | split
    | dsimp only

theorem unreadable_kept (s : State) (n : Nat) (st : Stream) (hK : Kept K s) : Kept K (unreadable s n st) := by
  unfold unreadable
  repeat' first
    | with_reducible assumption
    | with_reducible apply kept_ite
    | with_reducible apply traceStream_kept
    | with_reducible apply streamCount_kept
    | with_reducible apply setStream_kept
    | split
    | dsimp only

theorem ignorePackets_kept (s : State) (p count : Nat) (hK : Kept K s) : Kept K (ignorePackets s p count) := by
  unfold ignorePackets
  repeat' first
    | with_reducible assumption
    | with_reducible apply kept_ite
    | with_reducible apply gcount_kept
    | split
    | dsimp only

theorem doSoundingFrameStart_kept (s : State) (port vc : Nat) (hK : Kept K s) : Kept K (doSoundingFrameStart s port vc) := by
  unfold doSoundingFrameStart
  repeat' first
    | with_reducible assumption
    | with_reducible apply kept_ite
    | with_reducible apply unreadable_kept
    | with_reducible apply setStream_kept
    | split
    | dsimp only

theorem frameRow_keptp (s : State) (n a : Nat) (bs : List Byte) (hK : Kept K s) : Kept K (frameRow s n a bs).1 := by
  unfold frameRow
  repeat' first
    | with_reducible assumption
    | (dsimp only; with_reducible assumption)
    | with_reducible apply kept_ite
    | with_reducible apply admitRow_kept
    | with_reducible apply countRefused_kept
    | split
    | dsimp only

theorem frameRow_kept {s : State} {n a : Nat} {bs : List Byte} {r0 : State} {r1 : Bool} (e : frameRow s n a bs = (r0, r1)) (hK : Kept K s)  : Kept K r0 := by
  have := frameRow_keptp s n a bs hK 
  rw [e] at this
  exact this

theorem frameRows_keptp (s : State) (n : Nat) (y0 : Nat) (y1 : Nat) (y2 : List Byte) (hK : Kept K s) : Kept K (frameRows s n y0 y1 y2).1 := by
  fun_induction frameRows s n y0 y1 y2
  all_goals repeat' first
    | with_reducible assumption
    | (dsimp only; with_reducible assumption)
    | with_reducible apply kept_ite
    | with_reducible refine frameRow_kept (by assumption) ?_
    | with_reducible apply frameRow_keptp
    | with_reducible apply_assumption
    | refine kept_fst (by assumption) ?_
    | split
    | dsimp +zetaDelta only

theorem frameRows_kept {s : State} {n : Nat} {y0 : Nat} {y1 : Nat} {y2 : List Byte} {r0 : State} {r1 : Bool} (e : frameRows s n y0 y1 y2 = (r0, r1)) (hK : Kept K s)  : Kept K r0 := by
  have := frameRows_keptp s n y0 y1 y2 hK 
  rw [e] at this
  exact this

theorem storeFrame_keptp (s : State) (n : Nat) (st : Stream) (sm : StreamMap) (h : SndHdr) (f : SndFrame) (hK : Kept K s) : Kept K (storeFrame s n st sm h f).1 := by
  unfold storeFrame
  repeat' first
    | with_reducible assumption
    | (dsimp only; with_reducible assumption)
    | with_reducible apply kept_ite
    | with_reducible refine frameRow_kept (by assumption) ?_
    | with_reducible apply frameRow_keptp
    | with_reducible refine frameRows_kept (by assumption) ?_
    | with_reducible apply frameRows_keptp
    | split
    | dsimp only

theorem storeFrame_kept {s : State} {n : Nat} {st : Stream} {sm : StreamMap} {h : SndHdr} {f : SndFrame} {r0 : State} {r1 : Bool} (e : storeFrame s n st sm h f = (r0, r1)) (hK : Kept K s)  : Kept K r0 := by
  have := storeFrame_keptp s n st sm h f hK 
  rw [e] at this
  exact this

theorem serveFrame_kept (s : State) (n : Nat) (st : Stream) (h : SndHdr) (t : Mer) (payload : List Byte) (hK : Kept K s) : Kept K (serveFrame s n st h t payload) := by
  unfold serveFrame
  repeat' first
    | with_reducible assumption
    | with_reducible apply kept_ite
    | with_reducible apply setStream_kept
    | split
    | dsimp only

theorem missed_kept (s : State) (n : Nat) (st : Stream) (seq : Word) (hK : Kept K s) : Kept K (missed s n st seq) := by
  unfold missed
  repeat' first
    | with_reducible assumption
    | with_reducible apply kept_ite
    | with_reducible apply traceStream_kept
    | with_reducible apply setStream_kept
    | split
    | dsimp only

theorem readableEnd_kept (s : State) (n : Nat) (st : Stream) (sm : StreamMap) (h : SndHdr) (f : SndFrame) (t : Mer) (hK : Kept K s) : Kept K (readableEnd s n st sm h f t) := by
  unfold readableEnd
  repeat' first
    | with_reducible assumption
    | with_reducible apply kept_ite
    | with_reducible refine storeFrame_kept (by assumption) ?_
    | with_reducible apply storeFrame_keptp
    | with_reducible apply missed_kept
    | with_reducible apply streamCount_kept
    | with_reducible apply setStream_kept
    | with_reducible apply serveFrame_kept
    | split
    | dsimp only

theorem doSoundingFrameEnd_kept (s : State) (port vc : Nat) (f : SndFrame) (hK : Kept K s) : Kept K (doSoundingFrameEnd s port vc f) := by
  unfold doSoundingFrameEnd
  repeat' first
    | with_reducible assumption
    | with_reducible apply kept_ite
    | with_reducible apply gcount_kept
    | with_reducible apply ignorePackets_kept
    | with_reducible apply unreadable_kept
    | with_reducible apply traceStream_kept
    | with_reducible apply streamCount_kept
    | with_reducible apply setStream_kept
    | with_reducible apply readableEnd_kept
    | split
    | dsimp only

theorem doCsiPacketIgnored_kept (s : State) (port : Nat) (hdrEcc : Bool) (hK : Kept K s) : Kept K (doCsiPacketIgnored s port hdrEcc) := by
  unfold doCsiPacketIgnored
  repeat' first
    | with_reducible assumption
    | with_reducible apply kept_ite
    | with_reducible apply gcount_kept
    | with_reducible apply setStreams_kept
    | with_reducible apply ignorePackets_kept
    | split
    | dsimp only

theorem unserve_kept (s : State) (n : Nat) (st : Stream) (u : UnitSt) (hK : Kept K s) : Kept K (unserve s n st u) := by
  unfold unserve
  repeat' first
    | with_reducible assumption
    | with_reducible apply kept_ite
    | with_reducible apply setStream_kept
    | split
    | dsimp only

theorem doStreamUnitLaunch_kept (s : State) (n event : Nat) (hK : Kept K s) : Kept K (doStreamUnitLaunch s n event) := by
  unfold doStreamUnitLaunch
  repeat' first
    | with_reducible assumption
    | with_reducible apply kept_ite
    | with_reducible apply unserve_kept
    | with_reducible apply setStream_kept
    | with_reducible apply openWins_kept
    | with_reducible apply setRuns_kept
    | with_reducible apply startRun_kept
    | split
    | dsimp only

theorem silenceStream_kept (s : State) (n : Nat) (hK : Kept K s) : Kept K (silenceStream s n) := by
  unfold silenceStream
  repeat' first
    | with_reducible assumption
    | with_reducible apply kept_ite
    | with_reducible apply setCsi_kept
    | with_reducible apply setStream_kept
    | split
    | dsimp only

theorem failStream_kept (s : State) (n : Nat) (detail : Nat) (hK : Kept K s) : Kept K (failStream s n detail) := by
  unfold failStream
  repeat' first
    | with_reducible assumption
    | with_reducible apply kept_ite
    | with_reducible apply silenceStream_kept
    | with_reducible apply setHelm_kept
    | with_reducible apply raiseEvent_kept
    | split
    | dsimp only

theorem startFix_kept (s : State) (n : Nat) (st : Stream) (d : FixDue) (rest : List FixDue) (hK : Kept K s) : Kept K (startFix s n st d rest) := by
  unfold startFix
  repeat' first
    | with_reducible assumption
    | with_reducible apply kept_ite
    | with_reducible refine freeNat_kept (by assumption) ?_
    | with_reducible apply freeNat_keptp
    | with_reducible apply setStream_kept
    | with_reducible apply setCsi_kept
    | with_reducible apply traceStream_kept
    | with_reducible apply streamCount_kept
    | with_reducible apply raiseNotice_kept
    | split
    | dsimp only

theorem doFixFrameEmit_kept (s : State) (n : Nat) (hK : Kept K s) : Kept K (doFixFrameEmit s n) := by
  unfold doFixFrameEmit
  repeat' first
    | with_reducible assumption
    | with_reducible apply kept_ite
    | with_reducible apply failStream_kept
    | with_reducible apply startFix_kept
    | split
    | dsimp only

theorem streamCommitted_kept (s : State) (n : Nat) (st : Stream) (seq : Word) (hK : Kept K s) : Kept K (streamCommitted s n st seq) := by
  unfold streamCommitted
  repeat' first
    | with_reducible assumption
    | with_reducible apply kept_ite
    | with_reducible apply setLog_kept
    | with_reducible apply writeJournal_kept
    | split
    | dsimp only

theorem doFixFrameSent_kept (s : State) (n : Nat) (hK : Kept K s) : Kept K (doFixFrameSent s n) := by
  unfold doFixFrameSent
  repeat' first
    | with_reducible assumption
    | with_reducible apply kept_ite
    | with_reducible apply setCsi_kept
    | with_reducible apply gcount_kept
    | with_reducible apply emit_kept
    | with_reducible apply setStream_kept
    | with_reducible apply streamCommitted_kept
    | with_reducible apply fileReq_kept
    | split
    | dsimp only

theorem doStreamWatchdog_kept (s : State) (n : Nat) (hK : Kept K s) : Kept K (doStreamWatchdog s n) := by
  unfold doStreamWatchdog
  repeat' first
    | with_reducible assumption
    | with_reducible apply kept_ite
    | with_reducible apply setStream_kept
    | split
    | dsimp only

theorem doStreamFailed_kept (s : State) (n : Nat) (portFault : Bool) (hK : Kept K s) : Kept K (doStreamFailed s n portFault) := by
  unfold doStreamFailed
  repeat' first
    | with_reducible assumption
    | with_reducible apply kept_ite
    | with_reducible apply failStream_kept
    | split
    | dsimp only

theorem doSkewCalibration_kept (s : State) (port : Nat) (dur : Mer) (hK : Kept K s) : Kept K (doSkewCalibration s port dur) := by
  unfold doSkewCalibration
  repeat' first
    | with_reducible assumption
    | with_reducible apply kept_ite
    | with_reducible apply emit_kept
    | with_reducible apply setCsi_kept
    | split
    | dsimp only

theorem rebind_kept (s : State) (n : Nat) (avoid : List Nat) (hK : Kept K s) : Kept K (rebind s n avoid) := by
  unfold rebind
  repeat' first
    | with_reducible assumption
    | with_reducible apply kept_ite
    | with_reducible apply failStream_kept
    | with_reducible apply emptyFacets_kept
    | with_reducible apply closeWin_kept
    | with_reducible apply setStream_kept
    | with_reducible apply reserve_kept
    | with_reducible apply openWin_kept
    | split
    | dsimp only

end Sys2Proof.Laws
end

