-- ==== Sys2Proof/Laws/KeptFaults.lean ====
section
/-! SUPPORT. What the operations of Machine/Faults.lean keep (Laws/Kept.lean). -/

namespace Sys2Proof.Laws
open Sys2Proof Sys2Proof.Machine

set_option linter.unusedTactic false
set_option linter.unreachableTactic false
set_option linter.unusedVariables false

variable {K : Keep}

theorem loseStore_kept (s : State) (h : Nat) (hK : Kept K s) : Kept K (loseStore s h) := by
  unfold loseStore
  repeat' first
    | with_reducible assumption
    | with_reducible apply kept_ite
    | with_reducible apply countChartWr_kept
    | with_reducible apply chartClear_kept
    | with_reducible apply setHdg_kept
    | split
    | dsimp only

theorem repair_kept (s : State) (a n : Nat) (hK : Kept K s) : Kept K (repair s a n) := by
  unfold repair
  repeat' first
    | with_reducible assumption
    | with_reducible apply kept_ite
    | with_reducible apply countChartWr_kept
    | with_reducible apply chartClear_kept
    | with_reducible apply chartPut_kept
    | with_reducible apply loseStore_kept
    | split
    | dsimp only

theorem sweepModels_kept (s : State) (hK : Kept K s) : Kept K (sweepModels s) := by
  unfold sweepModels
  repeat' first
    | with_reducible assumption
    | with_reducible apply kept_ite
    | with_reducible apply kept_foldl
    | with_reducible apply commitUnload_kept
    | (intro _ _ _)
    | split
    | dsimp only

theorem dropModel_kept (s : State) (n : Nat) (hK : Kept K s) : Kept K (dropModel s n) := by
  unfold dropModel
  repeat' first
    | with_reducible assumption
    | with_reducible apply kept_ite
    | with_reducible apply kept_foldl
    | with_reducible apply setModel_kept
    | with_reducible apply failStream_kept
    | with_reducible apply unplace_kept
    | with_reducible apply putCmd_kept
    | with_reducible apply fileStatus_kept
    | with_reducible apply sweepModels_kept
    | (intro _ _ _)
    | split
    | dsimp only

theorem retireBank_kept (s : State) (n : Nat) (hK : Kept K s) : Kept K (retireBank s n) := by
  unfold retireBank
  repeat' first
    | with_reducible assumption
    | with_reducible apply kept_ite
    | with_reducible apply kept_foldl
    | ((with_reducible apply setChart_kept); rotate_left; exact rfl)
    | ((with_reducible apply setChart_kept_mem); rotate_left; first | exact memWf_writeBytes _ _ | exact memWf_clear _ _ | exact memWf_filter _)
    | with_reducible apply dropModel_kept
    | with_reducible apply setBank_kept
    | with_reducible apply startPowerDown_kept
    | with_reducible apply raiseNotice_kept
    | (intro _ _ _)
    | split
    | dsimp only

theorem wordAgain_kept (s : State) (a : Nat) (hK : Kept K s) : Kept K (wordAgain s a) := by
  unfold wordAgain
  repeat' first
    | with_reducible assumption
    | with_reducible apply kept_ite
    | ((with_reducible apply setChart_kept); rotate_left; exact rfl)
    | ((with_reducible apply setChart_kept_mem); rotate_left; first | exact memWf_writeBytes _ _ | exact memWf_clear _ _ | exact memWf_filter _)
    | with_reducible apply raiseEvent_kept
    | with_reducible apply repair_kept
    | with_reducible apply retireBank_kept
    | split
    | dsimp only

theorem repairRead_keptp (s : State) (a : Nat) (hK : Kept K s) : Kept K (repairRead s a).1 := by
  unfold repairRead
  repeat' first
    | with_reducible assumption
    | (dsimp only; with_reducible assumption)
    | with_reducible apply kept_ite
    | with_reducible apply wordAgain_kept
    | with_reducible apply repair_kept
    | ((with_reducible apply setChart_kept); rotate_left; exact rfl)
    | ((with_reducible apply setChart_kept_mem); rotate_left; first | exact memWf_writeBytes _ _ | exact memWf_clear _ _ | exact memWf_filter _)
    | split
    | dsimp only

theorem repairRead_kept {s : State} {a : Nat} {r0 : State} {r1 : Bool} (e : repairRead s a = (r0, r1)) (hK : Kept K s)  : Kept K r0 := by
  have := repairRead_keptp s a hK 
  rw [e] at this
  exact this

theorem nameFacet_keptp (s : State) (g : Nat) (hK : Kept K s) : Kept K (nameFacet s g).1 := by
  unfold nameFacet
  repeat' first
    | with_reducible assumption
    | (dsimp only; with_reducible assumption)
    | with_reducible apply kept_ite
    | with_reducible apply setRose_kept
    | split
    | dsimp only

theorem nameFacet_kept {s : State} {g : Nat} {r0 : State} {r1 : Bool} (e : nameFacet s g = (r0, r1)) (hK : Kept K s)  : Kept K r0 := by
  have := nameFacet_keptp s g hK 
  rw [e] at this
  exact this

theorem nameLane_keptp (s : State) (sector lane : Nat) (hK : Kept K s) : Kept K (nameLane s sector lane).1 := by
  unfold nameLane
  repeat' first
    | with_reducible assumption
    | (dsimp only; with_reducible assumption)
    | with_reducible apply kept_ite
    | with_reducible apply setRose_kept
    | split
    | dsimp only

theorem nameLane_kept {s : State} {sector lane : Nat} {r0 : State} {r1 : Bool} (e : nameLane s sector lane = (r0, r1)) (hK : Kept K s)  : Kept K r0 := by
  have := nameLane_keptp s sector lane hK 
  rw [e] at this
  exact this

theorem nameUnit_keptp (s : State) (y0 : FaultUnit) (hK : Kept K s) : Kept K (nameUnit s y0).1 := by
  unfold nameUnit
  repeat' first
    | with_reducible assumption
    | (dsimp only; with_reducible assumption)
    | with_reducible apply kept_ite
    | with_reducible refine nameFacet_kept (by assumption) ?_
    | with_reducible apply nameFacet_keptp
    | with_reducible refine nameLane_kept (by assumption) ?_
    | with_reducible apply nameLane_keptp
    | split
    | dsimp only

theorem nameUnit_kept {s : State} {y0 : FaultUnit} {r0 : State} {r1 : Bool} (e : nameUnit s y0 = (r0, r1)) (hK : Kept K s)  : Kept K r0 := by
  have := nameUnit_keptp s y0 hK 
  rw [e] at this
  exact this

theorem shadowLost_kept (s : State) (a : Nat) (y0 : Option Nat) (hK : Kept K s) : Kept K (shadowLost s a y0) := by
  unfold shadowLost
  repeat' first
    | with_reducible assumption
    | with_reducible apply kept_ite
    | with_reducible apply dropModel_kept
    | with_reducible apply rcount_kept
    | split
    | dsimp only

theorem repairAll_keptp (s : State) (y0 : List JobCause) (hK : Kept K s) : Kept K (repairAll s y0).1 := by
  fun_induction repairAll s y0
  all_goals repeat' first
    | with_reducible assumption
    | (dsimp only; with_reducible assumption)
    | with_reducible apply kept_ite
    | with_reducible refine repairRead_kept (by assumption) ?_
    | with_reducible apply repairRead_keptp
    | with_reducible apply shadowLost_kept
    | with_reducible apply_assumption
    | refine kept_fst (by assumption) ?_
    | split
    | dsimp +zetaDelta only

theorem repairAll_kept {s : State} {y0 : List JobCause} {r0 : State} {r1 : Bool} (e : repairAll s y0 = (r0, r1)) (hK : Kept K s)  : Kept K r0 := by
  have := repairAll_keptp s y0 hK 
  rw [e] at this
  exact this

theorem markParity_kept (s : State) (y0 : List JobCause) (hK : Kept K s) : Kept K (markParity s y0) := by
  fun_induction markParity s y0
  all_goals repeat' first
    | with_reducible assumption
    | with_reducible apply kept_ite
    | with_reducible apply setRose_kept
    | with_reducible apply_assumption
    | split
    | dsimp +zetaDelta only

theorem doPartitionReset_kept (s : State) (k : CmdKey) (causes : List JobCause) (hK : Kept K s) : Kept K (doPartitionReset s k causes) := by
  unfold doPartitionReset
  repeat' first
    | with_reducible assumption
    | with_reducible apply kept_ite
    | with_reducible apply markParity_kept
    | with_reducible apply windowFault_kept
    | with_reducible apply jobFault_kept
    | with_reducible refine nameUnit_kept (by assumption) ?_
    | with_reducible apply nameUnit_keptp
    | with_reducible refine repairAll_kept (by assumption) ?_
    | with_reducible apply repairAll_keptp
    | with_reducible apply rebind_kept
    | split
    | dsimp only

theorem failFacet_kept (s : State) (g : Nat) (hK : Kept K s) : Kept K (failFacet s g) := by
  unfold failFacet
  repeat' first
    | with_reducible assumption
    | with_reducible apply kept_ite
    | with_reducible apply setRose_kept
    | with_reducible apply raiseNotice_kept
    | split
    | dsimp only

theorem failSextant_kept (s : State) (k : Nat) (hK : Kept K s) : Kept K (failSextant s k) := by
  unfold failSextant
  repeat' first
    | with_reducible assumption
    | with_reducible apply kept_ite
    | with_reducible apply setRose_kept
    | with_reducible apply raiseNotice_kept
    | split
    | dsimp only

theorem doFacetLbistEnd_kept (s : State) (unit0 : Nat) (pass : Bool) (hK : Kept K s) : Kept K (doFacetLbistEnd s unit0 pass) := by
  unfold doFacetLbistEnd
  repeat' first
    | with_reducible assumption
    | with_reducible apply kept_ite
    | with_reducible apply setRose_kept
    | with_reducible apply failFacet_kept
    | with_reducible apply failSextant_kept
    | split
    | dsimp only

theorem doSpareSubstitution_kept (s : State) (sector : Nat) (hK : Kept K s) : Kept K (doSpareSubstitution s sector) := by
  unfold doSpareSubstitution
  repeat' first
    | with_reducible assumption
    | with_reducible apply kept_ite
    | with_reducible apply setRose_kept
    | with_reducible apply raiseNotice_kept
    | with_reducible apply raiseEvent_kept
    | split
    | dsimp only

theorem recheckEcc_kept (s : State) (k : CmdKey) (x : Queued) (hK : Kept K s) : Kept K (recheckEcc s k x) := by
  unfold recheckEcc
  repeat' first
    | with_reducible assumption
    | with_reducible apply kept_ite
    | with_reducible apply raiseEvent_kept
    | with_reducible apply dropRun_kept
    | with_reducible apply setLog_kept
    | with_reducible apply countFault_kept
    | with_reducible apply putCmd_kept
    | with_reducible apply setStreams_kept
    | with_reducible apply returnUnit_kept
    | with_reducible apply fileUnit_kept
    | split
    | dsimp only

theorem doRecheckEnd_kept (s : State) (k : CmdKey) (fix fix2 : List Byte) (words : List Nat) (lost shadow : Option Nat) (hK : Kept K s) (hC : K.calm = false) : Kept K (doRecheckEnd s k fix fix2 words lost shadow) := by
  unfold doRecheckEnd
  repeat' first
    | with_reducible assumption
    | with_reducible apply kept_ite
    | with_reducible apply feedEcc_kept
    | with_reducible apply recheckEcc_kept
    | with_reducible apply recheckOver_kept
    | with_reducible refine repairRead_kept (by assumption) ?_
    | with_reducible apply repairRead_keptp
    | with_reducible apply shadowLost_kept
    | with_reducible apply checkFailed_kept
    | with_reducible apply dropRun_kept
    | with_reducible apply updReq_kept
    | assumption
    | split
    | dsimp only

theorem dmaFault_kept (s : State) (row writer : Nat) (hK : Kept K s) : Kept K (dmaFault s row writer) := by
  unfold dmaFault
  repeat' first
    | with_reducible assumption
    | with_reducible apply kept_ite
    | with_reducible apply killRun_kept
    | with_reducible apply fileReq_kept
    | split
    | dsimp only

theorem refusedOutcome_kept (s : State) (row writer : Nat) (hK : Kept K s) : Kept K (refusedOutcome s row writer) := by
  unfold refusedOutcome
  repeat' first
    | with_reducible assumption
    | with_reducible apply kept_ite
    | with_reducible apply countRefused_kept
    | with_reducible apply windowFault_kept
    | with_reducible apply setStream_kept
    | with_reducible apply dmaFault_kept
    | split
    | dsimp only

theorem doRemoteWrite_kept (s : State) (row writer : Nat) (data : List Byte) (closing : Bool) (hK : Kept K s) : Kept K (doRemoteWrite s row writer data closing) := by
  unfold doRemoteWrite
  repeat' first
    | with_reducible assumption
    | with_reducible apply kept_ite
    | with_reducible apply admitRow_kept
    | with_reducible apply refusedOutcome_kept
    | split
    | dsimp only

theorem doInputReadComplete_kept (s : State) (k : CmdKey) (rows : List Byte) (off : Nat) (words : List Nat) (lost : Option Nat) (hK : Kept K s) : Kept K (doInputReadComplete s k rows off words lost) := by
  unfold doInputReadComplete
  repeat' first
    | with_reducible assumption
    | with_reducible apply kept_ite
    | with_reducible apply feedEcc_kept
    | with_reducible apply commandFault_kept
    | with_reducible refine repairRead_kept (by assumption) ?_
    | with_reducible apply repairRead_keptp
    | with_reducible apply putCmd_kept
    | with_reducible apply pcieIn_kept
    | with_reducible apply writeInst_kept
    | with_reducible apply fixLaunch_kept
    | split
    | dsimp only

theorem spillError_kept (s : State) (k : CmdKey) (ctrl : Nat) (hK : Kept K s) : Kept K (spillError s k ctrl) := by
  unfold spillError
  repeat' first
    | with_reducible assumption
    | with_reducible apply kept_ite
    | with_reducible apply commandFault_kept
    | with_reducible apply rcount_kept
    | split
    | dsimp only

theorem doInputReadError_kept (s : State) (k : CmdKey) (spill : Option Nat) (hK : Kept K s) : Kept K (doInputReadError s k spill) := by
  unfold doInputReadError
  repeat' first
    | with_reducible assumption
    | with_reducible apply kept_ite
    | with_reducible apply spillError_kept
    | with_reducible apply commandFault_kept
    | split
    | dsimp only

theorem doPcieCompletionTimeout_kept (s : State) (k : CmdKey) (fetch : Bool) (hK : Kept K s) : Kept K (doPcieCompletionTimeout s k fetch) := by
  unfold doPcieCompletionTimeout
  repeat' first
    | with_reducible assumption
    | with_reducible apply kept_ite
    | with_reducible apply timeoutFetch_kept
    | with_reducible apply doInputReadError_kept
    | split
    | dsimp only

end Sys2Proof.Laws
end

