-- ==== Sys2Proof/Laws/KeptContexts.lean ====
section
/-! SUPPORT. What the operations of Machine/Contexts.lean keep (Laws/Kept.lean). -/

namespace Sys2Proof.Laws
open Sys2Proof Sys2Proof.Machine

set_option linter.unusedTactic false
set_option linter.unreachableTactic false
set_option linter.unusedVariables false

variable {K : Keep}

theorem cmdRegWrite_kept (s : State) (off : Nat) (w : Word) (hK : Kept K s) : Kept K (cmdRegWrite s off w) := by
  unfold cmdRegWrite
  repeat' first
    | with_reducible assumption
    | with_reducible apply kept_ite
    | with_reducible apply rput_kept
    | split
    | dsimp only

theorem cmdRegErr_kept (s : State) (off : Nat) (hK : Kept K s) : Kept K (cmdRegErr s off) := by
  unfold cmdRegErr
  repeat' first
    | with_reducible assumption
    | with_reducible apply kept_ite
    | with_reducible apply rflag_kept
    | split
    | dsimp only

theorem ctxDefine_kept (s : State) (ctx : Nat) (b : Line) (hK : Kept K s) : Kept K (ctxDefine s ctx b) := by
  unfold ctxDefine
  repeat' first
    | with_reducible assumption
    | with_reducible apply kept_ite
    | with_reducible apply pcieIn_kept
    | with_reducible apply cmdRegErr_kept
    | with_reducible apply setPel_kept
    | with_reducible apply setHelm_kept
    | split
    | dsimp only

theorem ctxUpdate_kept (s : State) (ctx : Nat) (b : Line) (hK : Kept K s) : Kept K (ctxUpdate s ctx b) := by
  unfold ctxUpdate
  repeat' first
    | with_reducible assumption
    | with_reducible apply kept_ite
    | with_reducible apply cmdRegErr_kept
    | with_reducible apply pcieIn_kept
    | with_reducible apply setHelm_kept
    | split
    | dsimp only

theorem ctxUndefine_kept (s : State) (ctx : Nat) (hK : Kept K s) : Kept K (ctxUndefine s ctx) := by
  unfold ctxUndefine
  repeat' first
    | with_reducible assumption
    | with_reducible apply kept_ite
    | with_reducible apply cmdRegErr_kept
    | with_reducible apply setHelm_kept
    | split
    | dsimp only

theorem doCtxDefine_kept (s : State) (w : Word) (block : Line) (hK : Kept K s) : Kept K (doCtxDefine s w block) := by
  unfold doCtxDefine
  repeat' first
    | with_reducible assumption
    | with_reducible apply kept_ite
    | with_reducible apply ctxDefine_kept
    | with_reducible apply cmdRegWrite_kept
    | split
    | dsimp only

theorem doCtxUpdate_kept (s : State) (w : Word) (block : Line) (hK : Kept K s) : Kept K (doCtxUpdate s w block) := by
  unfold doCtxUpdate
  repeat' first
    | with_reducible assumption
    | with_reducible apply kept_ite
    | with_reducible apply ctxUpdate_kept
    | with_reducible apply cmdRegWrite_kept
    | split
    | dsimp only

theorem doCtxUndefine_kept (s : State) (w : Word) (hK : Kept K s) : Kept K (doCtxUndefine s w) := by
  unfold doCtxUndefine
  repeat' first
    | with_reducible assumption
    | with_reducible apply kept_ite
    | with_reducible apply ctxUndefine_kept
    | with_reducible apply cmdRegWrite_kept
    | split
    | dsimp only

theorem ctxBaseWrite_kept (s : State) (hi : Bool) (w : Word) (hK : Kept K s) : Kept K (ctxBaseWrite s hi w) := by
  unfold ctxBaseWrite
  repeat' first
    | with_reducible assumption
    | with_reducible apply kept_ite
    | with_reducible apply cmdRegErr_kept
    | with_reducible apply rput_kept
    | split
    | dsimp only

theorem rsvWrite_kept (s : State) (w : Word) (hK : Kept K s) : Kept K (rsvWrite s w) := by
  unfold rsvWrite
  repeat' first
    | with_reducible assumption
    | with_reducible apply kept_ite
    | with_reducible apply rput_kept
    | split
    | dsimp only

theorem fnCtxWrite_kept (s : State) (f : Nat) (w : Word) (hK : Kept K s) : Kept K (fnCtxWrite s f w) := by
  unfold fnCtxWrite
  repeat' first
    | with_reducible assumption
    | with_reducible apply kept_ite
    | with_reducible apply cmdRegErr_kept
    | with_reducible apply rput_kept
    | split
    | dsimp only

theorem doCtxBaseWrite_kept (s : State) (hi : Bool) (w : Word) (hK : Kept K s) : Kept K (doCtxBaseWrite s hi w) := by
  unfold doCtxBaseWrite
  repeat' first
    | with_reducible assumption
    | with_reducible apply kept_ite
    | with_reducible apply ctxBaseWrite_kept
    | split
    | dsimp only

theorem doRsvFacetsWrite_kept (s : State) (w : Word) (hK : Kept K s) : Kept K (doRsvFacetsWrite s w) := by
  unfold doRsvFacetsWrite
  repeat' first
    | with_reducible assumption
    | with_reducible apply kept_ite
    | with_reducible apply rsvWrite_kept
    | split
    | dsimp only

theorem doFnCtxWrite_kept (s : State) (f : Nat) (w : Word) (hK : Kept K s) : Kept K (doFnCtxWrite s f w) := by
  unfold doFnCtxWrite
  repeat' first
    | with_reducible assumption
    | with_reducible apply kept_ite
    | with_reducible apply fnCtxWrite_kept
    | split
    | dsimp only

theorem bcnSet_kept (s : State) (ctx : Nat) (hK : Kept K s) : Kept K (bcnSet s ctx) := by
  unfold bcnSet
  repeat' first
    | with_reducible assumption
    | with_reducible apply kept_ite
    | with_reducible apply setHelm_kept
    | split
    | dsimp only

theorem bcnGet_kept (s : State) (ctx : Nat) (hK : Kept K s) : Kept K (bcnGet s ctx) := by
  unfold bcnGet
  repeat' first
    | with_reducible assumption
    | with_reducible apply kept_ite
    | with_reducible apply rput_kept
    | split
    | dsimp only

theorem doBeaconRangeSet_kept (s : State) (w : Word) (hK : Kept K s) : Kept K (doBeaconRangeSet s w) := by
  unfold doBeaconRangeSet
  repeat' first
    | with_reducible assumption
    | with_reducible apply kept_ite
    | with_reducible apply bcnSet_kept
    | with_reducible apply cmdRegWrite_kept
    | split
    | dsimp only

theorem doBeaconRangeGet_kept (s : State) (w : Word) (hK : Kept K s) : Kept K (doBeaconRangeGet s w) := by
  unfold doBeaconRangeGet
  repeat' first
    | with_reducible assumption
    | with_reducible apply kept_ite
    | with_reducible apply bcnGet_kept
    | with_reducible apply cmdRegWrite_kept
    | split
    | dsimp only

theorem hdgSet_kept (s : State) (ctx : Nat) (hK : Kept K s) : Kept K (hdgSet s ctx) := by
  unfold hdgSet
  repeat' first
    | with_reducible assumption
    | with_reducible apply kept_ite
    | with_reducible apply cmdRegErr_kept
    | with_reducible apply setHelm_kept
    | split
    | dsimp only

theorem hdgGet_kept (s : State) (ctx : Nat) (hK : Kept K s) : Kept K (hdgGet s ctx) := by
  unfold hdgGet
  repeat' first
    | with_reducible assumption
    | with_reducible apply kept_ite
    | with_reducible apply rput_kept
    | split
    | dsimp only

theorem doHeadingRangeSet_kept (s : State) (w : Word) (hK : Kept K s) : Kept K (doHeadingRangeSet s w) := by
  unfold doHeadingRangeSet
  repeat' first
    | with_reducible assumption
    | with_reducible apply kept_ite
    | with_reducible apply hdgSet_kept
    | with_reducible apply cmdRegWrite_kept
    | split
    | dsimp only

theorem doHeadingRangeGet_kept (s : State) (w : Word) (hK : Kept K s) : Kept K (doHeadingRangeGet s w) := by
  unfold doHeadingRangeGet
  repeat' first
    | with_reducible assumption
    | with_reducible apply kept_ite
    | with_reducible apply hdgGet_kept
    | with_reducible apply cmdRegWrite_kept
    | split
    | dsimp only

theorem latchWords_kept (s : State) (copy off : Nat) (y0 : List Byte) (y1 : Nat) (hK : Kept K s) : Kept K (latchWords s copy off y0 y1) := by
  fun_induction latchWords s copy off y0 y1
  all_goals repeat' first
    | with_reducible assumption
    | with_reducible apply kept_ite
    | with_reducible apply regPut_kept
    | with_reducible apply_assumption
    | split
    | dsimp +zetaDelta only

theorem doHeadingEntryLatch_kept (s : State) (path : Nat) (w : Word) (hK : Kept K s) : Kept K (doHeadingEntryLatch s path w) := by
  unfold doHeadingEntryLatch
  repeat' first
    | with_reducible assumption
    | with_reducible apply kept_ite
    | with_reducible apply regPut_kept
    | with_reducible apply latchWords_kept
    | split
    | dsimp only

end Sys2Proof.Laws
end

