-- ==== Sys2Proof/Laws/KeptReset.lean ====
section
/-! SUPPORT. What the operations of Machine/Reset.lean keep (Laws/Kept.lean). -/

namespace Sys2Proof.Laws
open Sys2Proof Sys2Proof.Machine

set_option linter.unusedTactic false
set_option linter.unreachableTactic false
set_option linter.unusedVariables false

variable {K : Keep}

theorem replayEntry_kept (s : State) (e : JEntry) (hK : Kept K s) : Kept K (replayEntry s e) := by
  unfold replayEntry
  repeat' first
    | with_reducible assumption
    | with_reducible apply kept_ite
    | with_reducible apply postRecord_kept
    | with_reducible apply setHdg_kept
    | with_reducible apply headingStep_kept
    | with_reducible apply committedStep_kept
    | with_reducible apply beaconStep_kept
    | split
    | dsimp only

theorem replayAll_kept (s : State) (p : Nat → Bool) (hK : Kept K s) : Kept K (replayAll s p) := by
  unfold replayAll
  repeat' first
    | with_reducible assumption
    | with_reducible apply kept_ite
    | with_reducible apply kept_foldl
    | with_reducible apply replayEntry_kept
    | (intro _ _ _)
    | split
    | dsimp only

theorem resumeRing_kept (s : State) (ctx ring : Nat) (hK : Kept K s) : Kept K (resumeRing s ctx ring) := by
  unfold resumeRing
  repeat' first
    | with_reducible assumption
    | with_reducible apply kept_ite
    | with_reducible apply pump_kept
    | with_reducible apply setRing_kept
    | split
    | dsimp only

theorem resumeCtx_kept (s : State) (ctx : Nat) (hK : Kept K s) : Kept K (resumeCtx s ctx) := by
  unfold resumeCtx
  repeat' first
    | with_reducible assumption
    | with_reducible apply kept_ite
    | with_reducible apply kept_foldl
    | with_reducible apply resumeRing_kept
    | (intro _ _ _)
    | split
    | dsimp only

theorem resumeWhere_kept (s : State) (p : Nat → Bool) (hK : Kept K s) : Kept K (resumeWhere s p) := by
  unfold resumeWhere
  repeat' first
    | with_reducible assumption
    | with_reducible apply kept_ite
    | with_reducible apply kept_foldl
    | with_reducible apply replayAll_kept
    | with_reducible apply resumeCtx_kept
    | (intro _ _ _)
    | split
    | dsimp only

theorem refetchCmd_kept (s : State) (c : Cmd) (hK : Kept K s) : Kept K (refetchCmd s c) := by
  unfold refetchCmd
  repeat' first
    | with_reducible assumption
    | with_reducible apply kept_ite
    | with_reducible apply putCmd_kept
    | split
    | dsimp only

theorem refetchAll_kept (s : State) (p : Nat → Bool) (hK : Kept K s) : Kept K (refetchAll s p) := by
  unfold refetchAll
  repeat' first
    | with_reducible assumption
    | with_reducible apply kept_ite
    | with_reducible apply kept_foldl
    | with_reducible apply refetchCmd_kept
    | with_reducible apply setHelm_kept
    | (intro _ _ _)
    | split
    | dsimp only

theorem suspendWhere_kept (s : State) (p : Nat → Bool) (hK : Kept K s) : Kept K (suspendWhere s p) := by
  unfold suspendWhere
  repeat' first
    | with_reducible assumption
    | with_reducible apply kept_ite
    | with_reducible apply killBatches_kept
    | with_reducible apply killRuns_kept
    | with_reducible apply refetchAll_kept
    | split
    | dsimp only

theorem dropRequest_kept (s : State) (c : Cmd) (hK : Kept K s) : Kept K (dropRequest s c) := by
  unfold dropRequest
  repeat' first
    | with_reducible assumption
    | with_reducible apply kept_ite
    | with_reducible apply discardReq_kept
    | with_reducible apply refetchCmd_kept
    | with_reducible apply setLog_kept
    | split
    | dsimp only

theorem rebuildRing_kept (s : State) (ctx ring : Nat) (rec0 : Option Rec) (hK : Kept K s) : Kept K (rebuildRing s ctx ring rec0) := by
  unfold rebuildRing
  repeat' first
    | with_reducible assumption
    | with_reducible apply kept_ite
    | with_reducible apply raiseRing_kept
    | with_reducible apply setRing_kept
    | split
    | dsimp only

theorem doContextReset_kept (s : State) (ctx : Nat) (recs : List (Nat × Rec)) (hK : Kept K s) : Kept K (doContextReset s ctx recs) := by
  unfold doContextReset
  repeat' first
    | with_reducible assumption
    | with_reducible apply kept_ite
    | with_reducible apply kept_foldl
    | with_reducible apply setHelm_kept
    | with_reducible apply killBatches_kept
    | with_reducible apply killRuns_kept
    | with_reducible apply silenceStream_kept
    | with_reducible apply replayAll_kept
    | with_reducible apply dropRequest_kept
    | with_reducible apply refetchAll_kept
    | with_reducible apply rebuildRing_kept
    | (intro _ _ _)
    | split
    | dsimp only

theorem countReset_kept (s : State) (k : CmdKey) (avoid : List Nat) (idx : Nat) (hK : Kept K s) : Kept K (countReset s k avoid idx) := by
  unfold countReset
  repeat' first
    | with_reducible assumption
    | with_reducible apply kept_ite
    | with_reducible apply putCmd_kept
    | split
    | dsimp only

theorem resetRun_kept (s : State) (r : Run) (hK : Kept K s) : Kept K (resetRun s r) := by
  unfold resetRun
  repeat' first
    | with_reducible assumption
    | with_reducible apply kept_ite
    | with_reducible apply dropRun_kept
    | with_reducible apply countReset_kept
    | with_reducible apply killRun_kept
    | split
    | dsimp only

theorem undoBind_kept (s : State) (n : Nat) (st : Stream) (hK : Kept K s) : Kept K (undoBind s n st) := by
  unfold undoBind
  repeat' first
    | with_reducible assumption
    | with_reducible apply kept_ite
    | with_reducible apply closeWin_kept
    | with_reducible apply setStreams_kept
    | split
    | dsimp only

theorem startWarm_kept (s : State) (leaving : Bool) (hK : Kept K s) (hB : K.boot = none) (hH : K.held = false) : Kept K (startWarm s leaving) := by
  unfold startWarm
  repeat' first
    | with_reducible assumption
    | with_reducible apply kept_ite
    | with_reducible apply kept_foldl
    | ((with_reducible apply setBin_kept_off); rotate_left; assumption; exact rfl; exact rfl)
    | ((with_reducible apply setBoot_kept_run); rotate_left; assumption; exact .inr rfl)
    | with_reducible apply killBatches_kept
    | with_reducible apply resetRun_kept
    | with_reducible apply setRuns_kept
    | with_reducible apply setBatches_kept
    | with_reducible apply discardRequests_kept
    | with_reducible apply refetchAll_kept
    | with_reducible apply undoBind_kept
    | with_reducible apply setStreams_kept
    | with_reducible apply setHelm_kept
    | with_reducible apply setRose_kept
    | with_reducible apply setCsi_kept
    | with_reducible apply setFleet_kept
    | with_reducible apply setPel_kept
    | ((with_reducible apply setBin_kept); rotate_left; exact rfl; exact rfl)
    | ((with_reducible apply setBoot_kept); rotate_left; assumption; exact rfl)
    | assumption
    | (intro _ _ _)
    | split
    | dsimp only

theorem exitRecord_kept (s : State) (hK : Kept K s) : Kept K (exitRecord s) := by
  unfold exitRecord
  repeat' first
    | with_reducible assumption
    | with_reducible apply kept_ite
    | with_reducible apply logEvent_kept
    | split
    | dsimp only

theorem doSafeStateExit_kept (s : State) (hK : Kept K s) (hB : K.boot = none) (hH : K.held = false) : Kept K (doSafeStateExit s) := by
  unfold doSafeStateExit
  repeat' first
    | with_reducible assumption
    | with_reducible apply kept_ite
    | with_reducible apply startWarm_kept
    | with_reducible apply exitRecord_kept
    | assumption
    | split
    | dsimp only

theorem doBinRecover_kept (s : State) (path : Nat) (w : Word) (hK : Kept K s) (hB : K.boot = none) (hH : K.held = false) : Kept K (doBinRecover s path w) := by
  unfold doBinRecover
  repeat' first
    | with_reducible assumption
    | with_reducible apply kept_ite
    | with_reducible apply startWarm_kept
    | with_reducible apply exitRecord_kept
    | assumption
    | split
    | dsimp only

theorem doWarmReset_kept (s : State) (path : Nat) (w : Word) (hK : Kept K s) (hB : K.boot = none) (hH : K.held = false) : Kept K (doWarmReset s path w) := by
  unfold doWarmReset
  repeat' first
    | with_reducible assumption
    | with_reducible apply kept_ite
    | with_reducible apply startWarm_kept
    | assumption
    | split
    | dsimp only

theorem warmTests_kept (s : State) (failed : List Nat) (hK : Kept K s) : Kept K (warmTests s failed) := by
  unfold warmTests
  repeat' first
    | with_reducible assumption
    | with_reducible apply kept_ite
    | with_reducible apply kept_foldl
    | with_reducible apply failFacet_kept
    | with_reducible apply doSpareSubstitution_kept
    | (intro _ _ _)
    | split
    | dsimp only

theorem replayUnit_kept (s : State) (n : Nat) (e : JEntry) (hK : Kept K s) : Kept K (replayUnit s n e) := by
  unfold replayUnit
  repeat' first
    | with_reducible assumption
    | with_reducible apply kept_ite
    | with_reducible apply putStore_kept
    | with_reducible apply setHdg_kept
    | with_reducible apply setLog_kept
    | with_reducible apply setStreams_kept
    | split
    | dsimp only

theorem replayUnits_kept (s : State) (hK : Kept K s) : Kept K (replayUnits s) := by
  unfold replayUnits
  repeat' first
    | with_reducible assumption
    | with_reducible apply kept_ite
    | with_reducible apply kept_foldl
    | with_reducible apply replayUnit_kept
    | (intro _ _ _)
    | split
    | dsimp only

theorem resumeStream_kept (s : State) (n : Nat) (hK : Kept K s) : Kept K (resumeStream s n) := by
  unfold resumeStream
  repeat' first
    | with_reducible assumption
    | with_reducible apply kept_ite
    | with_reducible apply setStreams_kept
    | with_reducible apply rebind_kept
    | with_reducible apply raiseNotice_kept
    | split
    | dsimp only

theorem missedNotice_kept (s : State) (hK : Kept K s) : Kept K (missedNotice s) := by
  unfold missedNotice
  repeat' first
    | with_reducible assumption
    | with_reducible apply kept_ite
    | with_reducible apply raiseNotice_kept
    | with_reducible apply setCmds_kept
    | ((with_reducible apply setBin_kept); rotate_left; exact rfl; exact rfl)
    | split
    | dsimp only

theorem doWarmResetComplete_kept (s : State) (failed : List Nat) (hK : Kept K s) (hB : K.boot = none) :
    Kept K (doWarmResetComplete s failed) := by
  unfold doWarmResetComplete
  split
  · exact hK
  · rename_i h
    have h1 : s.boot.state = 3 := Decidable.byContradiction fun hn => h (.inl hn)
    have h2 : s.bin.safe = false := Bool.eq_false_iff.2 fun hn => h (.inr hn)
    have hK' := kept_strengthen (c := true) (u := true) hK (fun _ => h2) (fun _ => .inr h1)
    refine kept_weaken (k' := { K with calm := true, up := true }) ?_ rfl rfl rfl rfl (fun _ => rfl) (fun _ => rfl) rfl rfl
    dsimp only
    repeat' first
      | with_reducible assumption
      | with_reducible apply resumeWhere_kept
      | with_reducible apply missedNotice_kept
      | with_reducible apply raiseIbi_kept
      | with_reducible apply kept_foldl
      | with_reducible apply resumeStream_kept
      | with_reducible apply setHelm_kept
      | ((with_reducible apply setBin_kept_high); rotate_left; exact rfl; exact rfl; exact rfl)
      | ((with_reducible apply setBoot_kept_run); rotate_left; assumption; exact .inl rfl)
      | with_reducible apply replayUnits_kept
      | with_reducible apply warmTests_kept
      | (intro _ _ _)

theorem outputLow_kept (s : State) (n : Nat) (hK : Kept K s) : Kept K (outputLow s n) := by
  unfold outputLow
  repeat' first
    | with_reducible assumption
    | with_reducible apply kept_ite
    | with_reducible apply setMs_kept
    | with_reducible apply emit_kept
    | split
    | dsimp only

theorem safeListen_kept (s : State) (fail : Nat) (hK : Kept K s) (hB : K.boot = none) (hU : K.up = false) : Kept K (safeListen s fail) := by
  unfold safeListen
  dsimp only
  refine raiseIbi_kept _ _ _ (logEvent_kept _ _ (kept_foldl ?_ (fun _ _ h => outputLow_kept _ _ h)))
  with_reducible apply setBootBin_kept
  rotate_left; assumption; assumption; exact rfl; exact rfl; assumption

end Sys2Proof.Laws
end

