-- ==== Sys2Proof/Laws/KeptBinnacle.lean ====
section
/-! SUPPORT. What the operations of Machine/Binnacle.lean keep (Laws/Kept.lean). -/

namespace Sys2Proof.Laws
open Sys2Proof Sys2Proof.Machine

set_option linter.unusedTactic false
set_option linter.unreachableTactic false
set_option linter.unusedVariables false

variable {K : Keep}

theorem device_kept (s : State) (a : EvArg) (facets : List Nat) (hK : Kept K s) (hB : K.boot = none) (hC : K.calm = false) (hU : K.up = false) : Kept K (device s a facets) := by
  unfold device
  repeat' first
    | with_reducible assumption
    | with_reducible apply kept_ite
    | with_reducible apply safeListen_kept
    | with_reducible apply deviceRecords_kept
    | with_reducible apply deviceEvent_kept
    | assumption
    | split
    | dsimp only

theorem monitorEvent_kept (s : State) (a : EvArg) (hK : Kept K s) (hB : K.boot = none) (hC : K.calm = false) (hU : K.up = false) : Kept K (monitorEvent s a) := by
  unfold monitorEvent
  repeat' first
    | with_reducible assumption
    | with_reducible apply kept_ite
    | ((with_reducible apply setBin_kept); rotate_left; exact rfl; exact rfl)
    | with_reducible apply device_kept
    | assumption
    | split
    | dsimp only

theorem outOfLimits_kept (s : State) (hK : Kept K s) : Kept K (outOfLimits s) := by
  unfold outOfLimits
  repeat' first
    | with_reducible assumption
    | with_reducible apply kept_ite
    | ((with_reducible apply setBin_kept); rotate_left; exact rfl; exact rfl)
    | split
    | dsimp only

theorem doDeviceEvent_kept (s : State) (a : EvArg) (facets : List Nat) (hK : Kept K s) (hB : K.boot = none) (hC : K.calm = false) (hU : K.up = false) : Kept K (doDeviceEvent s a facets) := by
  unfold doDeviceEvent
  repeat' first
    | with_reducible assumption
    | with_reducible apply kept_ite
    | with_reducible apply device_kept
    | assumption
    | split
    | dsimp only

theorem hardwired_kept (s : State) (cause : Nat) (hK : Kept K s) (hC : K.calm = false) : Kept K (hardwired s cause) := by
  unfold hardwired
  repeat' first
    | with_reducible assumption
    | with_reducible apply kept_ite
    | ((with_reducible apply setBin_kept_low); rotate_left; exact rfl; assumption; exact rfl)
    | ((with_reducible apply setBin_kept); rotate_left; exact rfl; exact rfl)
    | assumption
    | split
    | dsimp only

theorem doLockstepMismatch_kept (s : State) (hK : Kept K s) (hB : K.boot = none) (hC : K.calm = false) (hU : K.up = false) : Kept K (doLockstepMismatch s) := by
  unfold doLockstepMismatch
  repeat' first
    | with_reducible assumption
    | with_reducible apply kept_ite
    | with_reducible apply device_kept
    | assumption
    | split
    | dsimp only

theorem doBinOscLoss_kept (s : State) (hK : Kept K s) (hB : K.boot = none) (hC : K.calm = false) (hU : K.up = false) : Kept K (doBinOscLoss s) := by
  unfold doBinOscLoss
  repeat' first
    | with_reducible assumption
    | with_reducible apply kept_ite
    | with_reducible apply device_kept
    | ((with_reducible apply setBin_kept); rotate_left; exact rfl; exact rfl)
    | assumption
    | split
    | dsimp only

theorem doFallbackOscillatorStop_kept (s : State) (hK : Kept K s) (hC : K.calm = false) : Kept K (doFallbackOscillatorStop s) := by
  unfold doFallbackOscillatorStop
  repeat' first
    | with_reducible assumption
    | with_reducible apply kept_ite
    | with_reducible apply hardwired_kept
    | assumption
    | split
    | dsimp only

theorem doVddSiOutOfWindow_kept (s : State) (mv : Nat) (hK : Kept K s) (hB : K.boot = none) (hC : K.calm = false) (hU : K.up = false) : Kept K (doVddSiOutOfWindow s mv) := by
  unfold doVddSiOutOfWindow
  repeat' first
    | with_reducible assumption
    | with_reducible apply kept_ite
    | with_reducible apply device_kept
    | assumption
    | split
    | dsimp only

theorem clockSeen_kept (s : State) (count : Nat) (hK : Kept K s) : Kept K (clockSeen s count) := by
  unfold clockSeen
  repeat' first
    | with_reducible assumption
    | with_reducible apply kept_ite
    | ((with_reducible apply setClk_kept); rotate_left; exact rfl; exact rfl)
    | split
    | dsimp only

theorem doClockMonitorWindow_kept (s : State) (clock count expect : Nat) (hK : Kept K s) (hB : K.boot = none) (hC : K.calm = false) (hU : K.up = false) : Kept K (doClockMonitorWindow s clock count expect) := by
  unfold doClockMonitorWindow
  repeat' first
    | with_reducible assumption
    | with_reducible apply kept_ite
    | with_reducible apply clockSeen_kept
    | with_reducible apply monitorEvent_kept
    | assumption
    | split
    | dsimp only

theorem doVoltageSample_kept (s : State) (rail mv : Nat) (hK : Kept K s) (hB : K.boot = none) (hC : K.calm = false) (hU : K.up = false) : Kept K (doVoltageSample s rail mv) := by
  unfold doVoltageSample
  repeat' first
    | with_reducible assumption
    | with_reducible apply kept_ite
    | ((with_reducible apply setBin_kept); rotate_left; exact rfl; exact rfl)
    | with_reducible apply outOfLimits_kept
    | with_reducible apply monitorEvent_kept
    | assumption
    | split
    | dsimp only

theorem doTemperatureSample_kept (s : State) (sensor : Nat) (tenths : Int) (hK : Kept K s) (hB : K.boot = none) (hC : K.calm = false) (hU : K.up = false) : Kept K (doTemperatureSample s sensor tenths) := by
  unfold doTemperatureSample
  repeat' first
    | with_reducible assumption
    | with_reducible apply kept_ite
    | ((with_reducible apply setBin_kept); rotate_left; exact rfl; exact rfl)
    | with_reducible apply raiseNotice_kept
    | with_reducible apply monitorEvent_kept
    | assumption
    | split
    | dsimp only

theorem doHelmHeartbeat_kept (s : State) (core : Nat) (hK : Kept K s) : Kept K (doHelmHeartbeat s core) := by
  unfold doHelmHeartbeat
  repeat' first
    | with_reducible assumption
    | with_reducible apply kept_ite
    | with_reducible apply setHelm_kept
    | split
    | dsimp only

theorem doHeartbeatTimeout_kept (s : State) (core : Nat) (hK : Kept K s) (hB : K.boot = none) (hC : K.calm = false) (hU : K.up = false) : Kept K (doHeartbeatTimeout s core) := by
  unfold doHeartbeatTimeout
  repeat' first
    | with_reducible assumption
    | with_reducible apply kept_ite
    | with_reducible apply device_kept
    | assumption
    | split
    | dsimp only

theorem doAvsReadback_kept (s : State) (mv : Nat) (hK : Kept K s) (hB : K.boot = none) (hC : K.calm = false) (hU : K.up = false) : Kept K (doAvsReadback s mv) := by
  unfold doAvsReadback
  repeat' first
    | with_reducible assumption
    | with_reducible apply kept_ite
    | with_reducible apply emit_kept
    | with_reducible apply device_kept
    | assumption
    | split
    | dsimp only

theorem doAvsUpdate_kept (s : State) (up : Option Bool) (hK : Kept K s) : Kept K (doAvsUpdate s up) := by
  unfold doAvsUpdate
  repeat' first
    | with_reducible assumption
    | with_reducible apply kept_ite
    | with_reducible apply emit_kept
    | ((with_reducible apply setBin_kept); rotate_left; exact rfl; exact rfl)
    | split
    | dsimp only

theorem doPmbAlert_kept (s : State) (outputFault other : Bool) (hK : Kept K s) (hB : K.boot = none) (hC : K.calm = false) (hU : K.up = false) : Kept K (doPmbAlert s outputFault other) := by
  unfold doPmbAlert
  repeat' first
    | with_reducible assumption
    | with_reducible apply kept_ite
    | with_reducible apply emit_kept
    | with_reducible apply monitorEvent_kept
    | with_reducible apply outOfLimits_kept
    | with_reducible apply raiseNotice_kept
    | assumption
    | split
    | dsimp only

theorem breachEvent_kept (s : State) (k : CmdKey) (x : Mer) (hK : Kept K s) (hB : K.boot = none) (hC : K.calm = false) (hU : K.up = false) : Kept K (breachEvent s k x) := by
  unfold breachEvent
  repeat' first
    | with_reducible assumption
    | with_reducible apply kept_ite
    | with_reducible apply device_kept
    | assumption
    | split
    | dsimp only

theorem doDeadlineWatch_kept (s : State) (k : CmdKey) (hK : Kept K s) (hB : K.boot = none) (hC : K.calm = false) (hU : K.up = false) : Kept K (doDeadlineWatch s k) := by
  unfold doDeadlineWatch
  repeat' first
    | with_reducible assumption
    | with_reducible apply kept_ite
    | with_reducible apply breachEvent_kept
    | ((with_reducible apply setBin_kept); rotate_left; exact rfl; exact rfl)
    | with_reducible apply putCmd_kept
    | assumption
    | split
    | dsimp only

theorem doTraceabilityLoss_kept (s : State) (hK : Kept K s) (hB : K.boot = none) (hC : K.calm = false) (hU : K.up = false) : Kept K (doTraceabilityLoss s) := by
  unfold doTraceabilityLoss
  repeat' first
    | with_reducible assumption
    | with_reducible apply kept_ite
    | ((with_reducible apply setBin_kept); rotate_left; exact rfl; exact rfl)
    | with_reducible apply device_kept
    | with_reducible apply raiseNotice_kept
    | assumption
    | split
    | dsimp only

end Sys2Proof.Laws
end

