-- ==== Sys2Proof/Laws/KeptPcie.lean ====
section
/-! SUPPORT. What the operations of Machine/Pcie.lean keep (Laws/Kept.lean). -/

namespace Sys2Proof.Laws
open Sys2Proof Sys2Proof.Machine

set_option linter.unusedTactic false
set_option linter.unreachableTactic false
set_option linter.unusedVariables false

variable {K : Keep}

theorem updFn_kept (s : State) (f : Nat) (g : Fn → Fn) (hK : Kept K s) : Kept K (updFn s f g) := by
  unfold updFn
  repeat' first
    | with_reducible assumption
    | with_reducible apply kept_ite
    | with_reducible apply setFns_kept
    | split
    | dsimp only

theorem clearMsix_kept (s : State) (p : Nat → Bool) (hK : Kept K s) : Kept K (clearMsix s p) := by
  unfold clearMsix
  repeat' first
    | with_reducible assumption
    | with_reducible apply kept_ite
    | with_reducible apply setMsix_kept
    | split
    | dsimp only

theorem doFunctionLevelReset_kept (s : State) (f : Nat) (hK : Kept K s) : Kept K (doFunctionLevelReset s f) := by
  unfold doFunctionLevelReset
  repeat' first
    | with_reducible assumption
    | with_reducible apply kept_ite
    | with_reducible apply suspendWhere_kept
    | with_reducible apply clearMsix_kept
    | with_reducible apply setRegs_kept
    | with_reducible apply setFns_kept
    | split
    | dsimp only

theorem doBusMasterDisable_kept (s : State) (f : Nat) (d3 : Bool) (hK : Kept K s) : Kept K (doBusMasterDisable s f d3) := by
  unfold doBusMasterDisable
  repeat' first
    | with_reducible assumption
    | with_reducible apply kept_ite
    | with_reducible apply suspendWhere_kept
    | with_reducible apply updFn_kept
    | split
    | dsimp only

theorem sendPending_kept (s : State) (f : Nat) (hK : Kept K s) : Kept K (sendPending s f) := by
  unfold sendPending
  repeat' first
    | with_reducible assumption
    | with_reducible apply kept_ite
    | with_reducible apply kept_foldl
    | with_reducible apply emit_kept
    | with_reducible apply setMsix_kept
    | (intro _ _ _)
    | split
    | dsimp only

theorem doBusMasterEnable_kept (s : State) (f : Nat) (hK : Kept K s) : Kept K (doBusMasterEnable s f) := by
  unfold doBusMasterEnable
  repeat' first
    | with_reducible assumption
    | with_reducible apply kept_ite
    | with_reducible apply updFn_kept
    | with_reducible apply resumeWhere_kept
    | with_reducible apply sendPending_kept
    | split
    | dsimp only

theorem doVfEnableClear_kept (s : State) (hK : Kept K s) : Kept K (doVfEnableClear s) := by
  unfold doVfEnableClear
  repeat' first
    | with_reducible assumption
    | with_reducible apply kept_ite
    | with_reducible apply suspendWhere_kept
    | with_reducible apply clearMsix_kept
    | with_reducible apply setFns_kept
    | split
    | dsimp only

theorem doMsixUnmask_kept (s : State) (f e : Nat) (hK : Kept K s) : Kept K (doMsixUnmask s f e) := by
  unfold doMsixUnmask
  repeat' first
    | with_reducible assumption
    | with_reducible apply kept_ite
    | with_reducible apply emit_kept
    | with_reducible apply setMsix_kept
    | split
    | dsimp only

theorem doLinkReset_kept (s : State) (width speed : Nat) (hK : Kept K s) (hB : K.boot = none) (hH : K.held = false) : Kept K (doLinkReset s width speed) := by
  unfold doLinkReset
  repeat' first
    | with_reducible assumption
    | with_reducible apply kept_ite
    | with_reducible apply clearMsix_kept
    | with_reducible apply setFns_kept
    | with_reducible apply setPci_kept
    | with_reducible apply startWarm_kept
    | assumption
    | split
    | dsimp only

end Sys2Proof.Laws
end

