-- ==== Sys2Proof/Laws/KeptMeridian.lean ====
section
/-! SUPPORT. What the operations of Machine/Meridian.lean keep (Laws/Kept.lean). -/

namespace Sys2Proof.Laws
open Sys2Proof Sys2Proof.Machine

set_option linter.unusedTactic false
set_option linter.unreachableTactic false
set_option linter.unusedVariables false

variable {K : Keep}

theorem updSlot_kept (s : State) (i : Nat) (f : Slot → Slot) (hK : Kept K s) : Kept K (updSlot s i f) := by
  unfold updSlot
  repeat' first
    | with_reducible assumption
    | with_reducible apply kept_ite
    | with_reducible apply setMs_kept
    | split
    | dsimp only

theorem setTrace_kept (s : State) (t : Bool) (hK : Kept K s) : Kept K (setTrace s t) := by
  unfold setTrace
  repeat' first
    | with_reducible assumption
    | with_reducible apply kept_ite
    | with_reducible apply rflag_kept
    | with_reducible apply setMs_kept
    | ((with_reducible apply setBin_kept); rotate_left; exact rfl; exact rfl)
    | split
    | dsimp only

theorem enterServo_kept (s : State) (v : Servo) (hK : Kept K s) : Kept K (enterServo s v) := by
  unfold enterServo
  repeat' first
    | with_reducible assumption
    | with_reducible apply kept_ite
    | with_reducible apply setMs_kept
    | with_reducible apply setTrace_kept
    | split
    | dsimp only

theorem askSwitch_kept (s : State) (hK : Kept K s) : Kept K (askSwitch s) := by
  unfold askSwitch
  repeat' first
    | with_reducible assumption
    | with_reducible apply kept_ite
    | with_reducible apply setMs_kept
    | split
    | dsimp only

theorem enterHoldover_kept (s : State) (hK : Kept K s) : Kept K (enterHoldover s) := by
  unfold enterHoldover
  repeat' first
    | with_reducible assumption
    | with_reducible apply kept_ite
    | with_reducible apply enterServo_kept
    | with_reducible apply setMs_kept
    | with_reducible apply askSwitch_kept
    | split
    | dsimp only

theorem servoCheck_kept (s : State) (hK : Kept K s) : Kept K (servoCheck s) := by
  unfold servoCheck
  repeat' first
    | with_reducible assumption
    | with_reducible apply kept_ite
    | with_reducible apply enterServo_kept
    | with_reducible apply enterHoldover_kept
    | split
    | dsimp only

theorem disarm_kept (s : State) (n : Nat) (hK : Kept K s) : Kept K (disarm s n) := by
  unfold disarm
  repeat' first
    | with_reducible assumption
    | with_reducible apply kept_ite
    | with_reducible apply rput_kept
    | with_reducible apply setMs_kept
    | split
    | dsimp only

theorem missEdges_kept (s : State) (n k : Nat) (hK : Kept K s) : Kept K (missEdges s n k) := by
  unfold missEdges
  repeat' first
    | with_reducible assumption
    | with_reducible apply kept_ite
    | with_reducible apply rcount_kept
    | with_reducible apply rflag_kept
    | split
    | dsimp only

theorem stepOut_kept (s : State) (n : Nat) (hK : Kept K s) : Kept K (stepOut s n) := by
  unfold stepOut
  repeat' first
    | with_reducible assumption
    | with_reducible apply kept_ite
    | with_reducible apply missEdges_kept
    | with_reducible apply setMs_kept
    | with_reducible apply disarm_kept
    | split
    | dsimp only

theorem stepTo_kept (s : State) (t : Mer) (hK : Kept K s) (hT : K.time = none) : Kept K (stepTo s t) := by
  unfold stepTo
  repeat' first
    | with_reducible assumption
    | with_reducible apply kept_ite
    | with_reducible apply kept_foldl
    | ((with_reducible apply setClk_kept_free); rotate_left; assumption)
    | with_reducible apply rflag_kept
    | ((with_reducible apply setClk_kept); rotate_left; exact rfl; exact rfl)
    | with_reducible apply stepOut_kept
    | assumption
    | (intro _ _ _)
    | split
    | dsimp only

theorem askSet_kept (s : State) (hK : Kept K s) : Kept K (askSet s) := by
  unfold askSet
  repeat' first
    | with_reducible assumption
    | with_reducible apply kept_ite
    | with_reducible apply setMs_kept
    | with_reducible apply rflag_kept
    | split
    | dsimp only

theorem requestSwitch_kept (s : State) (hK : Kept K s) : Kept K (requestSwitch s) := by
  unfold requestSwitch
  repeat' first
    | with_reducible assumption
    | with_reducible apply kept_ite
    | with_reducible apply setMs_kept
    | with_reducible apply rflag_kept
    | split
    | dsimp only

theorem merCtl_kept (s : State) (w : Word) (hK : Kept K s) : Kept K (merCtl s w) := by
  unfold merCtl
  repeat' first
    | with_reducible assumption
    | with_reducible apply kept_ite
    | with_reducible apply servoCheck_kept
    | with_reducible apply rput_kept
    | with_reducible apply setMs_kept
    | with_reducible apply askSet_kept
    | with_reducible apply requestSwitch_kept
    | split
    | dsimp only

theorem doSnap_kept (s : State) (w : Word) (hK : Kept K s) : Kept K (doSnap s w) := by
  unfold doSnap
  repeat' first
    | with_reducible assumption
    | with_reducible apply kept_ite
    | with_reducible apply merCtl_kept
    | split
    | dsimp only

theorem doSet_kept (s : State) (w : Word) (hK : Kept K s) : Kept K (doSet s w) := by
  unfold doSet
  repeat' first
    | with_reducible assumption
    | with_reducible apply kept_ite
    | with_reducible apply merCtl_kept
    | split
    | dsimp only

theorem doSwitch_kept (s : State) (w : Word) (hK : Kept K s) : Kept K (doSwitch s w) := by
  unfold doSwitch
  repeat' first
    | with_reducible assumption
    | with_reducible apply kept_ite
    | with_reducible apply merCtl_kept
    | split
    | dsimp only

theorem doMerNowRead_kept (s : State) (path : Nat) (hK : Kept K s) : Kept K (doMerNowRead s path) := by
  unfold doMerNowRead
  repeat' first
    | with_reducible assumption
    | with_reducible apply kept_ite
    | with_reducible apply regPut_kept
    | with_reducible apply emit_kept
    | split
    | dsimp only

theorem steer_kept (s : State) (i : Nat) (theta : Int) (lim : Int) (hK : Kept K s) : Kept K (steer s i theta lim) := by
  unfold steer
  repeat' first
    | with_reducible assumption
    | with_reducible apply kept_ite
    | with_reducible apply setMs_kept
    | split
    | dsimp only

theorem acquireSample_kept (s : State) (i : Nat) (theta : Int) (hK : Kept K s) : Kept K (acquireSample s i theta) := by
  unfold acquireSample
  repeat' first
    | with_reducible assumption
    | with_reducible apply kept_ite
    | with_reducible apply setMs_kept
    | with_reducible apply steer_kept
    | with_reducible apply enterServo_kept
    | split
    | dsimp only

theorem slewSample_kept (s : State) (i : Nat) (theta : Int) (hK : Kept K s) : Kept K (slewSample s i theta) := by
  unfold slewSample
  repeat' first
    | with_reducible assumption
    | with_reducible apply kept_ite
    | with_reducible apply steer_kept
    | with_reducible apply enterServo_kept
    | with_reducible apply setMs_kept
    | split
    | dsimp only

theorem applySample_kept (s : State) (i : Nat) (theta : Int) (hK : Kept K s) : Kept K (applySample s i theta) := by
  unfold applySample
  repeat' first
    | with_reducible assumption
    | with_reducible apply kept_ite
    | with_reducible apply acquireSample_kept
    | with_reducible apply steer_kept
    | with_reducible apply slewSample_kept
    | split
    | dsimp only

theorem holdoverSample_kept (s : State) (i : Nat) (theta : Int) (hK : Kept K s) : Kept K (holdoverSample s i theta) := by
  unfold holdoverSample
  repeat' first
    | with_reducible assumption
    | with_reducible apply kept_ite
    | with_reducible apply updSlot_kept
    | with_reducible apply enterServo_kept
    | with_reducible apply setMs_kept
    | split
    | dsimp only

theorem suspect_kept (s : State) (flag : Nat) (hK : Kept K s) : Kept K (suspect s flag) := by
  unfold suspect
  repeat' first
    | with_reducible assumption
    | with_reducible apply kept_ite
    | with_reducible apply enterHoldover_kept
    | with_reducible apply rflag_kept
    | split
    | dsimp only

theorem primarySample_kept (s : State) (i : Nat) (raw theta : Int) (hK : Kept K s) : Kept K (primarySample s i raw theta) := by
  unfold primarySample
  repeat' first
    | with_reducible assumption
    | with_reducible apply kept_ite
    | with_reducible apply enterServo_kept
    | with_reducible apply holdoverSample_kept
    | with_reducible apply updSlot_kept
    | with_reducible apply suspect_kept
    | with_reducible apply applySample_kept
    | split
    | dsimp only

theorem secondarySample_kept (s : State) (i : Nat) (theta : Int) (hK : Kept K s) : Kept K (secondarySample s i theta) := by
  unfold secondarySample
  repeat' first
    | with_reducible assumption
    | with_reducible apply kept_ite
    | with_reducible apply updSlot_kept
    | with_reducible apply askSwitch_kept
    | split
    | dsimp only

theorem doSyncSample_kept (s : State) (i : Nat) (origin ingress : Int) (hK : Kept K s) : Kept K (doSyncSample s i origin ingress) := by
  unfold doSyncSample
  repeat' first
    | with_reducible assumption
    | with_reducible apply kept_ite
    | with_reducible apply updSlot_kept
    | with_reducible apply primarySample_kept
    | with_reducible apply secondarySample_kept
    | split
    | dsimp only

theorem recompute_kept (s : State) (i : Nat) (d : Int) (stepped : Bool) (hK : Kept K s) : Kept K (recompute s i d stepped) := by
  unfold recompute
  repeat' first
    | with_reducible assumption
    | with_reducible apply kept_ite
    | with_reducible apply kept_foldl
    | with_reducible apply suspect_kept
    | with_reducible apply updSlot_kept
    | with_reducible apply applySample_kept
    | (intro _ _ _)
    | split
    | dsimp only

theorem doDelayMeasurement_kept (s : State) (i : Nat) (t1 t2 t3 t4 : Int) (hK : Kept K s) : Kept K (doDelayMeasurement s i t1 t2 t3 t4) := by
  unfold doDelayMeasurement
  repeat' first
    | with_reducible assumption
    | with_reducible apply kept_ite
    | with_reducible apply updSlot_kept
    | with_reducible apply recompute_kept
    | split
    | dsimp only

theorem doPrimarySampleTimeout_kept (s : State) (hK : Kept K s) : Kept K (doPrimarySampleTimeout s) := by
  unfold doPrimarySampleTimeout
  repeat' first
    | with_reducible assumption
    | with_reducible apply kept_ite
    | with_reducible apply enterHoldover_kept
    | split
    | dsimp only

theorem doHoldLimit_kept (s : State) (hK : Kept K s) : Kept K (doHoldLimit s) := by
  unfold doHoldLimit
  repeat' first
    | with_reducible assumption
    | with_reducible apply kept_ite
    | with_reducible apply setTrace_kept
    | split
    | dsimp only

theorem doAnnounce_kept (s : State) (i utc : Nat) (valid ptp : Bool) (logSync : Nat) (hK : Kept K s) : Kept K (doAnnounce s i utc valid ptp logSync) := by
  unfold doAnnounce
  repeat' first
    | with_reducible assumption
    | with_reducible apply kept_ite
    | with_reducible apply rput_kept
    | with_reducible apply setMs_kept
    | split
    | dsimp only

theorem doPtpEventIngress_kept (s : State) (p sub : Nat) (hK : Kept K s) : Kept K (doPtpEventIngress s p sub) := by
  unfold doPtpEventIngress
  repeat' first
    | with_reducible assumption
    | with_reducible apply kept_ite
    | with_reducible apply emit_kept
    | split
    | dsimp only

theorem doPtpEventEgress_kept (s : State) (p sub seqId msgType : Nat) (carries : Bool) (hK : Kept K s) : Kept K (doPtpEventEgress s p sub seqId msgType carries) := by
  unfold doPtpEventEgress
  repeat' first
    | with_reducible assumption
    | with_reducible apply kept_ite
    | with_reducible apply emit_kept
    | with_reducible apply gcount_kept
    | with_reducible apply setMs_kept
    | split
    | dsimp only

theorem refuseArm_kept (s : State) (n v : Nat) (hK : Kept K s) : Kept K (refuseArm s n v) := by
  unfold refuseArm
  repeat' first
    | with_reducible assumption
    | with_reducible apply kept_ite
    | with_reducible apply rput_kept
    | split
    | dsimp only

theorem outCfg_kept (s : State) (n : Nat) (w : Word) (hK : Kept K s) : Kept K (outCfg s n w) := by
  unfold outCfg
  repeat' first
    | with_reducible assumption
    | with_reducible apply kept_ite
    | with_reducible apply missed_kept
    | with_reducible apply rput_kept
    | with_reducible apply refuseArm_kept
    | with_reducible apply setMs_kept
    | with_reducible apply missEdges_kept
    | with_reducible apply rflag_kept
    | split
    | dsimp only

theorem doOutputArm_kept (s : State) (n : Nat) (w : Word) (hK : Kept K s) : Kept K (doOutputArm s n w) := by
  unfold doOutputArm
  repeat' first
    | with_reducible assumption
    | with_reducible apply kept_ite
    | with_reducible apply outCfg_kept
    | split
    | dsimp only

theorem doOutputEdge_kept (s : State) (n : Nat) (hK : Kept K s) : Kept K (doOutputEdge s n) := by
  unfold doOutputEdge
  repeat' first
    | with_reducible assumption
    | with_reducible apply kept_ite
    | with_reducible apply emit_kept
    | with_reducible apply setMs_kept
    | with_reducible apply disarm_kept
    | split
    | dsimp only

theorem doInputEdge_kept (s : State) (i : Nat) (rise : Bool) (sub : Nat) (hK : Kept K s) : Kept K (doInputEdge s i rise sub) := by
  unfold doInputEdge
  repeat' first
    | with_reducible assumption
    | with_reducible apply kept_ite
    | with_reducible apply rflag_kept
    | with_reducible apply setMs_kept
    | split
    | dsimp only

theorem doInputFifoPop_kept (s : State) (i : Nat) (hK : Kept K s) : Kept K (doInputFifoPop s i) := by
  unfold doInputFifoPop
  repeat' first
    | with_reducible assumption
    | with_reducible apply kept_ite
    | with_reducible apply emit_kept
    | with_reducible apply setMs_kept
    | split
    | dsimp only

theorem switchNow_kept (s : State) (hK : Kept K s) : Kept K (switchNow s) := by
  unfold switchNow
  repeat' first
    | with_reducible assumption
    | with_reducible apply kept_ite
    | with_reducible apply rflag_kept
    | with_reducible apply setMs_kept
    | with_reducible apply enterServo_kept
    | split
    | dsimp only

theorem slewEdge_kept (s : State) (hK : Kept K s) : Kept K (slewEdge s) := by
  unfold slewEdge
  repeat' first
    | with_reducible assumption
    | with_reducible apply kept_ite
    | with_reducible apply enterServo_kept
    | with_reducible apply setMs_kept
    | split
    | dsimp only

theorem snapNow_kept (s : State) (hK : Kept K s) : Kept K (snapNow s) := by
  unfold snapNow
  repeat' first
    | with_reducible assumption
    | with_reducible apply kept_ite
    | with_reducible apply rput_kept
    | with_reducible apply setMs_kept
    | split
    | dsimp only

theorem mkEdge_kept (s : State) (ak : Nat) (hK : Kept K s) (hT : K.time = none) : Kept K (mkEdge s ak) := by
  unfold mkEdge
  repeat' first
    | with_reducible assumption
    | with_reducible apply kept_ite
    | ((with_reducible apply setClk_kept_free); rotate_left; assumption)
    | ((with_reducible apply setClk_kept); rotate_left; exact rfl; exact rfl)
    | with_reducible apply stepTo_kept
    | with_reducible apply setMs_kept
    | with_reducible apply snapNow_kept
    | with_reducible apply switchNow_kept
    | with_reducible apply slewEdge_kept
    | assumption
    | split
    | dsimp only

end Sys2Proof.Laws
end

