-- ==== Sys2Proof/Laws/KeptFleet.lean ====
section
/-! SUPPORT. What the operations of Machine/Fleet.lean keep (Laws/Kept.lean). -/

namespace Sys2Proof.Laws
open Sys2Proof Sys2Proof.Machine

set_option linter.unusedTactic false
set_option linter.unreachableTactic false
set_option linter.unusedVariables false

variable {K : Keep}

theorem doHello_kept (s : State) (hK : Kept K s) : Kept K (doHello s) := by
  unfold doHello
  repeat' first
    | with_reducible assumption
    | with_reducible apply kept_ite
    | with_reducible apply kept_foldl
    | with_reducible apply putOnWire_kept
    | with_reducible apply setPeer_kept
    | with_reducible apply setFleet_kept
    | (intro _ _ _)
    | split
    | dsimp only

theorem heardFrom_kept (s : State) (c : Nat) (hK : Kept K s) : Kept K (heardFrom s c) := by
  unfold heardFrom
  repeat' first
    | with_reducible assumption
    | with_reducible apply kept_ite
    | with_reducible apply setPeer_kept
    | with_reducible apply raiseNotice_kept
    | split
    | dsimp only

theorem signalLost_kept (s : State) (k : CmdKey) (c : Nat) (hK : Kept K s) : Kept K (signalLost s k c) := by
  unfold signalLost
  repeat' first
    | with_reducible assumption
    | with_reducible apply kept_ite
    | with_reducible apply commandFault_kept
    | with_reducible apply putCmd_kept
    | split
    | dsimp only

theorem doMemberDown_kept (s : State) (c : Nat) (hK : Kept K s) : Kept K (doMemberDown s c) := by
  unfold doMemberDown
  repeat' first
    | with_reducible assumption
    | with_reducible apply kept_ite
    | with_reducible apply kept_foldl
    | with_reducible apply setPeer_kept
    | with_reducible apply raiseNotice_kept
    | with_reducible apply signalLost_kept
    | (intro _ _ _)
    | split
    | dsimp only

theorem doRastanRetry_kept (s : State) (c : Nat) (lseq : Word) (hK : Kept K s) : Kept K (doRastanRetry s c lseq) := by
  unfold doRastanRetry
  repeat' first
    | with_reducible assumption
    | with_reducible apply kept_ite
    | with_reducible apply setPeer_kept
    | with_reducible apply putOnWire_kept
    | with_reducible apply gcount_kept
    | split
    | dsimp only

theorem readRows_keptp (s : State) (rows : List Nat) (hK : Kept K s) : Kept K (readRows s rows).1 := by
  unfold readRows
  repeat' first
    | with_reducible assumption
    | (dsimp only; with_reducible assumption)
    | with_reducible apply kept_ite
    | with_reducible apply kept_foldl
    | with_reducible apply gcount_kept
    | (intro _ _ _)
    | split
    | dsimp only

theorem readRows_kept {s : State} {rows : List Nat} {r0 : State} {r1 : List (List Byte)} (e : readRows s rows = (r0, r1)) (hK : Kept K s)  : Kept K r0 := by
  have := readRows_keptp s rows hK 
  rw [e] at this
  exact this

theorem traceWait_kept (s : State) (r : Run) (kind flags arg0 arg1 : Nat) (hK : Kept K s) : Kept K (traceWait s r kind flags arg0 arg1) := by
  unfold traceWait
  repeat' first
    | with_reducible assumption
    | with_reducible apply kept_ite
    | with_reducible apply traceCmd_kept
    | split
    | dsimp only

theorem traceBegin_kept (s : State) (r : Run) (y0 : RWait) (hK : Kept K s) : Kept K (traceBegin s r y0) := by
  unfold traceBegin
  repeat' first
    | with_reducible assumption
    | with_reducible apply kept_ite
    | with_reducible apply traceWait_kept
    | split
    | dsimp only

theorem doRastanSend_kept (s : State) (k : CmdKey) (peer win off : Nat) (rows : List Nat) (bcn : Option (Nat × Word × Bool)) (waits : List RWait) (hK : Kept K s) : Kept K (doRastanSend s k peer win off rows bcn waits) := by
  unfold doRastanSend
  repeat' first
    | with_reducible assumption
    | with_reducible apply kept_ite
    | with_reducible apply kept_foldl
    | with_reducible refine readRows_kept (by assumption) ?_
    | with_reducible apply readRows_keptp
    | with_reducible apply queueFrame_kept
    | with_reducible apply setPeer_kept
    | with_reducible apply traceBegin_kept
    | with_reducible apply putRun_kept
    | (intro _ _ _)
    | split
    | dsimp only

theorem doBeaconSignal_kept (s : State) (k : CmdKey) (hK : Kept K s) : Kept K (doBeaconSignal s k) := by
  unfold doBeaconSignal
  repeat' first
    | with_reducible assumption
    | with_reducible apply kept_ite
    | with_reducible apply fileReq_kept
    | with_reducible apply commandFault_kept
    | with_reducible apply putCmd_kept
    | with_reducible apply queueFrame_kept
    | split
    | dsimp only

theorem ackSignals_kept (s : State) (fs : List SentFrame) (hK : Kept K s) : Kept K (ackSignals s fs) := by
  unfold ackSignals
  repeat' first
    | with_reducible assumption
    | with_reducible apply kept_ite
    | with_reducible apply kept_foldl
    | with_reducible apply fileReq_kept
    | (intro _ _ _)
    | split
    | dsimp only

theorem takeAck_kept (s : State) (c : Nat) (ack : Word) (hK : Kept K s) : Kept K (takeAck s c ack) := by
  unfold takeAck
  repeat' first
    | with_reducible assumption
    | with_reducible apply kept_ite
    | with_reducible apply ackSignals_kept
    | with_reducible apply setPeer_kept
    | split
    | dsimp only

theorem refuse_kept (s : State) (f : RFrame) (reason : Nat) (hK : Kept K s) : Kept K (refuse s f reason) := by
  unfold refuse
  repeat' first
    | with_reducible assumption
    | with_reducible apply kept_ite
    | with_reducible apply queueFrame_kept
    | split
    | dsimp only

theorem countFill_kept (s : State) (win peer rows : Nat) (hK : Kept K s) : Kept K (countFill s win peer rows) := by
  unfold countFill
  repeat' first
    | with_reducible assumption
    | with_reducible apply kept_ite
    | with_reducible apply setRuns_kept
    | split
    | dsimp only

theorem applyWrite_kept (s : State) (f : RFrame) (hK : Kept K s) : Kept K (applyWrite s f) := by
  unfold applyWrite
  repeat' first
    | with_reducible assumption
    | with_reducible apply kept_ite
    | with_reducible apply kept_foldl
    | with_reducible apply refuse_kept
    | with_reducible apply countRefused_kept
    | with_reducible apply countFill_kept
    | with_reducible apply admitRow_kept
    | (intro _ _ _)
    | split
    | dsimp only

theorem applyBeacon_kept (s : State) (port : Nat) (f : RFrame) (hK : Kept K s) : Kept K (applyBeacon s port f) := by
  unfold applyBeacon
  repeat' first
    | with_reducible assumption
    | with_reducible apply kept_ite
    | with_reducible apply trace_kept
    | with_reducible apply signalBeacon_kept
    | with_reducible apply refuse_kept
    | split
    | dsimp only

theorem applyAsk_kept (s : State) (f : RFrame) (hK : Kept K s) : Kept K (applyAsk s f) := by
  unfold applyAsk
  repeat' first
    | with_reducible assumption
    | with_reducible apply kept_ite
    | with_reducible apply kept_foldl
    | with_reducible apply queueFrame_kept
    | (intro _ _ _)
    | split
    | dsimp only

theorem armStop_kept (s : State) (t : Mer) (streams : Bool) (hK : Kept K s) : Kept K (armStop s t streams) := by
  unfold armStop
  repeat' first
    | with_reducible assumption
    | with_reducible apply kept_ite
    | with_reducible apply setFleet_kept
    | split
    | dsimp only

theorem noteStop_kept (s : State) (hK : Kept K s) : Kept K (noteStop s) := by
  unfold noteStop
  repeat' first
    | with_reducible assumption
    | with_reducible apply kept_ite
    | with_reducible apply setFleet_kept
    | split
    | dsimp only

theorem disarmLaunches_kept (s : State) (hK : Kept K s) : Kept K (disarmLaunches s) := by
  unfold disarmLaunches
  repeat' first
    | with_reducible assumption
    | with_reducible apply kept_ite
    | with_reducible apply kept_foldl
    | with_reducible apply putCmd_kept
    | with_reducible apply setHelm_kept
    | (intro _ _ _)
    | split
    | dsimp only

theorem actStop_kept (s : State) (streams late : Bool) (places : List (Nat × Nat × Nat)) (hK : Kept K s) : Kept K (actStop s streams late places) := by
  unfold actStop
  repeat' first
    | with_reducible assumption
    | with_reducible apply kept_ite
    | with_reducible apply kept_foldl
    | with_reducible apply setPel_kept
    | with_reducible apply trace_kept
    | with_reducible apply disarmLaunches_kept
    | with_reducible apply killBatches_kept
    | with_reducible apply killRuns_kept
    | with_reducible apply failStream_kept
    | with_reducible apply setFleet_kept
    | (intro _ _ _)
    | split
    | dsimp only

theorem applyStop_kept (s : State) (f : RFrame) (hK : Kept K s) : Kept K (applyStop s f) := by
  unfold applyStop
  repeat' first
    | with_reducible assumption
    | with_reducible apply kept_ite
    | with_reducible apply actStop_kept
    | with_reducible apply rflag_kept
    | with_reducible apply armStop_kept
    | split
    | dsimp only

theorem endStop_kept (s : State) (hK : Kept K s) : Kept K (endStop s) := by
  unfold endStop
  repeat' first
    | with_reducible assumption
    | with_reducible apply kept_ite
    | with_reducible apply kept_foldl
    | with_reducible apply setFleet_kept
    | with_reducible apply pumpCtx_kept
    | (intro _ _ _)
    | split
    | dsimp only

theorem applyRefused_kept (s : State) (f : RFrame) (hK : Kept K s) : Kept K (applyRefused s f) := by
  unfold applyRefused
  repeat' first
    | with_reducible assumption
    | with_reducible apply kept_ite
    | with_reducible apply setPeer_kept
    | with_reducible apply raiseEvent_kept
    | with_reducible apply fileFault_kept
    | split
    | dsimp only

theorem applyFrame_kept (s : State) (port : Nat) (f : RFrame) (hK : Kept K s) : Kept K (applyFrame s port f) := by
  unfold applyFrame
  repeat' first
    | with_reducible assumption
    | with_reducible apply kept_ite
    | with_reducible apply applyWrite_kept
    | with_reducible apply applyBeacon_kept
    | with_reducible apply applyAsk_kept
    | with_reducible apply applyStop_kept
    | with_reducible apply endStop_kept
    | with_reducible apply applyRefused_kept
    | split
    | dsimp only

theorem drainHeld_kept (y0 : Nat) (y1 : State) (y2 : Nat) (hK : Kept K y1) : Kept K (drainHeld y0 y1 y2) := by
  fun_induction drainHeld y0 y1 y2
  all_goals repeat' first
    | with_reducible assumption
    | with_reducible apply kept_ite
    | with_reducible apply setPeer_kept
    | with_reducible apply applyFrame_kept
    | with_reducible apply_assumption
    | split
    | dsimp +zetaDelta only

theorem drainPeers_kept (s : State) (hK : Kept K s) : Kept K (drainPeers s) := by
  unfold drainPeers
  repeat' first
    | with_reducible assumption
    | with_reducible apply kept_ite
    | with_reducible apply kept_foldl
    | with_reducible apply drainHeld_kept
    | (intro _ _ _)
    | split
    | dsimp only

theorem takeSequenced_kept (s : State) (f : RFrame) (hK : Kept K s) : Kept K (takeSequenced s f) := by
  unfold takeSequenced
  repeat' first
    | with_reducible assumption
    | with_reducible apply kept_ite
    | with_reducible apply setPeer_kept
    | with_reducible apply drainHeld_kept
    | split
    | dsimp only

theorem doRastanFrameReceive_kept (s : State) (port : Nat) (f : RFrame) (wire : RWire) (hK : Kept K s) : Kept K (doRastanFrameReceive s port f wire) := by
  unfold doRastanFrameReceive
  repeat' first
    | with_reducible assumption
    | with_reducible apply kept_ite
    | with_reducible apply gcount_kept
    | with_reducible apply heardFrom_kept
    | with_reducible apply applyFrame_kept
    | with_reducible apply takeAck_kept
    | with_reducible apply takeSequenced_kept
    | split
    | dsimp only

theorem traceEnd_kept (s : State) (r : Run) (y0 : RWait) (hK : Kept K s) : Kept K (traceEnd s r y0) := by
  unfold traceEnd
  repeat' first
    | with_reducible assumption
    | with_reducible apply kept_ite
    | with_reducible apply traceWait_kept
    | split
    | dsimp only

theorem settleRun_kept (s : State) (r : Run) (hK : Kept K s) : Kept K (settleRun s r) := by
  unfold settleRun
  repeat' first
    | with_reducible assumption
    | with_reducible apply kept_ite
    | with_reducible apply kept_foldl
    | with_reducible apply traceEnd_kept
    | with_reducible apply putRun_kept
    | (intro _ _ _)
    | split
    | dsimp only

theorem settleWaits_kept (s : State) (hK : Kept K s) : Kept K (settleWaits s) := by
  unfold settleWaits
  repeat' first
    | with_reducible assumption
    | with_reducible apply kept_ite
    | with_reducible apply kept_foldl
    | with_reducible apply settleRun_kept
    | (intro _ _ _)
    | split
    | dsimp only

theorem traceLimit_kept (s : State) (r : Run) (y0 : RWait) (hK : Kept K s) : Kept K (traceLimit s r y0) := by
  unfold traceLimit
  repeat' first
    | with_reducible assumption
    | with_reducible apply kept_ite
    | with_reducible apply traceWait_kept
    | split
    | dsimp only

theorem doTimedWaitLimit_kept (s : State) (k : CmdKey) (hK : Kept K s) : Kept K (doTimedWaitLimit s k) := by
  unfold doTimedWaitLimit
  repeat' first
    | with_reducible assumption
    | with_reducible apply kept_ite
    | with_reducible apply kept_foldl
    | with_reducible apply putRun_kept
    | with_reducible apply traceLimit_kept
    | (intro _ _ _)
    | split
    | dsimp only

theorem toAll_kept (s : State) (kind : RType) (g : RFrame → RFrame) (hK : Kept K s) : Kept K (toAll s kind g) := by
  unfold toAll
  repeat' first
    | with_reducible assumption
    | with_reducible apply kept_ite
    | with_reducible apply kept_foldl
    | with_reducible apply queueFrame_kept
    | (intro _ _ _)
    | split
    | dsimp only

theorem requestStop_kept (s : State) (hK : Kept K s) : Kept K (requestStop s) := by
  unfold requestStop
  repeat' first
    | with_reducible assumption
    | with_reducible apply kept_ite
    | with_reducible apply toAll_kept
    | with_reducible apply armStop_kept
    | split
    | dsimp only

theorem fltStopWrite_kept (s : State) (w : Word) (hK : Kept K s) : Kept K (fltStopWrite s w) := by
  unfold fltStopWrite
  repeat' first
    | with_reducible assumption
    | with_reducible apply kept_ite
    | with_reducible apply rput_kept
    | with_reducible apply endStop_kept
    | with_reducible apply toAll_kept
    | with_reducible apply requestStop_kept
    | split
    | dsimp only

theorem doGlobalStopRequest_kept (s : State) (w : Word) (hK : Kept K s) : Kept K (doGlobalStopRequest s w) := by
  unfold doGlobalStopRequest
  repeat' first
    | with_reducible assumption
    | with_reducible apply kept_ite
    | with_reducible apply fltStopWrite_kept
    | split
    | dsimp only

theorem doGlobalResume_kept (s : State) (w : Word) (hK : Kept K s) : Kept K (doGlobalResume s w) := by
  unfold doGlobalResume
  repeat' first
    | with_reducible assumption
    | with_reducible apply kept_ite
    | with_reducible apply fltStopWrite_kept
    | split
    | dsimp only

theorem doGlobalStop_kept (s : State) (places : List (Nat × Nat × Nat)) (hK : Kept K s) : Kept K (doGlobalStop s places) := by
  unfold doGlobalStop
  repeat' first
    | with_reducible assumption
    | with_reducible apply kept_ite
    | with_reducible apply actStop_kept
    | split
    | dsimp only

theorem doScanOutEnd_kept (s : State) (hK : Kept K s) : Kept K (doScanOutEnd s) := by
  unfold doScanOutEnd
  repeat' first
    | with_reducible assumption
    | with_reducible apply kept_ite
    | with_reducible apply gcount_kept
    | with_reducible apply setPel_kept
    | split
    | dsimp only

end Sys2Proof.Laws
end

