-- ==== Sys2Proof/Laws/KeptRegisters.lean ====
section
/-! SUPPORT. What the operations of Machine/Registers.lean keep (Laws/Kept.lean). -/

namespace Sys2Proof.Laws
open Sys2Proof Sys2Proof.Machine

set_option linter.unusedTactic false
set_option linter.unreachableTactic false
set_option linter.unusedVariables false

variable {K : Keep}

theorem logWinWrite_kept (s : State) (path : Nat) (w : Word) (hK : Kept K s) : Kept K (logWinWrite s path w) := by
  unfold logWinWrite
  repeat' first
    | with_reducible assumption
    | with_reducible apply kept_ite
    | with_reducible apply latchWords_kept
    | with_reducible apply regPut_kept
    | split
    | dsimp only

theorem wakeSelWrite_kept (s : State) (w : Word) (hK : Kept K s) : Kept K (wakeSelWrite s w) := by
  unfold wakeSelWrite
  repeat' first
    | with_reducible assumption
    | with_reducible apply kept_ite
    | with_reducible apply latchWords_kept
    | with_reducible apply rput_kept
    | split
    | dsimp only

theorem counterRead_keptp (s : State) (path : Nat) (hK : Kept K s) : Kept K (counterRead s path).1 := by
  unfold counterRead
  repeat' first
    | with_reducible assumption
    | (dsimp only; with_reducible assumption)
    | with_reducible apply kept_ite
    | with_reducible apply regPut_kept
    | split
    | dsimp only

theorem counterRead_kept {s : State} {path : Nat} {r0 : State} {r1 : Nat} (e : counterRead s path = (r0, r1)) (hK : Kept K s)  : Kept K r0 := by
  have := counterRead_keptp s path hK 
  rw [e] at this
  exact this

theorem bsetRead_keptp (s : State) (path : Nat) (hK : Kept K s) : Kept K (bsetRead s path).1 := by
  unfold bsetRead
  repeat' first
    | with_reducible assumption
    | (dsimp only; with_reducible assumption)
    | with_reducible apply kept_ite
    | with_reducible apply regPut_kept
    | split
    | dsimp only

theorem bsetRead_kept {s : State} {path : Nat} {r0 : State} {r1 : Nat} (e : bsetRead s path = (r0, r1)) (hK : Kept K s)  : Kept K r0 := by
  have := bsetRead_keptp s path hK 
  rw [e] at this
  exact this

theorem regRead_keptp (s : State) (path off : Nat) (hK : Kept K s) : Kept K (regRead s path off).1 := by
  unfold regRead
  repeat' first
    | with_reducible assumption
    | (dsimp only; with_reducible assumption)
    | with_reducible apply kept_ite
    | with_reducible refine counterRead_kept (by assumption) ?_
    | with_reducible apply counterRead_keptp
    | with_reducible refine bsetRead_kept (by assumption) ?_
    | with_reducible apply bsetRead_keptp
    | with_reducible apply regPut_kept
    | with_reducible apply setMs_kept
    | split
    | dsimp only

theorem regRead_kept {s : State} {path off : Nat} {r0 : State} {r1 : Nat} (e : regRead s path off = (r0, r1)) (hK : Kept K s)  : Kept K r0 := by
  have := regRead_keptp s path off hK 
  rw [e] at this
  exact this

theorem readOut_kept (s : State) (path off : Nat) (hK : Kept K s) : Kept K (readOut s path off) := by
  unfold readOut
  repeat' first
    | with_reducible assumption
    | with_reducible apply kept_ite
    | with_reducible refine regRead_kept (by assumption) ?_
    | with_reducible apply regRead_keptp
    | with_reducible apply emit_kept
    | split
    | dsimp only

theorem doRcCounterRead_kept (s : State) (path off : Nat) (hK : Kept K s) : Kept K (doRcCounterRead s path off) := by
  unfold doRcCounterRead
  repeat' first
    | with_reducible assumption
    | with_reducible apply kept_ite
    | with_reducible apply readOut_kept
    | split
    | dsimp only

theorem doCounterRead_kept (s : State) (path : Nat) (hK : Kept K s) : Kept K (doCounterRead s path) := by
  unfold doCounterRead
  repeat' first
    | with_reducible assumption
    | with_reducible apply kept_ite
    | with_reducible apply readOut_kept
    | split
    | dsimp only

theorem doBsetRead_kept (s : State) (path : Nat) (hK : Kept K s) : Kept K (doBsetRead s path) := by
  unfold doBsetRead
  repeat' first
    | with_reducible assumption
    | with_reducible apply kept_ite
    | with_reducible apply readOut_kept
    | split
    | dsimp only

theorem doSerialRead_kept (s : State) (path : Nat) (hK : Kept K s) : Kept K (doSerialRead s path) := by
  unfold doSerialRead
  repeat' first
    | with_reducible assumption
    | with_reducible apply kept_ite
    | with_reducible apply readOut_kept
    | split
    | dsimp only

theorem plainWrite_kept (s : State) (copy off : Nat) (ri : RegInfo) (w : Word) (hK : Kept K s) : Kept K (plainWrite s copy off ri w) := by
  unfold plainWrite
  repeat' first
    | with_reducible assumption
    | with_reducible apply kept_ite
    | with_reducible apply regPut_kept
    | split
    | dsimp only

theorem errStatWrite_kept (s : State) (w : Word) (hK : Kept K s) : Kept K (errStatWrite s w) := by
  unfold errStatWrite
  repeat' first
    | with_reducible assumption
    | with_reducible apply kept_ite
    | with_reducible apply rput_kept
    | with_reducible apply setLog_kept
    | ((with_reducible apply setBin_kept); rotate_left; exact rfl; exact rfl)
    | split
    | dsimp only

theorem fieldsWrite_kept (s : State) (off rw : Nat) (w : Word) (refused : List (Nat × Nat × Nat)) (hK : Kept K s) : Kept K (fieldsWrite s off rw w refused) := by
  unfold fieldsWrite
  repeat' first
    | with_reducible assumption
    | with_reducible apply kept_ite
    | with_reducible apply kept_foldl
    | with_reducible apply rput_kept
    | (intro _ _ _)
    | split
    | dsimp only

theorem rangeCtl_kept (s : State) (off : Nat) (w : Word) (hK : Kept K s) : Kept K (rangeCtl s off w) := by
  unfold rangeCtl
  repeat' first
    | with_reducible assumption
    | with_reducible apply kept_ite
    | with_reducible apply cmdRegWrite_kept
    | with_reducible apply bcnSet_kept
    | with_reducible apply hdgSet_kept
    | with_reducible apply bcnGet_kept
    | with_reducible apply hdgGet_kept
    | with_reducible apply cmdRegErr_kept
    | split
    | dsimp only

theorem ctxCmdWrite_kept (s : State) (w : Word) (hK : Kept K s) : Kept K (ctxCmdWrite s w) := by
  unfold ctxCmdWrite
  repeat' first
    | with_reducible assumption
    | with_reducible apply kept_ite
    | with_reducible apply cmdRegWrite_kept
    | with_reducible apply ctxUndefine_kept
    | with_reducible apply cmdRegErr_kept
    | split
    | dsimp only

theorem winCtlWrite_kept (s : State) (w : Word) (hK : Kept K s) : Kept K (winCtlWrite s w) := by
  unfold winCtlWrite
  repeat' first
    | with_reducible assumption
    | with_reducible apply kept_ite
    | with_reducible apply rput_kept
    | with_reducible apply doWindowOpen_kept
    | with_reducible apply doWindowClose_kept
    | with_reducible apply rflag_kept
    | split
    | dsimp only

theorem bankPwrWrite_kept (s : State) (blk : Nat) (w : Word) (hK : Kept K s) : Kept K (bankPwrWrite s blk w) := by
  unfold bankPwrWrite
  repeat' first
    | with_reducible assumption
    | with_reducible apply kept_ite
    | with_reducible apply kept_foldl
    | with_reducible apply doBankPowerDownRequest_kept
    | with_reducible apply doBankPowerRestore_kept
    | (intro _ _ _)
    | split
    | dsimp only

theorem csiWrite_kept (s : State) (tx : Bool) (p : Nat) (w : Word) (hK : Kept K s) : Kept K (csiWrite s tx p w) := by
  unfold csiWrite
  repeat' first
    | with_reducible assumption
    | with_reducible apply kept_ite
    | with_reducible apply rput_kept
    | with_reducible apply emit_kept
    | with_reducible apply setCsi_kept
    | split
    | dsimp only

theorem srcWrite_kept (s : State) (i : Nat) (w : Word) (hK : Kept K s) : Kept K (srcWrite s i w) := by
  unfold srcWrite
  repeat' first
    | with_reducible assumption
    | with_reducible apply kept_ite
    | with_reducible apply servoCheck_kept
    | with_reducible apply rput_kept
    | split
    | dsimp only

theorem portCfgWrite_kept (s : State) (off : Nat) (w : Word) (hK : Kept K s) : Kept K (portCfgWrite s off w) := by
  unfold portCfgWrite
  repeat' first
    | with_reducible assumption
    | with_reducible apply kept_ite
    | with_reducible apply rput_kept
    | split
    | dsimp only

theorem outWrite_kept (s : State) (off : Nat) (mask : Nat) (w : Word) (hK : Kept K s) : Kept K (outWrite s off mask w) := by
  unfold outWrite
  repeat' first
    | with_reducible assumption
    | with_reducible apply kept_ite
    | with_reducible apply rput_kept
    | split
    | dsimp only

theorem inWrite_kept (s : State) (off : Nat) (w : Word) (hK : Kept K s) : Kept K (inWrite s off w) := by
  unfold inWrite
  repeat' first
    | with_reducible assumption
    | with_reducible apply kept_ite
    | with_reducible apply rput_kept
    | split
    | dsimp only

theorem fltCfgWrite_kept (s : State) (w : Word) (hK : Kept K s) : Kept K (fltCfgWrite s w) := by
  unfold fltCfgWrite
  repeat' first
    | with_reducible assumption
    | with_reducible apply kept_ite
    | with_reducible apply rput_kept
    | split
    | dsimp only

theorem traceCtlWrite_kept (s : State) (w : Word) (hK : Kept K s) : Kept K (traceCtlWrite s w) := by
  unfold traceCtlWrite
  repeat' first
    | with_reducible assumption
    | with_reducible apply kept_ite
    | with_reducible apply rput_kept
    | with_reducible apply setPel_kept
    | split
    | dsimp only

theorem binCfgWrite_kept (s : State) (w : Word) (hK : Kept K s) : Kept K (binCfgWrite s w) := by
  unfold binCfgWrite
  repeat' first
    | with_reducible assumption
    | with_reducible apply kept_ite
    | with_reducible apply rput_kept
    | split
    | dsimp only

theorem clearCounters_kept (s : State) (hK : Kept K s) : Kept K (clearCounters s) := by
  unfold clearCounters
  repeat' first
    | with_reducible assumption
    | with_reducible apply kept_ite
    | with_reducible apply setPel_kept
    | split
    | dsimp only

theorem lowWrite_kept (s : State) (path off : Nat) (ri : RegInfo) (w : Word) (hK : Kept K s) (hB : K.boot = none) (hH : K.held = false) : Kept K (lowWrite s path off ri w) := by
  unfold lowWrite
  repeat' first
    | with_reducible assumption
    | with_reducible apply kept_ite
    | with_reducible apply errStatWrite_kept
    | with_reducible apply doWarmReset_kept
    | with_reducible apply ctxBaseWrite_kept
    | with_reducible apply fieldsWrite_kept
    | with_reducible apply rsvWrite_kept
    | with_reducible apply ctxCmdWrite_kept
    | with_reducible apply fnCtxWrite_kept
    | with_reducible apply dbgWrite_kept
    | with_reducible apply winCtlWrite_kept
    | with_reducible apply doAlmLinesWrite_kept
    | with_reducible apply bankPwrWrite_kept
    | with_reducible apply doWindowDescriptorWrite_kept
    | with_reducible apply rangeCtl_kept
    | with_reducible apply doHeadingEntryLatch_kept
    | with_reducible apply plainWrite_kept
    | assumption
    | split
    | dsimp only

theorem highWrite_kept (s : State) (path off : Nat) (ri : RegInfo) (w : Word) (hK : Kept K s) (hB : K.boot = none) (hH : K.held = false) : Kept K (highWrite s path off ri w) := by
  unfold highWrite
  repeat' first
    | with_reducible assumption
    | with_reducible apply kept_ite
    | with_reducible apply csiWrite_kept
    | with_reducible apply plainWrite_kept
    | with_reducible apply merCtl_kept
    | with_reducible apply srcWrite_kept
    | with_reducible apply fieldsWrite_kept
    | with_reducible apply portCfgWrite_kept
    | with_reducible apply outCfg_kept
    | with_reducible apply outWrite_kept
    | with_reducible apply inWrite_kept
    | with_reducible apply fltCfgWrite_kept
    | with_reducible apply fltStopWrite_kept
    | with_reducible apply clearCounters_kept
    | with_reducible apply traceCtlWrite_kept
    | with_reducible apply wakeSelWrite_kept
    | with_reducible apply binCfgWrite_kept
    | with_reducible apply doBinRecover_kept
    | with_reducible apply logWinWrite_kept
    | assumption
    | split
    | dsimp only

theorem regWrite_kept (s : State) (path off : Nat) (w : Word) (hK : Kept K s) (hB : K.boot = none) (hH : K.held = false) : Kept K (regWrite s path off w) := by
  unfold regWrite
  repeat' first
    | with_reducible assumption
    | with_reducible apply kept_ite
    | with_reducible apply lowWrite_kept
    | with_reducible apply highWrite_kept
    | assumption
    | split
    | dsimp only

theorem doW1cClear_kept (s : State) (path off : Nat) (w race : Word) (hK : Kept K s) (hB : K.boot = none) (hH : K.held = false) : Kept K (doW1cClear s path off w race) := by
  unfold doW1cClear
  repeat' first
    | with_reducible assumption
    | with_reducible apply kept_ite
    | with_reducible apply regWrite_kept
    | with_reducible apply regPut_kept
    | with_reducible apply rcount_kept
    | assumption
    | split
    | dsimp only

theorem doCounterClear_kept (s : State) (path : Nat) (w : Word) (hK : Kept K s) (hB : K.boot = none) (hH : K.held = false) : Kept K (doCounterClear s path w) := by
  unfold doCounterClear
  repeat' first
    | with_reducible assumption
    | with_reducible apply kept_ite
    | with_reducible apply regWrite_kept
    | assumption
    | split
    | dsimp only

theorem doWakePageLatch_kept (s : State) (w : Word) (hK : Kept K s) (hB : K.boot = none) (hH : K.held = false) : Kept K (doWakePageLatch s w) := by
  unfold doWakePageLatch
  repeat' first
    | with_reducible assumption
    | with_reducible apply kept_ite
    | with_reducible apply regWrite_kept
    | assumption
    | split
    | dsimp only

theorem doLogWindowLatch_kept (s : State) (path : Nat) (w : Word) (hK : Kept K s) (hB : K.boot = none) (hH : K.held = false) : Kept K (doLogWindowLatch s path w) := by
  unfold doLogWindowLatch
  repeat' first
    | with_reducible assumption
    | with_reducible apply kept_ite
    | with_reducible apply regWrite_kept
    | assumption
    | split
    | dsimp only

theorem doBinCfgWrite_kept (s : State) (path : Nat) (w : Word) (hK : Kept K s) (hB : K.boot = none) (hH : K.held = false) : Kept K (doBinCfgWrite s path w) := by
  unfold doBinCfgWrite
  repeat' first
    | with_reducible assumption
    | with_reducible apply kept_ite
    | with_reducible apply regWrite_kept
    | assumption
    | split
    | dsimp only

theorem doTraceLost_kept (s : State) (hK : Kept K s) : Kept K (doTraceLost s) := by
  unfold doTraceLost
  repeat' first
    | with_reducible assumption
    | with_reducible apply kept_ite
    | with_reducible apply setPel_kept
    | split
    | dsimp only

theorem drainTrace_kept (s : State) (hK : Kept K s) : Kept K (drainTrace s) := by
  unfold drainTrace
  repeat' first
    | with_reducible assumption
    | with_reducible apply kept_ite
    | with_reducible apply setPel_kept
    | with_reducible apply rcount_kept
    | with_reducible apply rflag_kept
    | with_reducible apply gcount_kept
    | split
    | dsimp only

end Sys2Proof.Laws
end

