-- ==== Sys2Proof/Laws/KeptBoot.lean ====
section
/-! SUPPORT. What the operations of Machine/Boot.lean keep (Laws/Kept.lean). -/

namespace Sys2Proof.Laws
open Sys2Proof Sys2Proof.Machine

set_option linter.unusedTactic false
set_option linter.unreachableTactic false
set_option linter.unusedVariables false

variable {K : Keep}

theorem heldState_kept (s : State) (si lg : Bool) (hK : Kept K s) (hT : K.time = none) (hB : K.boot = none) (hU : K.up = false)
    (hH : K.held = false) : Kept K (heldState s si lg) := by
  have hm : K.inv = true → (heldState s si lg).memoriesWf = true := by
    intro hi
    have := hK.mems hi
    simp only [State.memoriesWf, Bool.and_eq_true] at this
    simp only [State.memoriesWf, heldState, Bool.and_eq_true]
    exact ⟨⟨⟨rfl, rfl⟩, this.1.2⟩, this.2⟩
  exact ⟨hK.1, hm, fun _ h => absurd h (by simp [heldState, Bin.reset]), hK.4, by simp [hT], by simp [hB], fun _ => rfl, by simp [hU], by simp [hH]⟩

theorem doPowerDown_kept (s : State) (short si lg : Bool) (hK : Kept K s) (hT : K.time = none) (hB : K.boot = none) (hU : K.up = false) (hH : K.held = false) : Kept K (doPowerDown s short si lg) := by
  unfold doPowerDown
  repeat' first
    | with_reducible assumption
    | with_reducible apply kept_ite
    | with_reducible apply setFree_kept
    | with_reducible apply heldState_kept
    | assumption
    | split
    | dsimp only

theorem doSupplyDetectReset_kept (s : State) (core sram : Nat) (hK : Kept K s) (hT : K.time = none) (hB : K.boot = none) (hU : K.up = false) (hH : K.held = false) : Kept K (doSupplyDetectReset s core sram) := by
  unfold doSupplyDetectReset
  repeat' first
    | with_reducible assumption
    | with_reducible apply kept_ite
    | with_reducible apply heldState_kept
    | assumption
    | split
    | dsimp only

theorem doVddSiLowReset_kept (s : State) (mv : Nat) (hK : Kept K s) (hT : K.time = none) (hB : K.boot = none) (hU : K.up = false) (hH : K.held = false) : Kept K (doVddSiLowReset s mv) := by
  unfold doVddSiLowReset
  repeat' first
    | with_reducible assumption
    | with_reducible apply kept_ite
    | with_reducible apply heldState_kept
    | assumption
    | split
    | dsimp only

theorem doPor_kept (s : State) (mode i3cSa : Nat) (hK : Kept K s) (hB : K.boot = none) : Kept K (doPor s mode i3cSa) := by
  unfold doPor
  repeat' first
    | with_reducible assumption
    | with_reducible apply kept_ite
    | ((with_reducible apply setBoot_kept); rotate_left; assumption; exact rfl)
    | ((with_reducible apply setClk_kept); rotate_left; exact rfl; exact rfl)
    | assumption
    | split
    | dsimp only

theorem stepPassed_kept (s : State) (n : Nat) (hK : Kept K s) (hB : K.boot = none) : Kept K (stepPassed s n) := by
  unfold stepPassed
  repeat' first
    | with_reducible assumption
    | with_reducible apply kept_ite
    | ((with_reducible apply setBoot_kept); rotate_left; assumption; exact rfl)
    | assumption
    | split
    | dsimp only

theorem doBinnacleSelfTestEnd_kept (s : State) (pass : Bool) (hK : Kept K s) (hB : K.boot = none) (hU : K.up = false) : Kept K (doBinnacleSelfTestEnd s pass) := by
  unfold doBinnacleSelfTestEnd
  repeat' first
    | with_reducible assumption
    | with_reducible apply kept_ite
    | with_reducible apply stepPassed_kept
    | with_reducible apply safeListen_kept
    | assumption
    | split
    | dsimp only

theorem doRootPllLock_kept (s : State) (width speed : Nat) (hK : Kept K s) (hT : K.time = none) (hB : K.boot = none) (hU : K.up = false) : Kept K (doRootPllLock s width speed) := by
  unfold doRootPllLock
  repeat' first
    | with_reducible assumption
    | with_reducible apply kept_ite
    | ((with_reducible apply setClk_kept_free); rotate_left; assumption)
    | ((with_reducible apply setClk_kept); rotate_left; exact rfl; exact rfl)
    | with_reducible apply setPci_kept
    | with_reducible apply safeListen_kept
    | ((with_reducible apply setBoot_kept); rotate_left; assumption; exact rfl)
    | with_reducible apply stepPassed_kept
    | assumption
    | split
    | dsimp only

theorem entryTakes_keptp (s : State) (off : Nat) (ri : RegInfo) (w : Word) (hK : Kept K s) (hB : K.boot = none) (hH : K.held = false) : Kept K (entryTakes s off ri w).1 := by
  unfold entryTakes
  repeat' first
    | with_reducible assumption
    | (dsimp only; with_reducible assumption)
    | with_reducible apply kept_ite
    | with_reducible apply regWrite_kept
    | assumption
    | split
    | dsimp only

theorem entryTakes_kept {s : State} {off : Nat} {ri : RegInfo} {w : Word} {r0 : State} {r1 : Bool} (e : entryTakes s off ri w = (r0, r1)) (hK : Kept K s) (hB : K.boot = none) (hH : K.held = false) : Kept K r0 := by
  have := entryTakes_keptp s off ri w hK hB hH
  rw [e] at this
  exact this

theorem doBootRomEnd_kept (s : State) (core0 key : Bool) (serial : Word64) (hK : Kept K s) (hB : K.boot = none) (hU : K.up = false) : Kept K (doBootRomEnd s core0 key serial) := by
  unfold doBootRomEnd
  repeat' first
    | with_reducible assumption
    | with_reducible apply kept_ite
    | with_reducible apply safeListen_kept
    | ((with_reducible apply setBoot_kept); rotate_left; assumption; exact rfl)
    | with_reducible apply setHelm_kept
    | with_reducible apply stepPassed_kept
    | assumption
    | split
    | dsimp only

theorem selfTest_kept (s : State) (facets spares sextants cores rows banks : List Nat) (hK : Kept K s) : Kept K (selfTest s facets spares sextants cores rows banks) := by
  unfold selfTest
  repeat' first
    | with_reducible assumption
    | with_reducible apply kept_ite
    | with_reducible apply kept_foldl
    | with_reducible apply setRose_kept
    | with_reducible apply failFacet_kept
    | with_reducible apply doSpareSubstitution_kept
    | with_reducible apply failSextant_kept
    | with_reducible apply setHelm_kept
    | with_reducible apply raiseEvent_kept
    | ((with_reducible apply setChart_kept); rotate_left; exact rfl)
    | ((with_reducible apply setChart_kept_mem); rotate_left; first | exact memWf_writeBytes _ _ | exact memWf_clear _ _ | exact memWf_filter _)
    | with_reducible apply retireBank_kept
    | (intro _ _ _)
    | split
    | dsimp only

theorem doSelfTestEnd_kept (s : State) (facets spares sextants cores rows banks : List Nat) (tables : Bool) (hK : Kept K s) (hB : K.boot = none) (hU : K.up = false) : Kept K (doSelfTestEnd s facets spares sextants cores rows banks tables) := by
  unfold doSelfTestEnd
  repeat' first
    | with_reducible assumption
    | with_reducible apply kept_ite
    | with_reducible apply selfTest_kept
    | ((with_reducible apply setBoot_kept); rotate_left; assumption; exact rfl)
    | with_reducible apply safeListen_kept
    | with_reducible apply stepPassed_kept
    | assumption
    | split
    | dsimp only

theorem doFirmwareReadEnd_kept (s : State) (octal : Bool) (hK : Kept K s) (hB : K.boot = none) (hU : K.up = false) : Kept K (doFirmwareReadEnd s octal) := by
  unfold doFirmwareReadEnd
  repeat' first
    | with_reducible assumption
    | with_reducible apply kept_ite
    | with_reducible apply safeListen_kept
    | with_reducible apply stepPassed_kept
    | ((with_reducible apply setBoot_kept); rotate_left; assumption; exact rfl)
    | assumption
    | split
    | dsimp only

theorem applyWrites_keptp (s : State) (y0 : List (Nat × Word)) (hK : Kept K s) (hB : K.boot = none)
    (hH : K.held = false) : Kept K (applyWrites s y0).1 := by
  induction y0 generalizing s with
  | nil => exact hK
  | cons e es ih =>
    obtain ⟨off, w⟩ := e
    unfold applyWrites
    split
    · exact hK
    · split
      rename_i t ok he
      have ht : Kept K t := entryTakes_kept he hK hB hH
      dsimp only
      split
      · exact ih _ ht
      · exact ht

theorem applyWrites_kept {s : State} {y0 : List (Nat × Word)} {r0 : State} {r1 : Bool} (e : applyWrites s y0 = (r0, r1)) (hK : Kept K s)
    (hB : K.boot = none) (hH : K.held = false) : Kept K r0 := by
  have := applyWrites_keptp s y0 hK hB hH
  rw [e] at this
  exact this

theorem enablePorts_kept (s : State) (hK : Kept K s) : Kept K (enablePorts s) := by
  unfold enablePorts
  repeat' first
    | with_reducible assumption
    | with_reducible apply kept_ite
    | with_reducible apply kept_foldl
    | with_reducible apply csiWrite_kept
    | (intro _ _ _)
    | split
    | dsimp only

theorem firstAvs_kept (s : State) (mv : Nat) (hK : Kept K s) : Kept K (firstAvs s mv) := by
  unfold firstAvs
  repeat' first
    | with_reducible assumption
    | with_reducible apply kept_ite
    | with_reducible apply kept_foldl
    | with_reducible apply emit_kept
    | ((with_reducible apply setBin_kept); rotate_left; exact rfl; exact rfl)
    | (intro _ _ _)
    | split
    | dsimp only

theorem doReady_kept (s : State) (t0 t1 pmb init0 : Bool) (mv : Nat) (hK : Kept K s) (hB : K.boot = none) (hU : K.up = false)
    (hH : K.held = false) :
    Kept K (doReady s t0 t1 pmb init0 mv) := by
  unfold doReady
  split
  · exact hK
  · rename_i h
    have h2 : s.bin.safe = false := by
      have : inStep s 7 = true := by
        cases hs : inStep s 7 <;> simp_all
      simp only [inStep, Bool.and_eq_true, Bool.not_eq_true'] at this
      exact this.2
    have hC' : Kept { K with calm := true } s :=
      ⟨hK.1, hK.2, hK.3, hK.4, hK.5, hK.6, fun _ => h2, hK.8, hK.9⟩
    have weak : ∀ {t : State}, Kept { K with calm := true } t → Kept K t := fun h =>
      kept_weaken h rfl rfl rfl rfl (fun _ => rfl) (fun h => h) rfl rfl
    have weak2 : ∀ {t : State}, Kept { K with calm := true, up := true } t → Kept K t := fun h =>
      kept_weaken h rfl rfl rfl rfl (fun _ => rfl) (fun _ => rfl) rfl rfl
    have hs := setBoot_kept (v := { s.boot with trained0 := t0, trained1 := t1 && !s.boot.memProfile.testBit 5 }) hC' hB rfl
    dsimp only
    split
    · exact safeListen_kept _ _ (weak hs) hB hU
    · have hf := firstAvs_kept _ mv hs
      have hg := setBoot_kept_run (v := { (firstAvs (s.setBoot { s.boot with
        trained0 := t0, trained1 := t1 && !s.boot.memProfile.testBit 5 }) mv).boot with state := 1, passed := 7 }) hf hB (.inl rfl)
      have hu : Kept { K with calm := true, up := true } _ := ⟨hg.1, hg.2, hg.3, hg.4, hg.5, hg.6, hg.7, fun _ => .inl rfl, hg.9⟩
      have ht := fun es => applyWrites_keptp _ es hu hB hH
      split
      · exact safeListen_kept _ _ (setBoot_kept (weak2 (ht _)) hB rfl) hB hU
      · refine weak2 ?_
        repeat' first
          | with_reducible exact ht _
          | with_reducible apply raiseIbi_kept
          | with_reducible apply setHelm_kept
          | with_reducible apply setLog_kept
          | with_reducible apply enablePorts_kept
          | with_reducible apply binCfgWrite_kept
          | ((with_reducible apply setBin_kept_high); rotate_left; exact rfl; exact rfl; exact rfl)
          | ((with_reducible apply setBoot_kept); rotate_left; assumption; exact rfl)
          | dsimp only

theorem doBootStepDeadline_kept (s : State) (part : Nat) (hK : Kept K s) (hB : K.boot = none) (hU : K.up = false) : Kept K (doBootStepDeadline s part) := by
  unfold doBootStepDeadline
  repeat' first
    | with_reducible assumption
    | with_reducible apply kept_ite
    | with_reducible apply safeListen_kept
    | assumption
    | split
    | dsimp only

theorem doBootTimeout_kept (s : State) (hK : Kept K s) (hB : K.boot = none) (hU : K.up = false) : Kept K (doBootTimeout s) := by
  unfold doBootTimeout
  repeat' first
    | with_reducible assumption
    | with_reducible apply kept_ite
    | with_reducible apply safeListen_kept
    | assumption
    | split
    | dsimp only

end Sys2Proof.Laws
end

