-- ==== Sys2Proof/Laws/KeptMailbox.lean ====
section
/-! SUPPORT. What the operations of Machine/Mailbox.lean keep (Laws/Kept.lean). -/

namespace Sys2Proof.Laws
open Sys2Proof Sys2Proof.Machine

set_option linter.unusedTactic false
set_option linter.unreachableTactic false
set_option linter.unusedVariables false

variable {K : Keep}

theorem mbxBegin_kept (s : State) (code result : Nat) (hK : Kept K s) : Kept K (mbxBegin s code result) := by
  unfold mbxBegin
  repeat' first
    | with_reducible assumption
    | with_reducible apply kept_ite
    | ((with_reducible apply setMbx_kept); rotate_left; first | exact id | exact memWf_writeBytes _ _)
    | split
    | dsimp only

theorem mbxFill_kept (s : State) (bs : List Byte) (hK : Kept K s) : Kept K (mbxFill s bs) := by
  unfold mbxFill
  repeat' first
    | with_reducible assumption
    | with_reducible apply kept_ite
    | ((with_reducible apply setMbx_kept); rotate_left; first | exact id | exact memWf_writeBytes _ _)
    | split
    | dsimp only

theorem mbxReport_kept (s : State) (hK : Kept K s) : Kept K (mbxReport s) := by
  unfold mbxReport
  repeat' first
    | with_reducible assumption
    | with_reducible apply kept_ite
    | with_reducible apply mbxFill_kept
    | with_reducible apply mbxBegin_kept
    | split
    | dsimp only

theorem mbxAttest_kept (s : State) (hK : Kept K s) : Kept K (mbxAttest s) := by
  unfold mbxAttest
  repeat' first
    | with_reducible assumption
    | with_reducible apply kept_ite
    | with_reducible apply mbxBegin_kept
    | with_reducible apply mbxFill_kept
    | split
    | dsimp only

theorem mbxHold_kept (s : State) (cfg : Bool) (off : Nat) (bs : List Byte) (hK : Kept K s) : Kept K (mbxHold s cfg off bs) := by
  unfold mbxHold
  repeat' first
    | with_reducible assumption
    | with_reducible apply kept_ite
    | ((with_reducible apply setMbx_kept); rotate_left; first | exact id | exact memWf_writeBytes _ _)
    | split
    | dsimp only

theorem mbxErase_kept (s : State) (hK : Kept K s) (hF : K.flash = none) : Kept K (mbxErase s) := by
  unfold mbxErase
  repeat' first
    | with_reducible assumption
    | with_reducible apply kept_ite
    | ((with_reducible apply setFlash_kept); rotate_left; assumption; exact fun _ => rfl; exact id)
    | ((with_reducible apply setFlash_kept); rotate_left; assumption; exact id; exact fun _ => rfl)
    | with_reducible apply mbxBegin_kept
    | with_reducible apply mbxHold_kept
    | ((with_reducible apply setFlash_kept); rotate_left; assumption; exact id; exact id)
    | assumption
    | split
    | dsimp only

theorem mbxWriteFlash_kept (s : State) (hK : Kept K s) : Kept K (mbxWriteFlash s) := by
  unfold mbxWriteFlash
  repeat' first
    | with_reducible assumption
    | with_reducible apply kept_ite
    | with_reducible apply mbxBegin_kept
    | with_reducible apply mbxHold_kept
    | split
    | dsimp only

theorem mbxVerify_kept (s : State) (hK : Kept K s) : Kept K (mbxVerify s) := by
  unfold mbxVerify
  repeat' first
    | with_reducible assumption
    | with_reducible apply kept_ite
    | with_reducible apply mbxBegin_kept
    | ((with_reducible apply setMbx_kept); rotate_left; first | exact id | exact memWf_writeBytes _ _)
    | split
    | dsimp only

theorem rebootState_kept (s : State) (hK : Kept K s) (hT : K.time = none) (hB : K.boot = none) (hU : K.up = false)
    (hH : K.held = false) : Kept K (rebootState s) := by
  have hm : K.inv = true → (rebootState s).memoriesWf = true := by
    intro hi
    have := hK.mems hi
    simp only [State.memoriesWf, Bool.and_eq_true] at this
    simp only [State.memoriesWf, rebootState, Bool.and_eq_true]
    exact ⟨⟨⟨rfl, this.1.1.2⟩, this.1.2⟩, this.2⟩
  exact ⟨hK.1, hm, fun _ h => absurd h (by simp [rebootState]), hK.4, by simp [hT], by simp [hB], fun _ => rfl, by simp [hU], by simp [hH]⟩

theorem mbxReboot_kept (s : State) (hK : Kept K s) (hT : K.time = none) (hB : K.boot = none) (hU : K.up = false) (hH : K.held = false) : Kept K (mbxReboot s) := by
  unfold mbxReboot
  repeat' first
    | with_reducible assumption
    | with_reducible apply kept_ite
    | with_reducible apply mbxBegin_kept
    | with_reducible apply rebootState_kept
    | assumption
    | split
    | dsimp only

theorem mbxListen_kept (s : State) (hK : Kept K s) (hB : K.boot = none) (hU : K.up = false) (hH : K.held = false) : Kept K (mbxListen s) := by
  unfold mbxListen
  repeat' first
    | with_reducible assumption
    | with_reducible apply kept_ite
    | with_reducible apply mbxBegin_kept
    | with_reducible apply startWarm_kept
    | with_reducible apply safeListen_kept
    | assumption
    | split
    | dsimp only

theorem mbxGo_kept (s : State) (path code : Nat) (hK : Kept K s) (hF : K.flash = none) (hT : K.time = none) (hB : K.boot = none) (hU : K.up = false) (hH : K.held = false) : Kept K (mbxGo s path code) := by
  unfold mbxGo
  repeat' first
    | with_reducible assumption
    | with_reducible apply kept_ite
    | with_reducible apply mbxReport_kept
    | with_reducible apply mbxAttest_kept
    | with_reducible apply mbxErase_kept
    | with_reducible apply mbxWriteFlash_kept
    | with_reducible apply mbxVerify_kept
    | with_reducible apply mbxReboot_kept
    | with_reducible apply mbxListen_kept
    | with_reducible apply mbxBegin_kept
    | assumption
    | split
    | dsimp only

theorem mbxLand_kept (s : State) (c : Bool × Nat × List Byte) (good : Bool) (hK : Kept K s) (hF : K.flash = none) : Kept K (mbxLand s c good) := by
  unfold mbxLand
  repeat' first
    | with_reducible assumption
    | with_reducible apply kept_ite
    | ((with_reducible apply setFlash_kept); rotate_left; assumption; exact id; exact memWf_writeBytes _ _)
    | ((with_reducible apply setFlash_kept); rotate_left; assumption; exact memWf_writeBytes _ _; exact id)
    | with_reducible apply setFree_kept
    | ((with_reducible apply setFlash_kept); rotate_left; assumption; exact id; exact id)
    | assumption
    | split
    | dsimp only

theorem doMbxDone_kept (s : State) (good : Bool) (hK : Kept K s) (hF : K.flash = none) : Kept K (doMbxDone s good) := by
  unfold doMbxDone
  repeat' first
    | with_reducible assumption
    | with_reducible apply kept_ite
    | with_reducible apply mbxLand_kept
    | ((with_reducible apply setMbx_kept); rotate_left; first | exact id | exact memWf_writeBytes _ _)
    | with_reducible apply raiseIbi_kept
    | assumption
    | split
    | dsimp only

theorem mbxWrite_kept (s : State) (path m : Nat) (w : Word) (hK : Kept K s) (hF : K.flash = none) (hT : K.time = none) (hB : K.boot = none) (hU : K.up = false) (hH : K.held = false) : Kept K (mbxWrite s path m w) := by
  unfold mbxWrite
  repeat' first
    | with_reducible assumption
    | with_reducible apply kept_ite
    | with_reducible apply mbxGo_kept
    | ((with_reducible apply setMbx_kept); rotate_left; first | exact id | exact memWf_writeBytes _ _)
    | assumption
    | split
    | dsimp only

theorem spaceWrite_kept (s : State) (path off : Nat) (w : Word) (hK : Kept K s) (hF : K.flash = none) (hT : K.time = none) (hB : K.boot = none) (hU : K.up = false) (hH : K.held = false) : Kept K (spaceWrite s path off w) := by
  unfold spaceWrite
  repeat' first
    | with_reducible assumption
    | with_reducible apply kept_ite
    | with_reducible apply regWrite_kept
    | with_reducible apply mbxWrite_kept
    | assumption
    | split
    | dsimp only

theorem spaceRead_keptp (s : State) (path off : Nat) (hK : Kept K s) : Kept K (spaceRead s path off).1 := by
  unfold spaceRead
  repeat' first
    | with_reducible assumption
    | (dsimp only; with_reducible assumption)
    | with_reducible apply kept_ite
    | with_reducible refine regRead_kept (by assumption) ?_
    | with_reducible apply regRead_keptp
    | split
    | dsimp only

theorem spaceRead_kept {s : State} {path off : Nat} {r0 : State} {r1 : Nat} (e : spaceRead s path off = (r0, r1)) (hK : Kept K s)  : Kept K r0 := by
  have := spaceRead_keptp s path off hK 
  rw [e] at this
  exact this

theorem doRegisterWrite_kept (s : State) (path off : Nat) (w : Word) (full ep : Bool) (hK : Kept K s) (hF : K.flash = none) (hT : K.time = none) (hB : K.boot = none) (hU : K.up = false) (hH : K.held = false) : Kept K (doRegisterWrite s path off w full ep) := by
  unfold doRegisterWrite
  repeat' first
    | with_reducible assumption
    | with_reducible apply kept_ite
    | with_reducible apply setPci_kept
    | with_reducible apply pcieIn_kept
    | with_reducible apply spaceWrite_kept
    | assumption
    | split
    | dsimp only

end Sys2Proof.Laws
end

