-- ==== Sys2Proof/Laws/KeptI3c.lean ====
section
/-! SUPPORT. What the operations of Machine/I3c.lean keep (Laws/Kept.lean). -/

namespace Sys2Proof.Laws
open Sys2Proof Sys2Proof.Machine

set_option linter.unusedTactic false
set_option linter.unreachableTactic false
set_option linter.unusedVariables false

variable {K : Keep}

theorem updI3c_kept (s : State) (f : I3cSt → I3cSt) (hK : Kept K s) : Kept K (updI3c s f) := by
  unfold updI3c
  repeat' first
    | with_reducible assumption
    | with_reducible apply kept_ite
    | with_reducible apply setI3c_kept
    | split
    | dsimp only

theorem i3cErr_kept (s : State) (i : Nat) (hK : Kept K s) : Kept K (i3cErr s i) := by
  unfold i3cErr
  repeat' first
    | with_reducible assumption
    | with_reducible apply kept_ite
    | with_reducible apply rflag_kept
    | split
    | dsimp only

theorem i3cWrite_kept (s : State) (a : Nat) (y0 : List Word) (hK : Kept K s) (hF : K.flash = none) (hT : K.time = none) (hB : K.boot = none) (hU : K.up = false) (hH : K.held = false) : Kept K (i3cWrite s a y0) := by
  fun_induction i3cWrite s a y0
  all_goals repeat' first
    | with_reducible assumption
    | with_reducible apply kept_ite
    | with_reducible apply spaceWrite_kept
    | with_reducible apply_assumption
    | assumption
    | split
    | dsimp +zetaDelta only

theorem i3cRead_keptp (y0 : Nat) (y1 : State) (y2 : List Byte) (hK : Kept K y1) : Kept K (i3cRead y0 y1 y2).1 := by
  fun_induction i3cRead y0 y1 y2
  all_goals repeat' first
    | with_reducible assumption
    | (dsimp only; with_reducible assumption)
    | with_reducible apply kept_ite
    | with_reducible refine spaceRead_kept (by assumption) ?_
    | with_reducible apply spaceRead_keptp
    | with_reducible apply updI3c_kept
    | with_reducible apply_assumption
    | refine kept_fst (by assumption) ?_
    | split
    | dsimp +zetaDelta only

theorem i3cRead_kept {y0 : Nat} {y1 : State} {y2 : List Byte} {r0 : State} {r1 : List Byte} (e : i3cRead y0 y1 y2 = (r0, r1)) (hK : Kept K y1)  : Kept K r0 := by
  have := i3cRead_keptp y0 y1 y2 hK 
  rw [e] at this
  exact this

theorem doI3cSetPage_kept (s : State) (first page : Nat) (hK : Kept K s) : Kept K (doI3cSetPage s first page) := by
  unfold doI3cSetPage
  repeat' first
    | with_reducible assumption
    | with_reducible apply kept_ite
    | with_reducible apply i3cErr_kept
    | with_reducible apply updI3c_kept
    | split
    | dsimp only

theorem doI3cWriteWords_kept (s : State) (a : Nat) (data : List Byte) (hK : Kept K s) (hF : K.flash = none) (hT : K.time = none) (hB : K.boot = none) (hU : K.up = false) (hH : K.held = false) : Kept K (doI3cWriteWords s a data) := by
  unfold doI3cWriteWords
  repeat' first
    | with_reducible assumption
    | with_reducible apply kept_ite
    | with_reducible apply i3cErr_kept
    | with_reducible apply i3cWrite_kept
    | assumption
    | split
    | dsimp only

theorem doI3cSetReadAddr_kept (s : State) (a n : Nat) (hK : Kept K s) : Kept K (doI3cSetReadAddr s a n) := by
  unfold doI3cSetReadAddr
  repeat' first
    | with_reducible assumption
    | with_reducible apply kept_ite
    | with_reducible apply i3cErr_kept
    | with_reducible refine i3cRead_kept (by assumption) ?_
    | with_reducible apply i3cRead_keptp
    | with_reducible apply updI3c_kept
    | with_reducible apply emit_kept
    | split
    | dsimp only

theorem doEntdaa_kept (s : State) (da : Nat) (hK : Kept K s) : Kept K (doEntdaa s da) := by
  unfold doEntdaa
  repeat' first
    | with_reducible assumption
    | with_reducible apply kept_ite
    | with_reducible apply updI3c_kept
    | split
    | dsimp only

theorem doSetdasa_kept (s : State) (sa da : Nat) (hK : Kept K s) : Kept K (doSetdasa s sa da) := by
  unfold doSetdasa
  repeat' first
    | with_reducible assumption
    | with_reducible apply kept_ite
    | with_reducible apply updI3c_kept
    | split
    | dsimp only

theorem doSetnewda_kept (s : State) (cur da : Nat) (hK : Kept K s) : Kept K (doSetnewda s cur da) := by
  unfold doSetnewda
  repeat' first
    | with_reducible assumption
    | with_reducible apply kept_ite
    | with_reducible apply updI3c_kept
    | split
    | dsimp only

theorem doRstdaa_kept (s : State) (hK : Kept K s) : Kept K (doRstdaa s) := by
  unfold doRstdaa
  repeat' first
    | with_reducible assumption
    | with_reducible apply kept_ite
    | with_reducible apply updI3c_kept
    | split
    | dsimp only

theorem doEnec_kept (s : State) (events : Nat) (hK : Kept K s) : Kept K (doEnec s events) := by
  unfold doEnec
  repeat' first
    | with_reducible assumption
    | with_reducible apply kept_ite
    | with_reducible apply updI3c_kept
    | split
    | dsimp only

theorem doDisec_kept (s : State) (events : Nat) (hK : Kept K s) : Kept K (doDisec s events) := by
  unfold doDisec
  repeat' first
    | with_reducible assumption
    | with_reducible apply kept_ite
    | with_reducible apply updI3c_kept
    | split
    | dsimp only

theorem i3cAnswer_kept (s : State) (bs : List Byte) (hK : Kept K s) : Kept K (i3cAnswer s bs) := by
  unfold i3cAnswer
  repeat' first
    | with_reducible assumption
    | with_reducible apply kept_ite
    | with_reducible apply emit_kept
    | with_reducible refine i3cRead_kept (by assumption) ?_
    | with_reducible apply i3cRead_keptp
    | split
    | dsimp only

theorem doSetmwl_kept (s : State) (n : Nat) (hK : Kept K s) : Kept K (doSetmwl s n) := by
  unfold doSetmwl
  repeat' first
    | with_reducible assumption
    | with_reducible apply kept_ite
    | with_reducible apply updI3c_kept
    | split
    | dsimp only

theorem doSetmrl_kept (s : State) (n : Nat) (hK : Kept K s) : Kept K (doSetmrl s n) := by
  unfold doSetmrl
  repeat' first
    | with_reducible assumption
    | with_reducible apply kept_ite
    | with_reducible apply updI3c_kept
    | split
    | dsimp only

theorem doIbiRetry_kept (s : State) (acked : List Nat) (hK : Kept K s) : Kept K (doIbiRetry s acked) := by
  unfold doIbiRetry
  repeat' first
    | with_reducible assumption
    | with_reducible apply kept_ite
    | with_reducible apply kept_foldl
    | with_reducible apply updI3c_kept
    | with_reducible apply emit_kept
    | (intro _ _ _)
    | split
    | dsimp only

end Sys2Proof.Laws
end

