-- ==== Sys2Proof/Laws/KeptClock.lean ====
section
/-! SUPPORT. What the operations of Machine/Clock.lean keep (Laws/Kept.lean). -/

namespace Sys2Proof.Laws
open Sys2Proof Sys2Proof.Machine

set_option linter.unusedTactic false
set_option linter.unreachableTactic false
set_option linter.unusedVariables false

variable {K : Keep}

theorem clockCycle_kept (s : State) (k : Nat) (hK : Kept K s) (hT : K.time = none) : Kept K (clockCycle s k) := by
  unfold clockCycle
  repeat' first
    | with_reducible assumption
    | with_reducible apply kept_ite
    | ((with_reducible apply setClk_kept_free); rotate_left; assumption)
    | ((with_reducible apply setClk_kept); rotate_left; exact rfl; exact rfl)
    | with_reducible apply mkEdge_kept
    | assumption
    | split
    | dsimp only

theorem cycleWork_kept (s : State) (hK : Kept K s) : Kept K (cycleWork s) := by
  unfold cycleWork
  repeat' first
    | with_reducible assumption
    | with_reducible apply kept_ite
    | with_reducible apply noteStop_kept
    | with_reducible apply sweepModels_kept
    | with_reducible apply landRows_kept
    | with_reducible apply settleWaits_kept
    | with_reducible apply startFrames_kept
    | with_reducible apply drainPeers_kept
    | with_reducible apply drainTrace_kept
    | split
    | dsimp only

theorem tick_kept (s : State) (hK : Kept K s) (hT : K.time = none) (hB : K.boot = none) : Kept K (tick s) := by
  unfold tick
  repeat' first
    | with_reducible assumption
    | with_reducible apply kept_ite
    | ((with_reducible apply setBoot_kept); rotate_left; assumption; exact rfl)
    | ((with_reducible apply setClk_kept); rotate_left; exact rfl; exact rfl)
    | with_reducible apply cycleWork_kept
    | with_reducible apply clockCycle_kept
    | assumption
    | split
    | dsimp only

end Sys2Proof.Laws
end

