-- ==== Sys2Proof/Laws/State.lean ====
section
/-! SUPPORT. One lemma for each group of State and each update: what the update replaces, and what it leaves. -/

namespace Sys2Proof.Machine
open Sys2Proof

variable (s : State)

@[simp] theorem State.setClk_clk (v) : (s.setClk v).clk = v := rfl
@[simp] theorem State.setClk_regs (v) : (s.setClk v).regs = s.regs := rfl
@[simp] theorem State.setClk_boot (v) : (s.setClk v).boot = s.boot := rfl
@[simp] theorem State.setClk_flash (v) : (s.setClk v).flash = s.flash := rfl
@[simp] theorem State.setClk_mbx (v) : (s.setClk v).mbx = s.mbx := rfl
@[simp] theorem State.setClk_helm (v) : (s.setClk v).helm = s.helm := rfl
@[simp] theorem State.setClk_cmds (v) : (s.setClk v).cmds = s.cmds := rfl
@[simp] theorem State.setClk_runs (v) : (s.setClk v).runs = s.runs := rfl
@[simp] theorem State.setClk_batches (v) : (s.setClk v).batches = s.batches := rfl
@[simp] theorem State.setClk_chart (v) : (s.setClk v).chart = s.chart := rfl
@[simp] theorem State.setClk_rose (v) : (s.setClk v).rose = s.rose := rfl
@[simp] theorem State.setClk_log (v) : (s.setClk v).log = s.log := rfl
@[simp] theorem State.setClk_bin (v) : (s.setClk v).bin = s.bin := rfl
@[simp] theorem State.setClk_ms (v) : (s.setClk v).ms = s.ms := rfl
@[simp] theorem State.setClk_streams (v) : (s.setClk v).streams = s.streams := rfl
@[simp] theorem State.setClk_csi (v) : (s.setClk v).csi = s.csi := rfl
@[simp] theorem State.setClk_fleet (v) : (s.setClk v).fleet = s.fleet := rfl
@[simp] theorem State.setClk_fns (v) : (s.setClk v).fns = s.fns := rfl
@[simp] theorem State.setClk_msix (v) : (s.setClk v).msix = s.msix := rfl
@[simp] theorem State.setClk_pci (v) : (s.setClk v).pci = s.pci := rfl
@[simp] theorem State.setClk_i3c (v) : (s.setClk v).i3c = s.i3c := rfl
@[simp] theorem State.setClk_pel (v) : (s.setClk v).pel = s.pel := rfl
@[simp] theorem State.setClk_out (v) : (s.setClk v).out = s.out := rfl
@[simp] theorem State.setClk_free (v) : (s.setClk v).free = s.free := rfl
@[simp] theorem State.setClk_pending (v) : (s.setClk v).pending = s.pending := rfl

@[simp] theorem State.setRegs_clk (v) : (s.setRegs v).clk = s.clk := rfl
@[simp] theorem State.setRegs_regs (v) : (s.setRegs v).regs = v := rfl
@[simp] theorem State.setRegs_boot (v) : (s.setRegs v).boot = s.boot := rfl
@[simp] theorem State.setRegs_flash (v) : (s.setRegs v).flash = s.flash := rfl
@[simp] theorem State.setRegs_mbx (v) : (s.setRegs v).mbx = s.mbx := rfl
@[simp] theorem State.setRegs_helm (v) : (s.setRegs v).helm = s.helm := rfl
@[simp] theorem State.setRegs_cmds (v) : (s.setRegs v).cmds = s.cmds := rfl
@[simp] theorem State.setRegs_runs (v) : (s.setRegs v).runs = s.runs := rfl
@[simp] theorem State.setRegs_batches (v) : (s.setRegs v).batches = s.batches := rfl
@[simp] theorem State.setRegs_chart (v) : (s.setRegs v).chart = s.chart := rfl
@[simp] theorem State.setRegs_rose (v) : (s.setRegs v).rose = s.rose := rfl
@[simp] theorem State.setRegs_log (v) : (s.setRegs v).log = s.log := rfl
@[simp] theorem State.setRegs_bin (v) : (s.setRegs v).bin = s.bin := rfl
@[simp] theorem State.setRegs_ms (v) : (s.setRegs v).ms = s.ms := rfl
@[simp] theorem State.setRegs_streams (v) : (s.setRegs v).streams = s.streams := rfl
@[simp] theorem State.setRegs_csi (v) : (s.setRegs v).csi = s.csi := rfl
@[simp] theorem State.setRegs_fleet (v) : (s.setRegs v).fleet = s.fleet := rfl
@[simp] theorem State.setRegs_fns (v) : (s.setRegs v).fns = s.fns := rfl
@[simp] theorem State.setRegs_msix (v) : (s.setRegs v).msix = s.msix := rfl
@[simp] theorem State.setRegs_pci (v) : (s.setRegs v).pci = s.pci := rfl
@[simp] theorem State.setRegs_i3c (v) : (s.setRegs v).i3c = s.i3c := rfl
@[simp] theorem State.setRegs_pel (v) : (s.setRegs v).pel = s.pel := rfl
@[simp] theorem State.setRegs_out (v) : (s.setRegs v).out = s.out := rfl
@[simp] theorem State.setRegs_free (v) : (s.setRegs v).free = s.free := rfl
@[simp] theorem State.setRegs_pending (v) : (s.setRegs v).pending = s.pending := rfl

@[simp] theorem State.setBoot_clk (v) : (s.setBoot v).clk = s.clk := rfl
@[simp] theorem State.setBoot_regs (v) : (s.setBoot v).regs = s.regs := rfl
@[simp] theorem State.setBoot_boot (v) : (s.setBoot v).boot = v := rfl
@[simp] theorem State.setBoot_flash (v) : (s.setBoot v).flash = s.flash := rfl
@[simp] theorem State.setBoot_mbx (v) : (s.setBoot v).mbx = s.mbx := rfl
@[simp] theorem State.setBoot_helm (v) : (s.setBoot v).helm = s.helm := rfl
@[simp] theorem State.setBoot_cmds (v) : (s.setBoot v).cmds = s.cmds := rfl
@[simp] theorem State.setBoot_runs (v) : (s.setBoot v).runs = s.runs := rfl
@[simp] theorem State.setBoot_batches (v) : (s.setBoot v).batches = s.batches := rfl
@[simp] theorem State.setBoot_chart (v) : (s.setBoot v).chart = s.chart := rfl
@[simp] theorem State.setBoot_rose (v) : (s.setBoot v).rose = s.rose := rfl
@[simp] theorem State.setBoot_log (v) : (s.setBoot v).log = s.log := rfl
@[simp] theorem State.setBoot_bin (v) : (s.setBoot v).bin = s.bin := rfl
@[simp] theorem State.setBoot_ms (v) : (s.setBoot v).ms = s.ms := rfl
@[simp] theorem State.setBoot_streams (v) : (s.setBoot v).streams = s.streams := rfl
@[simp] theorem State.setBoot_csi (v) : (s.setBoot v).csi = s.csi := rfl
@[simp] theorem State.setBoot_fleet (v) : (s.setBoot v).fleet = s.fleet := rfl
@[simp] theorem State.setBoot_fns (v) : (s.setBoot v).fns = s.fns := rfl
@[simp] theorem State.setBoot_msix (v) : (s.setBoot v).msix = s.msix := rfl
@[simp] theorem State.setBoot_pci (v) : (s.setBoot v).pci = s.pci := rfl
@[simp] theorem State.setBoot_i3c (v) : (s.setBoot v).i3c = s.i3c := rfl
@[simp] theorem State.setBoot_pel (v) : (s.setBoot v).pel = s.pel := rfl
@[simp] theorem State.setBoot_out (v) : (s.setBoot v).out = s.out := rfl
@[simp] theorem State.setBoot_free (v) : (s.setBoot v).free = s.free := rfl
@[simp] theorem State.setBoot_pending (v) : (s.setBoot v).pending = s.pending := rfl

@[simp] theorem State.setFlash_clk (v) : (s.setFlash v).clk = s.clk := rfl
@[simp] theorem State.setFlash_regs (v) : (s.setFlash v).regs = s.regs := rfl
@[simp] theorem State.setFlash_boot (v) : (s.setFlash v).boot = s.boot := rfl
@[simp] theorem State.setFlash_flash (v) : (s.setFlash v).flash = v := rfl
@[simp] theorem State.setFlash_mbx (v) : (s.setFlash v).mbx = s.mbx := rfl
@[simp] theorem State.setFlash_helm (v) : (s.setFlash v).helm = s.helm := rfl
@[simp] theorem State.setFlash_cmds (v) : (s.setFlash v).cmds = s.cmds := rfl
@[simp] theorem State.setFlash_runs (v) : (s.setFlash v).runs = s.runs := rfl
@[simp] theorem State.setFlash_batches (v) : (s.setFlash v).batches = s.batches := rfl
@[simp] theorem State.setFlash_chart (v) : (s.setFlash v).chart = s.chart := rfl
@[simp] theorem State.setFlash_rose (v) : (s.setFlash v).rose = s.rose := rfl
@[simp] theorem State.setFlash_log (v) : (s.setFlash v).log = s.log := rfl
@[simp] theorem State.setFlash_bin (v) : (s.setFlash v).bin = s.bin := rfl
@[simp] theorem State.setFlash_ms (v) : (s.setFlash v).ms = s.ms := rfl
@[simp] theorem State.setFlash_streams (v) : (s.setFlash v).streams = s.streams := rfl
@[simp] theorem State.setFlash_csi (v) : (s.setFlash v).csi = s.csi := rfl
@[simp] theorem State.setFlash_fleet (v) : (s.setFlash v).fleet = s.fleet := rfl
@[simp] theorem State.setFlash_fns (v) : (s.setFlash v).fns = s.fns := rfl
@[simp] theorem State.setFlash_msix (v) : (s.setFlash v).msix = s.msix := rfl
@[simp] theorem State.setFlash_pci (v) : (s.setFlash v).pci = s.pci := rfl
@[simp] theorem State.setFlash_i3c (v) : (s.setFlash v).i3c = s.i3c := rfl
@[simp] theorem State.setFlash_pel (v) : (s.setFlash v).pel = s.pel := rfl
@[simp] theorem State.setFlash_out (v) : (s.setFlash v).out = s.out := rfl
@[simp] theorem State.setFlash_free (v) : (s.setFlash v).free = s.free := rfl
@[simp] theorem State.setFlash_pending (v) : (s.setFlash v).pending = s.pending := rfl

@[simp] theorem State.setMbx_clk (v) : (s.setMbx v).clk = s.clk := rfl
@[simp] theorem State.setMbx_regs (v) : (s.setMbx v).regs = s.regs := rfl
@[simp] theorem State.setMbx_boot (v) : (s.setMbx v).boot = s.boot := rfl
@[simp] theorem State.setMbx_flash (v) : (s.setMbx v).flash = s.flash := rfl
@[simp] theorem State.setMbx_mbx (v) : (s.setMbx v).mbx = v := rfl
@[simp] theorem State.setMbx_helm (v) : (s.setMbx v).helm = s.helm := rfl
@[simp] theorem State.setMbx_cmds (v) : (s.setMbx v).cmds = s.cmds := rfl
@[simp] theorem State.setMbx_runs (v) : (s.setMbx v).runs = s.runs := rfl
@[simp] theorem State.setMbx_batches (v) : (s.setMbx v).batches = s.batches := rfl
@[simp] theorem State.setMbx_chart (v) : (s.setMbx v).chart = s.chart := rfl
@[simp] theorem State.setMbx_rose (v) : (s.setMbx v).rose = s.rose := rfl
@[simp] theorem State.setMbx_log (v) : (s.setMbx v).log = s.log := rfl
@[simp] theorem State.setMbx_bin (v) : (s.setMbx v).bin = s.bin := rfl
@[simp] theorem State.setMbx_ms (v) : (s.setMbx v).ms = s.ms := rfl
@[simp] theorem State.setMbx_streams (v) : (s.setMbx v).streams = s.streams := rfl
@[simp] theorem State.setMbx_csi (v) : (s.setMbx v).csi = s.csi := rfl
@[simp] theorem State.setMbx_fleet (v) : (s.setMbx v).fleet = s.fleet := rfl
@[simp] theorem State.setMbx_fns (v) : (s.setMbx v).fns = s.fns := rfl
@[simp] theorem State.setMbx_msix (v) : (s.setMbx v).msix = s.msix := rfl
@[simp] theorem State.setMbx_pci (v) : (s.setMbx v).pci = s.pci := rfl
@[simp] theorem State.setMbx_i3c (v) : (s.setMbx v).i3c = s.i3c := rfl
@[simp] theorem State.setMbx_pel (v) : (s.setMbx v).pel = s.pel := rfl
@[simp] theorem State.setMbx_out (v) : (s.setMbx v).out = s.out := rfl
@[simp] theorem State.setMbx_free (v) : (s.setMbx v).free = s.free := rfl
@[simp] theorem State.setMbx_pending (v) : (s.setMbx v).pending = s.pending := rfl

@[simp] theorem State.setHelm_clk (v) : (s.setHelm v).clk = s.clk := rfl
@[simp] theorem State.setHelm_regs (v) : (s.setHelm v).regs = s.regs := rfl
@[simp] theorem State.setHelm_boot (v) : (s.setHelm v).boot = s.boot := rfl
@[simp] theorem State.setHelm_flash (v) : (s.setHelm v).flash = s.flash := rfl
@[simp] theorem State.setHelm_mbx (v) : (s.setHelm v).mbx = s.mbx := rfl
@[simp] theorem State.setHelm_helm (v) : (s.setHelm v).helm = v := rfl
@[simp] theorem State.setHelm_cmds (v) : (s.setHelm v).cmds = s.cmds := rfl
@[simp] theorem State.setHelm_runs (v) : (s.setHelm v).runs = s.runs := rfl
@[simp] theorem State.setHelm_batches (v) : (s.setHelm v).batches = s.batches := rfl
@[simp] theorem State.setHelm_chart (v) : (s.setHelm v).chart = s.chart := rfl
@[simp] theorem State.setHelm_rose (v) : (s.setHelm v).rose = s.rose := rfl
@[simp] theorem State.setHelm_log (v) : (s.setHelm v).log = s.log := rfl
@[simp] theorem State.setHelm_bin (v) : (s.setHelm v).bin = s.bin := rfl
@[simp] theorem State.setHelm_ms (v) : (s.setHelm v).ms = s.ms := rfl
@[simp] theorem State.setHelm_streams (v) : (s.setHelm v).streams = s.streams := rfl
@[simp] theorem State.setHelm_csi (v) : (s.setHelm v).csi = s.csi := rfl
@[simp] theorem State.setHelm_fleet (v) : (s.setHelm v).fleet = s.fleet := rfl
@[simp] theorem State.setHelm_fns (v) : (s.setHelm v).fns = s.fns := rfl
@[simp] theorem State.setHelm_msix (v) : (s.setHelm v).msix = s.msix := rfl
@[simp] theorem State.setHelm_pci (v) : (s.setHelm v).pci = s.pci := rfl
@[simp] theorem State.setHelm_i3c (v) : (s.setHelm v).i3c = s.i3c := rfl
@[simp] theorem State.setHelm_pel (v) : (s.setHelm v).pel = s.pel := rfl
@[simp] theorem State.setHelm_out (v) : (s.setHelm v).out = s.out := rfl
@[simp] theorem State.setHelm_free (v) : (s.setHelm v).free = s.free := rfl
@[simp] theorem State.setHelm_pending (v) : (s.setHelm v).pending = s.pending := rfl

@[simp] theorem State.setCmds_clk (v) : (s.setCmds v).clk = s.clk := rfl
@[simp] theorem State.setCmds_regs (v) : (s.setCmds v).regs = s.regs := rfl
@[simp] theorem State.setCmds_boot (v) : (s.setCmds v).boot = s.boot := rfl
@[simp] theorem State.setCmds_flash (v) : (s.setCmds v).flash = s.flash := rfl
@[simp] theorem State.setCmds_mbx (v) : (s.setCmds v).mbx = s.mbx := rfl
@[simp] theorem State.setCmds_helm (v) : (s.setCmds v).helm = s.helm := rfl
@[simp] theorem State.setCmds_cmds (v) : (s.setCmds v).cmds = v := rfl
@[simp] theorem State.setCmds_runs (v) : (s.setCmds v).runs = s.runs := rfl
@[simp] theorem State.setCmds_batches (v) : (s.setCmds v).batches = s.batches := rfl
@[simp] theorem State.setCmds_chart (v) : (s.setCmds v).chart = s.chart := rfl
@[simp] theorem State.setCmds_rose (v) : (s.setCmds v).rose = s.rose := rfl
@[simp] theorem State.setCmds_log (v) : (s.setCmds v).log = s.log := rfl
@[simp] theorem State.setCmds_bin (v) : (s.setCmds v).bin = s.bin := rfl
@[simp] theorem State.setCmds_ms (v) : (s.setCmds v).ms = s.ms := rfl
@[simp] theorem State.setCmds_streams (v) : (s.setCmds v).streams = s.streams := rfl
@[simp] theorem State.setCmds_csi (v) : (s.setCmds v).csi = s.csi := rfl
@[simp] theorem State.setCmds_fleet (v) : (s.setCmds v).fleet = s.fleet := rfl
@[simp] theorem State.setCmds_fns (v) : (s.setCmds v).fns = s.fns := rfl
@[simp] theorem State.setCmds_msix (v) : (s.setCmds v).msix = s.msix := rfl
@[simp] theorem State.setCmds_pci (v) : (s.setCmds v).pci = s.pci := rfl
@[simp] theorem State.setCmds_i3c (v) : (s.setCmds v).i3c = s.i3c := rfl
@[simp] theorem State.setCmds_pel (v) : (s.setCmds v).pel = s.pel := rfl
@[simp] theorem State.setCmds_out (v) : (s.setCmds v).out = s.out := rfl
@[simp] theorem State.setCmds_free (v) : (s.setCmds v).free = s.free := rfl
@[simp] theorem State.setCmds_pending (v) : (s.setCmds v).pending = s.pending := rfl

@[simp] theorem State.setRuns_clk (v) : (s.setRuns v).clk = s.clk := rfl
@[simp] theorem State.setRuns_regs (v) : (s.setRuns v).regs = s.regs := rfl
@[simp] theorem State.setRuns_boot (v) : (s.setRuns v).boot = s.boot := rfl
@[simp] theorem State.setRuns_flash (v) : (s.setRuns v).flash = s.flash := rfl
@[simp] theorem State.setRuns_mbx (v) : (s.setRuns v).mbx = s.mbx := rfl
@[simp] theorem State.setRuns_helm (v) : (s.setRuns v).helm = s.helm := rfl
@[simp] theorem State.setRuns_cmds (v) : (s.setRuns v).cmds = s.cmds := rfl
@[simp] theorem State.setRuns_runs (v) : (s.setRuns v).runs = v := rfl
@[simp] theorem State.setRuns_batches (v) : (s.setRuns v).batches = s.batches := rfl
@[simp] theorem State.setRuns_chart (v) : (s.setRuns v).chart = s.chart := rfl
@[simp] theorem State.setRuns_rose (v) : (s.setRuns v).rose = s.rose := rfl
@[simp] theorem State.setRuns_log (v) : (s.setRuns v).log = s.log := rfl
@[simp] theorem State.setRuns_bin (v) : (s.setRuns v).bin = s.bin := rfl
@[simp] theorem State.setRuns_ms (v) : (s.setRuns v).ms = s.ms := rfl
@[simp] theorem State.setRuns_streams (v) : (s.setRuns v).streams = s.streams := rfl
@[simp] theorem State.setRuns_csi (v) : (s.setRuns v).csi = s.csi := rfl
@[simp] theorem State.setRuns_fleet (v) : (s.setRuns v).fleet = s.fleet := rfl
@[simp] theorem State.setRuns_fns (v) : (s.setRuns v).fns = s.fns := rfl
@[simp] theorem State.setRuns_msix (v) : (s.setRuns v).msix = s.msix := rfl
@[simp] theorem State.setRuns_pci (v) : (s.setRuns v).pci = s.pci := rfl
@[simp] theorem State.setRuns_i3c (v) : (s.setRuns v).i3c = s.i3c := rfl
@[simp] theorem State.setRuns_pel (v) : (s.setRuns v).pel = s.pel := rfl
@[simp] theorem State.setRuns_out (v) : (s.setRuns v).out = s.out := rfl
@[simp] theorem State.setRuns_free (v) : (s.setRuns v).free = s.free := rfl
@[simp] theorem State.setRuns_pending (v) : (s.setRuns v).pending = s.pending := rfl

@[simp] theorem State.setBatches_clk (v) : (s.setBatches v).clk = s.clk := rfl
@[simp] theorem State.setBatches_regs (v) : (s.setBatches v).regs = s.regs := rfl
@[simp] theorem State.setBatches_boot (v) : (s.setBatches v).boot = s.boot := rfl
@[simp] theorem State.setBatches_flash (v) : (s.setBatches v).flash = s.flash := rfl
@[simp] theorem State.setBatches_mbx (v) : (s.setBatches v).mbx = s.mbx := rfl
@[simp] theorem State.setBatches_helm (v) : (s.setBatches v).helm = s.helm := rfl
@[simp] theorem State.setBatches_cmds (v) : (s.setBatches v).cmds = s.cmds := rfl
@[simp] theorem State.setBatches_runs (v) : (s.setBatches v).runs = s.runs := rfl
@[simp] theorem State.setBatches_batches (v) : (s.setBatches v).batches = v := rfl
@[simp] theorem State.setBatches_chart (v) : (s.setBatches v).chart = s.chart := rfl
@[simp] theorem State.setBatches_rose (v) : (s.setBatches v).rose = s.rose := rfl
@[simp] theorem State.setBatches_log (v) : (s.setBatches v).log = s.log := rfl
@[simp] theorem State.setBatches_bin (v) : (s.setBatches v).bin = s.bin := rfl
@[simp] theorem State.setBatches_ms (v) : (s.setBatches v).ms = s.ms := rfl
@[simp] theorem State.setBatches_streams (v) : (s.setBatches v).streams = s.streams := rfl
@[simp] theorem State.setBatches_csi (v) : (s.setBatches v).csi = s.csi := rfl
@[simp] theorem State.setBatches_fleet (v) : (s.setBatches v).fleet = s.fleet := rfl
@[simp] theorem State.setBatches_fns (v) : (s.setBatches v).fns = s.fns := rfl
@[simp] theorem State.setBatches_msix (v) : (s.setBatches v).msix = s.msix := rfl
@[simp] theorem State.setBatches_pci (v) : (s.setBatches v).pci = s.pci := rfl
@[simp] theorem State.setBatches_i3c (v) : (s.setBatches v).i3c = s.i3c := rfl
@[simp] theorem State.setBatches_pel (v) : (s.setBatches v).pel = s.pel := rfl
@[simp] theorem State.setBatches_out (v) : (s.setBatches v).out = s.out := rfl
@[simp] theorem State.setBatches_free (v) : (s.setBatches v).free = s.free := rfl
@[simp] theorem State.setBatches_pending (v) : (s.setBatches v).pending = s.pending := rfl

@[simp] theorem State.setChart_clk (v) : (s.setChart v).clk = s.clk := rfl
@[simp] theorem State.setChart_regs (v) : (s.setChart v).regs = s.regs := rfl
@[simp] theorem State.setChart_boot (v) : (s.setChart v).boot = s.boot := rfl
@[simp] theorem State.setChart_flash (v) : (s.setChart v).flash = s.flash := rfl
@[simp] theorem State.setChart_mbx (v) : (s.setChart v).mbx = s.mbx := rfl
@[simp] theorem State.setChart_helm (v) : (s.setChart v).helm = s.helm := rfl
@[simp] theorem State.setChart_cmds (v) : (s.setChart v).cmds = s.cmds := rfl
@[simp] theorem State.setChart_runs (v) : (s.setChart v).runs = s.runs := rfl
@[simp] theorem State.setChart_batches (v) : (s.setChart v).batches = s.batches := rfl
@[simp] theorem State.setChart_chart (v) : (s.setChart v).chart = v := rfl
@[simp] theorem State.setChart_rose (v) : (s.setChart v).rose = s.rose := rfl
@[simp] theorem State.setChart_log (v) : (s.setChart v).log = s.log := rfl
@[simp] theorem State.setChart_bin (v) : (s.setChart v).bin = s.bin := rfl
@[simp] theorem State.setChart_ms (v) : (s.setChart v).ms = s.ms := rfl
@[simp] theorem State.setChart_streams (v) : (s.setChart v).streams = s.streams := rfl
@[simp] theorem State.setChart_csi (v) : (s.setChart v).csi = s.csi := rfl
@[simp] theorem State.setChart_fleet (v) : (s.setChart v).fleet = s.fleet := rfl
@[simp] theorem State.setChart_fns (v) : (s.setChart v).fns = s.fns := rfl
@[simp] theorem State.setChart_msix (v) : (s.setChart v).msix = s.msix := rfl
@[simp] theorem State.setChart_pci (v) : (s.setChart v).pci = s.pci := rfl
@[simp] theorem State.setChart_i3c (v) : (s.setChart v).i3c = s.i3c := rfl
@[simp] theorem State.setChart_pel (v) : (s.setChart v).pel = s.pel := rfl
@[simp] theorem State.setChart_out (v) : (s.setChart v).out = s.out := rfl
@[simp] theorem State.setChart_free (v) : (s.setChart v).free = s.free := rfl
@[simp] theorem State.setChart_pending (v) : (s.setChart v).pending = s.pending := rfl

@[simp] theorem State.setRose_clk (v) : (s.setRose v).clk = s.clk := rfl
@[simp] theorem State.setRose_regs (v) : (s.setRose v).regs = s.regs := rfl
@[simp] theorem State.setRose_boot (v) : (s.setRose v).boot = s.boot := rfl
@[simp] theorem State.setRose_flash (v) : (s.setRose v).flash = s.flash := rfl
@[simp] theorem State.setRose_mbx (v) : (s.setRose v).mbx = s.mbx := rfl
@[simp] theorem State.setRose_helm (v) : (s.setRose v).helm = s.helm := rfl
@[simp] theorem State.setRose_cmds (v) : (s.setRose v).cmds = s.cmds := rfl
@[simp] theorem State.setRose_runs (v) : (s.setRose v).runs = s.runs := rfl
@[simp] theorem State.setRose_batches (v) : (s.setRose v).batches = s.batches := rfl
@[simp] theorem State.setRose_chart (v) : (s.setRose v).chart = s.chart := rfl
@[simp] theorem State.setRose_rose (v) : (s.setRose v).rose = v := rfl
@[simp] theorem State.setRose_log (v) : (s.setRose v).log = s.log := rfl
@[simp] theorem State.setRose_bin (v) : (s.setRose v).bin = s.bin := rfl
@[simp] theorem State.setRose_ms (v) : (s.setRose v).ms = s.ms := rfl
@[simp] theorem State.setRose_streams (v) : (s.setRose v).streams = s.streams := rfl
@[simp] theorem State.setRose_csi (v) : (s.setRose v).csi = s.csi := rfl
@[simp] theorem State.setRose_fleet (v) : (s.setRose v).fleet = s.fleet := rfl
@[simp] theorem State.setRose_fns (v) : (s.setRose v).fns = s.fns := rfl
@[simp] theorem State.setRose_msix (v) : (s.setRose v).msix = s.msix := rfl
@[simp] theorem State.setRose_pci (v) : (s.setRose v).pci = s.pci := rfl
@[simp] theorem State.setRose_i3c (v) : (s.setRose v).i3c = s.i3c := rfl
@[simp] theorem State.setRose_pel (v) : (s.setRose v).pel = s.pel := rfl
@[simp] theorem State.setRose_out (v) : (s.setRose v).out = s.out := rfl
@[simp] theorem State.setRose_free (v) : (s.setRose v).free = s.free := rfl
@[simp] theorem State.setRose_pending (v) : (s.setRose v).pending = s.pending := rfl

@[simp] theorem State.setLog_clk (v) : (s.setLog v).clk = s.clk := rfl
@[simp] theorem State.setLog_regs (v) : (s.setLog v).regs = s.regs := rfl
@[simp] theorem State.setLog_boot (v) : (s.setLog v).boot = s.boot := rfl
@[simp] theorem State.setLog_flash (v) : (s.setLog v).flash = s.flash := rfl
@[simp] theorem State.setLog_mbx (v) : (s.setLog v).mbx = s.mbx := rfl
@[simp] theorem State.setLog_helm (v) : (s.setLog v).helm = s.helm := rfl
@[simp] theorem State.setLog_cmds (v) : (s.setLog v).cmds = s.cmds := rfl
@[simp] theorem State.setLog_runs (v) : (s.setLog v).runs = s.runs := rfl
@[simp] theorem State.setLog_batches (v) : (s.setLog v).batches = s.batches := rfl
@[simp] theorem State.setLog_chart (v) : (s.setLog v).chart = s.chart := rfl
@[simp] theorem State.setLog_rose (v) : (s.setLog v).rose = s.rose := rfl
@[simp] theorem State.setLog_log (v) : (s.setLog v).log = v := rfl
@[simp] theorem State.setLog_bin (v) : (s.setLog v).bin = s.bin := rfl
@[simp] theorem State.setLog_ms (v) : (s.setLog v).ms = s.ms := rfl
@[simp] theorem State.setLog_streams (v) : (s.setLog v).streams = s.streams := rfl
@[simp] theorem State.setLog_csi (v) : (s.setLog v).csi = s.csi := rfl
@[simp] theorem State.setLog_fleet (v) : (s.setLog v).fleet = s.fleet := rfl
@[simp] theorem State.setLog_fns (v) : (s.setLog v).fns = s.fns := rfl
@[simp] theorem State.setLog_msix (v) : (s.setLog v).msix = s.msix := rfl
@[simp] theorem State.setLog_pci (v) : (s.setLog v).pci = s.pci := rfl
@[simp] theorem State.setLog_i3c (v) : (s.setLog v).i3c = s.i3c := rfl
@[simp] theorem State.setLog_pel (v) : (s.setLog v).pel = s.pel := rfl
@[simp] theorem State.setLog_out (v) : (s.setLog v).out = s.out := rfl
@[simp] theorem State.setLog_free (v) : (s.setLog v).free = s.free := rfl
@[simp] theorem State.setLog_pending (v) : (s.setLog v).pending = s.pending := rfl

@[simp] theorem State.setBin_clk (v) : (s.setBin v).clk = s.clk := rfl
@[simp] theorem State.setBin_regs (v) : (s.setBin v).regs = s.regs := rfl
@[simp] theorem State.setBin_boot (v) : (s.setBin v).boot = s.boot := rfl
@[simp] theorem State.setBin_flash (v) : (s.setBin v).flash = s.flash := rfl
@[simp] theorem State.setBin_mbx (v) : (s.setBin v).mbx = s.mbx := rfl
@[simp] theorem State.setBin_helm (v) : (s.setBin v).helm = s.helm := rfl
@[simp] theorem State.setBin_cmds (v) : (s.setBin v).cmds = s.cmds := rfl
@[simp] theorem State.setBin_runs (v) : (s.setBin v).runs = s.runs := rfl
@[simp] theorem State.setBin_batches (v) : (s.setBin v).batches = s.batches := rfl
@[simp] theorem State.setBin_chart (v) : (s.setBin v).chart = s.chart := rfl
@[simp] theorem State.setBin_rose (v) : (s.setBin v).rose = s.rose := rfl
@[simp] theorem State.setBin_log (v) : (s.setBin v).log = s.log := rfl
@[simp] theorem State.setBin_bin (v) : (s.setBin v).bin = v := rfl
@[simp] theorem State.setBin_ms (v) : (s.setBin v).ms = s.ms := rfl
@[simp] theorem State.setBin_streams (v) : (s.setBin v).streams = s.streams := rfl
@[simp] theorem State.setBin_csi (v) : (s.setBin v).csi = s.csi := rfl
@[simp] theorem State.setBin_fleet (v) : (s.setBin v).fleet = s.fleet := rfl
@[simp] theorem State.setBin_fns (v) : (s.setBin v).fns = s.fns := rfl
@[simp] theorem State.setBin_msix (v) : (s.setBin v).msix = s.msix := rfl
@[simp] theorem State.setBin_pci (v) : (s.setBin v).pci = s.pci := rfl
@[simp] theorem State.setBin_i3c (v) : (s.setBin v).i3c = s.i3c := rfl
@[simp] theorem State.setBin_pel (v) : (s.setBin v).pel = s.pel := rfl
@[simp] theorem State.setBin_out (v) : (s.setBin v).out = s.out := rfl
@[simp] theorem State.setBin_free (v) : (s.setBin v).free = s.free := rfl
@[simp] theorem State.setBin_pending (v) : (s.setBin v).pending = s.pending := rfl

@[simp] theorem State.setMs_clk (v) : (s.setMs v).clk = s.clk := rfl
@[simp] theorem State.setMs_regs (v) : (s.setMs v).regs = s.regs := rfl
@[simp] theorem State.setMs_boot (v) : (s.setMs v).boot = s.boot := rfl
@[simp] theorem State.setMs_flash (v) : (s.setMs v).flash = s.flash := rfl
@[simp] theorem State.setMs_mbx (v) : (s.setMs v).mbx = s.mbx := rfl
@[simp] theorem State.setMs_helm (v) : (s.setMs v).helm = s.helm := rfl
@[simp] theorem State.setMs_cmds (v) : (s.setMs v).cmds = s.cmds := rfl
@[simp] theorem State.setMs_runs (v) : (s.setMs v).runs = s.runs := rfl
@[simp] theorem State.setMs_batches (v) : (s.setMs v).batches = s.batches := rfl
@[simp] theorem State.setMs_chart (v) : (s.setMs v).chart = s.chart := rfl
@[simp] theorem State.setMs_rose (v) : (s.setMs v).rose = s.rose := rfl
@[simp] theorem State.setMs_log (v) : (s.setMs v).log = s.log := rfl
@[simp] theorem State.setMs_bin (v) : (s.setMs v).bin = s.bin := rfl
@[simp] theorem State.setMs_ms (v) : (s.setMs v).ms = v := rfl
@[simp] theorem State.setMs_streams (v) : (s.setMs v).streams = s.streams := rfl
@[simp] theorem State.setMs_csi (v) : (s.setMs v).csi = s.csi := rfl
@[simp] theorem State.setMs_fleet (v) : (s.setMs v).fleet = s.fleet := rfl
@[simp] theorem State.setMs_fns (v) : (s.setMs v).fns = s.fns := rfl
@[simp] theorem State.setMs_msix (v) : (s.setMs v).msix = s.msix := rfl
@[simp] theorem State.setMs_pci (v) : (s.setMs v).pci = s.pci := rfl
@[simp] theorem State.setMs_i3c (v) : (s.setMs v).i3c = s.i3c := rfl
@[simp] theorem State.setMs_pel (v) : (s.setMs v).pel = s.pel := rfl
@[simp] theorem State.setMs_out (v) : (s.setMs v).out = s.out := rfl
@[simp] theorem State.setMs_free (v) : (s.setMs v).free = s.free := rfl
@[simp] theorem State.setMs_pending (v) : (s.setMs v).pending = s.pending := rfl

@[simp] theorem State.setStreams_clk (v) : (s.setStreams v).clk = s.clk := rfl
@[simp] theorem State.setStreams_regs (v) : (s.setStreams v).regs = s.regs := rfl
@[simp] theorem State.setStreams_boot (v) : (s.setStreams v).boot = s.boot := rfl
@[simp] theorem State.setStreams_flash (v) : (s.setStreams v).flash = s.flash := rfl
@[simp] theorem State.setStreams_mbx (v) : (s.setStreams v).mbx = s.mbx := rfl
@[simp] theorem State.setStreams_helm (v) : (s.setStreams v).helm = s.helm := rfl
@[simp] theorem State.setStreams_cmds (v) : (s.setStreams v).cmds = s.cmds := rfl
@[simp] theorem State.setStreams_runs (v) : (s.setStreams v).runs = s.runs := rfl
@[simp] theorem State.setStreams_batches (v) : (s.setStreams v).batches = s.batches := rfl
@[simp] theorem State.setStreams_chart (v) : (s.setStreams v).chart = s.chart := rfl
@[simp] theorem State.setStreams_rose (v) : (s.setStreams v).rose = s.rose := rfl
@[simp] theorem State.setStreams_log (v) : (s.setStreams v).log = s.log := rfl
@[simp] theorem State.setStreams_bin (v) : (s.setStreams v).bin = s.bin := rfl
@[simp] theorem State.setStreams_ms (v) : (s.setStreams v).ms = s.ms := rfl
@[simp] theorem State.setStreams_streams (v) : (s.setStreams v).streams = v := rfl
@[simp] theorem State.setStreams_csi (v) : (s.setStreams v).csi = s.csi := rfl
@[simp] theorem State.setStreams_fleet (v) : (s.setStreams v).fleet = s.fleet := rfl
@[simp] theorem State.setStreams_fns (v) : (s.setStreams v).fns = s.fns := rfl
@[simp] theorem State.setStreams_msix (v) : (s.setStreams v).msix = s.msix := rfl
@[simp] theorem State.setStreams_pci (v) : (s.setStreams v).pci = s.pci := rfl
@[simp] theorem State.setStreams_i3c (v) : (s.setStreams v).i3c = s.i3c := rfl
@[simp] theorem State.setStreams_pel (v) : (s.setStreams v).pel = s.pel := rfl
@[simp] theorem State.setStreams_out (v) : (s.setStreams v).out = s.out := rfl
@[simp] theorem State.setStreams_free (v) : (s.setStreams v).free = s.free := rfl
@[simp] theorem State.setStreams_pending (v) : (s.setStreams v).pending = s.pending := rfl

@[simp] theorem State.setCsi_clk (v) : (s.setCsi v).clk = s.clk := rfl
@[simp] theorem State.setCsi_regs (v) : (s.setCsi v).regs = s.regs := rfl
@[simp] theorem State.setCsi_boot (v) : (s.setCsi v).boot = s.boot := rfl
@[simp] theorem State.setCsi_flash (v) : (s.setCsi v).flash = s.flash := rfl
@[simp] theorem State.setCsi_mbx (v) : (s.setCsi v).mbx = s.mbx := rfl
@[simp] theorem State.setCsi_helm (v) : (s.setCsi v).helm = s.helm := rfl
@[simp] theorem State.setCsi_cmds (v) : (s.setCsi v).cmds = s.cmds := rfl
@[simp] theorem State.setCsi_runs (v) : (s.setCsi v).runs = s.runs := rfl
@[simp] theorem State.setCsi_batches (v) : (s.setCsi v).batches = s.batches := rfl
@[simp] theorem State.setCsi_chart (v) : (s.setCsi v).chart = s.chart := rfl
@[simp] theorem State.setCsi_rose (v) : (s.setCsi v).rose = s.rose := rfl
@[simp] theorem State.setCsi_log (v) : (s.setCsi v).log = s.log := rfl
@[simp] theorem State.setCsi_bin (v) : (s.setCsi v).bin = s.bin := rfl
@[simp] theorem State.setCsi_ms (v) : (s.setCsi v).ms = s.ms := rfl
@[simp] theorem State.setCsi_streams (v) : (s.setCsi v).streams = s.streams := rfl
@[simp] theorem State.setCsi_csi (v) : (s.setCsi v).csi = v := rfl
@[simp] theorem State.setCsi_fleet (v) : (s.setCsi v).fleet = s.fleet := rfl
@[simp] theorem State.setCsi_fns (v) : (s.setCsi v).fns = s.fns := rfl
@[simp] theorem State.setCsi_msix (v) : (s.setCsi v).msix = s.msix := rfl
@[simp] theorem State.setCsi_pci (v) : (s.setCsi v).pci = s.pci := rfl
@[simp] theorem State.setCsi_i3c (v) : (s.setCsi v).i3c = s.i3c := rfl
@[simp] theorem State.setCsi_pel (v) : (s.setCsi v).pel = s.pel := rfl
@[simp] theorem State.setCsi_out (v) : (s.setCsi v).out = s.out := rfl
@[simp] theorem State.setCsi_free (v) : (s.setCsi v).free = s.free := rfl
@[simp] theorem State.setCsi_pending (v) : (s.setCsi v).pending = s.pending := rfl

@[simp] theorem State.setFleet_clk (v) : (s.setFleet v).clk = s.clk := rfl
@[simp] theorem State.setFleet_regs (v) : (s.setFleet v).regs = s.regs := rfl
@[simp] theorem State.setFleet_boot (v) : (s.setFleet v).boot = s.boot := rfl
@[simp] theorem State.setFleet_flash (v) : (s.setFleet v).flash = s.flash := rfl
@[simp] theorem State.setFleet_mbx (v) : (s.setFleet v).mbx = s.mbx := rfl
@[simp] theorem State.setFleet_helm (v) : (s.setFleet v).helm = s.helm := rfl
@[simp] theorem State.setFleet_cmds (v) : (s.setFleet v).cmds = s.cmds := rfl
@[simp] theorem State.setFleet_runs (v) : (s.setFleet v).runs = s.runs := rfl
@[simp] theorem State.setFleet_batches (v) : (s.setFleet v).batches = s.batches := rfl
@[simp] theorem State.setFleet_chart (v) : (s.setFleet v).chart = s.chart := rfl
@[simp] theorem State.setFleet_rose (v) : (s.setFleet v).rose = s.rose := rfl
@[simp] theorem State.setFleet_log (v) : (s.setFleet v).log = s.log := rfl
@[simp] theorem State.setFleet_bin (v) : (s.setFleet v).bin = s.bin := rfl
@[simp] theorem State.setFleet_ms (v) : (s.setFleet v).ms = s.ms := rfl
@[simp] theorem State.setFleet_streams (v) : (s.setFleet v).streams = s.streams := rfl
@[simp] theorem State.setFleet_csi (v) : (s.setFleet v).csi = s.csi := rfl
@[simp] theorem State.setFleet_fleet (v) : (s.setFleet v).fleet = v := rfl
@[simp] theorem State.setFleet_fns (v) : (s.setFleet v).fns = s.fns := rfl
@[simp] theorem State.setFleet_msix (v) : (s.setFleet v).msix = s.msix := rfl
@[simp] theorem State.setFleet_pci (v) : (s.setFleet v).pci = s.pci := rfl
@[simp] theorem State.setFleet_i3c (v) : (s.setFleet v).i3c = s.i3c := rfl
@[simp] theorem State.setFleet_pel (v) : (s.setFleet v).pel = s.pel := rfl
@[simp] theorem State.setFleet_out (v) : (s.setFleet v).out = s.out := rfl
@[simp] theorem State.setFleet_free (v) : (s.setFleet v).free = s.free := rfl
@[simp] theorem State.setFleet_pending (v) : (s.setFleet v).pending = s.pending := rfl

@[simp] theorem State.setFns_clk (v) : (s.setFns v).clk = s.clk := rfl
@[simp] theorem State.setFns_regs (v) : (s.setFns v).regs = s.regs := rfl
@[simp] theorem State.setFns_boot (v) : (s.setFns v).boot = s.boot := rfl
@[simp] theorem State.setFns_flash (v) : (s.setFns v).flash = s.flash := rfl
@[simp] theorem State.setFns_mbx (v) : (s.setFns v).mbx = s.mbx := rfl
@[simp] theorem State.setFns_helm (v) : (s.setFns v).helm = s.helm := rfl
@[simp] theorem State.setFns_cmds (v) : (s.setFns v).cmds = s.cmds := rfl
@[simp] theorem State.setFns_runs (v) : (s.setFns v).runs = s.runs := rfl
@[simp] theorem State.setFns_batches (v) : (s.setFns v).batches = s.batches := rfl
@[simp] theorem State.setFns_chart (v) : (s.setFns v).chart = s.chart := rfl
@[simp] theorem State.setFns_rose (v) : (s.setFns v).rose = s.rose := rfl
@[simp] theorem State.setFns_log (v) : (s.setFns v).log = s.log := rfl
@[simp] theorem State.setFns_bin (v) : (s.setFns v).bin = s.bin := rfl
@[simp] theorem State.setFns_ms (v) : (s.setFns v).ms = s.ms := rfl
@[simp] theorem State.setFns_streams (v) : (s.setFns v).streams = s.streams := rfl
@[simp] theorem State.setFns_csi (v) : (s.setFns v).csi = s.csi := rfl
@[simp] theorem State.setFns_fleet (v) : (s.setFns v).fleet = s.fleet := rfl
@[simp] theorem State.setFns_fns (v) : (s.setFns v).fns = v := rfl
@[simp] theorem State.setFns_msix (v) : (s.setFns v).msix = s.msix := rfl
@[simp] theorem State.setFns_pci (v) : (s.setFns v).pci = s.pci := rfl
@[simp] theorem State.setFns_i3c (v) : (s.setFns v).i3c = s.i3c := rfl
@[simp] theorem State.setFns_pel (v) : (s.setFns v).pel = s.pel := rfl
@[simp] theorem State.setFns_out (v) : (s.setFns v).out = s.out := rfl
@[simp] theorem State.setFns_free (v) : (s.setFns v).free = s.free := rfl
@[simp] theorem State.setFns_pending (v) : (s.setFns v).pending = s.pending := rfl

@[simp] theorem State.setMsix_clk (v) : (s.setMsix v).clk = s.clk := rfl
@[simp] theorem State.setMsix_regs (v) : (s.setMsix v).regs = s.regs := rfl
@[simp] theorem State.setMsix_boot (v) : (s.setMsix v).boot = s.boot := rfl
@[simp] theorem State.setMsix_flash (v) : (s.setMsix v).flash = s.flash := rfl
@[simp] theorem State.setMsix_mbx (v) : (s.setMsix v).mbx = s.mbx := rfl
@[simp] theorem State.setMsix_helm (v) : (s.setMsix v).helm = s.helm := rfl
@[simp] theorem State.setMsix_cmds (v) : (s.setMsix v).cmds = s.cmds := rfl
@[simp] theorem State.setMsix_runs (v) : (s.setMsix v).runs = s.runs := rfl
@[simp] theorem State.setMsix_batches (v) : (s.setMsix v).batches = s.batches := rfl
@[simp] theorem State.setMsix_chart (v) : (s.setMsix v).chart = s.chart := rfl
@[simp] theorem State.setMsix_rose (v) : (s.setMsix v).rose = s.rose := rfl
@[simp] theorem State.setMsix_log (v) : (s.setMsix v).log = s.log := rfl
@[simp] theorem State.setMsix_bin (v) : (s.setMsix v).bin = s.bin := rfl
@[simp] theorem State.setMsix_ms (v) : (s.setMsix v).ms = s.ms := rfl
@[simp] theorem State.setMsix_streams (v) : (s.setMsix v).streams = s.streams := rfl
@[simp] theorem State.setMsix_csi (v) : (s.setMsix v).csi = s.csi := rfl
@[simp] theorem State.setMsix_fleet (v) : (s.setMsix v).fleet = s.fleet := rfl
@[simp] theorem State.setMsix_fns (v) : (s.setMsix v).fns = s.fns := rfl
@[simp] theorem State.setMsix_msix (v) : (s.setMsix v).msix = v := rfl
@[simp] theorem State.setMsix_pci (v) : (s.setMsix v).pci = s.pci := rfl
@[simp] theorem State.setMsix_i3c (v) : (s.setMsix v).i3c = s.i3c := rfl
@[simp] theorem State.setMsix_pel (v) : (s.setMsix v).pel = s.pel := rfl
@[simp] theorem State.setMsix_out (v) : (s.setMsix v).out = s.out := rfl
@[simp] theorem State.setMsix_free (v) : (s.setMsix v).free = s.free := rfl
@[simp] theorem State.setMsix_pending (v) : (s.setMsix v).pending = s.pending := rfl

@[simp] theorem State.setPci_clk (v) : (s.setPci v).clk = s.clk := rfl
@[simp] theorem State.setPci_regs (v) : (s.setPci v).regs = s.regs := rfl
@[simp] theorem State.setPci_boot (v) : (s.setPci v).boot = s.boot := rfl
@[simp] theorem State.setPci_flash (v) : (s.setPci v).flash = s.flash := rfl
@[simp] theorem State.setPci_mbx (v) : (s.setPci v).mbx = s.mbx := rfl
@[simp] theorem State.setPci_helm (v) : (s.setPci v).helm = s.helm := rfl
@[simp] theorem State.setPci_cmds (v) : (s.setPci v).cmds = s.cmds := rfl
@[simp] theorem State.setPci_runs (v) : (s.setPci v).runs = s.runs := rfl
@[simp] theorem State.setPci_batches (v) : (s.setPci v).batches = s.batches := rfl
@[simp] theorem State.setPci_chart (v) : (s.setPci v).chart = s.chart := rfl
@[simp] theorem State.setPci_rose (v) : (s.setPci v).rose = s.rose := rfl
@[simp] theorem State.setPci_log (v) : (s.setPci v).log = s.log := rfl
@[simp] theorem State.setPci_bin (v) : (s.setPci v).bin = s.bin := rfl
@[simp] theorem State.setPci_ms (v) : (s.setPci v).ms = s.ms := rfl
@[simp] theorem State.setPci_streams (v) : (s.setPci v).streams = s.streams := rfl
@[simp] theorem State.setPci_csi (v) : (s.setPci v).csi = s.csi := rfl
@[simp] theorem State.setPci_fleet (v) : (s.setPci v).fleet = s.fleet := rfl
@[simp] theorem State.setPci_fns (v) : (s.setPci v).fns = s.fns := rfl
@[simp] theorem State.setPci_msix (v) : (s.setPci v).msix = s.msix := rfl
@[simp] theorem State.setPci_pci (v) : (s.setPci v).pci = v := rfl
@[simp] theorem State.setPci_i3c (v) : (s.setPci v).i3c = s.i3c := rfl
@[simp] theorem State.setPci_pel (v) : (s.setPci v).pel = s.pel := rfl
@[simp] theorem State.setPci_out (v) : (s.setPci v).out = s.out := rfl
@[simp] theorem State.setPci_free (v) : (s.setPci v).free = s.free := rfl
@[simp] theorem State.setPci_pending (v) : (s.setPci v).pending = s.pending := rfl

@[simp] theorem State.setI3c_clk (v) : (s.setI3c v).clk = s.clk := rfl
@[simp] theorem State.setI3c_regs (v) : (s.setI3c v).regs = s.regs := rfl
@[simp] theorem State.setI3c_boot (v) : (s.setI3c v).boot = s.boot := rfl
@[simp] theorem State.setI3c_flash (v) : (s.setI3c v).flash = s.flash := rfl
@[simp] theorem State.setI3c_mbx (v) : (s.setI3c v).mbx = s.mbx := rfl
@[simp] theorem State.setI3c_helm (v) : (s.setI3c v).helm = s.helm := rfl
@[simp] theorem State.setI3c_cmds (v) : (s.setI3c v).cmds = s.cmds := rfl
@[simp] theorem State.setI3c_runs (v) : (s.setI3c v).runs = s.runs := rfl
@[simp] theorem State.setI3c_batches (v) : (s.setI3c v).batches = s.batches := rfl
@[simp] theorem State.setI3c_chart (v) : (s.setI3c v).chart = s.chart := rfl
@[simp] theorem State.setI3c_rose (v) : (s.setI3c v).rose = s.rose := rfl
@[simp] theorem State.setI3c_log (v) : (s.setI3c v).log = s.log := rfl
@[simp] theorem State.setI3c_bin (v) : (s.setI3c v).bin = s.bin := rfl
@[simp] theorem State.setI3c_ms (v) : (s.setI3c v).ms = s.ms := rfl
@[simp] theorem State.setI3c_streams (v) : (s.setI3c v).streams = s.streams := rfl
@[simp] theorem State.setI3c_csi (v) : (s.setI3c v).csi = s.csi := rfl
@[simp] theorem State.setI3c_fleet (v) : (s.setI3c v).fleet = s.fleet := rfl
@[simp] theorem State.setI3c_fns (v) : (s.setI3c v).fns = s.fns := rfl
@[simp] theorem State.setI3c_msix (v) : (s.setI3c v).msix = s.msix := rfl
@[simp] theorem State.setI3c_pci (v) : (s.setI3c v).pci = s.pci := rfl
@[simp] theorem State.setI3c_i3c (v) : (s.setI3c v).i3c = v := rfl
@[simp] theorem State.setI3c_pel (v) : (s.setI3c v).pel = s.pel := rfl
@[simp] theorem State.setI3c_out (v) : (s.setI3c v).out = s.out := rfl
@[simp] theorem State.setI3c_free (v) : (s.setI3c v).free = s.free := rfl
@[simp] theorem State.setI3c_pending (v) : (s.setI3c v).pending = s.pending := rfl

@[simp] theorem State.setPel_clk (v) : (s.setPel v).clk = s.clk := rfl
@[simp] theorem State.setPel_regs (v) : (s.setPel v).regs = s.regs := rfl
@[simp] theorem State.setPel_boot (v) : (s.setPel v).boot = s.boot := rfl
@[simp] theorem State.setPel_flash (v) : (s.setPel v).flash = s.flash := rfl
@[simp] theorem State.setPel_mbx (v) : (s.setPel v).mbx = s.mbx := rfl
@[simp] theorem State.setPel_helm (v) : (s.setPel v).helm = s.helm := rfl
@[simp] theorem State.setPel_cmds (v) : (s.setPel v).cmds = s.cmds := rfl
@[simp] theorem State.setPel_runs (v) : (s.setPel v).runs = s.runs := rfl
@[simp] theorem State.setPel_batches (v) : (s.setPel v).batches = s.batches := rfl
@[simp] theorem State.setPel_chart (v) : (s.setPel v).chart = s.chart := rfl
@[simp] theorem State.setPel_rose (v) : (s.setPel v).rose = s.rose := rfl
@[simp] theorem State.setPel_log (v) : (s.setPel v).log = s.log := rfl
@[simp] theorem State.setPel_bin (v) : (s.setPel v).bin = s.bin := rfl
@[simp] theorem State.setPel_ms (v) : (s.setPel v).ms = s.ms := rfl
@[simp] theorem State.setPel_streams (v) : (s.setPel v).streams = s.streams := rfl
@[simp] theorem State.setPel_csi (v) : (s.setPel v).csi = s.csi := rfl
@[simp] theorem State.setPel_fleet (v) : (s.setPel v).fleet = s.fleet := rfl
@[simp] theorem State.setPel_fns (v) : (s.setPel v).fns = s.fns := rfl
@[simp] theorem State.setPel_msix (v) : (s.setPel v).msix = s.msix := rfl
@[simp] theorem State.setPel_pci (v) : (s.setPel v).pci = s.pci := rfl
@[simp] theorem State.setPel_i3c (v) : (s.setPel v).i3c = s.i3c := rfl
@[simp] theorem State.setPel_pel (v) : (s.setPel v).pel = v := rfl
@[simp] theorem State.setPel_out (v) : (s.setPel v).out = s.out := rfl
@[simp] theorem State.setPel_free (v) : (s.setPel v).free = s.free := rfl
@[simp] theorem State.setPel_pending (v) : (s.setPel v).pending = s.pending := rfl

@[simp] theorem State.setOut_clk (v) : (s.setOut v).clk = s.clk := rfl
@[simp] theorem State.setOut_regs (v) : (s.setOut v).regs = s.regs := rfl
@[simp] theorem State.setOut_boot (v) : (s.setOut v).boot = s.boot := rfl
@[simp] theorem State.setOut_flash (v) : (s.setOut v).flash = s.flash := rfl
@[simp] theorem State.setOut_mbx (v) : (s.setOut v).mbx = s.mbx := rfl
@[simp] theorem State.setOut_helm (v) : (s.setOut v).helm = s.helm := rfl
@[simp] theorem State.setOut_cmds (v) : (s.setOut v).cmds = s.cmds := rfl
@[simp] theorem State.setOut_runs (v) : (s.setOut v).runs = s.runs := rfl
@[simp] theorem State.setOut_batches (v) : (s.setOut v).batches = s.batches := rfl
@[simp] theorem State.setOut_chart (v) : (s.setOut v).chart = s.chart := rfl
@[simp] theorem State.setOut_rose (v) : (s.setOut v).rose = s.rose := rfl
@[simp] theorem State.setOut_log (v) : (s.setOut v).log = s.log := rfl
@[simp] theorem State.setOut_bin (v) : (s.setOut v).bin = s.bin := rfl
@[simp] theorem State.setOut_ms (v) : (s.setOut v).ms = s.ms := rfl
@[simp] theorem State.setOut_streams (v) : (s.setOut v).streams = s.streams := rfl
@[simp] theorem State.setOut_csi (v) : (s.setOut v).csi = s.csi := rfl
@[simp] theorem State.setOut_fleet (v) : (s.setOut v).fleet = s.fleet := rfl
@[simp] theorem State.setOut_fns (v) : (s.setOut v).fns = s.fns := rfl
@[simp] theorem State.setOut_msix (v) : (s.setOut v).msix = s.msix := rfl
@[simp] theorem State.setOut_pci (v) : (s.setOut v).pci = s.pci := rfl
@[simp] theorem State.setOut_i3c (v) : (s.setOut v).i3c = s.i3c := rfl
@[simp] theorem State.setOut_pel (v) : (s.setOut v).pel = s.pel := rfl
@[simp] theorem State.setOut_out (v) : (s.setOut v).out = v := rfl
@[simp] theorem State.setOut_free (v) : (s.setOut v).free = s.free := rfl
@[simp] theorem State.setOut_pending (v) : (s.setOut v).pending = s.pending := rfl

@[simp] theorem State.setFree_clk (v) : (s.setFree v).clk = s.clk := rfl
@[simp] theorem State.setFree_regs (v) : (s.setFree v).regs = s.regs := rfl
@[simp] theorem State.setFree_boot (v) : (s.setFree v).boot = s.boot := rfl
@[simp] theorem State.setFree_flash (v) : (s.setFree v).flash = s.flash := rfl
@[simp] theorem State.setFree_mbx (v) : (s.setFree v).mbx = s.mbx := rfl
@[simp] theorem State.setFree_helm (v) : (s.setFree v).helm = s.helm := rfl
@[simp] theorem State.setFree_cmds (v) : (s.setFree v).cmds = s.cmds := rfl
@[simp] theorem State.setFree_runs (v) : (s.setFree v).runs = s.runs := rfl
@[simp] theorem State.setFree_batches (v) : (s.setFree v).batches = s.batches := rfl
@[simp] theorem State.setFree_chart (v) : (s.setFree v).chart = s.chart := rfl
@[simp] theorem State.setFree_rose (v) : (s.setFree v).rose = s.rose := rfl
@[simp] theorem State.setFree_log (v) : (s.setFree v).log = s.log := rfl
@[simp] theorem State.setFree_bin (v) : (s.setFree v).bin = s.bin := rfl
@[simp] theorem State.setFree_ms (v) : (s.setFree v).ms = s.ms := rfl
@[simp] theorem State.setFree_streams (v) : (s.setFree v).streams = s.streams := rfl
@[simp] theorem State.setFree_csi (v) : (s.setFree v).csi = s.csi := rfl
@[simp] theorem State.setFree_fleet (v) : (s.setFree v).fleet = s.fleet := rfl
@[simp] theorem State.setFree_fns (v) : (s.setFree v).fns = s.fns := rfl
@[simp] theorem State.setFree_msix (v) : (s.setFree v).msix = s.msix := rfl
@[simp] theorem State.setFree_pci (v) : (s.setFree v).pci = s.pci := rfl
@[simp] theorem State.setFree_i3c (v) : (s.setFree v).i3c = s.i3c := rfl
@[simp] theorem State.setFree_pel (v) : (s.setFree v).pel = s.pel := rfl
@[simp] theorem State.setFree_out (v) : (s.setFree v).out = s.out := rfl
@[simp] theorem State.setFree_free (v) : (s.setFree v).free = v := rfl
@[simp] theorem State.setFree_pending (v) : (s.setFree v).pending = s.pending := rfl

@[simp] theorem State.setPending_clk (v) : (s.setPending v).clk = s.clk := rfl
@[simp] theorem State.setPending_regs (v) : (s.setPending v).regs = s.regs := rfl
@[simp] theorem State.setPending_boot (v) : (s.setPending v).boot = s.boot := rfl
@[simp] theorem State.setPending_flash (v) : (s.setPending v).flash = s.flash := rfl
@[simp] theorem State.setPending_mbx (v) : (s.setPending v).mbx = s.mbx := rfl
@[simp] theorem State.setPending_helm (v) : (s.setPending v).helm = s.helm := rfl
@[simp] theorem State.setPending_cmds (v) : (s.setPending v).cmds = s.cmds := rfl
@[simp] theorem State.setPending_runs (v) : (s.setPending v).runs = s.runs := rfl
@[simp] theorem State.setPending_batches (v) : (s.setPending v).batches = s.batches := rfl
@[simp] theorem State.setPending_chart (v) : (s.setPending v).chart = s.chart := rfl
@[simp] theorem State.setPending_rose (v) : (s.setPending v).rose = s.rose := rfl
@[simp] theorem State.setPending_log (v) : (s.setPending v).log = s.log := rfl
@[simp] theorem State.setPending_bin (v) : (s.setPending v).bin = s.bin := rfl
@[simp] theorem State.setPending_ms (v) : (s.setPending v).ms = s.ms := rfl
@[simp] theorem State.setPending_streams (v) : (s.setPending v).streams = s.streams := rfl
@[simp] theorem State.setPending_csi (v) : (s.setPending v).csi = s.csi := rfl
@[simp] theorem State.setPending_fleet (v) : (s.setPending v).fleet = s.fleet := rfl
@[simp] theorem State.setPending_fns (v) : (s.setPending v).fns = s.fns := rfl
@[simp] theorem State.setPending_msix (v) : (s.setPending v).msix = s.msix := rfl
@[simp] theorem State.setPending_pci (v) : (s.setPending v).pci = s.pci := rfl
@[simp] theorem State.setPending_i3c (v) : (s.setPending v).i3c = s.i3c := rfl
@[simp] theorem State.setPending_pel (v) : (s.setPending v).pel = s.pel := rfl
@[simp] theorem State.setPending_out (v) : (s.setPending v).out = s.out := rfl
@[simp] theorem State.setPending_free (v) : (s.setPending v).free = s.free := rfl
@[simp] theorem State.setPending_pending (v) : (s.setPending v).pending = v := rfl

end Sys2Proof.Machine
end

