-- ==== Sys2Proof/Laws/Maps.lean ====
section
/-! SUPPORT. The laws of association lists, and of the registers, rings, Heading entries and counters that are kept in them. -/

namespace Sys2Proof.Laws
open Sys2Proof Sys2Proof.Machine

variable {α : Type} {s : State}

@[simp] theorem mget_mset_same (m : Map α) (k : Nat) (v : α) : mget (mset m k v) k = some v := by
  induction m with
  | nil => simp [mset, mget]
  | cons e m ih =>
    obtain ⟨j, w⟩ := e
    simp only [mset]
    split
    · simp [mget]
    · split
      · simp [mget]
      · rename_i h1 h2
        simp [mget, Ne.symm h2, ih]

theorem mget_mset_ne (m : Map α) {j k : Nat} (v : α) (h : j ≠ k) : mget (mset m k v) j = mget m j := by
  induction m with
  | nil => simp [mset, mget, Ne.symm h]
  | cons e m ih =>
    obtain ⟨i, w⟩ := e
    simp only [mset]
    split
    · simp [mget, Ne.symm h]
    · split
      · subst_vars
        simp [mget, Ne.symm h]
      · simp only [mget, ih]

@[simp] theorem mgetD_mset_same (m : Map α) (k : Nat) (v d : α) : mgetD (mset m k v) k d = v := by simp [mgetD]

theorem mgetD_mset_ne (m : Map α) {j k : Nat} (v d : α) (h : j ≠ k) : mgetD (mset m k v) j d = mgetD m j d := by
  simp [mgetD, mget_mset_ne m v h]

theorem mget_mdel_ne (m : Map α) {j k : Nat} (h : j ≠ k) : mget (mdel m k) j = mget m j := by
  induction m with
  | nil => rfl
  | cons e m ih =>
    obtain ⟨i, w⟩ := e
    simp only [mdel]
    split
    · subst_vars
      simp [mget, Ne.symm h]
    · simp only [mget, ih]

theorem mget_none_of_wf (m : Map α) (lo k : Nat) (h : mapWfFrom lo m = true) (hk : k < lo) : mget m k = none := by
  induction m generalizing lo with
  | nil => rfl
  | cons e m ih =>
    obtain ⟨j, w⟩ := e
    simp only [mapWfFrom, Bool.and_eq_true, decide_eq_true_eq] at h
    simp only [mget]
    split
    · omega
    · exact ih (j + 1) h.2 (by omega)

/-- In a sorted map a deleted key has no entry. -/
theorem mget_mdel_same (m : Map α) (lo k : Nat) (h : mapWfFrom lo m = true) : mget (mdel m k) k = none := by
  induction m generalizing lo with
  | nil => rfl
  | cons e m ih =>
    obtain ⟨j, w⟩ := e
    simp only [mapWfFrom, Bool.and_eq_true, decide_eq_true_eq] at h
    simp only [mdel]
    split
    · subst_vars
      exact mget_none_of_wf m (j + 1) j h.2 (by omega)
    · simp only [mget]
      split
      · omega
      · exact ih (j + 1) h.2

/-! ### Registers (20 R442) -/

theorem regKey_zero_ne {a b : Nat} (h : a ≠ b) : regKey 0 a ≠ regKey 0 b := by
  simp only [regKey]
  omega

/-- A register just written reads as the word written. -/
theorem rget_rput_same (off v : Nat) : rget (rput s off v) off = v % 2 ^ 32 := by
  simp [rget, regRaw, rput, regPut]

/-- A write of one register leaves every other. -/
theorem rget_rput_ne {a off : Nat} (v : Nat) (h : a ≠ off) : rget (rput s off v) a = rget s a := by
  simp only [rget, regRaw, rput, regPut, State.setRegs_regs, mget_mset_ne _ _ (regKey_zero_ne h)]

/-- A register depends on the register group alone. -/
theorem rget_congr {s t : State} (h : t.regs = s.regs) (off : Nat) : rget t off = rget s off := by simp only [rget, regRaw, h]

/-- A register write touches the register group alone. -/
theorem rput_eq (off v : Nat) : rput s off v = s.setRegs (mset s.regs (regKey 0 off) (BitVec.ofNat 32 v)) := rfl

/-! ### Rings and Heading entries -/

@[simp] theorem ringOf_setRing_same (c r : Nat) (x : Ring) : ringOf (setRing s c r x) c r = x := by simp [ringOf, setRing]

theorem ringOf_setRing_ne {c r c' r' : Nat} (x : Ring) (h : ringKey c' r' ≠ ringKey c r) : ringOf (setRing s c r x) c' r' = ringOf s c' r' := by
  simp [ringOf, setRing, mgetD_mset_ne _ _ _ h]

@[simp] theorem hdgOf_setHdg_same (h : Nat) (e : Hdg) : hdgOf (setHdg s h e) h = e := by simp [hdgOf, setHdg]

theorem hdgOf_setHdg_ne {j h : Nat} (e : Hdg) (hj : j ≠ h) : hdgOf (setHdg s h e) j = hdgOf s j := by
  simp [hdgOf, setHdg, mgetD_mset_ne _ _ _ hj]

end Sys2Proof.Laws
end

