-- ==== Sys2Proof/Laws/Ops.lean ====
section
/-! SUPPORT. The groups of State that each shared operation can touch, and what it does to the ones it names. -/

namespace Sys2Proof.Laws
open Sys2Proof Sys2Proof.Machine

variable {s t u : State} {gs hs : List StateGroup}

/-! ### Frames compose -/

theorem only_refl (gs : List StateGroup) (s : State) : onlyChanged gs s s := by simp [onlyChanged]

/-- Two changes within the same groups. -/
theorem only_trans (h1 : onlyChanged gs s t) (h2 : onlyChanged gs t u) : onlyChanged gs s u := by
  obtain ⟨a0, a1, a2, a3, a4, a5, a6, a7, a8, a9, a10, a11, a12, a13, a14, a15, a16, a17, a18, a19, a20, a21, a22, a23, a24⟩ := h1
  obtain ⟨b0, b1, b2, b3, b4, b5, b6, b7, b8, b9, b10, b11, b12, b13, b14, b15, b16, b17, b18, b19, b20, b21, b22, b23, b24⟩ := h2
  have j : ∀ {p : Prop} {α : Type} {x y z : α}, p ∨ y = x → p ∨ z = y → p ∨ z = x := fun a b =>
    a.elim .inl (fun e => b.elim .inl (fun f => .inr (f.trans e)))
  exact ⟨b0.trans a0, j a1 b1, j a2 b2, j a3 b3, j a4 b4, j a5 b5, j a6 b6, j a7 b7, j a8 b8, j a9 b9, j a10 b10, j a11 b11, j a12 b12,
    j a13 b13, j a14 b14, j a15 b15, j a16 b16, j a17 b17, j a18 b18, j a19 b19, j a20 b20, j a21 b21, j a22 b22, j a23 b23, j a24 b24⟩

/-- A change within fewer groups is one within more. -/
theorem only_mono (h : onlyChanged hs s t) (hg : ∀ g, g ∈ hs → g ∈ gs) : onlyChanged gs s t := by
  obtain ⟨a0, a1, a2, a3, a4, a5, a6, a7, a8, a9, a10, a11, a12, a13, a14, a15, a16, a17, a18, a19, a20, a21, a22, a23, a24⟩ := h
  have j : ∀ {g : StateGroup} {p : Prop}, g ∈ hs ∨ p → g ∈ gs ∨ p := fun a => a.elim (fun e => .inl (hg _ e)) .inr
  exact ⟨a0, j a1, j a2, j a3, j a4, j a5, j a6, j a7, j a8, j a9, j a10, j a11, j a12, j a13, j a14, j a15, j a16, j a17, j a18, j a19,
    j a20, j a21, j a22, j a23, j a24⟩

theorem only_ite {c : Prop} [Decidable c] {a b : State} (ha : onlyChanged gs s a) (hb : onlyChanged gs s b) :
    onlyChanged gs s (if c then a else b) := by
  split <;> assumption

theorem only_foldl {α : Type} {f : State → α → State} {l : List α} (hf : ∀ t x, onlyChanged gs s t → onlyChanged gs s (f t x))
    (h : onlyChanged gs s t) : onlyChanged gs s (l.foldl f t) := by
  induction l generalizing t with
  | nil => exact h
  | cons x xs ih => exact ih (hf t x h)

/-! ### Registers, counters, records -/

theorem rput_only (s : State) (off v : Nat) : onlyChanged [.regs] s (rput s off v) := by simp [onlyChanged, rput_eq]
theorem regPut_only (s : State) (c off v : Nat) : onlyChanged [.regs] s (regPut s c off v) := by simp [onlyChanged, regPut]
theorem rflag_only (s : State) (off i : Nat) : onlyChanged [.regs] s (rflag s off i) := rput_only _ _ _
theorem rcount_only (s : State) (off hi lo n : Nat) : onlyChanged [.regs] s (rcount s off hi lo n) := rput_only _ _ _
theorem gcount_only (s : State) (id n : Nat) : onlyChanged [.pel] s (gcount s id n) := by simp [onlyChanged, gcount]
theorem ccount_only (s : State) (c id n : Nat) : onlyChanged [.pel] s (ccount s c id n) := by simp [onlyChanged, ccount]

theorem ccounts_only (s : State) (c : Nat) (l : List (Nat × Nat)) : onlyChanged [.pel] s (ccounts s c l) := by
  induction l generalizing s with
  | nil => exact only_refl _ _
  | cons x xs ih =>
    obtain ⟨i, n⟩ := x
    exact only_trans (only_ite (only_refl _ _) (ccount_only _ _ _ _)) (ih _)

theorem pcieIn_only (s : State) (n : Nat) : onlyChanged [.pel] s (pcieIn s n) := gcount_only _ _ _

/-- A trace record touches the record queue and the counter of dropped records. -/
theorem trace_only (s : State) (r : TraceRec) : onlyChanged [.regs, .pel] s (trace s r) := by
  unfold trace
  refine only_ite (only_refl _ _) (only_ite ?_ ?_)
  · simp [onlyChanged, rcount, rput_eq]
  · simp [onlyChanged]

theorem traceCmd_only (s : State) (kind flags unitNo : Nat) (k : CmdKey) (ak a0 a1 : Nat) :
    onlyChanged [.regs, .pel] s (traceCmd s kind flags unitNo k ak a0 a1) := trace_only _ _

/-- What leaves the device is appended, and PCIe payload counted. -/
theorem emit_only (s : State) (o : Output) : onlyChanged [.pel, .out] s (emit s o) := by
  simp only [emit]
  split <;> simp [onlyChanged, gcount]

theorem emit_out (s : State) (o : Output) : (emit s o).out = s.out ++ [o] := by
  simp only [emit]
  split <;> simp [gcount]

/-! ### Interrupts, events (15 R357) -/

theorem raiseMsix_only (s : State) (f e : Nat) : onlyChanged [.msix, .pel, .out] s (raiseMsix s f e) := by
  simp only [raiseMsix]
  split
  · simp [onlyChanged]
  · exact only_mono (emit_only _ _) (by simp)

theorem raiseIbi_only (s : State) (k p : Nat) : onlyChanged [.i3c, .pel, .out] s (raiseIbi s k p) := by
  simp only [raiseIbi]
  split
  · exact only_refl _ _
  · split
    · simp [onlyChanged]
    · exact only_trans (only_mono (hs := [.i3c]) (by simp [onlyChanged]) (by simp)) (only_mono (emit_only _ _) (by simp))

/-- ALERT_N low, the error vector and the in-band interrupt. -/
theorem alert_only (v : State) (b : Bin) (p : Nat) : onlyChanged reportGroups v (raiseIbi (raiseMsix (v.setBin b) 0 0) 1 p) :=
  only_trans (t := v.setBin b) (by simp [onlyChanged, reportGroups])
    (only_trans (only_mono (raiseMsix_only (v.setBin b) 0 0) (by simp [reportGroups]))
      (only_mono (raiseIbi_only _ _ _) (by simp [reportGroups])))

theorem reportClass_only (s : State) (cls : Nat) (i : Option Nat) : onlyChanged reportGroups s (reportClass s cls i) := by
  have h1 : onlyChanged reportGroups s (rflag s 0x100 cls) := only_mono (rflag_only _ _ _) (by simp [reportGroups])
  cases i with
  | none =>
    unfold reportClass
    dsimp only
    split
    · exact only_trans h1 (alert_only _ _ _)
    · exact h1
  | some i =>
    have h2 : onlyChanged reportGroups s (rput (rflag s 0x100 cls) 0x104 i) := only_trans h1 (only_mono (rput_only _ _ _) (by simp [reportGroups]))
    unfold reportClass
    dsimp only
    split
    · exact only_trans h2 (alert_only _ _ _)
    · exact h2

theorem logEvent_only (s : State) (e : Event) : onlyChanged reportGroups s (logEvent s e) := by
  simp [onlyChanged, reportGroups, logEvent, gcount]

/-- An event touches the Logbook, the reporting registers and lines, and nothing else. -/
theorem raiseEvent_only (s : State) (a : EvArg) : onlyChanged reportGroups s (raiseEvent s a) := by
  unfold raiseEvent
  exact only_trans (logEvent_only _ _) (reportClass_only _ _ _)

theorem raiseNotice_only (s : State) (src : Nat) (al : Bool) (a : EvArg) : onlyChanged reportGroups s (raiseNotice s src al a) := by
  simp only [raiseNotice]
  split
  · exact only_trans (t := s.setLog { s.log with notices := mset s.log.notices src (mgetD s.log.notices src 0 + 1) })
      (by simp [onlyChanged, reportGroups]) (only_trans (logEvent_only _ _) (reportClass_only _ _ _))
  · exact only_trans (t := s.setLog { s.log with notices := mset s.log.notices src (mgetD s.log.notices src 0 + 1) })
      (by simp [onlyChanged, reportGroups]) (reportClass_only _ _ _)

/-! ### What a frame gives, group by group -/

theorem only_clk (h : onlyChanged gs s t) (hg : StateGroup.clk ∉ gs) : t.clk = s.clk := h.2.1.resolve_left hg
theorem only_regs (h : onlyChanged gs s t) (hg : StateGroup.regs ∉ gs) : t.regs = s.regs := h.2.2.1.resolve_left hg
theorem only_boot (h : onlyChanged gs s t) (hg : StateGroup.boot ∉ gs) : t.boot = s.boot := h.2.2.2.1.resolve_left hg
theorem only_flash (h : onlyChanged gs s t) (hg : StateGroup.flash ∉ gs) : t.flash = s.flash := h.2.2.2.2.1.resolve_left hg
theorem only_mbx (h : onlyChanged gs s t) (hg : StateGroup.mbx ∉ gs) : t.mbx = s.mbx := h.2.2.2.2.2.1.resolve_left hg
theorem only_helm (h : onlyChanged gs s t) (hg : StateGroup.helm ∉ gs) : t.helm = s.helm := h.2.2.2.2.2.2.1.resolve_left hg
theorem only_cmds (h : onlyChanged gs s t) (hg : StateGroup.cmds ∉ gs) : t.cmds = s.cmds := h.2.2.2.2.2.2.2.1.resolve_left hg
theorem only_runs (h : onlyChanged gs s t) (hg : StateGroup.runs ∉ gs) : t.runs = s.runs := h.2.2.2.2.2.2.2.2.1.resolve_left hg
theorem only_batches (h : onlyChanged gs s t) (hg : StateGroup.batches ∉ gs) : t.batches = s.batches := h.2.2.2.2.2.2.2.2.2.1.resolve_left hg
theorem only_chart (h : onlyChanged gs s t) (hg : StateGroup.chart ∉ gs) : t.chart = s.chart := h.2.2.2.2.2.2.2.2.2.2.1.resolve_left hg
theorem only_rose (h : onlyChanged gs s t) (hg : StateGroup.rose ∉ gs) : t.rose = s.rose := h.2.2.2.2.2.2.2.2.2.2.2.1.resolve_left hg
theorem only_log (h : onlyChanged gs s t) (hg : StateGroup.log ∉ gs) : t.log = s.log := h.2.2.2.2.2.2.2.2.2.2.2.2.1.resolve_left hg
theorem only_bin (h : onlyChanged gs s t) (hg : StateGroup.bin ∉ gs) : t.bin = s.bin := h.2.2.2.2.2.2.2.2.2.2.2.2.2.1.resolve_left hg
theorem only_ms (h : onlyChanged gs s t) (hg : StateGroup.ms ∉ gs) : t.ms = s.ms := h.2.2.2.2.2.2.2.2.2.2.2.2.2.2.1.resolve_left hg
theorem only_streams (h : onlyChanged gs s t) (hg : StateGroup.streams ∉ gs) : t.streams = s.streams := h.2.2.2.2.2.2.2.2.2.2.2.2.2.2.2.1.resolve_left hg
theorem only_csi (h : onlyChanged gs s t) (hg : StateGroup.csi ∉ gs) : t.csi = s.csi := h.2.2.2.2.2.2.2.2.2.2.2.2.2.2.2.2.1.resolve_left hg
theorem only_fleet (h : onlyChanged gs s t) (hg : StateGroup.fleet ∉ gs) : t.fleet = s.fleet := h.2.2.2.2.2.2.2.2.2.2.2.2.2.2.2.2.2.1.resolve_left hg
theorem only_fns (h : onlyChanged gs s t) (hg : StateGroup.fns ∉ gs) : t.fns = s.fns := h.2.2.2.2.2.2.2.2.2.2.2.2.2.2.2.2.2.2.1.resolve_left hg
theorem only_msix (h : onlyChanged gs s t) (hg : StateGroup.msix ∉ gs) : t.msix = s.msix := h.2.2.2.2.2.2.2.2.2.2.2.2.2.2.2.2.2.2.2.1.resolve_left hg
theorem only_pci (h : onlyChanged gs s t) (hg : StateGroup.pci ∉ gs) : t.pci = s.pci := h.2.2.2.2.2.2.2.2.2.2.2.2.2.2.2.2.2.2.2.2.1.resolve_left hg
theorem only_i3c (h : onlyChanged gs s t) (hg : StateGroup.i3c ∉ gs) : t.i3c = s.i3c := h.2.2.2.2.2.2.2.2.2.2.2.2.2.2.2.2.2.2.2.2.2.1.resolve_left hg
theorem only_pel (h : onlyChanged gs s t) (hg : StateGroup.pel ∉ gs) : t.pel = s.pel := h.2.2.2.2.2.2.2.2.2.2.2.2.2.2.2.2.2.2.2.2.2.2.1.resolve_left hg
theorem only_out (h : onlyChanged gs s t) (hg : StateGroup.out ∉ gs) : t.out = s.out := h.2.2.2.2.2.2.2.2.2.2.2.2.2.2.2.2.2.2.2.2.2.2.2.1.resolve_left hg
theorem only_free (h : onlyChanged gs s t) (hg : StateGroup.free ∉ gs) : t.free = s.free := h.2.2.2.2.2.2.2.2.2.2.2.2.2.2.2.2.2.2.2.2.2.2.2.2.resolve_left hg

end Sys2Proof.Laws
end

