-- ==== Sys2Proof/Laws/Rings.lean ====
section
/-! SUPPORT. What fetching, the filing of commit requests and the ring operations can do (Machine/Rings.lean). -/

namespace Sys2Proof.Laws
open Sys2Proof Sys2Proof.Machine

theorem setRing_only (s : State) (c r : Nat) (x : Machine.Ring) : onlyChanged [.helm] s (setRing s c r x) := by simp [onlyChanged, setRing]

/-- A ring-table row depends on the Helm group alone. -/
theorem ringOf_congr {s t : State} (h : t.helm = s.helm) (c r : Nat) : ringOf t c r = ringOf s c r := by simp [ringOf, h]

/-- Requesting slots moves the next slot to request, emits the reads, counts bytes: nothing else. -/
theorem pumpN_spec (n : Nat) (s : State) (ctx ring : Nat) :
    onlyChanged [.helm, .pel, .out] s (pumpN n s ctx ring) ∧
    ringOf (pumpN n s ctx ring) ctx ring = { ringOf s ctx ring with next := (ringOf (pumpN n s ctx ring) ctx ring).next } := by
  induction n generalizing s with
  | zero => exact ⟨only_refl _ _, rfl⟩
  | succ n ih =>
    simp only [pumpN]
    split
    · obtain ⟨h1, h2⟩ := ih (emit (setRing s ctx ring { ringOf s ctx ring with next := (ringOf s ctx ring).next + 1 })
        (.hostRead ((fnOf s ctx).getD 0) ((ringOf s ctx ring).sqBase + 64 * (((ringOf s ctx ring).next - (ringOf s ctx ring).seq0).toNat % 2 ^ (ringOf s ctx ring).log2e)) 64))
      refine ⟨only_trans (only_mono (setRing_only _ _ _ _) (by simp)) (only_trans (only_mono (emit_only _ _) (by simp)) h1), ?_⟩
      rw [h2]
      have : (emit (setRing s ctx ring { ringOf s ctx ring with next := (ringOf s ctx ring).next + 1 })
        (.hostRead ((fnOf s ctx).getD 0) ((ringOf s ctx ring).sqBase + 64 * (((ringOf s ctx ring).next - (ringOf s ctx ring).seq0).toNat % 2 ^ (ringOf s ctx ring).log2e)) 64)).helm
         = (setRing s ctx ring { ringOf s ctx ring with next := (ringOf s ctx ring).next + 1 }).helm := only_helm (emit_only _ _) (by simp)
      rw [ringOf_congr this]
      simp
    · exact ⟨only_refl _ _, rfl⟩

theorem pump_spec (s : State) (ctx ring : Nat) :
    onlyChanged [.helm, .pel, .out] s (pump s ctx ring) ∧
    ringOf (pump s ctx ring) ctx ring = { ringOf s ctx ring with next := (ringOf (pump s ctx ring) ctx ring).next } := pumpN_spec 32 s ctx ring

theorem raiseRing_only (s : State) (c : Nat) (r : Ring) : onlyChanged reportGroups s (raiseRing s c r) := by
  unfold raiseRing
  split
  · exact only_mono (raiseMsix_only _ _ _) (by simp [reportGroups])
  · exact only_refl _ _

theorem putCmd_only (s : State) (c : Cmd) : onlyChanged [.cmds] s (putCmd s c) := by simp [onlyChanged, putCmd]

/-- A commit request touches its command, the count of requests and the journal queue. -/
theorem fileReq_only (s : State) (c : Cmd) (r : CommitReq) : onlyChanged [.cmds, .helm, .log] s (fileReq s c r) := by
  simp [onlyChanged, fileReq, putCmd]

theorem fileStatus_only (s : State) (c : Cmd) (st : Nat) : onlyChanged [.cmds, .helm, .log] s (fileStatus s c st) := by
  unfold fileStatus
  split
  · exact fileReq_only _ _ _
  · split
    · exact fileReq_only _ _ _
    · exact fileReq_only _ _ _

/-- The request joins the end of the journal queue. -/
theorem fileReq_queue (s : State) (c : Cmd) (r : CommitReq) : (fileReq s c r).log.queue = s.log.queue ++ [c.key] := by
  simp [fileReq, putCmd]

end Sys2Proof.Laws
end

