-- ==== Sys2Proof/Machine/Geometry.lean ====
section
/-! DEFINITION. Where things lie and how long they take, as the spec's formulas give it: cells, berth cells and tiles (01 R14, R15, R17;
05 R120, R121, R124, R136; 08 R192, R196, R197), throughput (05 R131; 07 R191), switch times (10 R260), current steps (21 R458). -/

namespace Sys2Proof.Machine

/-- The number of a cell of the chip: facet, strip, position (01 R14, R15). -/
def cellNumber (facet strip pos : Nat) : Nat := facet * 1024 + strip * 32 + pos

/-- Grid row and column of a sector, and its class (01 R17). -/
def sectorRow (k : Nat) : Nat := k / 4
def sectorCol (k : Nat) : Nat := k % 4
inductive GridClass where
  | corner | edge | centre
deriving DecidableEq, Repr
def gridClass (k : Nat) : GridClass :=
  let outer (i : Nat) : Bool := decide (i = 0) || decide (i = 3)
  if outer (sectorRow k) && outer (sectorCol k) then .corner
  else if outer (sectorRow k) || outer (sectorCol k) then .edge
  else .centre

/-- The facet, strip and position of berth cell (i, j) (05 R124). -/
def berthCell (b : Berth) (i j : Nat) : Nat × Nat × Nat :=
  (facetAt (dieRow b.origin + i / 32) (dieCol b.origin + j / 32), i % 32, j % 32)

/-- The AK cycle, from the first read issue of a product step, in which cell (i, j) multiplies chunk t (05 R120, R121): the feed delay is
the padded read latency and one cycle more. -/
def feedDelay (readLatency : Nat) : Nat := readLatency + 1
def productCycle (f i j t : Nat) : Nat := f + i + j + t

/-- The berth columns that a sweep of d directions leaves (05 R136). -/
def sweepIdle (w d : Nat) : Nat := 32 * w % sweepCols d

/-- The byte of element (i, j) in a 2 KiB tile of elements of 2 or 4 bytes, and its bank within the tile (08 R197). -/
def tileBank (i j : Nat) : Nat := (i + j) % 32
def tileByte (size i j : Nat) : Nat := if size = 2 then 64 * tileBank i j + 2 * i else 64 * tileBank i j + 4 * (i % 16)

/-- The first of the 8 banks of a wide row: a[10:9] in a sector block, a[11:9] in the Almanac core (08 R196). -/
def rowBank (a : Nat) : Nat := if a < coreBase then 8 * (a / 512 % 4) else 8 * (a / 512 % 8)

/-- MAC per second of c cells in P-pass mode, at 800 MHz (05 R131). -/
def peakMac (cells p : Nat) : Nat := cells * 800000000 / p

/-- Factorisations per second of a number of facets in the batched mapping (07 R191), and AK cycles of a batched sweep. -/
def batchedRate (facets nb p : Nat) : Nat := facets * 800000000 / batchPeriod nb p
def batchedSweep (n : Nat) : Nat := n + 16 * ceilDiv n 32

/-- The time of a context switch in ns: live rings of the incoming context, the time of the kill; and of an eviction (10 R260). -/
def switchNs (live killNs : Nat) : Nat := 350 + 40 * live + killNs
def evictNs (live : Nat) : Nat := 600 + 20 * live

/-- The rise of the VDD_CORE load in mA: a ladder step, facets in activity, the Helm complex (21 R458). -/
def ladderRise (facets : Nat) : Nat := 600 * facets
def loadRise (starting active : Nat) : Nat := ladderRise starting + 50 * active + 1000

end Sys2Proof.Machine
end

