-- ==== Sys2Proof/Tests/Slice0.lean ====
section
/-! SUPPORT. The model's own tests: the states in which each statement's hypotheses hold, ill-formed commands, and single steps whose results are
read off the spec's tables and formulas. -/

namespace Sys2Proof.Tests
open Sys2Proof Sys2Proof.Machine

/-! ### States -/

/-- A descriptor, ring record or context block from its fields: byte offset, bytes, value. -/
def line (w : Nat) (fs : List (Nat × Nat × Nat)) : BitVec w :=
  BitVec.ofNat w (fs.foldl (fun a f => a + f.2.2 % 2 ^ (8 * f.2.1) * 2 ^ (8 * f.1)) 0)

/-- Power-up, up to the step that `stage` names. -/
def booting (stage : Nat) : State :=
  State.reset.setBoot { State.reset.boot with por := true, stage := stage, passed := stage - 1 }

/-- The device at READY in function 0's hands: Meridian time 5,000 s, chip AK count 100,000, no context defined. -/
def fresh : State :=
  { State.reset with
    clk := { State.reset.clk with
      locked := true, chipAk := 100000, mkAk := 99998, sectorAk := List.replicate 16 100000, mer := 5000 * secU, shadow := 5000 * secU }
    boot := { State.reset.boot with
      por := true, state := 1, stage := 7, passed := 7, helmOk := 255, lodestone := true, age := 200000 * usU, memProfile := 9, wakeMib := 64, portEn := 255 }
    bin := { State.reset.bin with safeN := true }
    pci := ⟨true, 8, 5, 0⟩
    fns := ⟨true, false, false⟩ :: List.replicate 63 ⟨false, false, false⟩
    helm := { State.reset.helm with cores := List.replicate 8 ⟨true, false, false, false, 5000 * secU, none⟩ }
    regs := [(regKey 0 0x10000, 0x200000#32), (regKey 0 0x1000C, 64#32), (regKey 0 0x10100, 0x400000#32)] }

/-- A ring that has accepted the command of SEQ 94. -/
def ring0 : Ring :=
  { Ring.zero with sqBase := 0x100000, cqBase := 0x110000, seq0 := 94, log2e := 8, enable := true, tail := 94, head := 95, done := 94, next := 95 }

/-- The same with context 17 resident and its ring 2 enabled. -/
def up : State :=
  fresh.setHelm { fresh.helm with
    ctxs := [(17, ⟨32, 1, none, 1000000000, 0, true, 0, .runnable, 0, false⟩)], rings := [(ringKey 17 2, ring0)] }

/-- The command of SEQ 94 on that ring. -/
def key : CmdKey := ⟨17, 2, 94⟩

/-- An accepted command. -/
def cmd (fs : List (Nat × Nat × Nat)) (ph : CmdPhase) : Cmd :=
  { key := key, desc := line 512 fs, acceptedAt := 4999 * secU, order := 1, phase := ph, freeAt := [],
    deadline := none, faultKills := 0, rerun := false, avoid := [], inputIn := false, raw := [], instOff := 0, inst := [], nanElem := none,
    nanCount := 0, image := none, since := 4999 * secU, launchableAt := none, cover := none, req := none, waitRetry := 0, chargeDue := 0,
    faultIdx := 0, runs := 0, rows := [], bcnOk := false, watched := false }

/-- A route of one facet. -/
def route0 : Route :=
  { berthW := 1, berthH := 1, vernier := 2, rounds := 2, setupAk := 1840, iterAk := 2912, refactorAk := 2912, commitAk := 410, setupExtra := 0,
    iterLimit := 25, sweeps := 1, spans := true, spillStream := false, batch := false, mask := 0xFFFF, firstRose := 100, plotNeed := [40],
    plan := [], writesPlot := true, recv := [], vary := [], recheck := none, code := [1#8], readsUnwritten := false, reserved := false,
    base := 0, nanAk := 50, boundAk := 60, consensus := false, tau := 24 }

/-- A trap record with nothing in it. -/
def site0 : TrapRec := ⟨0, 0, 0, 0, 0, 0, 0, 0, 0, 0, 0, 0, 0, 0, 0, 0, 0, 0, 0⟩

/-- 1.0, ½ and −1.0 as binary64 patterns. -/
def one : Word64 := 0x3FF0000000000000
def half : Word64 := 0x3FE0000000000000
def mone : Word64 := 0xBFF0000000000000

/-- Minimise ½‖x‖² − x₁ − x₂ subject to x₁ + x₂ ≤ 1. -/
def prob0 : ProbData := ⟨[[one, 0], [0, one]], [[one, one]], [], [mone, mone], [0xFFF0000000000000], [one], []⟩

/-- A dense QP chart of 2 variables and 1 row in binary64, for interior point. -/
def chartBytes : List Byte :=
  leBytes 64 (line 512 [(0, 4, 0x74394348), (4, 2, 1), (8, 2, 2), (10, 2, 1), (24, 1, 9), (25, 1, 9), (26, 1, 9), (30, 1, 9), (31, 1, 9),
    (41, 1, 2), (44, 4, 1)]).toNat ++ [0xF#8]

/-- Its operands as a model holds them, and as an image brings them. -/
def parts0 : PartData :=
  [(.hess, [one, 0, 0, one]), (.ineq, [one, one]), (.lin, [mone, mone]), (.lb, [0xFFF0000000000000]), (.ub, [one])]
def items0 : List Item :=
  parts0.map (fun x => ⟨.core, x.2.flatMap (fun v => leBytes 8 v.toNat), x.1, 10, x.2.length⟩)

/-- Its image, and its model as loaded with route r. -/
def image0 (r : Route) : Image :=
  { desc := chartBytes, sig := 10274458922267274611, routes := [r], items := items0, admmRegion := .core, warmRegion := .core, spill := 0,
    instBytes := 64, layout := [], smap := none }
def model0 (r : Route) : Model :=
  { owner := 17, loader := key, chart := parseChart chartBytes, sig := 0x1234, routes := [r], places := [(coreBase, 512)], first := 0x200,
    count := 4, warmBase := coreBase + 512, warmSize := 512, spill := 0, instBytes := 64, scaleD := [0, 0], scaleF := [0], parts := parts0,
    layout := [], smap := none, loaded := true }

/-- A run of the command on facet 5, launched at AK cycle 98,000. -/
def run0 : Run :=
  { key := key, stream := none, berths := [⟨5, 1, 1⟩], route := route0, model := 28, isSoft := false, launchAk := 98000, launchMer := 0,
    armedOff := none, phase := .iterating, plots := [⟨0, 0, 40⟩], triples := [], wins := [], cost := 0, iter := 0, limit := 25,
    phaseStart := 99000, phaseEnd := 100000, abandoned := false, last := none, best := none, bestBuf := false, prob := some prob0, base := [], scaleD := [0, 0], scaleF := [0], work := [], phase1 := none, mark := RunCounts.zero,
    warmFlags := 0, infP := 0, infD := 0, cert := [], rhoExp := 0, status := none, trap := none, trig := none, commitAt := none, waits := [],
    waitAk := 0, counts := RunCounts.zero, slot := none, chargeFrom := 0 }

/-- A FIRM SOLVE of model 28 in 2 rows of input, and the state in which it runs as r. -/
def solveFs : List (Nat × Nat × Nat) :=
  [(0, 1, 0x10), (1, 1, 1), (2, 2, 17), (4, 4, 94), (8, 2, 0x200), (12, 2, 28), (14, 2, 13), (16, 8, 0x3000000), (24, 8, 0x4000000), (32, 2, 2),
   (34, 1, 9), (37, 1, 8), (56, 4, 100000)]
def withModel (r : Route) : State := up.setHelm { up.helm with models := [(28, model0 r)] }
def running (r : Run) : State := ((withModel route0).setCmds [cmd solveFs .running]).setRuns [r]

/-- Device states around a command. -/
def withCmd (fs : List (Nat × Nat × Nat)) (ph : CmdPhase) : State := up.setCmds [cmd fs ph]

/-- The state after one command. -/
def ex' (s : State) (c : Instr) : State := match exec c s with | .next t => t | _ => s

def listen' (s : State) : State := s.setFlash { s.flash with fwNext := some 0 }

/-- A ring record. -/
def rec0 : Rec := line 256 [(0, 8, 0x100000), (8, 8, 0x110000), (16, 4, 94), (20, 1, 8), (21, 1, 1), (22, 2, 5)]

/-- The ring with one descriptor read outstanding. -/
def fetchingState : State := setRing up 17 2 { ring0 with tail := 95, next := 96 }

/-- A context block: 32 shares, a quota of 2 facets, valid. -/
def block0 : Line := line 512 [(0, 2, 2), (2, 2, 32), (4, 1, 1)]

/-- The same with its ring off. -/
def upOff : State := setRing up 17 2 { ring0 with enable := false }

/-- The staging registers of both range commands written. -/
def staged : State := rput (rput (rput (rput up 0x70004 0x81FF0100) 0x70008 0x81FF0100) 0x78004 0x200) 0x78008 0x100

/-- A LOAD_MODEL of model 28. -/
def loadFs : List (Nat × Nat × Nat) := [(0, 1, 1), (2, 2, 17), (4, 4, 94), (8, 2, 0x200), (12, 2, 28), (14, 2, 4), (16, 8, 0x2000000), (24, 8, 0x2010000), (36, 4, 512), (40, 2, 4)]

/-- The same that awaits its fit check, and one that has passed it. -/
def awaiting (im : Image) : Cmd := { cmd loadFs .awaitFit with image := some im, inputIn := true }

def awaitFit0 (im : Image) : State := (up.setCmds [awaiting im]).setHelm { up.helm with hdgRange := [(17, (0x200, 16))] }

def fitted0 : State := ex' (awaitFit0 (image0 route0)) .fitCheck

/-- An image with a NaN in its linear term; a LOAD_MODEL killed after its check, which runs again on its own reservation. -/
def nanImage : Image := { image0 route0 with items := items0.map (fun x => if x.part = .lin then { x with data := leBytes 8 0x7FF8000000000000 ++ leBytes 8 0 } else x) }

def reserved0 : State := fitted0.setCmds (fitted0.cmds.map (fun c => { c with phase := .ready }))

/-- An UNLOAD_MODEL of model 28 while it is loaded. -/
def unloadFs : List (Nat × Nat × Nat) := [(0, 1, 2), (2, 2, 17), (4, 4, 94), (12, 2, 28)]

def unloading0 (ph : CmdPhase) : State := (withModel route0).setCmds [cmd unloadFs ph]

/-- A solve command of another opcode. -/
def opFs (op : Nat) : List (Nat × Nat × Nat) := (0, 1, op) :: solveFs.drop 1

def solving (op : Nat) : State := (withModel route0).setCmds [cmd (opFs op) .ready]

/-- A BEACON_WAIT for Beacon 256 to reach 7, with and without a timeout. -/
def waitFs : List (Nat × Nat × Nat) := [(0, 1, 0x41), (2, 2, 17), (4, 4, 94), (36, 2, 256), (40, 4, 7)]

def timedFs : List (Nat × Nat × Nat) := waitFs ++ [(34, 1, 1), (48, 4, 4999), (52, 4, 0)]

def met : State := ((withCmd waitFs .waiting).setHelm { up.helm with beacons := [(256, 7)] })

/-- A FENCE; ATTEST of the device and of model 28. -/
def fenceFs : List (Nat × Nat × Nat) := [(0, 1, 0x42), (2, 2, 17), (4, 4, 94)]

def attestFs (what : Nat) : List (Nat × Nat × Nat) := [(0, 1, 0x60), (2, 2, 17), (4, 4, 94), (12, 2, 28), (14, 2, 64), (24, 8, 0x4000000), (34, 1, what)]

def attesting : State := (withModel route0).setCmds [cmd (attestFs 1) .ready]

/-- A WATCH of the command of SEQ 94 by one of SEQ 95, and what it arms. -/
def watchFs : List (Nat × Nat × Nat) := [(0, 1, 0x50), (2, 2, 17), (4, 4, 94), (14, 2, 16), (24, 8, 0x5000000), (40, 4, 96)]

def watch0 : Watch := { newWatch ⟨17, 2, 99⟩ (line 512 watchFs) with target := key, dump := true, len := 8 }

def copying0 : Watch := { watch0 with copying := true, fired := true, plot := some (0, 512), copied := 512 }

def watched0 (w : Watch) : State := (running run0).setPel { State.reset.pel with watches := [w] }

/-- A launchable FIRM SOLVE. -/
def launchable0 : State := (withModel route0).setCmds [{ cmd solveFs .ready with launchableAt := some 0 }]

/-- A placed run whose launch waits for room in the ladder table. -/
def placed0 : Run := { run0 with phase := .placed, launchAk := 0 }

def retrying : State := ((withModel route0).setCmds [{ cmd solveFs .placed with inputIn := true, waitRetry := 100064 }]).setRuns [placed0]

/-- Contexts 17 and 18 with one to become resident; `full` has no free slot. -/
def ctxB (saved : Bool) : Ctx := ⟨32, 1, none, 5, 7, false, 0, .runnable, 0, saved⟩

def waitingCtx : State := up.setHelm { up.helm with ctxs := [(17, ⟨32, 1, none, 1000000000, 0, true, 0, .runnable, 0, false⟩), (18, ctxB false)] }

def fullSlots : State := up.setHelm { up.helm with ctxs := (List.range 64).map (fun i => (100 + i, ⟨32, 0, none, 1, 0, true, i, .idle, 0, false⟩)) ++ [(400, ctxB true)] }

def chosen : Nat × Option Nat := (chooseSlot fullSlots (ctxB true)).getD (0, none)

def expired0 : State := (withModel route0).setCmds [{ cmd solveFs .ready with deadline := some 1 }]

/-- A TIMED_LAUNCH at 5,000 s + 5 µs, and one whose time has passed; an armed one. -/
def launchFs : List (Nat × Nat × Nat) := [(0, 1, 0x30), (2, 2, 17), (4, 4, 94)]

def launching (t : Mer) : State := up.setCmds [{ cmd launchFs .waiting with deadline := some t }]

def armed0 : Armed := ⟨key, 4999 * secU, [], 1, none, 0⟩

def armedState : State := (withCmd launchFs .armed).setHelm { up.helm with armed := [armed0] }

/-- Power-up under a reserved BOOT_MODE; with a good configuration block; with a good firmware image. -/
def reservedMode : State := (booting 3).setBoot { (booting 3).boot with mode := 2 }

/-- Power-up under BOOT_MODE 0b01. -/
def noFirmware : State := (booting 5).setBoot { (booting 5).boot with mode := 1 }

def lateBoot : State := (booting 6).setBoot { (booting 6).boot with age := 181000 * usU }

/-- SAFE-LISTEN, with the region and the length of a flash command given. -/
def listen (region len : Nat) : State := { booting 3 with boot := { (booting 3).boot with state := 2, fail := 9, age := 20000 * usU }, mbx := { State.reset.mbx with args := [0, BitVec.ofNat 32 (len + region * 2 ^ 28), 0, 0] } }

def idleRings : State := fresh

def noLodestone : State := fresh.setBoot { fresh.boot with lodestone := false }

/-- A running WRITE of two bytes to the firmware region. -/
def writing (cfg : Bool) : State := (listen 0 2).setMbx { (listen 0 2).mbx with busy := true, running := 0x11, doneResult := 0, chunk := some (cfg, 0, [1#8, 2#8]) }

def faulty : State := { up with bin := { up.bin with traceFell := true, vBad := [(0, 3)] }, helm := { up.helm with cores := List.replicate 8 ⟨true, false, false, false, 0, none⟩ }, regs := mset up.regs (regKey 0 0xD0004) 4 }

def breaching : State := (withModel route0).setCmds [{ cmd solveFs .requested with deadline := some 1, req := some { plainReq up 0 0 0 0 0 with launched := true, stamp := 5000 * secU } }]

def fellQuiet : State := { up with bin := { up.bin with traceFell := true, fallback := true } }

/-- In the safe state for 100 ms with AUTO; in a warm reset; with a context reset due. -/
def safeHeld : State := { running run0 with bin := { up.bin with safe := true, safeN := false, causes := [0x14] }, regs := mset up.regs (regKey 0 0xD0004) 1 }

def warm0 : State := { fresh with boot := { fresh.boot with state := 3 }, bin := { fresh.bin with safeN := false, txCut := true, linksDown := true } }

def resetDue : State := (running run0).setHelm { (withModel route0).helm with ctxResetDue := [17] }

def vectors : State := up.setMsix [(msixKey 0 5, ⟨true, true⟩), (msixKey 0 6, ⟨true, false⟩)]

def classes : State := rput up 0x100 0x23

def sampled : State := { up with pel := { up.pel with bsets := [(0, ⟨none, [1, 2, 3, 4, 5, 6, 7, 8], some key⟩)], lostRun := 3 }, regs := mset (mset up.regs (regKey 0 0xC0020) 0x80001000) (regKey 0 0xC0040) 0x80000000 }

def locked0 : State := rput up 0xD0004 0x80000000

def core (d h : Bool) : HelmCore := ⟨true, h, d, false, 5000 * secU, none⟩

def debugging (d h : Bool) : State := { up with helm := { up.helm with cores := lset up.helm.cores 3 (core d h) }, regs := mset (mset up.regs (regKey 0 0x104C0) 0x1001) (regKey 0 0xD0004) 8 }

/-- The servo in a state, both slots enabled on ports 0 and 1 at one Sync a second, time stepping allowed. -/
def timed (v : Servo) (a b : Slot) (m : Mer) : State := { fresh with clk := { fresh.clk with mer := m }, ms := { MerSt.reset with servo := v, slots := [a, b], traceable := decide (v = .locked ∨ v = .slewing ∨ v = .holdover) }, regs := mset (mset (mset (mset (mset fresh.regs (regKey 0 0x90000) 6) (regKey 0 0x90020) 0x80080000) (regKey 0 0x90024) 0x80080100) (regKey 0 0x90034) 100) (regKey 0 0x90038) 10 }

def slotAt (t : Mer) : Slot := { Slot.zero with samples := [(t, 0), (t, 0), (t, 0), (t, 0)], lastAt := some t }

def badNs : State := rput (timed .free Slot.zero Slot.zero (5000 * secU)) 0x90010 1000000000

/-- PTP on port 1, two-step or one-step; output 3 with a width of 100 ns, periodic and not armed, to start 10 µs from now; output 4 armed; output 5 high; input 2 enabled on both edges. -/
def ports (oneStep : Bool) (n : Nat) : State := { timed .free Slot.zero Slot.zero (5000 * secU) with clk := { fresh.clk with mkAk := 100000 }, ms := { MerSt.reset with outs := [.zero, .zero, .zero, .zero, ⟨true, 4999 * secU, 0, 0, false⟩, ⟨false, 4999 * secU, 0, 1, true⟩, .zero, .zero], ins := [⟨[], none⟩, ⟨[], none⟩, ⟨List.replicate n (4999 * secU, true), none⟩, ⟨[], none⟩] }, regs := mset (mset (mset (mset fresh.regs (regKey 0 0x9005C) (if oneStep then 0xC0000000 else 0x80000000)) (regKey 0 (outReg 3 1)) 5000) (regKey 0 (outReg 3 2)) 10000) (regKey 0 0x90220) 0xE0000000 }

/-- An in-band interrupt of kind 2 raised and not yet acknowledged. -/
def ibiRaised : State := { up with i3c := { I3cSt.reset with da := some 9, ibiEn := true, ibis := [(2, 5)] } }

/-- Window 7 over the first row of sector block 2, its expiry at 4,000 s; window 8 with no length; window 9 open over it. -/
def winds (o7 o9 : Bool) : State := up.setChart { up.chart with wins := [(7, ⟨0x2000000, 512, o7, 0, true, false, 0, [0x2007, 0, 0, 0], 4000, 0, 3⟩), (8, Window.zero), (9, ⟨0x2000000, 1024, o9, 0, false, false, 0, [0, 0, 0, 0], 0, 0, 0⟩)] }

/-- Bank 5 of sector 0 in a power state, with one byte of its own and one of its neighbour. -/
def bankAt (b : Option BankState) : State := up.setChart { up.chart with banks := (match b with | some x => [(5, x)] | none => []), mem := [(320, 7#8), (384, 8#8)] }

def bankUsed : State := (running run0).setRuns [{ run0 with plots := [⟨0, 0, 40⟩] }]

/-- A row to scrub; sector 2 gated at 4,000 s with its count behind. -/
def upkeep : State := { up with clk := { up.clk with gated := lset up.clk.gated 2 (some (4000 * secU)), sectorAk := lset up.clk.sectorAk 2 50017 }, chart := { up.chart with scrubQ := [0x2000000], mem := [(0x2000003, 9#8)] } }

/-- The same with a row admitted into sector 3; with a run whose plan holds the lane to scrub in this phase. -/
def draining0 : State := upkeep.setChart { upkeep.chart with admitted := [⟨0x3000000, 100000, 0x3005, List.replicate 512 0⟩] }
def laneHeld : State := upkeep.setRuns [{ run0 with triples := [⟨2, 0, 0, 0⟩] }]

/-- Chip 2 of fleet 9 with chip 5 its member on port 1, as its link stands. -/
def inFleet (p : Peer) : State := { running run0 with regs := mset (mset (mset fresh.regs (regKey 0 0xA0000) 0x80020009) (regKey 0 0xA0004) 0x00640064) (regKey 0 0xA0114) 0x80000001, fleet := ⟨[(5, p)], 5000 * secU, none, none, false⟩ }

def beaconFrame : RFrame := { newFrame (inFleet Peer.zero) .beacon 5 with lseq := 3, value := 7, aux := 40, raise := true }

def linkUp : Peer := { Peer.zero with up := true, heard := 4999 * secU, lseq := 3, applied := 8, sent := [⟨beaconFrame, 4999 * secU, 0, true, none⟩, ⟨beaconFrame, 0, 0, false, none⟩] }

def quietPeer : Peer := { Peer.zero with up := true, heard := 5000 * secU }

def signalling (b : Nat) : State := { inFleet (if b = 0 then Peer.zero else quietPeer) with helm := (withModel route0).helm, cmds := [cmd [(0, 1, 0x40), (2, 2, 17), (34, 1, 1), (35, 1, if b = 2 then 5 else 0x85), (36, 2, 40), (40, 4, 7)] .ready], runs := [] }

/-- A WRITE of one row to window 7 from chip 5; a HELLO; a STOP to every member. -/
def rowFrame : RFrame := ⟨.write, 9, 5, 2, false, false, false, false, false, 9, 0, 7, 0, 0, 0, 1, [List.replicate 512 1]⟩

def helloFrame : RFrame := ⟨.hello, 9, 5, 2, false, false, false, false, false, 0, 0, 0, 0, 0, 0, 0, []⟩

def stopFrame : RFrame := ⟨.stop, 9, 5, 3, true, false, false, false, true, 0, 0, 0, 0, 0, 0, 5001, []⟩

def receiving : State := { inFleet { Peer.zero with applied := 8 } with chart := { up.chart with wins := [(7, ⟨0x2000000, 512, true, 0, false, false, 0, [0x3005, 0, 0, 0], 0, 0, 0⟩)] } }

def armedStop : State := { inFleet quietPeer with fleet := ⟨[(5, quietPeer)], 5000 * secU, some (4999 * secU, false), some 99990, false⟩ }

def stoppedChip : State := { inFleet quietPeer with fleet := ⟨[(5, quietPeer)], 5000 * secU, none, none, true⟩, pel := { up.pel with scanning := true } }

def waitRun : Run := { run0 with waits := [.beacon 40 7 none], waitAk := 99500 }

def placedRun (ak : Nat) (a : Option Nat) : Run := { run0 with phase := .placed, launchAk := ak, armedOff := a }

def dmaState : State := ((withModel route0).setCmds [cmd solveFs .placed]).setRuns [placedRun 0 (some 0)]
def reading (r : Run) : State := ((withModel route0).setCmds [cmd solveFs .placed]).setRuns [r]

/-- A problem of a batch with its input on the way; a ring with a descriptor on the way. -/
def batchInput : State := (withModel { route0 with batch := true }).setCmds [{ cmd (List.set solveFs 0 (0, 1, 0x11)) .ready with launchableAt := some 1 }]

def fetchingRing : State := up.setHelm { up.helm with rings := [(ringKey 17 2, { ring0 with tail := 96, next := 96 })] }

/-- A faulty facet under self-test; a facet or a Sextant whose test ends; a spare position waiting. -/
def lbist : State := (running run0).setRose { up.rose with lbist := [5, 257], sectors := lset (lset up.rose.sectors 3 { Sector.good with pendingSub := some 2 }) 0 { Sector.good with pendingSub := some 5 } }

def killedOnce : State := ((withModel route0).setCmds [{ cmd solveFs .running with faultKills := 1 }]).setRuns [run0]

/-- The same without NAN_TRAP; and under the model of a Kalman chart. -/
def solveQ : List (Nat × Nat × Nat) := solveFs.filter (fun f => f.1 != 37)

def runningQ (r : Run) : State := ((withModel route0).setCmds [cmd solveQ .running]).setRuns [r]

def runningNan (r : Run) : State := ((withModel route0).setCmds [{ cmd solveQ .running with nanElem := some (3, 9, 0x7FF8000000000000), nanCount := 1 }]).setRuns [r]

def setupRun : Run := { run0 with phase := .setup, launchAk := 99000, phaseStart := 99000, phaseEnd := 100000, prob := none }

/-- What comes with the end of a phase that moved nothing. -/
def still0 : Traffic := ⟨0, 0, 0, 0, 0, 0, 0, 0⟩
def setup0 : SetupData := ⟨still0, site0⟩
def iter0 : IterData := ⟨[], 0, still0, site0⟩

/-- The model by method and operands; the same with the lower bound above the upper one, and with no curvature and no bound. -/
def modelQ (meth : Nat) (ps : PartData) : Model := let m := model0 route0; { m with chart := { m.chart with method := meth }, parts := ps }
def runningM (m : Model) (r : Run) : State := (runningQ r).setHelm { up.helm with models := [(28, m)] }
def badBounds : PartData := [(.hess, [one, 0, 0, one]), (.ineq, [one, one]), (.lin, [mone, mone]), (.lb, [one]), (.ub, [0])]
def flatProb : ProbData := ⟨[[0], [0, 0]], [[one, one]], [], [mone, mone], [0xFFF0000000000000], [0x7FF0000000000000], []⟩

/-- A Kalman chart of one state and one measurement: F = W = C = V = 1, the prior 1 with covariance 1. -/
def modelK : Model :=
  let m := model0 route0
  { m with
    chart := { m.chart with cls := 2, method := 4, nx := 1, ny := 1, nu := 0 }
    parts := [(.kF, [one]), (.kG, []), (.kc, [0]), (.kW, [one]), (.kC, [one]), (.kV, [one]), (.state, [one]), (.cov, [one]), (.ym, [one])] }

def runningK (r : Run) : State := runningM modelK r

/-- The optimum, and the run whose latest iterate it is. -/
def optimum : Iter := ⟨[half, half], [half], [], [0], [half], [half], [0], [one], []⟩

/-- A candidate; a run at a starting point; a run with a cycle budget whose trigger falls now; a run whose trigger fell a cycle ago. -/
def cand0 : Cand := ⟨1, optimum, ⟨0, 0, 0, 0⟩, true⟩
def start0 : Cand := ⟨0, { optimum with x := [0, 0], y := [], lamU := [one], sL := [0], sU := [one], z := [] }, ⟨one, one, one, one⟩, false⟩
def startRun : Run := { run0 with last := some start0 }
def atOptimum : Run := { run0 with last := some cand0 }

/-- Runs of setup that end at once; ADMM at its optimum; active set on the problem without a bound. -/
def badSetupRun : Run := { setupRun with launchAk := 99940 - 0 }
def badSetup : State := runningM (modelQ 0 badBounds) badSetupRun
def nanRun : Run := { setupRun with launchAk := 99950 }
def admmAt : State := runningM (modelQ 1 parts0) atOptimum
def flatAt : State := runningM (modelQ 2 parts0) { atOptimum with prob := some flatProb }

def budgetFs : List (Nat × Nat × Nat) := solveFs.map (fun f => if f.1 = 34 then (34, 1, 8) else if f.1 = 56 then (56, 4, 2640) else f)

def budgeted (r : Run) : State := ((withModel route0).setCmds [cmd budgetFs .running]).setRuns [r]

def endingRun : Run := { run0 with iter := 1, phaseStart := 100000, last := some cand0, best := some cand0 }

def triggered (c : Option Cand) : Run := { run0 with trig := some ⟨99999, false, false⟩, last := c, best := c }

/-- A run at its commit point with its best iterate; a filed request; a SAFE one that waits for its recheck, with or without DUAL, and its Fix. -/
def doneRun : Run := { run0 with phase := .commit, iter := 1, status := some 0, phaseStart := 99590, commitAt := some 100000, last := some cand0, best := some cand0 }

def committing (fs : List (Nat × Nat × Nat)) (w : Bool) : State := let s := withModel route0; (s.setCmds [{ cmd fs .requested with req := some { plainReq s 0 0 0 0 0 with fixWritten := w } }]).setLog { s.log with queue := [key] }

def safeFs (dual : Bool) : List (Nat × Nat × Nat) := solveFs.map (fun f => if f.1 = 34 then (34, 1, if dual then 0x12 else 2) else f)

/-- A Fix header of it; with the iterate behind it, and with an iterate that is not the optimum; the recheck of that Fix 10 µs later. -/
def fixBytes : List Byte := leBytes 64 (line 512 [(10, 2, 0x200), (12, 4, 94), (40, 8, 5000)]).toNat

def fixWith (v : Word64) : List Byte := fixBytes ++ (List.replicate 3 (leBytes 8 (toW48 (f64 v)).toNat)).flatten
def wholeFix : List Byte := fixWith half
def otherFix : List Byte := fixWith one
def rechecking : State :=
  let s := (committing (safeFs false) true).setRuns [{ doneRun with phase := .done }]
  { s with clk := { s.clk with mer := 5000 * secU + 10 * usU, shadow := 5000 * secU + 10 * usU } }

/-- A batch of one unit of one facet with a problem in slot 0; a second command that waits with its input. -/
def unit0 (k : Option CmdKey) : BatchUnit := ⟨⟨5, 1, 1⟩, [], [⟨0, 0, 40⟩], [], [k, none]⟩

def batch0 (k : Option CmdKey) (o : Nat) : Batch := ⟨17, 28, true, o, [unit0 k]⟩

def key2 : CmdKey := ⟨17, 2, 93⟩

def batchFs : List (Nat × Nat × Nat) := List.set solveFs 0 (0, 1, 0x11)

def batchCmd (p : CmdPhase) : Cmd := { cmd batchFs p with inputIn := true, launchableAt := some 1 }

def batching (o : Nat) (rs : List Run) (cs : List Cmd) (bs : List Batch) : State := (((withModel { route0 with batch := true }).setCmds cs).setRuns rs).setBatches bs

def slotRun (p : RunPhase) : Run := { run0 with key := key2, phase := p, slot := some (5, 0), status := if p = .stopping then some 0x21 else none }

/-- Operands 1.0 in binary32; a cell of the run's facet with 2.0 in it, or empty; the cell at position 0. -/
def one32 : Opnd := ⟨8, 0x3F800000, 0⟩

def inf32op : Opnd := ⟨8, 0x7F800000, 0⟩

def two48 : W48 := toW48 (.fin false 1 1)

def cellAt (p : Nat) : CellAt := ⟨5, 2, p, 0, []⟩

def cells (a : Option W48) : State := match a with | some v => (runningQ run0).setRose { up.rose with acc := [(accKey (cellAt 0), v), (accKey (cellAt 7), v)] } | none => runningQ run0

/-- A column step on the run's facet, with 4.0 or 0 on the diagonal; the same under ABORT. -/
def col0 (k : Kernel) : ColStep := ⟨key, k, [5], 0, 2, false, false, none, [], [], [], [], [], site0⟩

def panel0 (v : Machine.Num) : State := (runningQ run0).setRose { up.rose with panel := [(5 * 1024, toW48 v), (5 * 1024 + 32, toW48 (.fin false 1 1))] }

def abortFs : List (Nat × Nat × Nat) := solveQ.map (fun f => if f.1 = 34 then (34, 1, 0x29) else f)

/-- Under which a pivot that an earlier trigger abandoned stands by itself; with 4.0, with 0 and with nothing in the column; a kernel's threshold. -/
def goodPanel : State := panel0 (.fin false 1 2)
def zeroPanel : State := panel0 (.zero false)
def emptyPanel : State := (runningQ run0).setRose { up.rose with panel := [(5 * 1024, toW48 (.zero false))] }
def thrOf (s : State) (k : Kernel) : Machine.Num := stepThr (enterKernel s run0 (col0 k) false) run0 (col0 k)
def abandoning : State := ((panel0 (.zero false)).setCmds [cmd abortFs .running]).setRuns [triggered none]
def panelAbort : State := (panel0 (.zero false)).setCmds [cmd abortFs .running]

/-- A lane of sector 0 in binary64; 3.0 and 2.0. -/
def lane : SxtAt := ⟨key, 0, 4, false, false, [], site0⟩

def three : Opnd := ⟨10, 0x4008000000000000, 0⟩

def two : Opnd := ⟨10, 0x4000000000000000, 0⟩

/-- A bind of receive port 1 channel 2: its estimator is model 30 and its controller model 28, whose stream map takes 4 binary32 elements. -/
def bindFs (op : Nat) : List (Nat × Nat × Nat) := [(0, 1, op), (1, 1, 1), (2, 2, 17), (4, 4, 94), (8, 2, 0x200), (12, 2, 28), (34, 1, 1), (37, 1, 0), (48, 1, 18), (49, 1, 35), (50, 2, 77), (52, 2, 0x210), (54, 2, 30), (56, 4, 100000), (60, 2, 5)]

def smap0 : StreamMap := ⟨8, 4, 0x5678, [(0, .input), (1, .ym)], [(0, .params), (1, .params)], [0], []⟩

def route1 : Route := { route0 with writesPlot := false }

def ctlModel : Model := let m := model0 route1; { m with chart := { m.chart with cls := 6 }, smap := some smap0 }

def estModel : Model := let m := model0 route1; { m with chart := { m.chart with cls := 2, method := 4 }, sig := 0x5678, places := [(coreBase + 4096, 512)], first := 0x210, warmBase := coreBase + 8192 }

def streamy : State := let s := up.setHelm { up.helm with ctxs := [(17, ⟨32, 4, none, 1000000000, 0, true, 0, .runnable, 0, false⟩)], models := [(28, ctlModel), (30, estModel)], heading := [(0x200, { Hdg.zero with state := 1, ctx := 17, model := 28 }), (0x210, { Hdg.zero with state := 1, ctx := 17, model := 30, flags := 1, sig := 0x5678 })] }; { s with regs := mset (mset (mset s.regs (regKey 0 0x80004) 0x80000000) (regKey 0 0x80018) 0x80010000) (regKey 0 0x80148) 0x006403E8 }

def binding (p : CmdPhase) : State := streamy.setCmds [cmd (bindFs 0x20) p]

def misfit : State := let s := binding .ready; s.setHelm { s.helm with models := [(28, ctlModel)] }

/-- Unbinding a channel that has no binding, and one that has. -/
def unbinding (b : Bool) : State := let s := ex' (binding .ready) (.streamBind key); let s := s.setLog { s.log with queue := [] }; let s := s.setCmds [cmd (bindFs 0x21) .ready]; if b then s.setStreams (s.streams.map (fun e => (e.1, { e.2 with key := ⟨17, 2, 90⟩ }))) else s.setStreams []

/-- The channel bound, at rest, an FS seen, a unit waiting. -/
def bound (f : Stream → Stream) : State := let s := unbinding true; (s.setCmds []).setStreams (s.streams.map (fun e => (e.1, f e.2)))

def hdr0 (n : Word) : SndHdr := ⟨0x7439534E, 5, 8, n, 4, 0, 0, 0, 0, []⟩

def frame0 : SndFrame := ⟨some (hdr0 1), true, true, true, List.replicate 16 0⟩

def noHeader : SndFrame := ⟨none, false, true, true, []⟩

def unitS : UnitSt := ⟨1, 0, some 99980, none, hdr0 1, List.replicate 16 0, none, none, [], none⟩

/-- A Fix frame due now; one on the lanes, of a unit or of an unbind. -/
def fixDue0 : FixDue := ⟨5000 * secU, 0, 0, 1, some (hdr0 1), 0, 0, 0, [], true, true⟩

def emitting (r : Nat) : State := ex' (bound (fun x => { x with due := [{ fixDue0 with reason := r }], unbind := some key, next := some 1 })) (.fixFrameEmit 18)

def unbound : State := (emitting 8).setCmds [cmd (bindFs 0x21) .waiting]

/-- The unit's request in the journal queue. -/
def unitAsks : State := let s := bound (fun x => { x with unit := some { unitS with launchAk := some 98000, req := some (plainReq fresh 0 0 0 0 0) } }); s.setLog { s.log with queue := [⟨17, 2, 90⟩] }

/-! ### The hypotheses of each statement hold together -/

/-- Obligations.StepRunsFront. -/
theorem test_witness_StepRunsFront :
    (fresh.setPending [.rstdaa]).pending = .rstdaa :: [] := by
  decide +kernel

/-- Obligations.ExecKeepsQueue. -/
theorem test_witness_ExecKeepsQueue :
    ((match exec .rstdaa fresh with | .next _ => true | _ => false) = true) := by
  decide +kernel

/-- Obligations.StepKeepsInvariant. -/
theorem test_witness_StepKeepsInvariant :
    (fresh.setPending [.rstdaa]).memoriesWf = true ∧
    (fresh.setPending [.rstdaa]).bin.safe = false ∧
    (fresh.setPending [.rstdaa]).boot.state = 1 ∧
    ((match step (fresh.setPending [.rstdaa]) with | .next _ => true | _ => false) = true) := by
  and_intros <;> decide +kernel

/-- Obligations.SafeListenEnds. -/
theorem test_witness_SafeListenEnds :
    (fresh.setBoot { fresh.boot with state := 2 }).boot.state = 2 ∧
    endsListen .rstdaa = false ∧
    ((match exec .rstdaa (fresh.setBoot { fresh.boot with state := 2 }) with | .next _ => true | _ => false) = true) := by
  and_intros <;> decide +kernel

/-- Obligations.SafeStateEnds. -/
theorem test_witness_SafeStateEnds :
    (fresh.setBin { fresh.bin with safe := true }).bin.safe = true ∧
    endsSafe .rstdaa = false ∧
    ((match exec .rstdaa (fresh.setBin { fresh.bin with safe := true }) with | .next _ => true | _ => false) = true) := by
  and_intros <;> decide +kernel

/-- Obligations.FlashOnlyMailbox. -/
theorem test_witness_FlashOnlyMailbox :
    mailboxLike .rstdaa = false ∧
    ((match exec .rstdaa fresh with | .next _ => true | _ => false) = true) := by
  and_intros <;> decide +kernel

/-- Obligations.MeridianKept. -/
theorem test_witness_MeridianKept :
    clockLike .rstdaa = false ∧
    ((match exec .rstdaa fresh with | .next _ => true | _ => false) = true) := by
  and_intros <;> decide +kernel

/-- Obligations.DoorbellDecides. -/
theorem test_witness_DoorbellDecides :
    fnEnabled up 0 = true ∧
    pageCtx up 0 17 = some 17 ∧
    pageCtx up 0 18 = some 18 ∧
    ctxOf up 18 = none ∧
    (ctxOf up 17).isSome = true ∧
    (ringOf up 17 3).enable = false ∧
    (ringOf up 17 2).enable = true ∧
    2 ^ 31 ≤ ((90 : Word) - (ringOf up 17 2).head).toNat ∧
    ((350 : Word) - (ringOf up 17 2).head).toNat < 2 ^ 31 ∧
    2 ^ (ringOf up 17 2).log2e ≤ ((350 : Word) - (ringOf up 17 2).done).toNat ∧
    ((349 : Word) - (ringOf up 17 2).head).toNat < 2 ^ 31 ∧
    ((349 : Word) - (ringOf up 17 2).done).toNat < 2 ^ (ringOf up 17 2).log2e := by
  and_intros <;> decide +kernel

/-- Obligations.RingEnableDisable. -/
theorem test_witness_RingEnableDisable :
    fnEnabled up 0 = true ∧
    pageCtx up 0 17 = some 17 ∧
    (ctxOf up 17).isSome = true ∧
    ringActive up 17 3 = false ∧
    recordOk up 0 rec0 = true ∧
    recordOk up 0 1 = false ∧
    ringActive (withCmd [(0, 1, 0x42)] .waiting) 17 2 = true := by
  and_intros <;> decide +kernel

/-- Obligations.DescriptorAccepted. -/
theorem test_witness_DescriptorAccepted :
    canFetch fetchingState 17 2 (ringOf fetchingState 17 2) (ringOf fetchingState 17 2).head = true ∧
    fetching (ringOf fetchingState 17 2) = true ∧
    findCmd fetchingState ⟨17, 2, (ringOf fetchingState 17 2).head⟩ = none := by
  and_intros <;> decide +kernel

/-- Obligations.ContextCommands. -/
theorem test_witness_ContextCommands :
    pfOpen up = true ∧
    bit 0x80001012#32 31 = true ∧
    (cmdCtx 0x80001012 = 18 ∧ cmdOp 0x80001012 = 1) ∧
    ctxOf up 18 = none ∧
    blkValid block0 = true ∧
    (blkShares block0 ≠ 0) ∧
    quotaSum up 18 + blkQuota block0 ≤ rsvFacets up ∧
    (cmdCtx 0x80001011 = 17 ∧ cmdOp 0x80001011 = 1) ∧
    (ctxOf up 17).isSome = true ∧
    (bit 0x80002011#32 31 = true ∧ cmdCtx 0x80002011 = 17 ∧ cmdOp 0x80002011 = 2) ∧
    quotaSum up 17 + blkQuota block0 ≤ rsvFacets up ∧
    (bit 0x80003012#32 31 = true ∧ cmdCtx 0x80003012 = 18 ∧ cmdOp 0x80003012 = 3) ∧
    (bit 0x80003011#32 31 = true ∧ cmdCtx 0x80003011 = 17 ∧ cmdOp 0x80003011 = 3) ∧
    (ringOf up 17 2).enable = true ∧
    ((List.range 8).all (fun i => !(ringOf upOff 17 i).enable && !ringActive upOff 17 i) = true) := by
  and_intros <;> decide +kernel

/-- Obligations.ContextRegisters. -/
theorem test_witness_ContextRegisters :
    pfOpen fresh = true ∧
    fresh.helm.ctxs = [] ∧
    quotaSum fresh 4096 ≤ bits 5#32 8 0 ∧
    bits 0x100000#32 28 16 ≤ 256 ∧
    ((List.range 64).all (fun g => g == 1 || !rangesMeet (bits 0x100064#32 11 0) (bits 0x100064#32 28 16) (fnRange fresh g).1 (fnRange fresh g).2) = true) ∧
    (up.helm.ctxs ≠ []) ∧
    bits 0#32 8 0 < quotaSum up 4096 ∧
    ((List.range 64).all (fun g => g == 0 || !rangesMeet (bits 0x800000#32 11 0) (bits 0x800000#32 28 16) (fnRange up g).1 (fnRange up g).2) = true) ∧
    (∀ e, e ∈ up.helm.ctxs → ownsCtx up 0 e.1 = true → bits 0x800000#32 11 0 ≤ e.1 ∧ e.1 < bits 0x800000#32 11 0 + bits 0x800000#32 28 16) := by
  and_intros <;> decide +kernel

/-- Obligations.RangeCommands. -/
theorem test_witness_RangeCommands :
    pfOpen staged = true ∧
    (bit 0x80001011#32 31 = true ∧ cmdOp 0x80001011 = 1 ∧ cmdCtx 0x80001011 = 17) ∧
    hdgSetBad staged 17 (rget staged 0x78004 % 2 ^ 16) (rget staged 0x78008 % 2 ^ 17) = false ∧
    (bit 0x80002011#32 31 = true ∧ cmdOp 0x80002011 = 2 ∧ cmdCtx 0x80002011 = 17) ∧
    fnEnabled staged 0 = true ∧
    hdgSetBad (rput staged 0x78008 0x1FFFF) 17 (rget (rput staged 0x78008 0x1FFFF) 0x78004 % 2 ^ 16) (rget (rput staged 0x78008 0x1FFFF) 0x78008 % 2 ^ 17) = true := by
  and_intros <;> decide +kernel

/-- Obligations.ModelLoading. -/
theorem test_witness_ModelLoading :
    runnable (withCmd loadFs .ready) key 0x01 = some (cmd loadFs .ready) ∧
    ownReserve (withCmd loadFs .ready) (cmd loadFs .ready) = false ∧
    (¬ ((image0 route0).routes.length = 2 ∧ dOutLen (line 512 loadFs) < 8)) ∧
    mget (withCmd loadFs .ready).helm.models (dModel (line 512 loadFs) % 4096) = none ∧
    imageBroken (image0 route0) = false ∧
    imageNans (image0 route0) = [] ∧
    imageBroken { image0 route0 with desc := [] } = true ∧
    imageBroken nanImage = false ∧
    (imageNans nanImage ≠ []) ∧
    ((findCmd reserved0 key).map (fun c => (runnable reserved0 key 0x01 == some c, ownReserve reserved0 c, c.image)) = some (true, true, some (image0 route0))) ∧
    nextFit (awaitFit0 (image0 route0)) = some (awaiting (image0 route0)) ∧
    ready (awaitFit0 (image0 route0)) = true ∧
    mget (awaitFit0 (image0 route0)).helm.models (dModel (line 512 loadFs) % 4096) = none ∧
    fits (fitCheck (awaitFit0 (image0 route0)) (awaiting (image0 route0)) (image0 route0)).1 (fitCheck (awaitFit0 (image0 route0)) (awaiting (image0 route0)) (image0 route0)).2 = true ∧
    nextFit (awaitFit0 { image0 route0 with spill := 2 ^ 40 }) = some (awaiting { image0 route0 with spill := 2 ^ 40 }) ∧
    fits (fitCheck (awaitFit0 { image0 route0 with spill := 2 ^ 40 }) (awaiting { image0 route0 with spill := 2 ^ 40 }) { image0 route0 with spill := 2 ^ 40 }).1 (fitCheck (awaitFit0 { image0 route0 with spill := 2 ^ 40 }) (awaiting { image0 route0 with spill := 2 ^ 40 }) { image0 route0 with spill := 2 ^ 40 }).2 = false ∧
    ((findCmd fitted0 key).map (fun c => c.phase) = some .fitted) ∧
    ((findCmd fitted0 key).map (fun c => opOf c.desc) = some 1) ∧
    (((findCmd fitted0 key).bind (fun c => c.image)).isSome = true) ∧
    (mget fitted0.helm.models 28).isSome = true ∧
    ready fitted0 = true := by
  and_intros <;> decide +kernel

/-- Obligations.ModelUnloading. -/
theorem test_witness_ModelUnloading :
    runnable (unloading0 .ready) key 0x02 = some (cmd unloadFs .ready) ∧
    (modelOf (unloading0 .ready) (dModel (line 512 unloadFs) % 4096)).isSome = true ∧
    unloadStands (unloading0 .ready) (cmd unloadFs .ready) = false ∧
    runnable (withCmd unloadFs .ready) key 0x02 = some (cmd unloadFs .ready) ∧
    modelOf (withCmd unloadFs .ready) (dModel (line 512 unloadFs) % 4096) = none ∧
    findCmd (unloading0 .unloading) key = some (cmd unloadFs .unloading) ∧
    mget (unloading0 .unloading).helm.models 28 = some (model0 route0) ∧
    unloadWaits (unloading0 .unloading) (cmd unloadFs .unloading) 28 = false ∧
    ready (unloading0 .unloading) = true := by
  and_intros <;> decide +kernel

/-- Obligations.SolveLaunchable. -/
theorem test_witness_SolveLaunchable :
    runnable (solving 0x10) key 0x10 = some (cmd (opFs 0x10) .ready) ∧
    runnable (solving 0x12) key 0x12 = some (cmd (opFs 0x12) .ready) ∧
    runnable (solving 0x11) key 0x11 = some (cmd (opFs 0x11) .ready) := by
  and_intros <;> decide +kernel

/-- Obligations.BeaconWaits. -/
theorem test_witness_BeaconWaits :
    runnable (withCmd waitFs .ready) key 0x41 = some (cmd waitFs .ready) ∧
    ringHead (withCmd waitFs .ready) key = true ∧
    waitingCmd met key 0x41 = some (cmd waitFs .waiting) ∧
    waitMet met (line 512 waitFs) = true ∧
    ringHead met key = true ∧
    waitTimeout met (line 512 waitFs) = none ∧
    findCmd (withCmd timedFs .waiting) key = some (cmd timedFs .waiting) ∧
    opOf (line 512 timedFs) = 0x41 ∧
    (waitTimeout (withCmd timedFs .waiting) (line 512 timedFs)).isSome = true ∧
    (waitTimeout (withCmd timedFs .waiting) (line 512 timedFs)).getD 0 ≤ (withCmd timedFs .waiting).clk.mer ∧
    ready (withCmd timedFs .waiting) = true ∧
    servedHalted (withCmd timedFs .waiting) 17 = false := by
  and_intros <;> decide +kernel

/-- Obligations.FencesAndReports. -/
theorem test_witness_FencesAndReports :
    runnable (withCmd fenceFs .ready) key 0x42 = some (cmd fenceFs .ready) ∧
    waitingCmd (withCmd fenceFs .waiting) key 0x42 = some (cmd fenceFs .waiting) ∧
    fenceHolds (withCmd fenceFs .waiting) (cmd fenceFs .waiting) = true ∧
    runnable (withCmd (attestFs 0) .ready) key 0x60 = some (cmd (attestFs 0) .ready) ∧
    leField (line 512 (attestFs 0)) 34 1 = 0 ∧
    runnable attesting key 0x60 = some (cmd (attestFs 1) .ready) ∧
    leField (line 512 (attestFs 1)) 34 1 = 1 ∧
    modelOf attesting (dModel (line 512 (attestFs 1)) % 4096) = some (model0 route0) ∧
    (leField (line 512 (attestFs 1)) 35 1).testBit 0 = false ∧
    berthRoute (model0 route0) = some route0 ∧
    unloadStands attesting (cmd (attestFs 1) .ready) = false ∧
    runnable (withCmd (attestFs 1) .ready) key 0x60 = some (cmd (attestFs 1) .ready) ∧
    modelOf (withCmd (attestFs 1) .ready) (dModel (line 512 (attestFs 1)) % 4096) = none := by
  and_intros <;> decide +kernel

/-- Obligations.WatchCommands. -/
theorem test_witness_WatchCommands :
    runnable (withCmd watchFs .ready) key 0x50 = some (cmd watchFs .ready) ∧
    (withCmd watchFs .ready).pel.watches.length < 64 ∧
    ahead (ringOf (withCmd watchFs .ready) (newWatch key (line 512 watchFs)).target.ctx (newWatch key (line 512 watchFs)).target.ring).done (newWatch key (line 512 watchFs)).target.seq = false ∧
    findWatch (watched0 watch0) ⟨17, 2, 99⟩ = some watch0 ∧
    findRun (watched0 watch0) watch0.target = some run0 ∧
    (findCmd (watched0 watch0) watch0.target).isSome = true ∧
    launched (watched0 watch0) run0 = true ∧
    (run0.phase ≠ .done) ∧
    (watch0.fired = false ∧ Berth.mk 5 1 1 ∈ run0.berths ∧ watch0.step + 1 ≠ watch0.step) ∧
    findWatch (watched0 copying0) ⟨17, 2, 99⟩ = some copying0 ∧
    (copying0.copying = true ∧ copying0.plot = some (0, 512) ∧ 256 < copying0.copied) ∧
    copying0.firedAt + 10000000 * nsU ≤ (watched0 copying0).clk.mer := by
  and_intros <;> decide +kernel

/-- Obligations.RoundPlaces. -/
theorem test_witness_RoundPlaces :
    ready launchable0 = true ∧
    launchable0.fleet.stopped = false ∧
    (launchable0.cmds.all (fun e => dClass e.desc != 0) = true) ∧
    (launchable0.cmds.filter (fun e => decide (dClass e.desc ≠ 0) && launchable (snapshotStates launchable0) e) = [{ cmd solveFs .ready with launchableAt := some 0 }]) ∧
    cmdRoute (snapshotStates launchable0) (line 512 solveFs) = some (model0 route0, route0) ∧
    quotaRoom (snapshotStates launchable0) 17 (needFacets (line 512 solveFs) route0) = true ∧
    (placementFor (snapshotStates launchable0) (occupancy (snapshotStates launchable0)) route0 (dDual (line 512 solveFs)) []).isSome = true ∧
    findRun launchable0 key = none ∧
    0 < dInLen (line 512 solveFs) ∧
    (launchable0.cmds.all (fun e => !awaitsBerth (snapshotStates launchable0) e || !modelMissing (snapshotStates launchable0) e) = true) := by
  and_intros <;> decide +kernel

/-- Obligations.SchedulerCommands. -/
theorem test_witness_SchedulerCommands :
    findRun retrying key = some placed0 ∧
    findCmd retrying key = some { cmd solveFs .placed with inputIn := true, waitRetry := 100064 } ∧
    (placed0.phase = .placed ∧ placed0.launchAk = 0 ∧ placed0.armedOff = none) ∧
    canServe retrying 17 = true ∧
    retrying.fleet.stopped = false ∧
    (findStep retrying (runPattern placed0)).isSome = true ∧
    tooLate { cmd solveFs .placed with inputIn := true, waitRetry := 100064 } route0 (akTime retrying ((findStep retrying (runPattern placed0)).getD 0)) = false ∧
    ctxOf waitingCtx 18 = some (ctxB false) ∧
    ready waitingCtx = true ∧
    ((chooseSlot waitingCtx (ctxB false)).map (fun p => p.2) = some none) ∧
    ctxOf fullSlots 400 = some (ctxB true) ∧
    chooseSlot fullSlots (ctxB true) = some (chosen.1, chosen.2) ∧
    chosen.2.isSome = true ∧
    (chosen.2 ≠ some 400) ∧
    findCmd expired0 key = some { cmd solveFs .ready with deadline := some 1 } ∧
    waitingToRun { cmd solveFs .ready with deadline := some 1 } = true ∧
    1 < expired0.clk.mer ∧
    servedHalted expired0 17 = false := by
  and_intros <;> decide +kernel

/-- Obligations.TimedLaunches. -/
theorem test_witness_TimedLaunches :
    runnable (withCmd launchFs .ready) key 0x30 = some (cmd launchFs .ready) ∧
    waitingCmd (launching (5000 * secU + 5 * usU)) key 0x30 = some { cmd launchFs .waiting with deadline := some (5000 * secU + 5 * usU) } ∧
    5000 * secU + 5 * usU ≤ (launching (5000 * secU + 5 * usU)).clk.mer + 10 * usU ∧
    (launching (5000 * secU + 5 * usU)).clk.mer + 160 * nsU ≤ 5000 * secU + 5 * usU ∧
    (launching (5000 * secU + 5 * usU)).fleet.stopped = false ∧
    waitingCmd (launching (4999 * secU)) key 0x30 = some { cmd launchFs .waiting with deadline := some (4999 * secU) } ∧
    4999 * secU < (launching (4999 * secU)).clk.mer + 160 * nsU ∧
    (armedState.helm.armed.find? (fun x => x.key == key) = some armed0) ∧
    armed0.tl ≤ armedState.clk.mer ∧
    armedState.clk.mkAk + 2 ≤ armedState.clk.chipAk ∧
    armedState.bin.frozen = false := by
  and_intros <;> decide +kernel

/-- Obligations.PowerUpSteps. -/
theorem test_witness_PowerUpSteps :
    State.reset.boot.por = false ∧
    inStep (booting 2) 2 = true ∧
    inStep (booting 3) 3 = true ∧
    (booting 3).boot.mode < 2 ∧
    inStep reservedMode 3 = true ∧
    reservedMode.boot.mode = 2 ∧
    inStep (booting 4) 4 = true ∧
    (blockFail (regionBytes (booting 4).flash.cfg 16384)).isSome = true ∧
    inStep (booting 5) 5 = true ∧
    lbistFatal (selfTest (booting 5) [] [] [] [] [] []) = false ∧
    mbistFatal [] false = false ∧
    ((booting 5).boot.mode ≠ 1) ∧
    lbistFatal (selfTest (booting 5) [] [] [] [0, 1, 2, 3, 4, 5, 6, 7] [] []) = true ∧
    mbistFatal [] true = true ∧
    inStep noFirmware 5 = true ∧
    lbistFatal (selfTest noFirmware [] [] [] [] [] []) = false ∧
    noFirmware.boot.mode = 1 ∧
    inStep (booting 6) 6 = true ∧
    (imageFail (booting 6).flash.fw (booting 6).boot.minFw (booting 6).boot.keyMask).isSome = true ∧
    inStep (booting 7) 7 = true ∧
    (booting 7).boot.cfgWrites = [] ∧
    lateBoot.boot.por = true ∧
    lateBoot.boot.state = 0 ∧
    pastBound lateBoot (stepBound lateBoot.boot.stage) = true ∧
    pastBound lateBoot 180000 = true := by
  and_intros <;> decide +kernel

/-- Obligations.PowerResets. -/
theorem test_witness_PowerResets :
    detects 700 600 = true ∧
    detects 750 750 = false := by
  and_intros <;> decide +kernel

/-- Obligations.MailboxCommands. -/
theorem test_witness_MailboxCommands :
    mbxReach up 0 0 = true ∧
    up.mbx.busy = false ∧
    listens up = false ∧
    up.boot.lodestone = true ∧
    ready idleRings = true ∧
    (idleRings.helm.rings.all (fun r => !r.2.enable) = true) ∧
    idleRings.streams = [] ∧
    mbxReach noLodestone 0 0 = true ∧
    noLodestone.boot.lodestone = false ∧
    mbxReach (listen 0 16) 64 0 = true ∧
    listens (listen 0 16) = true ∧
    ready (listen 0 16) = false ∧
    mbxRegion (listen 0 16) = 0 ∧
    mbxWriteOk (listen' (listen 0 16)) = true ∧
    (verifyFail (listen 0 16) 0).isSome = true ∧
    mbxReach (listen' (listen 0 16)) 64 0 = true := by
  and_intros <;> decide +kernel

/-- Obligations.MailboxDone. -/
theorem test_witness_MailboxDone :
    (writing false).mbx.busy = true ∧
    (writing false).mbx.chunk = some (false, 0, [1#8, 2#8]) ∧
    mbxUsesFlash (writing false).mbx.running = true ∧
    ((writing false).mbx.doneResult ≠ 1) ∧
    ((writing false).mbx.doneResult ≠ 2) ∧
    (writing true).mbx.chunk = some (true, 0, [1#8, 2#8]) := by
  and_intros <;> decide +kernel

/-- Obligations.DeviceConditions. -/
theorem test_witness_DeviceConditions :
    faulty.boot.por = true ∧
    ready faulty = true ∧
    deviceCause 0x16 = true ∧
    faulty.bin.fallback = false ∧
    ((faulty.helm.cores[3]?).map (fun c => (c.ok, c.halted)) = some (true, false)) ∧
    0 + 250 * usU ≤ faulty.clk.shadow ∧
    faulty.bin.setMv + 15 < 766 ∧
    3 ≤ faulty.boot.passed ∧
    (railSet faulty 0).isSome = true ∧
    (railSet faulty 0).getD 0 < 20 * (2000 - (railSet faulty 0).getD 0) ∧
    3 ≤ mgetD faulty.bin.vBad 0 0 ∧
    faulty.bin.traceFell = true ∧
    (rget faulty 0xD0004).testBit 2 = true ∧
    (breaching.bin.breached.find? (fun y => y.1 == key) = none) ∧
    (breaching.streams.find? (fun e => e.2.key == key) = none) ∧
    ((findCmd breaching key).map (fun c => (watchedClass c.desc, c.watched)) = some (true, false)) ∧
    ((findCmd breaching key).bind (cmdBreach breaching)).isSome = true ∧
    (fellQuiet.boot.por = true ∧ ready fellQuiet = true ∧ fellQuiet.bin.fallback = true) ∧
    faulty.bin.avsAt + 50 * usU ≤ faulty.clk.shadow ∧
    (680 ≤ faulty.bin.setMv + 5 ∧ faulty.bin.setMv + 5 ≤ 820) ∧
    deviceCause 0x12 = true := by
  and_intros <;> decide +kernel

/-- Obligations.MonitorsWithinLimits. -/
theorem test_witness_MonitorsWithinLimits :
    (railSet up 0).isSome = true ∧
    20 * 0 ≤ (railSet up 0).getD 0 ∧
    ((up.helm.cores[7]?).map (fun c => c.ok) = some true) ∧
    765 ≤ up.bin.setMv + 15 ∧
    up.bin.setMv ≤ 765 + 15 ∧
    up.boot.state = 1 ∧
    up.bin.avsAt + 50 * usU ≤ up.clk.shadow ∧
    (680 ≤ up.bin.setMv + 5 ∧ up.bin.setMv + 5 ≤ 820) ∧
    up.boot.por = true ∧
    3 ≤ up.boot.passed ∧
    (100 : Nat) * 0 ≤ clockNominal 0 0 ∧
    (clockNominal 0 0 ≠ 0) ∧
    fellQuiet.boot.por = true ∧
    fellQuiet.bin.fallback = true ∧
    fellQuiet.bin.traceFell = true ∧
    (rget fellQuiet 0xD0004).testBit 2 = false := by
  and_intros <;> decide +kernel

/-- Obligations.WarmResets. -/
theorem test_witness_WarmResets :
    mayLeave safeHeld false = true ∧
    mayLeave safeHeld true = true ∧
    pathAll 0 = true ∧
    pathOpen safeHeld 0 = true ∧
    bit 0x80000000#32 31 = true ∧
    pathOpen (running run0) 0 = true ∧
    (running run0).boot.state = 1 ∧
    (running run0).bin.safe = false ∧
    warm0.boot.state = 3 ∧
    warm0.bin.safe = false ∧
    warm0.streams = [] ∧
    warm0.helm.ctxs = [] ∧
    warm0.log.queue = [] ∧
    resetDue.helm.ctxResetDue.contains 17 = true ∧
    ready resetDue = true := by
  and_intros <;> decide +kernel

/-- Obligations.PcieFunctions. -/
theorem test_witness_PcieFunctions :
    fnAnswers vectors 0 = true ∧
    0 ≤ vectors.boot.numVf ∧
    5 < msixSize vectors 0 ∧
    6 < msixSize vectors 0 ∧
    (mgetD vectors.msix (msixKey 0 5) ⟨true, false⟩).pend = true ∧
    (mgetD vectors.msix (msixKey 0 6) ⟨true, false⟩).pend = false ∧
    canMaster vectors 0 = true ∧
    vectors.boot.por = true ∧
    3 ≤ vectors.boot.passed := by
  and_intros <;> decide +kernel

/-- Obligations.RegisterAccess. -/
theorem test_witness_RegisterAccess :
    pfOpen up = true ∧
    ((0x21 : Word) &&& 0x3F ≠ 0) ∧
    (regInfo 0x30014).isSome = true ∧
    ((regInfo 0x50004).map (fun ri => ri.rc != 0) = some true) ∧
    reads up 0 0x50004 = true ∧
    pfOpen classes = true ∧
    inArray 0x50004 0x90208 16 4 = false ∧
    (0 : Nat) ≠ i3cPath := by
  and_intros <;> decide +kernel

/-- Obligations.LatchesAndCounters. -/
theorem test_witness_LatchesAndCounters :
    pfOpen sampled = true ∧
    bit 0x80000000#32 31 = true ∧
    fnEnabled sampled 0 = true ∧
    (selCounter sampled 0).isSome = true ∧
    (bsetSample sampled (regRaw sampled 0 0xC0000 % 256)).isSome = true ∧
    pathOwns sampled 0 17 = true ∧
    (sampled.pel.lostRun ≠ 0) ∧
    sampled.pel.queue.length < 1024 ∧
    (rget sampled 0xC0040).testBit 31 = true ∧
    (rget sampled 0xC0040).testBit 29 = false ∧
    (rget sampled 0xD0004).testBit 31 = false ∧
    safeStands sampled = false ∧
    (rget locked0 0xD0004).testBit 31 = true ∧
    ((0x21 : Word) &&& 0x3F ≠ 0) := by
  and_intros <;> decide +kernel

/-- Obligations.HelmDebug. -/
theorem test_witness_HelmDebug :
    (debugging false false).helm.cores[3]? = some (core false false) ∧
    coreRuns (core false false) = true ∧
    debugEn (debugging false false) = true ∧
    ready (debugging false false) = true ∧
    breaksAt (debugging false false) 3 0x1000 = true ∧
    bit 0x40000008#32 30 = true ∧
    bit 0x40000008#32 31 = false ∧
    bit 0x40000008#32 3 = true ∧
    pfOpen (debugging false false) = true ∧
    (debugging true false).helm.cores[3]? = some (core true false) ∧
    (core true false).resumeDue = false ∧
    (debugging false true).helm.cores[3]? = some (core false true) ∧
    bit 0x80000008#32 31 = true ∧
    bit 0x80000008#32 30 = false ∧
    bit 0x80000008#32 3 = true ∧
    (core false false).ok = true := by
  and_intros <;> decide +kernel

/-- Obligations.MeridianControl. -/
theorem test_witness_MeridianControl :
    pfOpen (timed .free (slotAt (4999 * secU)) (slotAt (4999 * secU)) (5000 * secU)) = true ∧
    bit 0x80000000#32 31 = true ∧
    bit 0x40000004#32 30 = true ∧
    bit 0x40000004#32 2 = true ∧
    (timed .free (slotAt (4999 * secU)) (slotAt (4999 * secU)) (5000 * secU)).ms.servo = .free ∧
    rget (timed .free (slotAt (4999 * secU)) (slotAt (4999 * secU)) (5000 * secU)) 0x90010 < 1000000000 ∧
    bit 0x20000002#32 29 = true ∧
    bit 0x20000002#32 1 = true ∧
    srcEn (timed .free (slotAt (4999 * secU)) (slotAt (4999 * secU)) (5000 * secU)) (primary (timed .free (slotAt (4999 * secU)) (slotAt (4999 * secU)) (5000 * secU))) = true ∧
    consistent (timed .free (slotAt (4999 * secU)) (slotAt (4999 * secU)) (5000 * secU)) = true ∧
    fnEnabled (timed .free (slotAt (4999 * secU)) (slotAt (4999 * secU)) (5000 * secU)) 0 = true ∧
    pfOpen badNs = true ∧
    bit 0x40000000#32 30 = true ∧
    1000000000 ≤ rget badNs 0x90010 ∧
    consistent badNs = false := by
  and_intros <;> decide +kernel

/-- Obligations.MeridianServo. -/
theorem test_witness_MeridianServo :
    servoEn (timed .free Slot.zero Slot.zero (5000 * secU)) = true ∧
    srcEn (timed .free Slot.zero Slot.zero (5000 * secU)) 0 = true ∧
    (timed .free Slot.zero Slot.zero (5000 * secU)).clk.locked = true ∧
    (timed .free Slot.zero Slot.zero (5000 * secU)).ms.switchDue = false ∧
    0 = primary (timed .free Slot.zero Slot.zero (5000 * secU)) ∧
    (timed .free Slot.zero Slot.zero (5000 * secU)).ms.slots[0]? = some Slot.zero ∧
    (timed .locked (slotAt (4990 * secU)) Slot.zero (5000 * secU)).ms.slots[primary (timed .locked (slotAt (4990 * secU)) Slot.zero (5000 * secU))]? = some (slotAt (4990 * secU)) ∧
    4990 * secU + 3 * syncInterval (timed .locked (slotAt (4990 * secU)) Slot.zero (5000 * secU)) (primary (timed .locked (slotAt (4990 * secU)) Slot.zero (5000 * secU))) ≤ (timed .locked (slotAt (4990 * secU)) Slot.zero (5000 * secU)).clk.mer ∧
    (timed .locked (slotAt (4990 * secU)) Slot.zero (5000 * secU)).ms.servo = .locked ∧
    (timed .holdover Slot.zero Slot.zero (5000 * secU)).ms.servo = .holdover ∧
    (timed .holdover Slot.zero Slot.zero (5000 * secU)).ms.holdSince + rget (timed .holdover Slot.zero Slot.zero (5000 * secU)) 0x90038 * secU ≤ (timed .holdover Slot.zero Slot.zero (5000 * secU)).clk.mer ∧
    (timed .holdover Slot.zero Slot.zero (5000 * secU)).ms.traceable = true := by
  and_intros <;> decide +kernel

/-- Obligations.PtpPulsesCaptures. -/
theorem test_witness_PtpPulsesCaptures :
    pfOpen (ports false 1) = true ∧
    (ptpCfg (ports false 1) 1).testBit 31 = true ∧
    (ports false 1).bin.linksDown = false ∧
    (ports false 1).boot.portEn.testBit 1 = true ∧
    (ptpCfg (ports false 1) 1).testBit 30 = false ∧
    (ports false 1).ms.egress[1]? = some [] ∧
    bit 0x80000000#32 31 = true ∧
    bit 0x80000014#32 31 = true ∧
    bit 0x80000014#32 30 = false ∧
    (ports false 1).ms.outs[3]? = some PulseOut.zero ∧
    ((ports false 1).clk.mer + merInc (ports false 1) + 20 * nsU ≤ completeTime (ports false 1) (rget (ports false 1) (outReg 3 1)) (rget (ports false 1) (outReg 3 2))) ∧
    (ports false 1).ms.outs[4]? = some ⟨true, 4999 * secU, 0, 0, false⟩ ∧
    4999 * secU ≤ stamp (ports false 1) ∧
    (ports false 1).ms.outs[5]? = some ⟨false, 4999 * secU, 0, 1, true⟩ ∧
    4999 * secU + outWidth (ports false 1) 5 ≤ stamp (ports false 1) ∧
    (((ports false 1).ms.ins[2]?).map (fun c => c.fifo.length) = some 1) ∧
    (inCfg (ports false 1) 2).testBit 31 = true ∧
    (inCfg (ports false 1) 2).testBit 29 = true ∧
    (ports false 1).clk.locked = true ∧
    (ptpCfg (ports true 4) 1).testBit 30 = true ∧
    (((ports true 4).ms.ins[2]?).map (fun c => c.fifo.length) = some 4) := by
  and_intros <;> decide +kernel

/-- Obligations.I3cTransfers. -/
theorem test_witness_I3cTransfers :
    ibiRaised.boot.por = true ∧
    pfOpen ibiRaised = true ∧
    ibiRaised.i3c.page = 0 ∧
    ibiRaised.i3c.ibiEn = true ∧
    ibiRaised.i3c.ibis = [(2, 5)] := by
  and_intros <;> decide +kernel

/-- Obligations.I3cCommands. -/
theorem test_witness_I3cCommands :
    up.boot.por = true ∧
    up.i3c.da = none ∧
    ibiRaised.i3c.da = some 9 ∧
    ibiRaised.boot.por = true ∧
    (pfOpen ibiRaised = true ∧ ibiRaised.i3c.page = 0) ∧
    (∀ e, e ∈ ibiRaised.i3c.ibis → e.1 ∈ [2]) := by
  and_intros <;> decide +kernel

/-- Obligations.WindowCommands. -/
theorem test_witness_WindowCommands :
    pfOpen (winds false false) = true ∧
    (winOf (winds false false) 7).isOpen = false ∧
    windowOverlaps (winds false false) 7 (winOf (winds false false) 7) = false ∧
    windowBad (winds false false) (winOf (winds false false) 7) = false ∧
    windowBad (winds false false) (winOf (winds false false) 8) = true ∧
    (winOf (winds false false) 8).isOpen = false ∧
    (winOf (winds false true) 7).isOpen = false ∧
    windowOverlaps (winds false true) 7 (winOf (winds false true) 7) = true ∧
    (winOf (winds true false) 7).isOpen = true ∧
    winExpired (winds true false) (winOf (winds true false) 7) = true := by
  and_intros <;> decide +kernel

/-- Obligations.BankPower. -/
theorem test_witness_BankPower :
    pfOpen (bankAt none) = true ∧
    bankNotOn (bankAt none) 5 = false ∧
    powerRefused (bankAt none) 5 = false ∧
    bankLive (bankAt none) 5 = false ∧
    pfOpen bankUsed = true ∧
    bankNotOn bankUsed 5 = false ∧
    powerRefused bankUsed 5 = false ∧
    bankLive bankUsed 5 = true ∧
    powerRefused bankUsed 512 = true ∧
    bankNotOn bankUsed 512 = false ∧
    mget (bankAt (some .pending)).chart.banks 5 = some .pending ∧
    bankLive (bankAt (some .pending)) 5 = false ∧
    mget (bankAt (some (.draining 99000))).chart.banks 5 = some (.draining 99000) ∧
    (bankAt (some (.draining 99000))).chart.admitted = [] ∧
    bankRetired (bankAt (some (.draining 99000))) 5 = false ∧
    inBank 5 320 = true ∧
    inBank 5 384 = false ∧
    pfOpen (bankAt (some .off)) = true ∧
    mget (bankAt (some .off)).chart.banks 5 = some .off ∧
    mget (bankAt (some (.filling 91744))).chart.banks 5 = some (.filling 91744) ∧
    91744 + fillAk 5 ≤ (bankAt (some (.filling 91744))).clk.chipAk := by
  and_intros <;> decide +kernel

/-- Obligations.ChartUpkeep. -/
theorem test_witness_ChartUpkeep :
    pfOpen upkeep = true ∧
    (0x40 : Word).toNat % 2 ^ 14 ≤ 8192 ∧
    (8192 - (0x40 : Word).toNat % 2 ^ 14) * 2048 ≤ lowestItem upkeep 3 ∧
    plotAbove upkeep 3 ((8192 - (0x40 : Word).toNat % 2 ^ 14) * 2048) = false ∧
    8192 < (0x2001 : Word).toNat % 2 ^ 14 ∧
    memWf 0#8 upkeep.chart.mem = true ∧
    upkeep.chart.scrubQ = [0x2000000] ∧
    upkeep.chart.patrolMer + 64000000 * nsU ≤ upkeep.clk.mer ∧
    (upkeep.runs = [] ∧ upkeep.batches = [] ∧ upkeep.streams = []) ∧
    upkeep.clk.gated[3]? = some none ∧
    upkeep.chart.admitted = [] ∧
    upkeep.clk.gated[2]? = some (some (4000 * secU)) ∧
    upkeep.clk.sectorAk[2]? = some 50017 ∧
    lanesFree upkeep [bankOf 0x2000000] (fun l => decide (l = laneOfByte 0x2000000)) = true ∧
    (laneHeld.chart.scrubQ = [0x2000000] ∧ memWf 0#8 laneHeld.chart.mem = true) ∧
    lanesFree laneHeld [bankOf 0x2000000] (fun l => decide (l = laneOfByte 0x2000000)) = false ∧
    (sectorBusy draining0 3 = false ∧ draining0.clk.gated[3]? = some none ∧ undrained draining0 3 = true) := by
  and_intros <;> decide +kernel

/-- Obligations.FleetMembers. -/
theorem test_witness_FleetMembers :
    fleetOn (inFleet linkUp) = true ∧
    (inFleet linkUp).fleet.helloAt ≤ stamp (inFleet linkUp) ∧
    members (inFleet linkUp) = [5] ∧
    altEn (inFleet linkUp) 5 = false ∧
    ethOn (inFleet linkUp) (peerPort (inFleet linkUp) 5 false) = true ∧
    (peerOf (inFleet linkUp) 5).up = true ∧
    fltEn (inFleet linkUp) = true ∧
    isMember (inFleet linkUp) 5 = true ∧
    (peerOf (inFleet linkUp) 5).heard + 3 * helloTime (inFleet linkUp) ≤ stamp (inFleet linkUp) ∧
    signalsTo (inFleet linkUp) 5 = [] ∧
    ((peerOf (inFleet linkUp) 5).sent.find? (fun f => f.started && decide (f.frame.lseq = 3)) = some ⟨beaconFrame, 4999 * secU, 0, true, none⟩) ∧
    4999 * secU + retryTime (inFleet linkUp) ≤ stamp (inFleet linkUp) ∧
    ethOn (inFleet linkUp) (peerPort (inFleet linkUp) 5 (altEn (inFleet linkUp) 5 && !beaconFrame.alt)) = true := by
  and_intros <;> decide +kernel

/-- Obligations.FleetSends. -/
theorem test_witness_FleetSends :
    (findRun (inFleet quietPeer) key).isSome = true ∧
    working run0 = true ∧
    launched (inFleet quietPeer) run0 = true ∧
    frozen (inFleet quietPeer) = false ∧
    (inFleet quietPeer).fleet.stopped = false ∧
    suppressed (inFleet quietPeer) run0 = false ∧
    isMember (inFleet quietPeer) 5 = true ∧
    fltEn (inFleet quietPeer) = true ∧
    (peerOf (inFleet quietPeer) 5).up = true ∧
    ((runnable (signalling 1) key 0x40).map (fun c => (leField c.desc 35 1).testBit 7) = some true) ∧
    ringHead (signalling 1) key = true ∧
    isMember (signalling 1) 5 = true ∧
    (peerOf (signalling 1) 5).up = true ∧
    fltEn (signalling 1) = true ∧
    ((runnable (signalling 2) key 0x40).map (fun c => (leField c.desc 35 1).testBit 7) = some false) ∧
    ((runnable (signalling 0) key 0x40).map (fun c => (leField c.desc 35 1).testBit 7) = some true) ∧
    ringHead (signalling 0) key = true ∧
    (peerOf (signalling 0) 5).up = false := by
  and_intros <;> decide +kernel

/-- Obligations.FramesReceived. -/
theorem test_witness_FramesReceived :
    fleetOn receiving = true ∧
    ethOn receiving 1 = true ∧
    dropped receiving rowFrame .badFcs = true ∧
    dropped receiving rowFrame .good = false ∧
    dropped receiving helloFrame .good = false ∧
    dropped receiving stopFrame .good = false ∧
    rowFrame.dst = chipId receiving ∧
    (stopFrame.dst ≠ chipId receiving) ∧
    (peerOf receiving 5).sent = [] ∧
    (peerOf receiving 5).held = [] ∧
    rowFrame.lseq = (peerOf receiving 5).applied + 1 ∧
    admits receiving ((winOf receiving 7).base + rowFrame.addr) (0x3000 + rowFrame.src) false = true ∧
    ahead 8 (peerOf receiving 5).applied = false ∧
    receiving.fleet.stopped = false ∧
    receiving.fleet.stop = none ∧
    (stamp receiving ≤ completeTime receiving stopFrame.aux stopFrame.value.toNat) := by
  and_intros <;> decide +kernel

/-- Obligations.GlobalStops. -/
theorem test_witness_GlobalStops :
    bit 0xA0000064#32 31 = true ∧
    bit 0xA0000064#32 30 = false ∧
    pfOpen (inFleet quietPeer) = true ∧
    fltEn (inFleet quietPeer) = true ∧
    (inFleet quietPeer).fleet.stopped = false ∧
    (inFleet quietPeer).fleet.stop = none ∧
    armedStop.fleet.stop = some (4999 * secU, false) ∧
    4999 * secU ≤ stamp armedStop ∧
    armedStop.fleet.stopped = false ∧
    frozen armedStop = false ∧
    stoppedChip.pel.scanning = true ∧
    bit 0x40000000#32 30 = true ∧
    bit 0x40000000#32 31 = false ∧
    pfOpen stoppedChip = true ∧
    fltEn stoppedChip = true ∧
    stoppedChip.fleet.stopped = true ∧
    findRun (running waitRun) key = some waitRun ∧
    (waitRun.waits ≠ []) ∧
    working waitRun = true ∧
    frozen (running waitRun) = false ∧
    (inFleet quietPeer).fleet.reached = none ∧
    (armedStop.fleet.reached = some 99990 ∧ armedStop.clk.chipAk ≤ 99990 + 24) := by
  and_intros <;> decide +kernel

/-- Obligations.WritesAndInputs. -/
theorem test_witness_WritesAndInputs :
    receiving.boot.state = 1 ∧
    admits receiving 0x2000000 0x3005 false = true ∧
    admits receiving 0x2000000 0x3006 false = false ∧
    ((0x3006 : Nat) / 4096 ≠ 2) ∧
    ((0x3006 : Nat) / 4096 ≠ 4) ∧
    (admits dmaState 0x100 0x1000 false = false ∧ dmaRun dmaState 0 0 = some (placedRun 0 (some 0)) ∧ dmaRun receiving 0x2000000 1 = none) ∧
    ((findCmd dmaState key).isSome = true ∧ (placedRun 0 (some 0)).commitAt ≠ some dmaState.clk.chipAk ∧ dmaState.boot.state = 1) ∧
    ((findCmd (reading (placedRun 0 (some 0))) key).map (fun c => readingInput (reading (placedRun 0 (some 0))) c) = some true) ∧
    ready (reading (placedRun 0 (some 0))) = true ∧
    ((findRun (reading (placedRun 0 (some 0))) key).map (fun r => r.armedOff.isSome) = some true) ∧
    ((findCmd (reading (placedRun 0 none)) key).map (fun c => readingInput (reading (placedRun 0 none)) c) = some true) ∧
    ready (reading (placedRun 0 none)) = true ∧
    findRun (reading (placedRun 0 none)) key = some (placedRun 0 none) ∧
    findStep (reading (placedRun 0 none)) (runPattern (placedRun 0 none)) = some 100064 ∧
    ((findCmd (reading (placedRun 0 none)) key).map (fun c => tooLate c route0 (akTime (reading (placedRun 0 none)) 100064)) = some false) ∧
    ((findCmd batchInput key).map (fun c => (readingInput batchInput c, c.faultKills)) = some (true, 0)) ∧
    ready batchInput = true ∧
    findRun batchInput key = none ∧
    (inPlot batchInput 0x100 = true ∧ batchInput.chart.rowHist.contains 0x100 = false) ∧
    ready fetchingRing = true ∧
    fetching (ringOf fetchingRing 17 2) = true ∧
    ((placedRun 0 (some 0)).berths = [⟨5, 1, 1⟩] ∧ (placedRun 0 (some 0)).plots = [⟨0, 0, 40⟩] ∧ (Berth.mk 5 1 1).sectors.contains 0 = true ∧
      8 + dInLen (cmd solveFs .placed).desc * 64 ≤ 40 * 2048) := by
  and_intros <;> decide +kernel

/-- Obligations.FaultyUnits. -/
theorem test_witness_FaultyUnits :
    findRun (running run0) key = some run0 ∧
    launched (running run0) run0 = true ∧
    frozen (running run0) = false ∧
    run0.stream = none ∧
    (run0.phase ≠ .done) ∧
    (run0.commitAt ≠ some (running run0).clk.chipAk) ∧
    ((findCmd (running run0) key).map (fun c => (c.phase, c.faultKills)) = some (.running, 0)) ∧
    (runFacets run0).contains 5 = true ∧
    ((findCmd killedOnce key).map (fun c => (c.phase, c.faultKills)) = some (.running, 1)) ∧
    lbist.rose.lbist.contains 5 = true ∧
    lbist.rose.lbist.contains 257 = true ∧
    lbist.rose.lbist.contains 6 = false ∧
    ((lbist.rose.sectors[5 / 16]?).map (fun x => x.subPos) = some none) ∧
    lbist.rose.sectors[257 - 256]? = some Sector.good ∧
    lbist.rose.sectors[3]? = some { Sector.good with pendingSub := some 2 } ∧
    (heldFacets lbist).contains 50 = false ∧
    lbist.rose.sectors[0]? = some { Sector.good with pendingSub := some 5 } ∧
    (heldFacets lbist).contains 5 = true := by
  and_intros <;> decide +kernel

/-- Obligations.RunLaunches. -/
theorem test_witness_RunLaunches :
    findRun (reading (placedRun 100000 none)) key = some (placedRun 100000 none) ∧
    frozen (reading (placedRun 100000 none)) = false ∧
    (reading (placedRun 100000 none)).helm.armed = [] ∧
    (placedRun 100000 none).launchAk = (reading (placedRun 100000 none)).clk.chipAk ∧
    (run0.launchAk ≠ (running run0).clk.chipAk) ∧
    (running run0).clk.chipAk % 32 = 0 ∧
    launched (running run0) run0 = true ∧
    run0.stream = none ∧
    run0.slot = none := by
  and_intros <;> decide +kernel

/-- Obligations.SetupAndIterations. -/
theorem test_witness_SetupAndIterations :
    findRun (runningQ setupRun) key = some setupRun ∧
    runModel (runningQ setupRun) setupRun = some (model0 route0) ∧
    frozen (runningQ setupRun) = false ∧
    suppressed (runningQ setupRun) setupRun = false ∧
    setupRun.phase = .setup ∧
    instanceNan (runningQ setupRun) setupRun = none ∧
    runImpossible (runningQ setupRun) setupRun (model0 route0) = false ∧
    dueNow (runningQ setupRun) setupRun.phaseEnd = true ∧
    setupRun.waits = [] ∧
    (model0 route0).chart.kalman = false ∧
    (runNum (runningQ setupRun) setupRun).nanTrap = false ∧
    ((runSetup (runningQ setupRun) setupRun (model0 route0)).1.2.ev.add (runSetup (runningQ setupRun) setupRun (model0 route0)).2.ev).strictOvf = 0 ∧
    (runSetup (runningQ setupRun) setupRun (model0 route0)).1.2.aborts = 0 := by
  and_intros <;> decide +kernel

theorem test_witness_SetupAndIterations_stops :
    runModel badSetup badSetupRun = some (modelQ 0 badBounds) ∧
    (instanceNan badSetup badSetupRun = none ∧ runImpossible badSetup badSetupRun (modelQ 0 badBounds) = true) ∧
    dueNow badSetup (badSetupRun.launchAk + leadIn badSetup badSetupRun + badSetupRun.route.boundAk) = true ∧
    (instanceNan (runningNan nanRun) nanRun).isSome = true ∧
    dueNow (runningNan nanRun) (nanRun.launchAk + nanEndAk (runningNan nanRun) nanRun) = true := by
  and_intros <;> decide +kernel

theorem test_witness_SetupAndIterations_kalman :
    findRun (runningK setupRun) key = some setupRun ∧
    runModel (runningK setupRun) setupRun = some modelK ∧
    modelK.chart.kalman = true ∧
    (instanceNan (runningK setupRun) setupRun = none ∧ runImpossible (runningK setupRun) setupRun modelK = false) ∧
    findRun (runningK run0) key = some run0 ∧
    (run0.phase = .iterating ∧ run0.waits = [] ∧ dueNow (runningK run0) run0.phaseEnd = true) ∧
    (runNum (runningK run0) run0).nanTrap = false ∧
    (runUpdate (runningK run0) run0 modelK).2.ev.strictOvf = 0 ∧
    (runUpdate (runningK run0) run0 modelK).2.aborts = 0 := by
  and_intros <;> decide +kernel

theorem test_witness_SetupAndIterations_converges :
    findRun admmAt key = some atOptimum ∧
    runModel admmAt atOptimum = some (modelQ 1 parts0) ∧
    (atOptimum.prob = some prob0 ∧ atOptimum.last = some cand0) ∧
    (runIter admmAt atOptimum (modelQ 1 parts0) prob0 cand0).2.ev.strictOvf = 0 ∧
    (runIter admmAt atOptimum (modelQ 1 parts0) prob0 cand0).2.aborts = 0 ∧
    converged (runIter admmAt atOptimum (modelQ 1 parts0) prob0 cand0).1.cand.res (runDesc admmAt atOptimum) = true ∧
    consensusEnds (runDesc admmAt atOptimum) atOptimum.route iter0 = true := by
  and_intros <;> decide +kernel

theorem test_witness_SetupAndIterations_unbounded :
    runModel flatAt { atOptimum with prob := some flatProb } = some (modelQ 2 parts0) ∧
    (runIter flatAt { atOptimum with prob := some flatProb } (modelQ 2 parts0) flatProb cand0).2.ev.strictOvf = 0 ∧
    (runIter flatAt { atOptimum with prob := some flatProb } (modelQ 2 parts0) flatProb cand0).2.aborts = 0 ∧
    converged (runIter flatAt { atOptimum with prob := some flatProb } (modelQ 2 parts0) flatProb cand0).1.cand.res (runDesc flatAt atOptimum) = false ∧
    (runIter flatAt { atOptimum with prob := some flatProb } (modelQ 2 parts0) flatProb cand0).1.inf.status = some 0x11 := by
  and_intros <;> decide +kernel

theorem test_witness_SetupAndIterations_goes_on :
    runModel (runningQ startRun) startRun = some (model0 route0) ∧
    (runIter (runningQ startRun) startRun (model0 route0) prob0 start0).2.ev.strictOvf = 0 ∧
    (runIter (runningQ startRun) startRun (model0 route0) prob0 start0).2.aborts = 0 ∧
    converged (runIter (runningQ startRun) startRun (model0 route0) prob0 start0).1.cand.res (runDesc (runningQ startRun) startRun) = false ∧
    (runIter (runningQ startRun) startRun (model0 route0) prob0 start0).1.inf.status = none ∧
    ((model0 route0).chart.method ≠ 3) ∧
    (startRun.iter + 1 < startRun.limit ∧ startRun.trig = none) := by
  and_intros <;> decide +kernel

/-- Obligations.Deadlines. -/
theorem test_witness_Deadlines :
    findRun (budgeted run0) key = some run0 ∧
    working run0 = true ∧
    frozen (budgeted run0) = false ∧
    run0.trig = none ∧
    budgetDue (budgeted run0) run0 = true ∧
    run0.iter = 0 ∧
    findRun (budgeted endingRun) key = some endingRun ∧
    working endingRun = true ∧
    endingRun.trig = none ∧
    budgetDue (budgeted endingRun) endingRun = true ∧
    endingRun.phase = .iterating ∧
    0 < endingRun.iter ∧
    endingRun.phaseStart = (budgeted endingRun).clk.chipAk ∧
    endingRun.best.isSome = true ∧
    findRun (budgeted (triggered (some cand0))) key = some (triggered (some cand0)) ∧
    (triggered (some cand0)).trig = some ⟨99999, false, false⟩ ∧
    working (triggered (some cand0)) = true ∧
    99999 < (budgeted (triggered (some cand0))).clk.chipAk ∧
    (budgeted (triggered (some cand0))).clk.chipAk ≤ 99999 + 96 ∧
    (triggered (some cand0)).slot = none ∧
    (triggered (some cand0)).last.isSome = true ∧
    (triggered (some cand0)).best.isSome = true ∧
    (triggered none).last = none ∧
    findRun (budgeted (triggered none)) key = some (triggered none) := by
  and_intros <;> decide +kernel

/-- Obligations.Commits. -/
theorem test_witness_Commits :
    findRun (running doneRun) key = some doneRun ∧
    runModel (running doneRun) doneRun = some (model0 route0) ∧
    doneRun.status = some 0 ∧
    doneRun.phase = .commit ∧
    doneRun.commitAt = some (running doneRun).clk.chipAk ∧
    frozen (running doneRun) = false ∧
    doneRun.stream = none ∧
    (findCmd (running doneRun) key).isSome = true ∧
    (queued (committing (safeFs false) true) key).isSome = true ∧
    recheckNow (committing (safeFs false) true) = some key ∧
    (committing (safeFs false) true).bin.safe = false ∧
    ((queued (committing (safeFs false) true) key).map (fun x => (freshQueued (committing (safeFs false) true) x fixBytes, dDual x.desc, decide (stamp (committing (safeFs false) true) < recheckDue (committing (safeFs false) true) key x.req))) = some (true, false, true)) ∧
    (recheckNow rechecking = some key ∧ rechecking.bin.safe = false) ∧
    ((queued rechecking key).map (fun x => (freshQueued rechecking x wholeFix, dDual x.desc, decide (recheckDue rechecking key x.req ≤ stamp rechecking), x.stream)) = some (true, false, true, none)) ∧
    ((queued rechecking key).bind (fun x => (recheckResid rechecking key x.req wholeFix).map (residTest x.desc x.req.status (reportedBy x wholeFix))) = some true) ∧
    ((queued rechecking key).map (fun x => (freshQueued rechecking x otherFix)) = some true) ∧
    ((queued rechecking key).bind (fun x => (recheckResid rechecking key x.req otherFix).map (residTest x.desc x.req.status (reportedBy x otherFix))) = some false) ∧
    ((findCmd rechecking key).bind (·.req)).isSome = true ∧
    ((findCmd rechecking key).map (·.faultKills) = some 0 ∧ inPlot rechecking 0x100 = true ∧ rechecking.chart.rowHist.contains 0x100 = false) ∧
    ((queued (committing (safeFs false) true) key).map (fun x => freshQueued (committing (safeFs false) true) x []) = some false) ∧
    recheckNow (committing (safeFs true) true) = some key ∧
    ((queued (committing (safeFs true) true) key).map (fun x => (freshQueued (committing (safeFs true) true) x fixBytes, dDual x.desc)) = some (true, true)) ∧
    (firstDiff fixBytes (1#8 :: fixBytes.drop 1)).isSome = true ∧
    ((queued (committing solveFs true) key).map (fun x => (x.stream, mayCommit (committing solveFs true) key x, x.req.fixWritten, x.req.recheckDone, freshQueued (committing solveFs true) x fixBytes)) = some (none, true, true, false, true)) ∧
    (findCmd (committing solveFs true) key).isSome = true ∧
    journalled (committing solveFs true) key = false ∧
    ((queued unitAsks ⟨17, 2, 90⟩).map (fun x => (x.stream, mayCommit unitAsks ⟨17, 2, 90⟩ x, x.req.fixWritten)) = some (some 18, true, false)) ∧
    ((mget unitAsks.streams 18).bind (·.unit)).isSome = true ∧
    streamJournalled unitAsks 18 = false := by
  and_intros <;> decide +kernel

/-- Obligations.BatchTicks. -/
theorem test_witness_BatchTicks :
    ((modelOf (batching 99999 [slotRun .iterating] [] [batch0 (some key2) 99999]) 28).bind batchRoute).isSome = true ∧
    frozen (batching 99999 [slotRun .iterating] [] [batch0 (some key2) 99999]) = false ∧
    ready (batching 99999 [slotRun .iterating] [] [batch0 (some key2) 99999]) = true ∧
    batchOf (batching 99999 [slotRun .iterating] [] [batch0 (some key2) 99999]) 17 28 true = some (0, batch0 (some key2) 99999) ∧
    (((batching 99999 [slotRun .iterating] [] [batch0 (some key2) 99999]).clk.chipAk - 99999) % route0.iterAk ≠ 0) ∧
    batchOf (batching 0 [] [] []) 17 28 true = none ∧
    joinQueue (batching 0 [] [] []) 17 28 true = [] ∧
    batchOf (batching 97088 [slotRun .stopping] [] [batch0 (some key2) 97088]) 17 28 true = some (0, batch0 (some key2) 97088) ∧
    (route0.iterAk ≠ 0) ∧
    ((batching 97088 [slotRun .stopping] [] [batch0 (some key2) 97088]).clk.chipAk - 97088) % route0.iterAk = 0 ∧
    (batching 97088 [slotRun .stopping] [] [batch0 (some key2) 97088]).cmds = [] ∧
    batchKeys (batch0 (some key2) 97088) = [key2] ∧
    findRun (batching 97088 [slotRun .stopping] [] [batch0 (some key2) 97088]) key2 = some (slotRun .stopping) ∧
    (batching 97088 [] [] [batch0 none 97088]).batches = [batch0 none 97088] ∧
    batchKeys (batch0 none 97088) = [] ∧
    joinQueue (batching 97088 [slotRun .iterating] [batchCmd .ready] [batch0 (some key2) 97088]) 17 28 true = [batchCmd .ready] ∧
    (batching 97088 [slotRun .iterating] [batchCmd .ready] [batch0 (some key2) 97088]).fleet.stopped = false ∧
    findCmd (batching 97088 [slotRun .iterating] [batchCmd .ready] [batch0 (some key2) 97088]) key = some (batchCmd .ready) ∧
    findRun (batching 97088 [slotRun .iterating] [batchCmd .ready] [batch0 (some key2) 97088]) key = none ∧
    freeSlots (batch0 (some key2) 97088) = [(5, 1, unit0 (some key2))] ∧
    ((findRun (batching 97088 [slotRun .iterating] [batchCmd .ready] [batch0 (some key2) 97088]) key2).map (fun r => (r.phase, r.trig, r.commitAt)) = some (.iterating, none, none)) ∧
    tooLate (batchCmd .ready) { route0 with batch := true } (stamp (batching 97088 [slotRun .iterating] [batchCmd .ready] [batch0 (some key2) 97088])) = false ∧
    covered263 (batching 97088 [slotRun .iterating] [batchCmd .ready] [batch0 (some key2) 97088]) (batchCmd .ready) { route0 with batch := true } true = true := by
  and_intros <;> decide +kernel

/-- Obligations.CellOperations. -/
theorem test_witness_CellOperations :
    cellRun (cells (some two48)) (cellAt 7) = some run0 ∧
    cellRun (cells (some two48)) (cellAt 0) = some run0 ∧
    (findRun (cells (some two48)) run0.key = some run0 ∧ (cellAt 7).of run0 = cellAt 7 ∧ (cellAt 0).of run0 = cellAt 0) ∧
    roseFmt one32.fmt = true ∧
    reaching (cells (some two48)) (cells (some two48)).rose.east ((berthOn run0 5).bind (westOf · (cellAt 7))) 0 one32 = (one32, {}) ∧
    reaching (cells (some two48)) (cells (some two48)).rose.south ((berthOn run0 5).bind (northOf · (cellAt 7))) 0 one32 = (one32, {}) ∧
    (cellProduct run0.route.vernier 0 (opndVal one32) (opndVal one32)).isSome = true ∧
    ((cellProduct run0.route.vernier 0 (opndVal one32) (opndVal one32)).map (fun p => (toAcc (runNum (cells (some two48)) run0).strict p).2) = some {}) ∧
    (addR .w48 (runNum (cells (some two48)) run0).strict (w48 two48) (.fin false 1 0)).2 = {} ∧
    accOf (cells (some two48)) (cellAt 7) = some two48 ∧
    ((reaching (cells none) (cells none).rose.east ((berthOn run0 5).bind (westOf · (cellAt 7))) 1 inf32op).1 = inf32op ∧ roseFmt inf32op.fmt = true) ∧
    cellProduct run0.route.vernier 1 (opndVal inf32op) (opndVal one32) = none ∧
    (cellRun (cells none) (cellAt 7) = some run0 ∧ accOf (cells none) (cellAt 7) = none) := by
  and_intros <;> decide +kernel

theorem test_witness_CellOperations_drains :
    mapWf (cells (some two48)).rose.acc = true ∧
    accOf (cells (some two48)) (cellAt 0) = some two48 ∧
    (enterPivot (runNum (cells (some two48)) run0).strict (w48 two48)).2 = {} ∧
    (fmtOfCode 8 = some .b32 ∧ blockOf 8 = 0) ∧
    (convert (w48 two48) .b32 (runNum (cells (some two48)) run0).rm (runNum (cells (some two48)) run0).strict).2 = {} ∧
    routeMayWrite (cells (some two48)) run0 (run0.berths.filter (fun x => x.facets.contains 5)) 0 0x100 4 = true := by
  and_intros <;> decide +kernel

/-- Obligations.PivotOperations. -/
theorem test_witness_PivotOperations :
    pivotRun goodPanel (col0 .chol) = some run0 ∧
    (pivotRun goodPanel (col0 .ldl) = some run0 ∧ pivotRun goodPanel (col0 .lu) = some run0 ∧ pivotRun goodPanel (col0 .qr) = some run0) ∧
    ((recipOf .ldl (w48 (toW48 (.fin false 1 2)))).2 = {} ∧
      (quotient (runNum goodPanel run0).strict (panelAt goodPanel 0 (col0 .ldl) 1 0) (recipOf .ldl (w48 (toW48 (.fin false 1 2)))).1).2 = {}) ∧
    ((col0 .chol).load = [] ∧ (col0 .chol).store = [] ∧ (col0 .chol).storeLd = [] ∧ (col0 .chol).width ≤ 32 ∧
      (col0 .chol).facets.Nodup ∧ (col0 .chol).facets.drop 1 = []) ∧
    ((runNum goodPanel run0).nanTrap = false ∧ (runNum goodPanel run0).strict = false) ∧
    (pivotBad (thrOf goodPanel .chol) (regPivot goodPanel 0 (col0 .chol) false).1 false = false) ∧
    (pivotBad (thrOf goodPanel .lu) (panelAt goodPanel 0 (col0 .lu)
      ((pivotRow (enterKernel goodPanel run0 (col0 .lu) false) 0 (col0 .lu) (openRows (enterKernel goodPanel run0 (col0 .lu) false) run0 (col0 .lu))).getD 0) 0)
      false = false) ∧
    (pivotBad (thrOf goodPanel .qr) (tailNorm false (panelCol goodPanel 0 (col0 .qr) 0) 0).1 false = false) ∧
    pivotRun zeroPanel (col0 .chol) = some run0 ∧
    (pivotBad (thrOf zeroPanel .chol) (regPivot zeroPanel 0 (col0 .chol) false).1 false = true) ∧
    (pivotBad (thrOf emptyPanel .qr) (tailNorm false (panelCol emptyPanel 0 (col0 .qr) 0) 0).1 false = true ∧ pivotRun emptyPanel (col0 .qr) = some run0) ∧
    (dPolicy (runDesc zeroPanel run0) = 0 ∧ dPolicy (runDesc emptyPanel run0) = 0) ∧
    (pivotRun panelAbort (col0 .chol) = some run0 ∧ pivotBad (thrOf panelAbort .chol) (regPivot panelAbort 0 (col0 .chol) false).1 false = true) ∧
    (dPolicy (runDesc panelAbort run0) = 1 ∧ suppressed panelAbort run0 = false ∧ run0.trap = none ∧ run0.slot = none) ∧
    ((runNum panelAbort run0).nanTrap = false ∧ (runNum panelAbort run0).strict = false) ∧
    (pivotRun abandoning (col0 .chol) = some (triggered none) ∧ suppressed abandoning (triggered none) = true ∧
      pivotBad (thrOf abandoning .chol) (regPivot abandoning 0 (col0 .chol) false).1 false = true ∧ dPolicy (runDesc abandoning (triggered none)) = 1) ∧
    (pivotRun goodPanel { col0 .solve with vec := [toW48 (.fin false 1 0)] } = some run0 ∧ pivotRun goodPanel (col0 .update) = some run0) := by
  and_intros <;> decide +kernel

/-- Obligations.SextantOperations. -/
theorem test_witness_SextantOperations :
    laneRun (runningQ run0) lane = some run0 ∧
    fmtOfCode 8 = some .b32 ∧
    fmtOfCode 10 = some .b64 ∧
    blockOf 8 = 0 ∧
    (laneLoad (runNum (runningQ run0) run0) lane three).2 = {} ∧
    (convert (laneLoad (runNum (runningQ run0) run0) lane three).1 .b32 (runNum (runningQ run0) run0).rm (runNum (runningQ run0) run0).strict).2 = {} ∧
    run0.berths.filter (fun b => b.sectors.contains (lane.sector % 16)) = run0.berths ∧
    routeMayWrite (runningQ run0) run0 run0.berths 0 0x100 4 = true := by
  and_intros <;> decide +kernel

/-- Obligations.StreamBinding. -/
theorem test_witness_StreamBinding :
    ((findCmd misfit key).map (fun c => (opOf c.desc, waitingToRun c, mget misfit.streams (leField c.desc 48 1 % 64), bindMismatch misfit c.desc)) = some (0x20, true, none, true)) ∧
    ((findCmd (binding .ready) key).map (fun c => (opOf c.desc, waitingToRun c, mget (binding .ready).streams (leField c.desc 48 1 % 64), bindMismatch (binding .ready) c.desc)) = some (0x20, true, none, false)) ∧
    ((findCmd (binding .ready) key).map (fun c => (mayStart (binding .ready) c, (bindModels (binding .ready) c.desc).isSome)) = some (true, true)) ∧
    canServe (binding .ready) 17 = true ∧
    (binding .ready).fleet.stopped = false ∧
    quotaRoom (binding .ready) 17 1 = true ∧
    (findStep (binding .ready) (ladderPattern 1)).isSome = true ∧
    ((quotaPlacement (binding .ready) (unitRoute route1 route1) false []).map (fun x => decide (x.1 = (binding .ready))) = some true) ∧
    (winOf (binding .ready) 77).isOpen = false ∧
    ((quotaPlacement (binding .ready) (unitRoute route1 route1) false []).map (fun x => windowOpens (binding .ready) 77 (streamWindow 17 18 (placeBase x.2) (2 * bufBytes smap0))) = some true) ∧
    ((findCmd (unbinding false) key).map (fun c => (opOf c.desc, waitingToRun c, mayStart (unbinding false) c, mget (unbinding false).streams (leField c.desc 48 1 % 64))) = some (0x21, true, true, none)) ∧
    canServe (unbinding false) 17 = true ∧
    ((findCmd (unbinding true) key).map (fun c => (opOf c.desc, waitingToRun c, mayStart (unbinding true) c, leField c.desc 48 1 % 64)) = some (0x21, true, true, 18)) ∧
    canServe (unbinding true) 17 = true ∧
    ((mget (unbinding true).streams 18).map (fun x => (x.ctlHandle, x.suspended, x.failed, x.unbind)) = some (0x200, false, false, none)) ∧
    ((findCmd (binding .ready) key).map (fun c => (noRecheck (binding .ready) c.desc, unloadStands (binding .ready) c)) = some (false, false)) := by
  and_intros <;> decide +kernel

/-- Obligations.SoundingFrames. -/
theorem test_witness_SoundingFrames :
    rxEn (bound id) 1 = true ∧
    (bound id).bin.txCut = false ∧
    mget (bound id).streams 19 = none ∧
    ((mget (bound id).streams 18).map (fun x => (takes (bound id) x, x.frameOpen, readableHdr x noHeader)) = some (true, none, none)) ∧
    ((mget (bound id).streams 18).map (fun x => x.unit) = some none) ∧
    ((mget (bound id).streams 18).map (fun x => (x.next, x.stopAt, x.lastServed)) = some (none, none, none)) ∧
    ((mget (bound id).streams 18).map (fun x => (x.refusedRow, x.badHdr)) = some (false, false)) ∧
    ((mget (bound id).streams 18).map (fun x => (readableHdr x frame0, (mapOf (bound id) x).format, (mapOf (bound id) x).elems)) = some (some (hdr0 1), 8, 4)) ∧
    ((mget (bound id).streams 18).map (fun x => (storeFrame (gcount (bound id) 0x5001 80) 18 x (mapOf (bound id) x) (hdr0 1) frame0).2) = some false) ∧
    ((mget (bound (fun x => { x with unit := some unitS, startAk := 0 })).streams 18).map (fun x => (x.unit, x.failed, x.suspended, x.stopAt, x.startAk)) = some (some unitS, false, false, none, 0)) ∧
    (((mget (bound (fun x => { x with unit := some unitS, startAk := 0 })).helm.models 28).bind berthRoute).isSome = true) ∧
    (frozen (bound (fun x => { x with unit := some unitS, startAk := 0 })) = false) ∧
    ((bound (fun x => { x with unit := some unitS, startAk := 0 })).runs = []) ∧
    ((bound (fun x => { x with unit := some unitS, startAk := 0 })).clk.chipAk % 32 = 0) ∧
    99980 ≤ 99985 ∧
    (99985 + 8 ≤ (bound (fun x => { x with unit := some unitS, startAk := 0 })).clk.chipAk) ∧
    ((bound (fun x => { x with unit := some unitS, startAk := 0 })).clk.chipAk < 99985 + 40) ∧
    ((mget (bound (fun x => { x with unit := some unitS, startAk := 0 })).streams 18).map (fun x => runWinsOpen (bound (fun x => { x with unit := some unitS, startAk := 0 })) route1 [x.berth] x.plots) = some true) ∧
    (unitS.req = none ∧ unitS.launchAk = none ∧ unitS.complete = some 99980) := by
  and_intros <;> decide +kernel

/-- Obligations.FixFrames. -/
theorem test_witness_FixFrames :
    ((bound (fun x => { x with due := [fixDue0], next := some 1 })).bin.txCut = false) ∧
    ((mget (bound (fun x => { x with due := [fixDue0], next := some 1 })).streams 18).map (fun x => x.due) = some [fixDue0]) ∧
    ((mget (bound (fun x => { x with due := [fixDue0], next := some 1 })).streams 18).map (fun x => (x.failed, x.suspended, x.onLanes, x.tx / 16 % 4)) = some (false, false, none, 2)) ∧
    (fixDue0.due ≤ stampIk (bound (fun x => { x with due := [fixDue0], next := some 1 })) ∧ stampIk (bound (fun x => { x with due := [fixDue0], next := some 1 })) ≤ fixDue0.due + 10 * usU) ∧
    fixDue0.ready = true ∧
    (((bound (fun x => { x with due := [fixDue0], next := some 1 })).csi[2]?).map (fun c => portFree c fixDue0.due (stampIk (bound (fun x => { x with due := [fixDue0], next := some 1 })))) = some true) ∧
    (txEn (bound (fun x => { x with due := [fixDue0], next := some 1 })) 2 = true) ∧
    ((mget (emitting 0).streams 18).map (fun x => (x.onLanes, x.emitted.isSome)) = some (some (fixDue0, stampIk (emitting 0)), true)) ∧
    ((mget unbound.streams 18).map (fun x => (x.onLanes.map (·.1.reason), x.emitted.isSome, x.unbind)) = some (some 8, true, some key)) ∧
    (findCmd unbound key).isSome = true ∧
    ((mget (bound (fun x => { x with dogAt := some (4999 * secU) })).streams 18).map (fun x => (x.dogAt, takes (bound (fun x => { x with dogAt := some (4999 * secU) })) x, x.stopAt, x.suspended, x.failed)) = some (some (4999 * secU), true, none, false, false)) ∧
    ((watchdogOf (bound (fun x => { x with dogAt := some (4999 * secU) })) 18).isSome = true) ∧
    (4999 * secU < stampIk (bound (fun x => { x with dogAt := some (4999 * secU) }))) ∧
    (((bound id).csi[2]?).map (fun c => (c.busy, decide (c.skewAt + skewMs (bound id) 2 * 1000 * usU ≤ stamp (bound id)))) = some (false, true)) ∧
    txEn (bound id) 2 = true ∧
    (skewMs (bound id) 2 ≠ 0) := by
  and_intros <;> decide +kernel

/-! ### Ill-formed commands -/

/-- A command's name with a context or a ring that does not exist. -/
def badCtx : CmdKey := ⟨4096, 0, 0⟩
def badRing : CmdKey := ⟨0, 8, 0⟩

/-- Commands of the rings, runs and streams, each with one operand out of its range. -/
def illFormedRuns : List Instr :=
  [.doorbell 64 0 0 0 false, .doorbell 0 4096 0 0 false, .ringDisable 0 0 8 0, .descriptorAccept 4096 0 0 (.failed),
   .solveCmd badCtx, .beaconSignal badRing, .contextResidency 4096 none, .batchTick 4096 0 false, .contextReset 4096 [],
   .streamUnitLaunch 64 0, .fixFrameEmit 64, .soundingFrameStart 4 0, .soundingFrameStart 0 16, .csiPacketIgnored 4 false]

/-- Commands of the arithmetic units and of Chart memory. -/
def illFormedUnits : List Instr :=
  [.idleOp ⟨256, 0, 0, 0, []⟩, .idleOp ⟨0, 32, 0, 0, []⟩, .idleOp ⟨0, 0, 32, 0, []⟩, .idleOp ⟨0, 0, 0, 2, []⟩, .firstOp (cellAt 0) one32 one32 6 site0,
   .absOp { lane with sector := 16 } two, .absOp { lane with lane := 64 } two, .absOp lane ⟨0, 0, 0⟩, .absOp lane ⟨11, 0, 0⟩,
   .absOp lane ⟨10, 2 ^ 64, 0⟩, .columnStep { col0 .lu with facets := [256] }, .columnStep { col0 .lu with col := 32 },
   .remoteWrite 1 0 (List.replicate 512 0) false, .remoteWrite 0x14000000 0 (List.replicate 512 0) false, .remoteWrite 0 0 [] false,
   .windowOpen 1024, .windowDescriptorWrite 0 8 0, .almLinesWrite 16 0, .bankDrainEnd 576, .facetLbistEnd 272 true]

/-- Commands of the device, its registers, its clocks and its links. -/
def illFormedDevice : List Instr :=
  [.deviceEvent { cls := 5, cause := 0x16 } [256], .binRecover 65 0, .voltageSample 5 0, .temperatureSample 20 0, .heartbeatTimeout 8,
   .functionLevelReset 64, .linkReset 3 1, .linkReset 1 0, .linkReset 1 6, .msixUnmask 0 2048, .registerWrite 0 2 0 true false,
   .registerWrite 0 0x110000 0 true false, .announce 2 0 false false 0, .ptpEventIngress 0 8, .outputArm 8 0, .rastanRetry 32 0,
   .rastanSend key 32 0 0 [] none [], .rastanSend key 0 1024 0 [] none [], .porPin 4 0, .porPin 0 4, .bootStepDeadline 4, .mbxReport 65,
   .i3cSetPage 256 0, .i3cWriteWords 0x10000 [], .entdaa 128, .setdasa 128 0, .enec 256, .setmwl 0x10000]

theorem test_illFormed_runs : illFormedRuns.all (fun i => !i.wellFormed) = true := by decide +kernel
theorem test_illFormed_units : illFormedUnits.all (fun i => !i.wellFormed) = true := by decide +kernel
theorem test_illFormed_device : illFormedDevice.all (fun i => !i.wellFormed) = true := by decide +kernel

/-- No row of the table gives a word any bits, so no word spells a command. -/
theorem test_no_word : decodeTableWord 32 0x12345678 = none := by decide

/-! ### Single steps -/

/-- CRC-32 of the nine ASCII digits 1 to 9, the check value of the polynomial that 12 R297 and 16 R388 name. -/
theorem test_crc32 : (crc32 [0x31, 0x32, 0x33, 0x34, 0x35, 0x36, 0x37, 0x38, 0x39]).toNat = 0xCBF43926 := by decide +kernel

/-- A field of the state after one command. -/
def after {α : Type} (s : State) (c : Instr) (f : State → α) : α := f (ex' s c)

/-- No event. -/
def noEv : NumEv := {}

/-- 06, "Conversions, worked": the source, its format, the target, the rounding mode, STRICT, the result and its events. -/
def workedConversions : List ((Fmt × Nat) × (Fmt × RMode × Bool) × Nat × NumEv) :=
  [((.b32, 0x3DCCCCCD), (.k8, .rne, false), 0x1D, noEv), ((.b32, 0x3DCCCCCD), (.k16, .rne, false), 0x3733, noEv),
   ((.b32, 0x3DCCCCCD), (.k16, .rup, false), 0x3734, noEv), ((.b32, 0x43F78000), (.k8, .rne, false), 0x7F, noEv),
   ((.b32, 0x43F80000), (.k8, .rne, false), 0x7F, { sat := 1 }), ((.b32, 0x43F80000), (.k8, .rne, true), 0x80, { strictOvf := 1 }),
   ((.b32, 0x43F80000), (.k8, .rtz, false), 0x7F, noEv), ((.b32, 0xC3F80000), (.k8, .rup, false), 0xFF, noEv),
   ((.b32, 0xC3F80000), (.k8, .rdn, false), 0xFF, { sat := 1 }), ((.b32, 0xBA800000), (.k8, .rne, false), 0x00, { zsl := 1 }),
   ((.b32, 0xBA800000), (.k8, .rdn, false), 0x81, noEv),
   ((.b64, 0x41EFFC0000000000), (.k16, .rne, false), 0x7DFF, { sat := 1 }),
   ((.b64, 0x41EFFC0000000000), (.k16, .rne, true), 0x7E00, { strictOvf := 1 }), ((.b32, 0x7F7FFFFF), (.k24, .rne, false), 0x7F7FFF, { sat := 1 }),
   ((.b32, 0x7F7FFFFF), (.k24, .rtz, false), 0x7F7FFF, noEv), ((.b64, 0x47EFFFFFF0000000), (.b32, .rne, false), 0x7F7FFFFF, { sat := 1 }),
   ((.w48, 0x7FDFFFFFFFFF), (.b32, .rne, false), 0x7F7FFFFF, { sat := 1 }), ((.b64, 0x3808000000000000), (.b32, .rne, false), 0, { flushed := 1 }),
   ((.b64, 0x3808000000000000), (.b32, .rup, false), 0x00800000, { flushed := 1 })]

theorem test_worked_conversions :
    workedConversions.all (fun x => convert (decode x.1.1 x.1.2).1 x.2.1.1 x.2.1.2.1 x.2.1.2.2 == (x.2.2.1, x.2.2.2)) = true := by
  decide +kernel

/-- 07, "Bad pivots and their replacements": τ × dmax = 1.5 × 2^−30; the pivot, its expected sign, REGULARISE, INERTIA. -/
def workedPivots : List (W48 × Bool × W48 × W48) :=
  [(0, false, 0x3C4000000000, 0x3C4000000000), (0x800000000000, false, 0x3C4000000000, 0x3C4000000000),
   (0x3C3000000000, false, 0x3C5800000000, 0x3C4000000000), (0xBFD000000000, false, 0x3FA000000000, 0x3FD000000000),
   (0x3AE000000000, true, 0xBC3FF8000000, 0xBC4000000000)]

theorem test_worked_pivots :
    workedPivots.all (fun x => pivotBad (w48 0x3C3000000000) (w48 x.1) x.2.1 &&
      toW48 (replacePivot false 0 (w48 0x3C3000000000) (w48 x.1) x.2.1).1 == x.2.2.1 &&
      toW48 (replacePivot false 2 (w48 0x3C3000000000) (w48 x.1) x.2.1).1 == x.2.2.2) = true := by
  decide +kernel

/-- 05, "Worked W48 patterns": binary32 0x3F800001 squared in 2-pass leaves 0x3FE000008000 after FIRST and two MACs. -/
theorem test_two_pass :
    after (cells none) (.firstOp (cellAt 7) ⟨8, 0x3F800001, 0⟩ ⟨8, 0x3F800001, 0⟩ 0 site0) (fun s =>
      after s (.mac (cellAt 7) ⟨8, 0x3F800001, 0⟩ ⟨8, 0x3F800001, 0⟩ 1 site0 []) (fun s =>
        after s (.mac (cellAt 7) ⟨8, 0x3F800001, 0⟩ ⟨8, 0x3F800001, 0⟩ 2 site0 []) (fun s => accOf s (cellAt 7)))) =
    some 0x3FE000008000 := by decide +kernel

/-- 06, "Decoding and combining": the K8b weight 0x76 at E = 0x7A times the K16 activation 0x3E00. -/
theorem test_k8b_first :
    after ((cells none).setRuns [{ run0 with route := { route0 with vernier := 1 } }]) (.firstOp (cellAt 7) ⟨4, 0x76, 0x7A⟩ ⟨6, 0x3E00, 0⟩ 0 site0)
      (fun s => accOf s (cellAt 7)) = some 0x401B00000000 := by decide +kernel

/-- 05: W48 2^300 × 2^300 saturates at 0x7FDFFFFFFFFF; under STRICT it is +Inf. -/
theorem test_w48_overflow :
    toW48 (mulR .w48 false (.fin false 1 300) (.fin false 1 300)).1 = 0x7FDFFFFFFFFF ∧
    toW48 (mulR .w48 true (.fin false 1 300) (.fin false 1 300)).1 = 0x7FE000000000 := by decide +kernel

/-- A command run in binary64 on a Sextant lane: 3 × 2 + 2 is 8; 3 ÷ 2 is 1.5 (06 R160, R161). -/
theorem test_sextant_fma : after (runningQ run0) (.fma lane three two two) (laneVal · lane) = 0x4020000000000000 := by decide +kernel
theorem test_sextant_div : after (runningQ run0) (.divOp lane three two) (laneVal · lane) = 0x3FF8000000000000 := by decide +kernel

/-- 03 R73 by hand: from slacks 1 and 1 with changes −2 and 1, the largest step that keeps both at 0 or above is ½. -/
theorem test_step_to_boundary :
    w64 ((stepToBoundary (arithOf (runningQ run0) run0) n1 [n1, n1] [.fin true 1 1, n1]).run {}).1 = half := by decide +kernel

/-- 02 R40 by hand, every matrix 1 and the prior 1: P⁻ = 2, S = 3, K = ⅔, and P⁺ = ⅔ in W48. -/
theorem test_kalman_update : (runUpdate (runningK run0) run0 modelK).1.1.z = [0x3FE5555540000000] := by decide +kernel

/-- 20, "grants for Cell K-7": context 17 gets entries 0x200 to 0x2FF and Beacons 0x100 to 0x1FF, and the command words read back 0x1011. -/
theorem test_grant_headings :
    after (rput (rput fresh 0x78004 0x200) 0x78008 0x100) (.headingRangeSet 0x80001011) (fun s =>
      (regView s 0 0x78000, inHdgRange s 17 0x2FF, inHdgRange s 17 0x300)) = (0x1011, true, false) := by decide +kernel
theorem test_grant_beacons :
    after (rput (rput fresh 0x70004 0x81FF0100) 0x70008 0x81FF0100) (.beaconRangeSet 0x80001011) (fun s =>
      (regView s 0 0x70000, inRange (sigRange s 17) 0x107, inRange (sigRange s 17) 0x200)) = (0x1011, true, false) := by decide +kernel

/-- 12 R308's Soundings: after 1,200,018 the HOLD of 1,200,019 reports the range from 1,200,018 on, of one frame. -/
theorem test_miss_range :
    after (bound (fun x => { x with next := some 1200018, due := [holdDue (5000 * secU) 3 1200019 (some (hdr0 1200019)) true] }))
      (.fixFrameEmit 18) (fun s => ((mget s.streams 18).bind (·.emitted)).map (fun f => (f.kind, f.holdReason, f.missFirst, f.missCount))) =
    some (2, 3, 1200018, 1) := by decide +kernel

/-- The provisional ID: manufacturer 0x1D47 above bit 33, part 0x7409, most significant byte first (19 R431). -/
theorem test_getpid :
    after ibiRaised .getpid (fun s => s.out.getLast?) = some (.i3cRead [0x3A#8, 0x8E#8, 0x74#8, 0x09#8, 0x00#8, 0x00#8]) := by decide +kernel

/-- An overlap sets bit 2 of CHM_STAT and opens nothing (08 R215). -/
theorem test_window_overlap :
    after (winds false true) (.windowOpen 7) (fun s => ((rget s 0x30014).testBit 2, (winOf s 7).isOpen)) = (true, false) := by decide +kernel

/-- RESUME and a doorbell's TAIL: a ring's DONE moves past a committed command (09 R249). -/
theorem test_commit_done :
    after (committing solveFs true) (.committing key fixBytes [] 7) (fun s => ((ringOf s 17 2).done, findCmd s key)) = (95, none) := by decide +kernel

/-- The VDD_SI window: 650 mV is no loss, 649 mV is (16 R383). -/
theorem test_vdd_si : after up (.vddSiLowReset 650) (·.boot.por) = true ∧ after up (.vddSiLowReset 649) (·.boot.por) = false := by decide +kernel

end Sys2Proof.Tests
end

/-! SUPPORT. The proofs of the statements of 01_two_hierarchies.md: the laws that they share, then LAUNCH_CYCLE and LADDER_STEP, the cell
operations, and COMMIT_POINT, RECHECK_END and COMMITTING. -/

namespace Sys2Proof.Proofs
open Sys2Proof Sys2Proof.Machine Sys2Proof.Laws

/- One proof at a time: elaborated beside the pending kernel checks of the text's tests, they need more threads than the memory limit holds. -/
set_option Elab.async false

variable {s t u : State} {gs hs : List StateGroup} {k : CmdKey}

/-! ## Laws that the proofs of this family share: frames composed, commands and runs found by their keys, maps filtered, and what
each shared operation of the machine can touch. -/

/-! ### Frames -/

/-- A frame, and then a change within some of its groups. -/
theorem only_then (h : onlyChanged gs s t) (h' : onlyChanged hs t u) (hg : ∀ g, g ∈ hs → g ∈ gs := by decide) : onlyChanged gs s u :=
  only_trans h (only_mono h' hg)

theorem setPel_only (s : State) (v : Pel) : onlyChanged [.pel] s (s.setPel v) := by simp [onlyChanged]
theorem setLog_only (s : State) (v : LogSt) : onlyChanged [.log] s (s.setLog v) := by simp [onlyChanged]
theorem setHelm_only (s : State) (v : Helm) : onlyChanged [.helm] s (s.setHelm v) := by simp [onlyChanged]
theorem setBin_only (s : State) (v : Bin) : onlyChanged [.bin] s (s.setBin v) := by simp [onlyChanged]
theorem setChart_only (s : State) (v : ChartSt) : onlyChanged [.chart] s (s.setChart v) := by simp [onlyChanged]
theorem setStreams_only (s : State) (v : Machine.Map Stream) : onlyChanged [.streams] s (s.setStreams v) := by simp [onlyChanged]
theorem setBatches_only (s : State) (v : List Batch) : onlyChanged [.batches] s (s.setBatches v) := by simp [onlyChanged]

/-! ### Commands and runs by their keys -/

/-- Replacing the elements of one key leaves the replacement to be found. -/
theorem find?_replace {α κ : Type} [BEq κ] [LawfulBEq κ] (key : α → κ) (l : List α) (x : α) {y : α}
    (h : l.find? (fun d => key d == key x) = some y) :
    (l.map (fun d => if key d == key x then x else d)).find? (fun d => key d == key x) = some x := by
  have hkey : ∀ d, (key (if key d == key x then x else d) == key x) = (key d == key x) := by
    intro d
    split <;> simp_all
  have hy : (key y == key x) = true := by simpa using List.find?_some h
  rw [List.find?_map]
  simp only [Function.comp_def, hkey, h, Option.map_some, hy, if_true]

/-- Filtering a key out leaves nothing to be found under it. -/
theorem find?_filter_out {α κ : Type} [BEq κ] (key : α → κ) (l : List α) (k : κ) :
    (l.filter (fun d => !(key d == k))).find? (fun d => key d == k) = none := by
  simp [List.find?_eq_none]

theorem findRun_key {r : Run} (h : findRun s k = some r) : r.key = k := by simpa using List.find?_some h
theorem findCmd_key {c : Cmd} (h : findCmd s k = some c) : c.key = k := by simpa using List.find?_some h

theorem findRun_congr (h : t.runs = s.runs) (k : CmdKey) : findRun t k = findRun s k := by simp only [findRun, h]
theorem findCmd_congr (h : t.cmds = s.cmds) (k : CmdKey) : findCmd t k = findCmd s k := by simp only [findCmd, h]

theorem findRun_putRun {r r' : Run} (h : findRun s r.key = some r') : findRun (putRun s r) r.key = some r :=
  find?_replace Run.key s.runs r h

theorem findCmd_putCmd {c c' : Cmd} (h : findCmd s c.key = some c') : findCmd (putCmd s c) c.key = some c :=
  find?_replace Cmd.key s.cmds c h

@[simp] theorem findRun_dropRun (s : State) (k : CmdKey) : findRun (dropRun s k) k = none := find?_filter_out Run.key s.runs k
@[simp] theorem findCmd_dropCmd (s : State) (k : CmdKey) : findCmd (dropCmd s k) k = none := find?_filter_out Cmd.key s.cmds k

theorem putRun_only (s : State) (r : Run) : onlyChanged [.runs] s (putRun s r) := by simp [onlyChanged, putRun]
theorem dropRun_only (s : State) (k : CmdKey) : onlyChanged [.runs] s (dropRun s k) := by simp [onlyChanged, dropRun]
theorem dropCmd_only (s : State) (k : CmdKey) : onlyChanged [.cmds] s (dropCmd s k) := by simp [onlyChanged, dropCmd]

/-! ### Maps -/

/-- A filter that refuses a key leaves no entry of it. -/
theorem mget_filter_none {α : Type} (m : Map α) {p : Nat × α → Bool} {k : Nat} (h : ∀ v, p (k, v) = false) : mget (m.filter p) k = none := by
  induction m with
  | nil => rfl
  | cons e m ih =>
    obtain ⟨j, w⟩ := e
    simp only [List.filter_cons]
    split
    · rename_i hp
      have hj : j ≠ k := by
        rintro rfl
        simp [h w] at hp
      simp [mget, hj, ih]
    · exact ih

/-! ### Facets -/

theorem emptyKeys_only (s : State) (p : Nat → Bool) : onlyChanged [.rose] s (emptyKeys s p) := by simp [onlyChanged, emptyKeys]
theorem emptyFacets_only (s : State) (fs : List Nat) : onlyChanged [.rose] s (emptyFacets s fs) := emptyKeys_only _ _

theorem emptyFacets_sxt (s : State) (fs : List Nat) : (emptyFacets s fs).rose.sxt = s.rose.sxt := rfl

/-- The cells and the panel buffer of an emptied facet hold nothing (05 R118). -/
theorem emptyFacets_empty (s : State) {fs : List Nat} {g n : Nat} (hg : g ∈ fs) (h256 : g < 256) (hn : n < 1024) :
    mget (emptyFacets s fs).rose.acc (1024 * g + n) = none ∧ mget (emptyFacets s fs).rose.panel (1024 * g + n) = none := by
  have hkey : (1024 * g + n) / 1024 % 256 = g := by omega
  constructor <;> exact mget_filter_none _ (fun _ => by simp [hkey, hg])

/-! ## LAUNCH_CYCLE and LADDER_STEP. -/

theorem tagLive_only (s : State) (r : Run) : onlyChanged [.pel] s (tagLive s r) :=
  only_foldl (fun _ _ h => only_trans h (setPel_only _ _)) (only_refl _ _)

theorem traceLaunch_only (s : State) (r : Run) : onlyChanged [.regs, .pel] s (traceLaunch s r) :=
  only_foldl (fun _ _ h => only_trans h (traceCmd_only _ _ _ _ _ _ _ _)) (only_refl _ _)

theorem queueFrame_only (s : State) (c : Nat) (f : RFrame) (key : Option CmdKey) : onlyChanged [.fleet] s (queueFrame s c f key) := by
  unfold queueFrame
  refine only_ite (only_refl _ _) (only_ite ?_ ?_) <;> simp [onlyChanged, setPeer]

theorem askPeers_only (s : State) (r : Run) : onlyChanged [.fleet] s (askPeers s r) := by
  unfold askPeers
  split
  · exact only_ite (only_foldl (fun _ _ h => only_trans h (queueFrame_only _ _ _ _)) (only_refl _ _)) (only_refl _ _)
  · exact only_refl _ _

/-- A run as it stands at its launch: setup begins, stamped with this cycle (01 R31). -/
def launchedRun (s : State) (r : Run) : Run :=
  { r with
    phase := .setup, mark := r.counts, launchAk := s.clk.chipAk, launchMer := stamp s, phaseStart := s.clk.chipAk,
    phaseEnd := s.clk.chipAk + setupEndAk s r, chargeFrom := if r.armedOff.isSome then r.chargeFrom else stampR s }

/-- The launch of a command's run. -/
theorem startRun_spec {r : Run} {c : Cmd} (hr : findRun s k = some r) (hc : findCmd s k = some c) (hst : r.stream = none) :
    findRun (startRun s r) k = some (launchedRun s r) ∧
    findCmd (startRun s r) k = some { c with phase := .running, runs := c.runs + 1 } ∧
    onlyChanged [.runs, .cmds, .fleet, .pel, .regs] s (startRun s r) := by
  obtain rfl := findRun_key hr
  have hck := findCmd_key hc
  let v := traceLaunch (tagLive (putRun s (launchedRun s r)) (launchedRun s r)) (launchedRun s r)
  have hv : onlyChanged [.regs, .pel] (putRun s (launchedRun s r)) v := only_trans (only_mono (tagLive_only _ _) (by decide)) (traceLaunch_only _ _)
  have hvr : findRun v r.key = some (launchedRun s r) :=
    (findRun_congr (only_runs hv (by decide)) _).trans (findRun_putRun (r := launchedRun s r) hr)
  have hvc : findCmd v r.key = some c := (findCmd_congr (only_cmds hv (by decide)) _).trans hc
  let w := putCmd v { c with phase := .running, runs := c.runs + 1 }
  have hw : startRun s r = askPeers w (launchedRun s r) := by
    change (match findCmd v r.key with
      | some c => if r.stream.isSome then v else askPeers (putCmd v { c with phase := .running, runs := c.runs + 1 }) (launchedRun s r)
      | none => v) = _
    simp [hvc, hst, w]
  have ha := askPeers_only w (launchedRun s r)
  rw [hw]
  refine ⟨(findRun_congr (only_runs ha (by decide)) _).trans hvr, (findCmd_congr (only_cmds ha (by decide)) _).trans ?_, ?_⟩
  · rw [← hck] at hvc ⊢
    exact findCmd_putCmd (c := { c with phase := .running, runs := c.runs + 1 }) hvc
  · exact only_then (only_then (only_then (only_mono (putRun_only _ _) (by decide)) hv) (putCmd_only _ _)) ha

/-- With no launch armed, LAUNCH_CYCLE acts on a placed run at its launch cycle alone. -/
theorem doLaunchCycle_unarmed {r : Run} (hr : findRun s k = some r) (hf : frozen s = false) (ha : s.helm.armed = []) :
    doLaunchCycle s k = if r.phase = .placed ∧ r.launchAk ≠ 0 ∧ r.launchAk = s.clk.chipAk then startRun s r else s := by
  simp [doLaunchCycle, hf, armedNow, ha, hr]

/-- A ladder step of a run that takes its own steps empties the facets that leave idle on it (11 R286). -/
theorem doLadderStep_launched {r : Run} (hr : findRun s k = some r) (hf : frozen s = false) (h32 : s.clk.chipAk % 32 = 0)
    (hl : launched s r = true) (hst : r.stream = none) (hsl : r.slot = none) : doLadderStep s k = emptyFacets s (stepFacets s r) := by
  simp [doLadderStep, hr, hf, h32, hl, hst, hsl]

/-- Settles O50: a launch by what startRun does, any other cycle and a ladder step by the command's one branch. -/
theorem runLaunches : Obligations.RunLaunches := by
  intro s k r hr hf
  refine ⟨fun c ha hc hst hp h0 hnow => ?_, fun ha hne => ?_, fun h32 hl hst hsl => ?_⟩
  · obtain ⟨hrun, hcmd, honly⟩ := startRun_spec hr hc hst
    have hgo : doLaunchCycle s k = startRun s r := (doLaunchCycle_unarmed hr hf ha).trans (if_pos ⟨hp, h0, hnow⟩)
    exact ⟨_, rfl, hgo ▸ ⟨⟨_, hrun, rfl, rfl, rfl, rfl, rfl, rfl, rfl⟩, hcmd, honly⟩⟩
  · exact ⟨_, rfl, (doLaunchCycle_unarmed hr hf ha).trans (if_neg (fun h => hne h.2.2))⟩
  · refine ⟨_, rfl, ?_⟩
    rw [doLadderStep_launched hr hf h32 hl hst hsl]
    exact ⟨fun _ _ => emptyFacets_empty s, emptyFacets_sxt _ _, emptyFacets_only _ _⟩

/-! ## Words that Chart reads corrected (08 R206): what their count touches, and what it keeps of the groups that it touches. -/

/-- The groups that the count of a corrected word can touch: Chart memory's lists, and those of its report. -/
def eccGroups : List StateGroup := .chart :: reportGroups

/-- The chart lists of a corrected word. -/
def eccNoted (c : ChartSt) (a : Nat) : ChartSt :=
  { c with eccLog := c.eccLog ++ [a], scrubQ := c.scrubQ ++ [a / 8 * 8], eccBank := mset c.eccBank (bankOf a) (mgetD c.eccBank (bankOf a) 0 + 1) }

/-- A corrected word: its lists, its counter, its event. -/
theorem eccCorrected_eq (s : State) (a : Nat) :
    eccCorrected s a = raiseEvent (gcount (s.setChart (eccNoted s.chart a)) (if a < 0x10000000 then 0x1030 + a / 0x1000000 else 0x1040) 1)
      { cls := 1, cause := 0x31, unitKind := 3, unitNo := if a < 0x10000000 then a / 0x1000000 else 16, detail := leBytes 4 a } := rfl

theorem eccCorrected_only (s : State) (a : Nat) : onlyChanged eccGroups s (eccCorrected s a) := by
  rw [eccCorrected_eq]
  exact only_then (only_then (only_mono (setChart_only _ _) (by decide)) (gcount_only _ _ _)) (raiseEvent_only _ _)

theorem eccCorrected_chart (s : State) (a : Nat) : (eccCorrected s a).chart = eccNoted s.chart a := by
  rw [eccCorrected_eq, only_chart (raiseEvent_only _ _) (by decide)]
  rfl

theorem feedEcc_only (s : State) (words : List Nat) : onlyChanged eccGroups s (feedEcc s words) :=
  only_foldl (fun _ _ h => only_trans h (eccCorrected_only _ _)) (only_refl _ _)

theorem feedEcc_chart (s : State) (words : List Nat) : (feedEcc s words).chart = words.foldl eccNoted s.chart := by
  induction words generalizing s with
  | nil => rfl
  | cons a as ih => exact (ih _).trans (by rw [eccCorrected_chart, List.foldl_cons])

/-- Corrected words join the log of Chart memory in the order of their reads. -/
theorem feedEcc_eccLog (s : State) (words : List Nat) : (feedEcc s words).chart.eccLog = s.chart.eccLog ++ words := by
  rw [feedEcc_chart]
  induction words generalizing s with
  | nil => simp
  | cons a as ih => simpa [eccNoted] using ih (s.setChart (eccNoted s.chart a))

/-- The count of a corrected word is never without effect. -/
theorem feedEcc_ne_self (s : State) {words : List Nat} (h : words ≠ []) : feedEcc s words ≠ s := by
  intro he
  have hlog := feedEcc_eccLog s words
  rw [he] at hlog
  exact h (List.self_eq_append_right.mp hlog)

/-! ## The cell operations: a drain to a 4-bit block format stores nothing, and counts the corrected words of its reads. -/

/-- A drain to K4b, no storage format of results (06 R147), does no more than count the words that its reads corrected. -/
theorem doDrain_k4b {c : CellAt} {r : Run} {code : Nat} (hr : cellRun s c = some r) (hcode : code = 1 ∨ code = 2) (addrs exps : List Nat)
    (act : ActMode) (site : TrapRec) : doDrain s c (.plot addrs code exps act) site = feedEcc s c.ecc := by
  simp [doDrain, hr, hcode]

/-- A route of one facet, its figures small. -/
def facetRoute : Route :=
  { berthW := 1, berthH := 1, vernier := 1, rounds := 0, setupAk := 32, iterAk := 64, refactorAk := 64, commitAk := 32, setupExtra := 0,
    iterLimit := 8, sweeps := 1, spans := false, spillStream := false, batch := false, mask := 0xFFFF, firstRose := 0, plotNeed := [],
    plan := [], writesPlot := false, recv := [], vary := [], recheck := none, code := [], readsUnwritten := false, reserved := false,
    base := 0, nanAk := 0, boundAk := 0, consensus := false, tau := 0 }

/-- A run that iterates on facet 5, launched in AK cycle 32. -/
def facetRun : Run :=
  { key := ⟨1, 0, 7⟩, stream := none, berths := [⟨5, 1, 1⟩], route := facetRoute, model := 1, isSoft := false, launchAk := 32, launchMer := 0,
    armedOff := none, phase := .iterating, plots := [], triples := [], wins := [], cost := 0, iter := 0, limit := 8, phaseStart := 64,
    phaseEnd := 128, abandoned := false, last := none, best := none, bestBuf := false, prob := none, base := [], scaleD := [], scaleF := [],
    work := [], phase1 := none, mark := RunCounts.zero, warmFlags := 0, infP := 0, infD := 0, cert := [], rhoExp := 0, status := none,
    trap := none, trig := none, commitAt := none, waits := [], waitAk := 0, counts := RunCounts.zero, slot := none, chargeFrom := 0 }

/-- A device at READY in AK cycle 96, on which that run works. -/
def facetAtWork : State :=
  { State.reset with clk := { Clk.reset with chipAk := 96 }, boot := { Boot.reset with state := 1 }, runs := [facetRun] }

/-- A cell of the run's facet at the end of its strip, one of whose reads corrected the word at Chart address 0. -/
def correctedCell : CellAt := { facet := 5, strip := 0, pos := 0, slot := 0, ecc := [0] }

theorem cellRun_correctedCell : cellRun facetAtWork correctedCell = some facetRun := by decide

/-- A trap record's place in the route, all 0: no operation here traps. -/
def noSite : TrapRec := ⟨0, 0, 0, 0, 0, 0, 0, 0, 0, 0, 0, 0, 0, 0, 0, 0, 0, 0, 0⟩

/-- Refutes O55: its last clause has a drain to a 4-bit block format leave the state as it was, whatever words the cell's reads corrected;
the model counts those words first (08 R206), as the s1 of the clauses before has it. On facetAtWork the drain of correctedCell to format 1 leaves
[0] in the list of corrected words, which was empty. -/
theorem not_cellOperations : ¬ Obligations.CellOperations := by
  intro h
  obtain ⟨-, -, -, -, hdrain⟩ := h facetAtWork correctedCell facetRun cellRun_correctedCell rfl
  obtain ⟨t, hexec, rfl⟩ := hdrain [] 1 [] .none noSite (.inl rfl)
  have hstep : doDrain facetAtWork correctedCell (.plot [] 1 [] .none) noSite = facetAtWork := by injection hexec
  rw [doDrain_k4b cellRun_correctedCell (.inl rfl)] at hstep
  exact feedEcc_ne_self facetAtWork (words := [0]) (by decide) hstep

/-! ## What the safe state, a failed check and a recheck do (16 R379 to R384). -/

/-! ### The safe state -/

theorem logEvent_only_log (s : State) (e : Event) : onlyChanged [.log, .pel] s (logEvent s e) := by simp [onlyChanged, logEvent, gcount]

/-- A DEVICE event's report pulls ALERT_N low and touches nothing else of the Binnacle (15 R357). -/
theorem reportClass_device_bin (s : State) (i : Nat) : (reportClass s 5 (some i)).bin = { s.bin with alertN := false } := by
  simp only [reportClass, decide_true, Bool.true_or, if_true]
  rw [only_bin (raiseIbi_only _ _ _) (by decide), only_bin (raiseMsix_only _ _ _) (by decide)]
  rfl

theorem deviceRecords_bin (s : State) (a : EvArg) (entry : Bool) : (deviceRecords s a entry).bin = { s.bin with alertN := false } := by
  unfold deviceRecords
  cases entry <;> simp only [reportClass_device_bin, only_bin (logEvent_only_log _ _) (by decide), if_true, Bool.false_eq_true, if_false]

theorem deviceRecords_only (s : State) (a : EvArg) (entry : Bool) : onlyChanged reportGroups s (deviceRecords s a entry) := by
  unfold deviceRecords
  exact only_then (only_trans (logEvent_only _ _) (only_ite (logEvent_only _ _) (only_refl _ _))) (reportClass_only _ _ _)

theorem discardReq_only (s : State) (c : Cmd) : onlyChanged [.cmds, .runs] s (discardReq s c) :=
  only_then (only_mono (putCmd_only _ _) (by decide)) (dropRun_only _ _)

theorem discardRequests_only (s : State) : onlyChanged [.cmds, .runs, .streams, .log] s (discardRequests s) := by
  unfold discardRequests
  exact only_then (only_then (only_foldl (fun _ _ h => only_then h (discardReq_only _ _)) (only_refl _ _)) (setStreams_only _ _)) (setLog_only _ _)

theorem safeStateBy_congr {cause : Nat} (h : t.bin = s.bin) (hs : safeStateBy s cause) : safeStateBy t cause := by
  simpa only [safeStateBy, h] using hs

/-- A DEVICE event brings the safe state, and leaves the power-up group (16 R384). -/
theorem deviceEvent_safe (s : State) (a : EvArg) (fs : List Nat) :
    safeStateBy (deviceEvent s a fs) (a.cause % 256) ∧ (deviceEvent s a fs).boot = s.boot := by
  constructor
  · simp [safeStateBy, deviceEvent, deviceRecords_bin, only_bin (discardRequests_only _) (by decide)]
  · simp [deviceEvent, only_boot (deviceRecords_only _ _ _) (by decide), only_boot (discardRequests_only _) (by decide)]

/-- A failed check is a DEVICE event, and then counts against its command (16 R380). -/
theorem checkFailed_event (s : State) (k : CmdKey) (cause : Nat) (detail : List Byte) :
    ∃ a fs, a.cause = cause ∧ onlyChanged [.cmds] (deviceEvent s a fs) (checkFailed s k cause detail) := by
  unfold checkFailed
  dsimp only
  split
  · exact ⟨_, _, rfl, putCmd_only _ _⟩
  · exact ⟨_, _, rfl, only_refl _ _⟩

theorem checkFailed_safe (s : State) (k : CmdKey) (cause : Nat) (detail : List Byte) :
    safeStateBy (checkFailed s k cause detail) (cause % 256) ∧ (checkFailed s k cause detail).boot = s.boot := by
  obtain ⟨a, fs, rfl, honly⟩ := checkFailed_event s k cause detail
  obtain ⟨hsafe, hboot⟩ := deviceEvent_safe s a fs
  exact ⟨safeStateBy_congr (only_bin honly (by decide)) hsafe, (only_boot honly (by decide)).trans hboot⟩

/-! ### RECHECK_END with the Fix read -/

/-- A recheck that has read the Fix: freshness, the comparison of a DUAL pair, the time, the residuals (16 R379 to R381). -/
def recheckRead (s : State) (k : CmdKey) (x : Queued) (fix fix2 : List Byte) : State :=
  if !freshQueued s x fix then checkFailed s k 0x03 []
  else match (if dDual x.desc then firstDiff fix fix2 else none) with
    | some i => checkFailed s k 0x02 (leBytes 4 i)
    | none =>
      if stamp s < recheckDue s k x.req then s
      else if !(match recheckResid s k x.req fix with | some v => residTest x.desc x.req.status (reportedBy x fix) v | none => true)
      then checkFailed s k 0x01 []
      else dropRun (updReq (recheckOver s) k (fun q => { q with recheckDone := true })) k

theorem doRecheckEnd_read {x : Queued} (hq : queued s k = some x) (hnow : recheckNow s = some k) (hsafe : s.bin.safe = false)
    (fix fix2 : List Byte) (words : List Nat) (shadow : Option Nat) :
    doRecheckEnd s k fix fix2 words none shadow = recheckRead (feedEcc s words) k x fix fix2 := by
  simp only [doRecheckEnd, hq, hnow, hsafe, ne_eq, not_true_eq_false, Bool.false_eq_true, or_self, if_false]
  rfl

section
variable {x : Queued} {fix fix2 : List Byte}

theorem recheckRead_stale (h : freshQueued s x fix = false) : recheckRead s k x fix fix2 = checkFailed s k 0x03 [] := by
  simp [recheckRead, h]

theorem recheckRead_differ (h : freshQueued s x fix = true) (hd : dDual x.desc = true) {i : Nat} (hi : firstDiff fix fix2 = some i) :
    recheckRead s k x fix fix2 = checkFailed s k 0x02 (leBytes 4 i) := by
  simp [recheckRead, h, hd, hi]

/-- A single Fix, or a pair that agrees, leaves no difference to report. -/
theorem noDiff (h : dDual x.desc = false ∨ firstDiff fix fix2 = none) : (if dDual x.desc then firstDiff fix fix2 else none) = none := by
  rcases h with h | h <;> simp [h]

theorem recheckRead_early (h : freshQueued s x fix = true) (hd : dDual x.desc = false ∨ firstDiff fix fix2 = none)
    (ht : stamp s < recheckDue s k x.req) : recheckRead s k x fix fix2 = s := by
  simp only [recheckRead, h, noDiff hd, ht, Bool.not_true, Bool.false_eq_true, if_false, if_true]

/-- A recheck whose program has ended goes by its residual test. -/
theorem recheckRead_due {v : Resid} (h : freshQueued s x fix = true) (hd : dDual x.desc = false ∨ firstDiff fix fix2 = none)
    (ht : recheckDue s k x.req ≤ stamp s) (hv : recheckResid s k x.req fix = some v) :
    recheckRead s k x fix fix2 = if residTest x.desc x.req.status (reportedBy x fix) v = false then checkFailed s k 0x01 []
      else dropRun (updReq (recheckOver s) k (fun q => { q with recheckDone := true })) k := by
  simp only [recheckRead, h, noDiff hd, Nat.not_lt.mpr ht, hv, Bool.not_true, Bool.false_eq_true, if_false, Bool.not_eq_true']

end

/-- A recheck that passes marks the request and frees the Plot (16 R378, R379). -/
theorem recheckPassed_spec {c : Cmd} {q : CommitReq} (hc : findCmd s k = some c) (hq : c.req = some q) :
    let t := dropRun (updReq (recheckOver s) k (fun q => { q with recheckDone := true })) k
    findRun t k = none ∧ findCmd t k = some { c with req := some { q with recheckDone := true } } ∧
      t.log = { s.log with recheckAt := stamp s } ∧ onlyChanged [.cmds, .runs, .log] s t := by
  intro t
  obtain rfl := findCmd_key hc
  let c' : Cmd := { c with req := some { q with recheckDone := true } }
  have hupd : updReq (recheckOver s) c.key (fun q => { q with recheckDone := true }) = putCmd (recheckOver s) c' := by
    have hc1 : findCmd (recheckOver s) c.key = some c := hc
    simp [updReq, hc1, hq, c']
  have ht : t = dropRun (putCmd (recheckOver s) c') c.key := congrArg (dropRun · c.key) hupd
  rw [ht]
  refine ⟨findRun_dropRun _ _, findCmd_putCmd (s := recheckOver s) (c := c') hc, rfl, ?_⟩
  exact only_then (only_then (only_mono (setLog_only _ _) (by decide)) (putCmd_only _ c')) (dropRun_only _ _)

/-! ## RECHECK_END with an uncorrectable word: its repair, and the rerun of the command (08 R207, 15 R362). -/

/-! ### What an event leaves of the groups that it touches -/

/-- An event writes the class register and the index of its record, no other register. -/
theorem raiseEvent_rget (s : State) (a : EvArg) {off : Nat} (h0 : off ≠ 0x100) (h4 : off ≠ 0x104) : rget (raiseEvent s a) off = rget s off := by
  have hl : rget (rput (rflag (logEvent s (eventOf s a)) 0x100 a.cls) 0x104 s.log.next) off = rget s off := by
    rw [rget_rput_ne _ h4, rflag, rget_rput_ne _ h0]
    exact rget_congr (only_regs (logEvent_only_log _ _) (by decide)) off
  unfold raiseEvent reportClass
  dsimp only
  split
  · rw [rget_congr (only_regs (raiseIbi_only _ _ _) (by decide)), rget_congr (only_regs (raiseMsix_only _ _ _) (by decide)),
      rget_congr (State.setBin_regs _ _), hl]
  · exact hl

theorem feedEcc_rget (s : State) (words : List Nat) {off : Nat} (h0 : off ≠ 0x100) (h4 : off ≠ 0x104) : rget (feedEcc s words) off = rget s off := by
  induction words generalizing s with
  | nil => rfl
  | cons a as ih =>
    refine (ih (eccCorrected s a)).trans ?_
    rw [eccCorrected_eq, raiseEvent_rget _ _ h0 h4, rget_congr (only_regs (gcount_only _ _ _) (by decide)),
      rget_congr (only_regs (setChart_only _ _) (by decide))]

/-- The bytes and the repair history of Chart memory stand. -/
theorem feedEcc_mem (s : State) (words : List Nat) :
    (feedEcc s words).chart.mem = s.chart.mem ∧ (feedEcc s words).chart.rowHist = s.chart.rowHist := by
  rw [feedEcc_chart]
  induction words generalizing s with
  | nil => exact ⟨rfl, rfl⟩
  | cons a as ih => exact ih (s.setChart (eccNoted s.chart a))

/-! ### The repair of a Plot word -/

/-- Which bytes are Plot goes by the registers of the Almanac boundary (08 R194). -/
theorem inPlot_congr (h : ∀ b, rget t (0x30100 + 4 * b) = rget s (0x30100 + 4 * b)) (a : Nat) : inPlot t a = inPlot s a := by
  unfold inPlot plotLines almLines
  rw [h]

theorem countChartWr_only (s : State) (a n : Nat) : onlyChanged [.pel] s (countChartWr s a n) := by
  unfold countChartWr
  split <;> exact gcount_only _ _ _

theorem chartClear_only (s : State) (lo hi : Nat) : onlyChanged [.chart] s (chartClear s lo hi) := setChart_only _ _

/-- A Plot word read in error for the first time is cleared to zero (08 R207). -/
theorem repairRead_plot {a : Nat} (hp : inPlot s (a / 8 * 8) = true) (hh : s.chart.rowHist.contains (a / 8 * 8) = false) :
    onlyChanged [.chart, .pel] s (repairRead s a).1 ∧
      (repairRead s a).1.chart.mem = (chartClear s (a / 8 * 8) (a / 8 * 8 + 8)).chart.mem := by
  let v := s.setChart { s.chart with rowHist := s.chart.rowHist ++ [a / 8 * 8] }
  have hv : (repairRead s a).1 = countChartWr (chartClear v (a / 8 * 8) (a / 8 * 8 + 8)) (a / 8 * 8) 8 := by
    have hpv : inPlot v (a / 8 * 8) = true := hp
    simp only [repairRead, hh, Bool.false_eq_true, if_false]
    exact if_pos hpv
  rw [hv]
  refine ⟨only_then (only_then (only_mono (setChart_only _ _) (by decide)) (chartClear_only _ _ _)) (countChartWr_only _ _ _), ?_⟩
  rw [only_chart (countChartWr_only _ _ _) (by decide)]
  rfl

/-! ### The rerun -/

/-- The first fault kill of a command that is not waiting for its commit only counts (15 R363). -/
theorem countFault_first {c : Cmd} (hc : findCmd s k = some c) (hp : c.phase ≠ .requested) (h0 : c.faultKills = 0) (avoid : List Nat) (idx : Nat) :
    countFault s k avoid idx = putCmd s { c with faultKills := 1, faultIdx := idx, avoid := avoid, rerun := true } := by
  simp [countFault, hc, hp, h0]

/-- A command whose recheck met an uncorrectable word: without its request, ready to read its input again. -/
def recheckRerun (c : Cmd) : Cmd :=
  { c with req := none, phase := .ready, inputIn := false, raw := [], inst := [], launchableAt := none, rerun := true }

/-- A state without the run of a command and without its place in the journal queue. -/
def dequeued (s : State) (k : CmdKey) : State := dropRun (s.setLog { s.log with queue := s.log.queue.filter (fun q => !(q == k)) }) k

theorem dequeued_queue (s : State) (k : CmdKey) : (dequeued s k).log.queue.contains k = false := by simp [dequeued, dropRun]

/-- A recheck that met an uncorrectable word: a PARTITION event, the request withdrawn, a fault kill counted (16 R380). -/
theorem recheckEcc_eq {x : Queued} {c : Cmd} (hx : x.stream = none) (hc : findCmd s k = some c) :
    ∃ a fs idx, recheckEcc s k x = countFault (putCmd (dequeued (raiseEvent s a) k) (recheckRerun c)) k fs idx := by
  have hv : ∀ a, findCmd (dequeued (raiseEvent s a) k) k = some c := fun a =>
    (findCmd_congr (only_cmds (raiseEvent_only s a) (by decide)) _).trans hc
  unfold recheckEcc
  simp only [hx]
  rw [show findCmd (dropRun (State.setLog _ _) k) k = some c from hv _]
  exact ⟨_, _, _, rfl⟩

/-- A command that its recheck could not read runs again: its request leaves the queue, its run ends (15 R363). -/
theorem recheckEcc_command {x : Queued} {c : Cmd} (hx : x.stream = none) (hc : findCmd s k = some c) (h0 : c.faultKills = 0) :
    (recheckEcc s k x).chart = s.chart ∧ (recheckEcc s k x).log.queue.contains k = false ∧ findRun (recheckEcc s k x) k = none ∧
      ∃ y, findCmd (recheckEcc s k x) k = some y ∧ y.faultKills = 1 ∧ y.rerun = true ∧ y.req = none := by
  obtain rfl := findCmd_key hc
  obtain ⟨a, fs, idx, he⟩ := recheckEcc_eq hx hc
  have hwo := raiseEvent_only s a
  obtain ⟨v, hv⟩ : ∃ v, dequeued (raiseEvent s a) c.key = v := ⟨_, rfl⟩
  have hvc : findCmd v c.key = some c := hv ▸ (findCmd_congr (only_cmds hwo (by decide)) _).trans hc
  have hvr : findRun v c.key = none := hv ▸ findRun_dropRun _ _
  have hvq : v.log.queue.contains c.key = false := hv ▸ dequeued_queue _ _
  have hvm : v.chart = s.chart := by
    rw [← hv]
    exact (only_chart hwo (by decide) : (raiseEvent s a).chart = s.chart)
  have hpc : findCmd (putCmd v (recheckRerun c)) c.key = some (recheckRerun c) := findCmd_putCmd (c := recheckRerun c) hvc
  rw [he, hv, countFault_first hpc (by simp [recheckRerun]) h0]
  have hyc := findCmd_putCmd (c := { recheckRerun c with faultKills := 1, faultIdx := idx, avoid := fs, rerun := true }) hpc
  exact ⟨hvm, hvq, hvr, _, hyc, rfl, rfl, rfl⟩

/-- RECHECK_END with a Plot word that cannot be read. -/
theorem doRecheckEnd_lost {x : Queued} {c : Cmd} {a : Nat} (hq : queued s k = some x) (hnow : recheckNow s = some k) (hsafe : s.bin.safe = false)
    (hx : x.stream = none) (hc : findCmd s k = some c) (h0 : c.faultKills = 0) (hp : inPlot s (a / 8 * 8) = true)
    (hh : s.chart.rowHist.contains (a / 8 * 8) = false) (fix fix2 : List Byte) (words : List Nat) :
    let t := doRecheckEnd s k fix fix2 words (some a) none
    t.chart.mem = (chartClear s (a / 8 * 8) (a / 8 * 8 + 8)).chart.mem ∧ t.log.queue.contains k = false ∧ findRun t k = none ∧
      ∃ y, findCmd t k = some y ∧ y.faultKills = 1 ∧ y.rerun = true ∧ y.req = none := by
  intro t
  let v := feedEcc s words
  have hvp : inPlot v (a / 8 * 8) = true := (inPlot_congr (fun b => feedEcc_rget s words (by omega) (by omega)) _).trans hp
  have hvh : v.chart.rowHist.contains (a / 8 * 8) = false := by rw [(feedEcc_mem s words).2, hh]
  obtain ⟨hro, hrm⟩ := repairRead_plot hvp hvh
  let w := recheckOver (repairRead v a).1
  have ht : t = recheckEcc w k x := by
    simp only [t, doRecheckEnd, hq, hnow, hsafe, ne_eq, not_true_eq_false, Bool.false_eq_true, or_self, if_false]
    rfl
  have hwc : findCmd w k = some c := by
    rw [← hc]
    exact findCmd_congr ((only_cmds hro (by decide)).trans (only_cmds (feedEcc_only s words) (by decide))) k
  obtain ⟨hch, hrest⟩ := recheckEcc_command hx hwc h0
  rw [ht]
  refine ⟨?_, hrest⟩
  rw [hch]
  refine hrm.trans ?_
  simp only [chartClear, State.setChart_chart, v, (feedEcc_mem s words).1]

/-! ## COMMIT_POINT of a command's run (01 R26, 04 R104). -/

/-! ### What a run gives back -/

theorem closeWin_only (s : State) (i : Nat) : onlyChanged [.chart] s (closeWin s i) := by
  unfold closeWin
  exact only_ite (setChart_only _ _) (only_refl _ _)

theorem closeWins_only (s : State) (is : List Nat) : onlyChanged [.chart] s (closeWins s is) := by
  induction is generalizing s with
  | nil => exact only_refl _ _
  | cons i is ih => exact only_trans (closeWin_only s i) (ih _)

theorem snapshotSets_only (s : State) (r : Run) (c : RunCounts) : onlyChanged [.pel] s (snapshotSets s r c) :=
  only_foldl (fun _ _ h => only_trans h (setPel_only _ _)) (only_refl _ _)

/-- A run gives back windows, facets, its slot or its berth. -/
theorem releaseAtCommit_only (s : State) (r : Run) : onlyChanged [.chart, .rose, .batches, .runs] s (releaseAtCommit s r) := by
  have hw : ∀ is, onlyChanged [.chart, .rose, .batches, .runs] s (closeWins s is) := fun is => only_mono (closeWins_only s is) (by decide)
  unfold releaseAtCommit
  refine only_ite ?_ (only_ite ?_ ?_)
  · exact only_then (only_then (only_then (hw _) (setBatches_only _ _)) (emptyKeys_only _ _)) (dropRun_only _ _)
  · exact only_then (only_then (hw _) (emptyFacets_only _ _)) (putRun_only _ _)
  · exact only_then (only_then (hw _) (emptyFacets_only _ _)) (dropRun_only _ _)

/-- A run's descriptor goes by its binding, or by its command. -/
theorem runDesc_command {r : Run} {c : Cmd} (hst : r.stream = none) (hc : findCmd s r.key = some c) : runDesc s r = c.desc := by
  simp [runDesc, hst, hc]

/-- Past its commit point a run is gone, unless its command is SAFE (16 R378). -/
theorem releaseAtCommit_gone {r : Run} {c : Cmd} (hst : r.stream = none) (hc : findCmd s r.key = some c) (h : dClass c.desc ≠ 2) :
    findRun (releaseAtCommit s r) r.key = none := by
  have hd : ∀ v, v.cmds = s.cmds → decide (dClass (runDesc v r) = 2) = false := fun v hv => by
    simp [runDesc_command hst ((findCmd_congr hv _).trans hc), h]
  unfold releaseAtCommit
  dsimp only
  split
  · exact findRun_dropRun _ _
  · rw [hd _ ((only_cmds (emptyFacets_only _ _) (by decide)).trans (only_cmds (closeWins_only _ _) (by decide)))]
    exact findRun_dropRun _ _

/-! ### The request -/

/-- A filed request stands with its command, and ends the journal queue (09 R248). -/
theorem fileReq_filed {c : Cmd} (hc : findCmd s c.key = some c) (q : CommitReq) :
    findCmd (fileReq s c q) c.key = some { c with phase := .requested, req := some { q with order := s.helm.requests } } :=
  findCmd_putCmd (c := { c with phase := .requested, req := some { q with order := s.helm.requests } }) hc

theorem writeFix_only (s : State) (c : Cmd) (h : FixHdr) (payload : List Byte) : onlyChanged [.pel, .out] s (writeFix s c h payload) := by
  unfold writeFix
  exact only_trans (only_ite (only_refl _ _) (emit_only _ _)) (emit_only _ _)

/-- At its commit point a command's run leaves its counters and its Fix, gives back what it holds, and files its request. -/
theorem doCommitPoint_command {r : Run} {m : Model} {st : Nat} {c : Cmd} (hr : findRun s k = some r) (hm : runModel s r = some m)
    (hs : r.status = some st) (hp : r.phase = .commit) (hat : r.commitAt = some s.clk.chipAk) (hf : frozen s = false) (hst : r.stream = none)
    (hc : findCmd s k = some c) (site : TrapRec) :
    ∃ v q, doCommitPoint s k site = fileReq (releaseAtCommit v r) c q ∧ onlyChanged [.regs, .pel, .out] s v ∧
      q.status = (commitPhase s r m site st).status ∧ q.iterRun = r.iter ∧ q.launchAk = r.launchAk ∧ q.fixWritten = true := by
  unfold doCommitPoint
  simp only [hr, hm, hs, hp, hat, hf, hst, ne_eq, not_true_eq_false, Bool.false_eq_true, or_self, if_false]
  have hsnap : ∀ ns a0 a1 cs, onlyChanged [.regs, .pel] s (snapshotSets (traceCmd (if (commitPhase s r m site st).sxtFlushed = 0 then s
      else gcount s (0x1070 + leadSector r % 16) (commitPhase s r m site st).sxtFlushed) 2 0 (leadSector r) ⟨k.ctx, k.ring, runSeq s r⟩ ns a0 a1) r cs) :=
    fun _ _ _ _ => only_then (only_then (only_ite (only_refl _ _) (only_mono (gcount_only _ _ _) (by decide))) (traceCmd_only _ _ _ _ _ _ _ _))
      (snapshotSets_only _ _ _)
  rw [(findCmd_congr (only_cmds (hsnap _ _ _ _) (by decide)) k).trans hc]
  refine ⟨_, _, rfl, only_then (only_mono (hsnap _ _ _ _) (by decide)) (writeFix_only _ _ _ _), rfl, rfl, rfl, ?_⟩
  simp [runReq, hst]

/-- What the commit point of a command's run leaves. -/
theorem doCommitPoint_spec {r : Run} {m : Model} {st : Nat} {c : Cmd} (hr : findRun s k = some r) (hm : runModel s r = some m)
    (hs : r.status = some st) (hp : r.phase = .commit) (hat : r.commitAt = some s.clk.chipAk) (hf : frozen s = false) (hst : r.stream = none)
    (hc : findCmd s k = some c) (site : TrapRec) :
    let t := doCommitPoint s k site
    filedAs s t k (fun q => q.status = (commitPhase s r m site st).status ∧ q.iterRun = r.iter ∧ q.launchAk = r.launchAk ∧ q.fixWritten = true) ∧
      (dClass c.desc ≠ 2 → findRun t k = none) ∧
      onlyChanged [.regs, .pel, .out, .chart, .rose, .runs, .batches, .cmds, .helm, .log] s t := by
  intro t
  obtain ⟨v, q, ht, hv, hq1, hq2, hq3, hq4⟩ := doCommitPoint_command hr hm hs hp hat hf hst hc site
  obtain rfl := findCmd_key hc
  have hrk := findRun_key hr
  have hvc : findCmd v c.key = some c := (findCmd_congr (only_cmds hv (by decide)) _).trans hc
  have hrel := releaseAtCommit_only v r
  have hwc : findCmd (releaseAtCommit v r) c.key = some c := (findCmd_congr (only_cmds hrel (by decide)) _).trans hvc
  have hfile := fileReq_only (releaseAtCommit v r) c q
  simp only [t, ht]
  refine ⟨⟨_, _, fileReq_filed hwc q, rfl, rfl, ⟨hq1, hq2, hq3, hq4⟩, ?_⟩, fun h2 => ?_, ?_⟩
  · rw [fileReq_queue, only_log hrel (by decide), only_log hv (by decide)]
  · rw [findRun_congr (only_runs hfile (by decide)), ← hrk]
    exact releaseAtCommit_gone hst (hrk.symm ▸ hvc) h2
  · exact only_then (only_then (only_mono hv (by decide)) hrel) hfile

/-! ## COMMITTING: the commit sequence of a command, and of a stream unit (09 R249, 12 R306). -/

/-! ### The Heading step -/

theorem setHdg_only (s : State) (h : Nat) (e : Hdg) : onlyChanged [.helm, .log] s (setHdg s h e) := by simp [onlyChanged, setHdg]
theorem setHdgState_only (s : State) (h st : Nat) : onlyChanged [.helm] s (setHdgState s h st) := setHelm_only _ _
theorem setModel_only (s : State) (n : Nat) (m : Model) : onlyChanged [.helm] s (setModel s n m) := setHelm_only _ _

theorem putStore_only (s : State) (e : Hdg) (store : Option (List Byte)) : onlyChanged [.chart, .pel] s (putStore s e store) := by
  unfold putStore
  split
  · exact only_ite (only_then (only_mono (setChart_only _ _) (by decide)) (countChartWr_only _ _ _)) (only_refl _ _)
  · exact only_refl _ _

theorem freeOthers_only (s : State) (k : CmdKey) (hs : List Nat) : onlyChanged [.helm] s (freeOthers s k hs) := by
  induction hs generalizing s with
  | nil => exact only_refl _ _
  | cons h hs ih => exact only_trans (only_ite (only_refl _ _) (setHdgState_only _ _ _)) (ih _)

theorem bindEntries_only (s : State) (n : Nat) (m : Model) (i : Nat) : onlyChanged [.helm, .log] s (bindEntries s n m i) := by
  induction i generalizing s with
  | zero => exact only_refl _ _
  | succ i ih => exact only_trans (setHdg_only _ _ _) (ih _)

theorem freeEntries_only (s : State) (first i : Nat) : onlyChanged [.helm, .log] s (freeEntries s first i) := by
  induction i generalizing s with
  | zero => exact only_refl _ _
  | succ i ih => exact only_trans (setHdg_only _ _ _) (ih _)

theorem commitLoad_only (s : State) (n : Nat) : onlyChanged [.helm, .log] s (commitLoad s n) := by
  unfold commitLoad
  split
  · exact only_trans (only_mono (setModel_only _ _ _) (by decide)) (bindEntries_only _ _ _ _)
  · exact only_refl _ _

theorem commitUnload_only (s : State) (n : Nat) : onlyChanged [.helm, .log] s (commitUnload s n) := by
  unfold commitUnload
  split
  · exact only_trans (only_mono (setHelm_only _ _) (by decide)) (freeEntries_only _ _ _)
  · exact only_refl _ _

theorem boundStream_only (s : State) (h n : Nat) : onlyChanged [.helm, .log] s (boundStream s h n) := setHdg_only _ _ _

theorem unbindStream_only (s : State) (k : CmdKey) (n : Nat) :
    onlyChanged [.chart, .rose, .runs, .streams, .helm, .log] s (unbindStream s k n) := by
  unfold unbindStream
  split
  · exact only_refl _ _
  · exact only_then (only_then (only_then (only_then (only_then (only_mono (emptyFacets_only _ _) (by decide)) (closeWin_only _ _))
      (dropRun_only _ _)) (setStreams_only _ _)) (setHdg_only _ _ _)) (setHdg_only _ _ _)

theorem chargeCtx_only (s : State) (ctx : Nat) (soft : Bool) (charge : Nat) (credit : Int) :
    onlyChanged [.helm] s (chargeCtx s ctx soft charge credit) := by
  unfold chargeCtx
  split
  · exact only_ite (setHelm_only _ _) (only_refl _ _)
  · exact only_refl _ _

/-- The groups of the Heading step: entries and models, warm stores, counters, what an unbind gives back. -/
def headGroups : List StateGroup := [.helm, .log, .chart, .pel, .rose, .runs, .streams]

/-- What the Heading step does by opcode: a model's load or unload, a binding made or released. -/
def headingOp (s : State) (c : Cmd) (q : CommitReq) : State :=
  if opOf c.desc = 0x01 then (if q.status = 0 then commitLoad s (dModel c.desc % 4096) else s)
  else if opOf c.desc = 0x02 ∧ q.status = 0 then commitUnload s (dModel c.desc % 4096)
  else if opOf c.desc = 0x20 ∧ q.status = 0 then boundStream s (dHandle c.desc) (leField c.desc 48 1 % 64)
  else if opOf c.desc = 0x21 ∧ q.status = 0 then unbindStream s c.key (leField c.desc 48 1 % 64)
  else s

theorem headingOp_only (s : State) (c : Cmd) (q : CommitReq) : onlyChanged headGroups s (headingOp s c q) :=
  only_ite (only_ite (only_mono (commitLoad_only _ _) (by decide)) (only_refl _ _))
    (only_ite (only_mono (commitUnload_only _ _) (by decide))
    (only_ite (only_mono (boundStream_only _ _ _) (by decide))
    (only_ite (only_mono (unbindStream_only _ _ _) (by decide)) (only_refl _ _))))

/-- The command's own entry in the Heading step, with its warm store. -/
def headingEntry (s : State) (c : Cmd) (q : CommitReq) : Option Hdg → State
  | some e => setHdg (putStore s e q.store) (dHandle c.desc) e
  | none => s

theorem headingEntry_only (s : State) (c : Cmd) (q : CommitReq) (img : Option Hdg) :
    onlyChanged [.chart, .pel, .helm, .log] s (headingEntry s c q img) := by
  cases img with
  | none => exact only_refl _ _
  | some e => exact only_then (only_mono (putStore_only _ _ _) (by decide)) (setHdg_only _ _ _)

theorem headingStep_eq (s : State) (c : Cmd) (q : CommitReq) (img : Option Hdg) : ∃ others counts soft,
    headingStep s c q img = chargeCtx (ccounts (headingOp (freeOthers (headingEntry s c q img) c.key others) c q) c.key.ctx counts)
      c.key.ctx soft q.charge q.credit := by
  cases img <;> exact ⟨_, _, _, rfl⟩

theorem headingStep_only (s : State) (c : Cmd) (q : CommitReq) (img : Option Hdg) : onlyChanged headGroups s (headingStep s c q img) := by
  obtain ⟨others, counts, soft, he⟩ := headingStep_eq s c q img
  rw [he]
  exact only_then (only_then (only_trans (only_then (only_mono (headingEntry_only _ _ _ _) (by decide)) (freeOthers_only _ _ _))
    (headingOp_only _ _ _)) (ccounts_only _ _ _)) (chargeCtx_only _ _ _ _ _)

/-! ### What leaves the device stays out -/

theorem grows_of_only (h : onlyChanged gs s t) (hg : StateGroup.out ∉ gs := by decide) : s.out <+: t.out := only_out h hg ▸ List.prefix_rfl

theorem emit_grows (s : State) (o : Output) : s.out <+: (emit s o).out := emit_out s o ▸ List.prefix_append _ _

theorem raiseMsix_grows (s : State) (f e : Nat) : s.out <+: (raiseMsix s f e).out := by
  unfold raiseMsix
  dsimp only
  split
  · exact List.prefix_rfl
  · exact emit_grows _ _

theorem raiseRing_grows (s : State) (c : Nat) (r : Machine.Ring) : s.out <+: (raiseRing s c r).out := by
  unfold raiseRing
  split
  · exact raiseMsix_grows _ _ _
  · exact List.prefix_rfl

theorem pumpN_grows (n : Nat) (s : State) (ctx ring : Nat) : s.out <+: (pumpN n s ctx ring).out := by
  induction n generalizing s with
  | zero => exact List.prefix_rfl
  | succ n ih =>
    unfold pumpN
    dsimp only
    split
    · exact (emit_grows (setRing s ctx ring _) _).trans (ih _)
    · exact List.prefix_rfl

theorem foldl_grows {α : Type} {f : State → α → State} (hf : ∀ t x, t.out <+: (f t x).out) (l : List α) (s : State) : s.out <+: (l.foldl f s).out := by
  induction l generalizing s with
  | nil => exact List.prefix_rfl
  | cons x xs ih => exact (hf s x).trans (ih _)

theorem expireWatches_grows (s : State) (k : CmdKey) (runs origin : Nat) : s.out <+: (expireWatches s k runs origin).out := by
  refine foldl_grows (fun t w => ?_) s.pel.watches s
  dsimp only
  split
  · exact emit_grows _ _
  · exact List.prefix_rfl

theorem expireWatches_only (s : State) (k : CmdKey) (runs origin : Nat) : onlyChanged [.pel, .out] s (expireWatches s k runs origin) := by
  unfold expireWatches
  exact only_then (only_foldl (fun _ _ h => only_ite (only_trans h (emit_only _ _)) h) (only_refl _ _)) (setPel_only _ _)

/-! ### The Beacon step -/

theorem commitSignal_only (s : State) (k : CmdKey) (b : Nat) (v : Word) (raise : Bool) :
    onlyChanged [.regs, .pel, .helm] s (commitSignal s k b v raise) :=
  only_then (only_mono (traceCmd_only _ _ _ _ _ _ _ _) (by decide)) (setHelm_only _ _)

/-- The groups of the Beacon step: Beacons, the trace, the ring's vector. -/
def beaconGroups : List StateGroup := .helm :: reportGroups

/-- The Beacons that a commit signals. -/
theorem beaconStep_only (s : State) (c : Cmd) (q : CommitReq) : onlyChanged beaconGroups s (beaconStep s c q) ∧ s.out <+: (beaconStep s c q).out := by
  unfold beaconStep
  dsimp only
  generalize hv : (if opOf c.desc = 0x40 ∧ q.status = 0 ∧ !(leField c.desc 35 1).testBit 7 then
    commitSignal s c.key (leField c.desc 36 2 % 32768) (BitVec.ofNat 32 (leField c.desc 40 4)) (decide (leField c.desc 34 1 = 1)) else s) = v
  generalize hw : (if c.bcnOk then commitSignal v c.key (dBeacon c.desc % 32768) c.key.seq true else v) = w
  have hvo : onlyChanged [.regs, .pel, .helm] s v := hv ▸ only_ite (commitSignal_only _ _ _ _ _) (only_refl _ _)
  have hwo : onlyChanged [.regs, .pel, .helm] s w := only_trans hvo (hw ▸ only_ite (commitSignal_only _ _ _ _ _) (only_refl _ _))
  have hout : s.out <+: w.out := grows_of_only hwo
  split
  · exact ⟨only_then (only_mono hwo (by decide)) (raiseRing_only _ _ _), hout.trans (raiseRing_grows _ _ _)⟩
  · exact ⟨only_mono hwo (by decide), hout⟩

/-! ### The end of the sequence -/

theorem writeJournal_only (s : State) (e : JEntry) : onlyChanged [.log] s (writeJournal s e) := setLog_only _ _

theorem noteBreach_only (s : State) (k : CmdKey) (x : Option Mer) : onlyChanged [.bin] s (noteBreach s k x) := by
  unfold noteBreach
  split
  · exact setBin_only _ _
  · exact only_refl _ _

theorem updReq_only (s : State) (k : CmdKey) (f : CommitReq → CommitReq) : onlyChanged [.cmds, .streams] s (updReq s k f) := by
  unfold updReq
  split
  · exact only_mono (putCmd_only _ _) (by decide)
  · exact only_mono (setStreams_only _ _) (by decide)

/-- DONE moves past a command, and its ring requests what its window now holds. -/
def passDone (s : State) (k : CmdKey) : State :=
  pump (setRing s k.ctx k.ring { ringOf s k.ctx k.ring with done := k.seq + 1 }) k.ctx k.ring

theorem passDone_spec (s : State) (k : CmdKey) :
    (ringOf (passDone s k) k.ctx k.ring).done = k.seq + 1 ∧ onlyChanged [.helm, .pel, .out] s (passDone s k) ∧ s.out <+: (passDone s k).out := by
  obtain ⟨honly, hring⟩ := pump_spec (setRing s k.ctx k.ring { ringOf s k.ctx k.ring with done := k.seq + 1 }) k.ctx k.ring
  refine ⟨?_, only_trans (only_mono (setRing_only _ _ _ _) (by decide)) honly, pumpN_grows 32 (setRing s k.ctx k.ring _) _ _⟩
  unfold passDone
  rw [hring, ringOf_setRing_same]

/-- The journal's part of the last step: the standing entry goes, "committed" comes, the last committed number and the queue follow. -/
def journalCommitted (s : State) (k : CmdKey) (replayed : Bool) : State :=
  let s := s.setLog { s.log with journal := s.log.journal.filter (fun e => !(decide (e.2.kind = 1) && decide (e.2.ctx = k.ctx) &&
    decide (e.2.ring = k.ring) && decide (e.2.seq = k.seq))) }
  let s := writeJournal s
    { kind := 2, eflags := bitAt s.clk.shadowMark 0 + bitAt replayed 1, ctx := k.ctx, seq := k.seq, ring := k.ring,
      slot := slotOf (ringOf s k.ctx k.ring) k.seq, beacon := 0, handle2 := 0, mer := s.clk.shadow, record := [], image1 := [], image2 := [] }
  s.setLog { s.log with last := mset s.log.last (ringKey k.ctx k.ring) k.seq, queue := s.log.queue.filter (fun x => !(x == k)) }

theorem journalCommitted_spec (s : State) (k : CmdKey) (replayed : Bool) :
    onlyChanged [.log] s (journalCommitted s k replayed) ∧
      mget (journalCommitted s k replayed).log.last (ringKey k.ctx k.ring) = some k.seq ∧
      (journalCommitted s k replayed).log.queue.contains k = false := by
  refine ⟨only_then (only_then (setLog_only _ _) (writeJournal_only _ _)) (setLog_only _ _), ?_, ?_⟩ <;> simp [journalCommitted]

/-- The command's part of the last step: its watches expire, a breach is left to the deadline watch, its run and it are gone. -/
def endCommand (s : State) (c : Cmd) : State :=
  let k := c.key
  let s := expireWatches s k c.runs (match s.pel.bsets.find? (fun e => e.2.tag = some k) with | some e => e.1 | none => 0xFFFF)
  let s := match c.req with
    | some q => if watchedClass c.desc && !c.watched then noteBreach s k (reqBreach q c.deadline (watchBudget c.desc)) else s
    | none => s
  let s := dropCmd (dropRun s k) k
  s.setHelm { s.helm with lateCover := s.helm.lateCover.filter (fun x => !(decide (x = (ringKey k.ctx k.ring, k.seq)))) }

theorem endCommand_spec (s : State) (c : Cmd) :
    findCmd (endCommand s c) c.key = none ∧ onlyChanged [.pel, .out, .bin, .runs, .cmds, .helm] s (endCommand s c) ∧
      s.out <+: (endCommand s c).out := by
  let v := expireWatches s c.key c.runs (match s.pel.bsets.find? (fun e => e.2.tag = some c.key) with | some e => e.1 | none => 0xFFFF)
  obtain ⟨w, hw⟩ : ∃ w, (match c.req with
    | some q => if watchedClass c.desc && !c.watched then noteBreach v c.key (reqBreach q c.deadline (watchBudget c.desc)) else v
    | none => v) = w := ⟨_, rfl⟩
  have hwo : onlyChanged [.bin] v w := by
    rw [← hw]
    split
    · exact only_ite (noteBreach_only _ _ _) (only_refl _ _)
    · exact only_refl _ _
  have he : endCommand s c = (dropCmd (dropRun w c.key) c.key).setHelm { (dropCmd (dropRun w c.key) c.key).helm with
      lateCover := w.helm.lateCover.filter (fun x => !(decide (x = (ringKey c.key.ctx c.key.ring, c.key.seq)))) } := by rw [← hw]; rfl
  rw [he]
  refine ⟨findCmd_dropCmd _ _, only_then (only_then (only_then (only_then (only_mono (expireWatches_only s _ _ _) (by decide)) hwo)
    (dropRun_only _ _)) (dropCmd_only _ _)) (setHelm_only _ _), ?_⟩
  have hout : v.out <+: w.out := grows_of_only hwo
  exact (expireWatches_grows s _ _ _).trans hout

theorem committedStep_eq (s : State) (c : Cmd) (replayed : Bool) :
    committedStep s c replayed = passDone (endCommand (journalCommitted s c.key replayed) c) c.key := rfl

/-- The groups of the last step. -/
def committedGroups : List StateGroup := [.log, .pel, .out, .bin, .runs, .cmds, .helm]

/-- "committed": the command is gone, DONE has moved past it, its number is the last of its ring, it left the journal queue. -/
theorem committedStep_spec (s : State) (c : Cmd) (replayed : Bool) :
    let t := committedStep s c replayed
    findCmd t c.key = none ∧ (ringOf t c.key.ctx c.key.ring).done = c.key.seq + 1 ∧
      mget t.log.last (ringKey c.key.ctx c.key.ring) = some c.key.seq ∧ t.log.queue.contains c.key = false ∧
      onlyChanged committedGroups s t ∧ s.out <+: t.out := by
  rw [committedStep_eq]
  intro t
  obtain ⟨hjo, hlast, hqueue⟩ := journalCommitted_spec s c.key replayed
  obtain ⟨hgone, heo, heout⟩ := endCommand_spec (journalCommitted s c.key replayed) c
  obtain ⟨hdone, hpo, hpout⟩ := passDone_spec (endCommand (journalCommitted s c.key replayed) c) c.key
  have hlog : t.log = (journalCommitted s c.key replayed).log := (only_log hpo (by decide)).trans (only_log heo (by decide))
  have hout : (journalCommitted s c.key replayed).out = s.out := only_out hjo (by decide)
  refine ⟨?_, hdone, by rw [hlog, hlast], by rw [hlog, hqueue], ?_, hout ▸ heout.trans hpout⟩
  · exact (findCmd_congr (only_cmds hpo (by decide)) _).trans hgone
  · exact only_then (only_then (only_mono hjo (by decide)) heo) hpo

/-! ## COMMITTING as a whole, and the statement of the three commands. -/

/-! ### The commit sequence of a command -/

theorem fnFor_congr (h : t.regs = s.regs) (ctx : Nat) : fnFor t ctx = fnFor s ctx := by
  have howns : ∀ f, ownsCtx t f ctx = ownsCtx s f ctx := fun f => by
    unfold ownsCtx fnRange
    rw [rget_congr h]
  have hfrom : ∀ n f, fnOfFrom t ctx n f = fnOfFrom s ctx n f := by
    intro n
    induction n with
    | zero => exact fun _ => rfl
    | succ n ih => exact fun f => by rw [fnOfFrom, fnOfFrom, howns, ih]
  simp only [fnFor, fnOf, hfrom]

/-- Steps 3 and 4: the record is posted into its slot, behind what left before. -/
theorem postRecord_journalled (s : State) (c : Cmd) (rec : CplRec) (img : Option Hdg) (bs : List Byte) :
    let v := postRecord (journalCommitting s c rec img) c bs
    onlyChanged [.log, .pel, .out] s v ∧
      Output.memWrite (fnFor s c.key.ctx) ((ringOf s c.key.ctx c.key.ring).cqBase + 32 * slotOf (ringOf s c.key.ctx c.key.ring) c.key.seq) bs ∈ v.out := by
  have hj : onlyChanged [.log] s (journalCommitting s c rec img) := writeJournal_only _ _
  refine ⟨only_then (only_mono hj (by decide)) (emit_only _ _), ?_⟩
  unfold postRecord
  rw [ringOf_congr (only_helm hj (by decide)), fnFor_congr (only_regs hj (by decide)), emit_out]
  exact List.mem_append_right _ (List.mem_singleton_self _)

/-- What a whole commit sequence of a command can touch. -/
def commitGroups : List StateGroup := .cmds :: .chart :: .rose :: .runs :: .streams :: .helm :: reportGroups

/-- The commit sequence up to its last step: the record is posted (09 R249). -/
theorem commitCmd_posts (s : State) (c : Cmd) (q : CommitReq) :
    ∃ v, commitCmd s c q 7 = committedStep v c false ∧ onlyChanged commitGroups s v ∧
      Output.memWrite (fnFor s c.key.ctx) ((ringOf s c.key.ctx c.key.ring).cqBase + 32 * slotOf (ringOf s c.key.ctx c.key.ring) c.key.seq)
        (cplBytes (recordOf s c (withSignalValue s c q))) ∈ v.out := by
  refine ⟨_, rfl, ?_⟩
  generalize withSignalValue s c q = q'
  let img := imageOf s c q'
  let posted := postRecord (journalCommitting s c (recordOf s c q') img) c (cplBytes (recordOf s c q'))
  obtain ⟨h3, hpost⟩ := postRecord_journalled s c (recordOf s c q') img (cplBytes (recordOf s c q'))
  have h4 := headingStep_only posted c q' img
  have h5 := updReq_only (headingStep posted c q' img) c.key (fun q => { q with headDone := true })
  obtain ⟨h6, hout6⟩ := beaconStep_only _ c q'
  exact ⟨only_then (only_then (only_then (only_mono h3 (by decide)) h4) h5) h6,
    ((grows_of_only h4).trans ((grows_of_only h5).trans hout6)).subset hpost⟩

/-- The commit sequence run to its end: the command is committed. -/
theorem commitCmd_spec (s : State) (c : Cmd) (q : CommitReq) :
    let t := commitCmd s c q 7
    findCmd t c.key = none ∧ (ringOf t c.key.ctx c.key.ring).done = c.key.seq + 1 ∧
      mget t.log.last (ringKey c.key.ctx c.key.ring) = some c.key.seq ∧ t.log.queue.contains c.key = false ∧
      Output.memWrite (fnFor s c.key.ctx) ((ringOf s c.key.ctx c.key.ring).cqBase + 32 * slotOf (ringOf s c.key.ctx c.key.ring) c.key.seq)
        (cplBytes (recordOf s c (withSignalValue s c q))) ∈ t.out ∧ onlyChanged commitGroups s t := by
  obtain ⟨v, hv, ho, hpost⟩ := commitCmd_posts s c q
  obtain ⟨hgone, hdone, hlast, hqueue, hend, hout⟩ := committedStep_spec v c false
  rw [hv]
  exact ⟨hgone, hdone, hlast, hqueue, hout.subset hpost, only_then ho hend⟩

/-! ### The commit sequence of a stream unit -/

theorem mem_mset {α : Type} (m : Machine.Map α) (k : Nat) (v : α) : (k, v) ∈ mset m k v := by
  induction m with
  | nil => simp [mset]
  | cons e m ih =>
    obtain ⟨j, w⟩ := e
    simp only [mset]
    split
    · exact List.mem_cons_self
    · split
      · exact List.mem_cons_self
      · exact List.mem_cons_of_mem _ ih

/-- A "stream committing" entry stands once it is written. -/
theorem streamJournalled_writeJournal (s : State) (e : JEntry) (h : e.kind = 3) : streamJournalled (writeJournal s e) e.ring = true := by
  refine List.any_eq_true.mpr ⟨(journalSlot s, e), mem_mset _ _ _, ?_⟩
  simp [h]

theorem streamJournalled_congr (h : t.log.journal = s.log.journal) (n : Nat) : streamJournalled t n = streamJournalled s n := by
  simp only [streamJournalled, h]

theorem settleDue_only (s : State) (n : Nat) (seq : Word) (status flags merit : Nat) (payload : List Byte) :
    onlyChanged [.streams] s (settleDue s n seq status flags merit payload) := by
  unfold settleDue
  split
  · exact only_refl _ _
  · exact setStreams_only _ _

/-- A Heading entry of a unit, with its warm store. -/
def unitEntry (s : State) (h : Nat) (e : Hdg) (store : Option (List Byte)) : State := setHdg (putStore s e store) h e

theorem unitEntry_only (s : State) (h : Nat) (e : Hdg) (store : Option (List Byte)) :
    onlyChanged [.chart, .pel, .helm, .log] s (unitEntry s h e store) :=
  only_then (only_mono (putStore_only _ _ _) (by decide)) (setHdg_only _ _ _)

theorem unitEntry_journal (s : State) (h : Nat) (e : Hdg) (store : Option (List Byte)) :
    (unitEntry s h e store).log.journal = s.log.journal := by
  have hlog : (putStore s e store).log = s.log := only_log (putStore_only _ _ _) (by decide)
  simp [unitEntry, setHdg, hlog]

/-- A unit's counters at its commit, and the Fix frame of one that did not launch. -/
def unitCounts (s : State) (n : Nat) (st : Stream) (u : UnitSt) (q : CommitReq) : State :=
  let s := ccounts s st.key.ctx (commitCounts q (decide (0 < st.faultKills)) false (0, 0))
  let s := streamCount (streamCount s st.key.ctx n 0) st.key.ctx n (1 + (unitKind q.status).1)
  if q.launched then s else settleDue s n u.seq q.status 0 inf32 []

theorem unitCounts_only (s : State) (n : Nat) (st : Stream) (u : UnitSt) (q : CommitReq) :
    onlyChanged [.pel, .streams] s (unitCounts s n st u q) := by
  have hc : onlyChanged [.pel, .streams] s
      (streamCount (streamCount (ccounts s st.key.ctx (commitCounts q (decide (0 < st.faultKills)) false (0, 0))) st.key.ctx n 0) st.key.ctx n
        (1 + (unitKind q.status).1)) :=
    only_then (only_then (only_mono (ccounts_only _ _ _) (by decide)) (ccount_only _ _ _ _)) (ccount_only _ _ _ _)
  exact only_ite hc (only_then hc (settleDue_only _ _ _ _ _ _ _))

/-- The end of a unit: out of the journal queue, a breach left to the deadline watch, its binding free for the next Sounding. -/
def endUnit (s : State) (n : Nat) (st : Stream) (u : UnitSt) (q : CommitReq) : State :=
  let s := s.setLog { s.log with queue := s.log.queue.filter (fun x => !(x == st.key)) }
  let s := noteBreach s st.key (reqBreach q (unitDeadline s n st u) (some st.budget))
  s.setStreams (mset s.streams n { st with
    unit := none, faultKills := 0, due := st.due.map (fun d => if d.answers && decide (d.seq = u.seq) then { d with ready := true } else d) })

theorem endUnit_spec (s : State) (n : Nat) (st : Stream) (u : UnitSt) (q : CommitReq) :
    (∃ y, mget (endUnit s n st u q).streams n = some y ∧ y.unit = none ∧ y.faultKills = 0) ∧
      (endUnit s n st u q).log.journal = s.log.journal ∧ onlyChanged [.log, .bin, .streams] s (endUnit s n st u q) := by
  have hb : ∀ v x, (noteBreach v st.key x).log = v.log := fun v x => only_log (noteBreach_only v st.key x) (by decide)
  have honly : onlyChanged [.log, .bin, .streams] s (endUnit s n st u q) :=
    only_then (only_then (only_mono (setLog_only _ _) (by decide)) (noteBreach_only _ _ _)) (setStreams_only _ _)
  exact ⟨⟨_, mget_mset_same _ _ _, rfl, rfl⟩, by simp [endUnit, hb], honly⟩

/-- The commit sequence of a unit run to its end. -/
theorem commitUnit_eq (s : State) (n : Nat) (st : Stream) (u : UnitSt) (q : CommitReq) : ∃ e c1 e1 store st', e.kind = 3 ∧ e.ring = n ∧
    commitUnit s n st u q 7 =
      endUnit (unitCounts (unitEntry (unitEntry (writeJournal s e) st.ctlHandle c1 q.store) st.estHandle e1 store) n st u q) n st' u q :=
  ⟨_, _, _, _, _, rfl, rfl, rfl⟩

theorem commitUnit_spec (s : State) (n : Nat) (st : Stream) (u : UnitSt) (q : CommitReq) :
    let t := commitUnit s n st u q 7
    (∃ y, mget t.streams n = some y ∧ y.unit = none ∧ y.faultKills = 0) ∧ streamJournalled t n = true ∧
      onlyChanged [.streams, .log, .helm, .chart, .pel, .bin] s t := by
  intro t
  obtain ⟨e, c1, e1, store, st', hkind, hring, ht⟩ := commitUnit_eq s n st u q
  let v1 := writeJournal s e
  let v2 := unitEntry v1 st.ctlHandle c1 q.store
  let v3 := unitEntry v2 st.estHandle e1 store
  let v4 := unitCounts v3 n st u q
  obtain ⟨hunit, hjournal, ho5⟩ := endUnit_spec v4 n st' u q
  have ho1 : onlyChanged [.log] s v1 := writeJournal_only _ _
  have ho2 : onlyChanged [.chart, .pel, .helm, .log] v1 v2 := unitEntry_only _ _ _ _
  have ho3 : onlyChanged [.chart, .pel, .helm, .log] v2 v3 := unitEntry_only _ _ _ _
  have ho4 : onlyChanged [.pel, .streams] v3 v4 := unitCounts_only _ _ _ _ _
  have hj : (endUnit v4 n st' u q).log.journal = v1.log.journal :=
    calc (endUnit v4 n st' u q).log.journal = v4.log.journal := hjournal
      _ = v3.log.journal := congrArg LogSt.journal (only_log ho4 (by decide))
      _ = v2.log.journal := unitEntry_journal _ _ _ _
      _ = v1.log.journal := unitEntry_journal _ _ _ _
  simp only [t, ht]
  refine ⟨hunit, ?_, only_then (only_then (only_then (only_then (only_mono ho1 (by decide)) ho2) ho3) ho4) ho5⟩
  rw [streamJournalled_congr hj, ← hring]
  exact streamJournalled_writeJournal s e hkind

/-! ### COMMITTING -/

/-- A Fix that is fresh, already checked or not written passes the check of 16 R381. -/
theorem fixPasses {x : Queued} {fix : List Byte} (h : x.req.fixWritten = true → x.req.recheckDone = false → freshQueued s x fix = true) :
    (x.req.fixWritten && !x.req.recheckDone && !freshQueued s x fix) = false := by
  cases hw : x.req.fixWritten
  · rfl
  · cases hd : x.req.recheckDone
    · simp [h hw hd]
    · rfl

/-- A command's request that may be journalled runs its commit sequence. -/
theorem doCommitting_command {x : Queued} {c : Cmd} {fix : List Byte} (hq : queued s k = some x) (hx : x.stream = none)
    (hm : mayCommit s k x = true) (hc : findCmd s k = some c) (hj : journalled s k = false)
    (hfix : x.req.fixWritten = true → x.req.recheckDone = false → freshQueued s x fix = true) :
    doCommitting s k fix [] 7 = commitCmd s c x.req 7 := by
  simp [doCommitting, hq, hm, fixPasses hfix, hx, hc, hj]

/-- A unit's request that may be journalled runs its commit sequence. -/
theorem doCommitting_unit {x : Queued} {n : Nat} {st : Stream} {u : UnitSt} {fix : List Byte} (hq : queued s k = some x)
    (hx : x.stream = some n) (hst : mget s.streams n = some st) (hu : st.unit = some u) (hm : mayCommit s k x = true)
    (hj : streamJournalled s n = false) (hfix : x.req.fixWritten = true → x.req.recheckDone = false → freshQueued s x fix = true) :
    doCommitting s k fix [] 7 = commitUnit s n st u x.req 7 := by
  simp [doCommitting, hq, hm, fixPasses hfix, hx, hst, hu, hj]

/-- Settles O53: COMMIT_POINT by what doCommitPoint_spec says, RECHECK_END check by check, COMMITTING by the two commit sequences. -/
theorem commits : Obligations.Commits := by
  intro s k
  refine ⟨fun r m st c site hr hm hs hp hat hf hst hc => ⟨_, rfl, doCommitPoint_spec hr hm hs hp hat hf hst hc site⟩,
    fun x fix fix2 words shadow hq hnow hsafe => ?_, fun x c fix hq hx hm hc hj hfix => ?_, fun x n st u fix hq hx hst hu hm hj hfix => ?_⟩
  · intro s1 same ends
    have hends : ∀ P : State → Prop, P (recheckRead s1 k x fix fix2) → ends P := fun P hP =>
      ⟨_, rfl, (doRecheckEnd_read hq hnow hsafe fix fix2 words shadow).symm ▸ hP⟩
    refine ⟨fun hfresh => hends _ ?_, fun hfresh hdual hdiff => hends _ ?_, fun hfresh hsame ht => hends _ (recheckRead_early hfresh hsame ht),
      fun v hfresh hsame ht hv => ⟨fun hbad => hends _ ?_, fun c q hgood hx hc hreq => hends _ ?_⟩,
      fun c a hx hc h0 hp hh => ⟨_, rfl, doRecheckEnd_lost hq hnow hsafe hx hc h0 hp hh fix fix2 words⟩⟩
    · rw [recheckRead_stale hfresh]
      exact checkFailed_safe s1 k 0x03 []
    · obtain ⟨i, hi⟩ := Option.isSome_iff_exists.mp hdiff
      rw [recheckRead_differ hfresh hdual hi]
      exact checkFailed_safe s1 k 0x02 _
    · rw [recheckRead_due hfresh hsame ht hv, if_pos hbad]
      exact checkFailed_safe s1 k 0x01 []
    · rw [recheckRead_due hfresh hsame ht hv, if_neg (by simp [hgood])]
      have hc1 : findCmd s1 k = some c := (findCmd_congr (only_cmds (feedEcc_only s words) (by decide)) k).trans hc
      exact recheckPassed_spec hc1 hreq
  · obtain rfl := findCmd_key hc
    obtain ⟨hgone, hdone, hlast, hqueue, hrec, ho⟩ := commitCmd_spec s c x.req
    have hgo : doCommitting s c.key fix [] 7 = commitCmd s c x.req 7 := doCommitting_command hq hx hm hc hj hfix
    exact ⟨_, rfl, hgo ▸ ⟨hgone, hdone, hlast, hqueue, hrec, only_clk ho (by decide), only_boot ho (by decide), only_flash ho (by decide)⟩⟩
  · have hgo : doCommitting s k fix [] 7 = commitUnit s n st u x.req 7 := doCommitting_unit hq hx hst hu hm hj hfix
    exact ⟨_, rfl, hgo ▸ commitUnit_spec s n st u x.req⟩

end Sys2Proof.Proofs

/-! SUPPORT. The proofs of the statements of 02_problems_and_charts.md: LOAD_MODEL with its fit check, and UNLOAD_MODEL. -/

namespace Sys2Proof.Proofs
open Sys2Proof Sys2Proof.Machine Sys2Proof.Laws

/- One proof at a time: elaborated beside the pending kernel checks of the text's tests, they need more threads than the memory limit holds. -/
set_option Elab.async false

variable {s t u v : State} {gs : List StateGroup} {k : CmdKey} {c c' : Cmd} {im : Image}

/-! ## Laws that the proofs of this family share: which command may run, and what a filed request leaves. -/

/-- What a command gives, by an equation for the state that exec answers. -/
theorem gives_of_eq {i : Instr} {P : State → Prop} (hi : exec i s = .next u) (ht : u = t) (hp : P t) : gives i s P := ⟨t, ht ▸ hi, hp⟩

/-- A command that may run is the one of its key, with the opcode asked for, and waits to run. -/
theorem runnable_spec {op : Nat} (h : runnable s k op = some c) : findCmd s k = some c ∧ opOf c.desc = op ∧ waitingToRun c = true := by
  unfold runnable at h
  split at h
  · next d hd =>
    split at h
    · next hrun =>
      obtain rfl := Option.some.inj h
      simp only [Bool.and_eq_true, decide_eq_true_eq] at hrun
      obtain ⟨⟨⟨hop, hwaits⟩, -⟩, -⟩ := hrun
      exact ⟨hd, hop, hwaits⟩
    · exact nomatch h
  · exact nomatch h

/-- A command past its wait may not run again. -/
theorem runnable_none (hc : findCmd s k = some c) (hw : waitingToRun c = false) (op : Nat) : runnable s k op = none := by
  simp [runnable, hc, hw]

/-- The key of a command of the list is found. -/
theorem findCmd_of_mem (h : c ∈ s.cmds) : ∃ c', findCmd s c.key = some c' :=
  Option.isSome_iff_exists.mp (List.find?_isSome.mpr ⟨c, h, by simp⟩)

/-- A command put back is found by its key, whatever changed before outside the commands. -/
theorem findCmd_putCmd_after (hv : onlyChanged gs s v) (hc : findCmd s c.key = some c') (hg : StateGroup.cmds ∉ gs := by decide) :
    findCmd (putCmd v c) c.key = some c :=
  findCmd_putCmd ((findCmd_congr (only_cmds hv hg) _).trans hc)

/-- A request is filed with what was asked of it, whatever changed before outside the commands and the Logbook (09 R248). -/
theorem fileReq_filedAs {q : CommitReq} {p : CommitReq → Prop} (hv : onlyChanged gs s v) (hc : findCmd s c.key = some c')
    (hp : p { q with order := v.helm.requests }) (hg : StateGroup.cmds ∉ gs := by decide) (hl : StateGroup.log ∉ gs := by decide) :
    filedAs s (fileReq v c q) c.key p :=
  ⟨_, _, findCmd_putCmd_after (c := { c with phase := .requested, req := some { q with order := v.helm.requests } }) hv hc hg,
    rfl, rfl, hp, by rw [fileReq_queue, only_log hv hl]⟩

/-- A command that did not launch is filed with its status, in each row of 09 R243. -/
theorem fileStatus_filed (hc : findCmd s c.key = some c') (st : Nat) : filed s (fileStatus s c st) c.key st := by
  have hrow : ∀ q : CommitReq, q.status = st → filed s (fileReq s c q) c.key st := fun q hq => fileReq_filedAs (only_refl [] s) hc hq
  unfold fileStatus
  split
  · exact hrow _ rfl
  · split
    · exact hrow _ rfl
    · exact hrow _ rfl

/-- A LOAD_MODEL outcome is filed with its status (09 R243). -/
theorem fileLoad_filed (hv : onlyChanged gs s v) (hc : findCmd s c.key = some c') (im : Image) (st n : Nat)
    (hg : StateGroup.cmds ∉ gs := by decide) (hl : StateGroup.log ∉ gs := by decide) : filed s (fileLoad v c im st n) c.key st :=
  fileReq_filedAs hv hc rfl hg hl

theorem fileLoad_only (s : State) (c : Cmd) (im : Image) (st n : Nat) : onlyChanged [.cmds, .helm, .log] s (fileLoad s c im st n) :=
  fileReq_only _ _ _

theorem hostWrite_only (s : State) (c : Cmd) (bs : List Byte) : onlyChanged [.pel, .out] s (hostWrite s c bs) := emit_only _ _

theorem hostWrite_out (s : State) (c : Cmd) (bs : List Byte) :
    (hostWrite s c bs).out = s.out ++ [.memWrite (fnFor s c.key.ctx) (dOutAddr c.desc) bs] := emit_out _ _

/-! ## LOAD_MODEL as the image arrives (02 R48, R57): its branches in their order (log 28). -/

/-- The same image again, under the command's own reservation, is fitted at once (log 137). -/
theorem startLoad_again (hown : ownReserve s c = true) (him : c.image = some im) (hc : findCmd s c.key = some c') :
    findCmd (startLoad s c im) c.key = some { c with phase := .fitted, inputIn := true } ∧ onlyChanged [.cmds, .pel] s (startLoad s c im) := by
  have hgo : startLoad s c im = putCmd (pcieIn s (leField c.desc 36 4)) { c with phase := .fitted, inputIn := true } := by
    simp [startLoad, hown, him]
  have hv := pcieIn_only s (leField c.desc 36 4)
  rw [hgo]
  exact ⟨findCmd_putCmd_after (c := { c with phase := .fitted, inputIn := true }) hv hc, only_then (only_mono hv (by decide)) (putCmd_only _ _)⟩

/-- A LOAD_MODEL that holds its image. -/
def withImage (c : Cmd) (im : Image) : Cmd := { c with image := some im, inputIn := true }

/-- What the image itself decides: its structure (02 R48), then the NaNs among its operands (02 R38), else it awaits its fit check. -/
def takeImage (s : State) (c : Cmd) (im : Image) : State :=
  if imageBroken im then fileLoad s c im 0x31 0
  else match (imageNans im).head? with
    | some (item, elem, fmt, pat) => fileLoad (hostWrite s c (trapBytes (modelTrap im item elem fmt pat))) c im 0x21 64
    | none => putCmd s { c with phase := .awaitFit }

section
variable (hown : ownReserve s c = false) (hroom : ¬ (im.routes.length = 2 ∧ dOutLen c.desc < 8))
  (hfree : mget s.helm.models (dModel c.desc % 4096) = none)
include hown hroom hfree

/-- For a number that is free, with room for the certificates, the image itself decides. -/
theorem startLoad_takes : startLoad s c im = takeImage (pcieIn s (leField c.desc 36 4)) (withImage c im) im := by
  have hv : mget (pcieIn s (leField c.desc 36 4)).helm.models (dModel c.desc % 4096) = none := hfree
  simp only [startLoad, hown, hroom, hv, Bool.false_and, Bool.false_eq_true, if_false, Option.isSome_none, Bool.false_or]
  rfl

variable (hc : findCmd s c.key = some c')
include hc

theorem startLoad_broken (hbad : imageBroken im = true) :
    filed s (startLoad s c im) c.key 0x31 ∧ onlyChanged [.cmds, .helm, .log, .pel] s (startLoad s c im) := by
  have hv := pcieIn_only s (leField c.desc 36 4)
  simp only [startLoad_takes hown hroom hfree, takeImage, hbad, if_true]
  exact ⟨fileLoad_filed (c := withImage c im) hv hc _ _ _, only_then (only_mono hv (by decide)) (fileLoad_only _ _ _ _ _)⟩

theorem startLoad_nan (hok : imageBroken im = false) (hnan : imageNans im ≠ []) :
    filed s (startLoad s c im) c.key 0x21 ∧ onlyChanged [.cmds, .helm, .log, .pel, .out] s (startLoad s c im) := by
  obtain ⟨x, rest, hlist⟩ := List.exists_cons_of_ne_nil hnan
  have hw := only_trans (only_mono (gs := [.pel, .out]) (pcieIn_only s (leField c.desc 36 4)) (by decide))
    (hostWrite_only _ (withImage c im) (trapBytes (modelTrap im x.1 x.2.1 x.2.2.1 x.2.2.2)))
  simp only [startLoad_takes hown hroom hfree, takeImage, hok, hlist, List.head?_cons, Bool.false_eq_true, if_false]
  exact ⟨fileLoad_filed (c := withImage c im) hw hc _ _ _, only_then (only_mono hw (by decide)) (fileLoad_only _ _ _ _ _)⟩

theorem startLoad_whole (hok : imageBroken im = false) (hnan : imageNans im = []) :
    findCmd (startLoad s c im) c.key = some { withImage c im with phase := .awaitFit } ∧ onlyChanged [.cmds, .pel] s (startLoad s c im) := by
  have hv := pcieIn_only s (leField c.desc 36 4)
  simp only [startLoad_takes hown hroom hfree, takeImage, hok, hnan, List.head?_nil, Bool.false_eq_true, if_false]
  exact ⟨findCmd_putCmd_after (c := { withImage c im with phase := .awaitFit }) hv hc, only_then (only_mono hv (by decide)) (putCmd_only _ _)⟩

end

/-- LOAD_MODEL of a command that may run takes its image in. -/
theorem doLoadModel_arrives (h : runnable s k 0x01 = some c) (im : Image) : doLoadModel s k im = startLoad s c im := by
  simp only [doLoadModel, h]

/-! ## FIT_CHECK (02 R57, R58) -/

/-- The LOAD_MODEL whose check is next is one of the commands. -/
theorem nextFit_mem (h : nextFit s = some c) : c ∈ s.cmds := by
  unfold nextFit at h
  dsimp only at h
  split at h
  · exact nomatch h
  · next d ds hwaits =>
    have hsub : ∀ a, a ∈ d :: ds → a ∈ s.cmds := fun a ha => (List.mem_filter.mp (hwaits.symm ▸ ha)).1
    obtain rfl := Option.some.inj h
    refine List.foldlRecOn (motive := (· ∈ s.cmds)) ds _ (hsub d (by simp)) (fun a ha b hb => ?_)
    split
    · exact hsub b (by simp [hb])
    · exact ha

section
variable (hn : nextFit s = some c) (him : c.image = some im) (hp : c.phase = .awaitFit) (hr : ready s = true)
  (hfree : mget s.helm.models (dModel c.desc % 4096) = none)
include hn him hp hr hfree

/-- The check of the next image for a number that is free: reserved where it fits, else reported. -/
theorem doFitCheck_next :
    let f := fitCheck s c im
    doFitCheck s = if fits f.1 f.2 then
        setModel (putCmd s { c with phase := .fitted }) (dModel c.desc % 4096) (reservedModel c im f.1)
      else fileLoad (hostWrite s c (fitBytes f.2)) c im 0x30 96 := by
  simp only [doFitCheck, hn, him, hp, hr, hfree, ne_eq, not_true_eq_false, Bool.true_eq_false, or_self, if_false, Option.isSome_none,
    Bool.false_eq_true]

theorem doFitCheck_fits (hfit : fits (fitCheck s c im).1 (fitCheck s c im).2 = true) :
    let t := doFitCheck s
    findCmd t c.key = some { c with phase := .fitted } ∧
      t.helm = { s.helm with models := mset s.helm.models (dModel c.desc % 4096) (reservedModel c im (fitCheck s c im).1) } ∧
      onlyChanged [.cmds, .helm] s t := by
  obtain ⟨c', hc⟩ := findCmd_of_mem (nextFit_mem hn)
  have hset := setModel_only (putCmd s { c with phase := .fitted }) (dModel c.desc % 4096) (reservedModel c im (fitCheck s c im).1)
  simp only [doFitCheck_next hn him hp hr hfree, hfit, if_true]
  refine ⟨?_, rfl, only_then (only_mono (putCmd_only _ _) (by decide)) hset⟩
  rw [findCmd_congr (only_cmds hset (by decide))]
  exact findCmd_putCmd (c := { c with phase := .fitted }) hc

theorem doFitCheck_noFit (hfit : fits (fitCheck s c im).1 (fitCheck s c im).2 = false) :
    let t := doFitCheck s
    filed s t c.key 0x30 ∧ t.out = s.out ++ [.memWrite (fnFor s c.key.ctx) (dOutAddr c.desc) (fitBytes (fitCheck s c im).2)] ∧
      onlyChanged [.cmds, .helm, .log, .pel, .out] s t := by
  obtain ⟨c', hc⟩ := findCmd_of_mem (nextFit_mem hn)
  have hw := hostWrite_only s c (fitBytes (fitCheck s c im).2)
  have hfile := fileLoad_only (hostWrite s c (fitBytes (fitCheck s c im).2)) c im 0x30 96
  simp only [doFitCheck_next hn him hp hr hfree, hfit, Bool.false_eq_true, if_false]
  exact ⟨fileLoad_filed hw hc _ _ _, (only_out hfile (by decide)).trans (hostWrite_out _ _ _), only_then (only_mono hw (by decide)) hfile⟩

end

/-! ## LOAD_MODEL after its check: the image written, the commit asked for (log 95). -/

theorem writeItem_only (s : State) (a : Nat) (data : List Byte) : onlyChanged [.chart, .pel] s (writeItem s a data) :=
  only_then (only_then (only_mono (setChart_only _ _) (by decide)) (countChartWr_only _ _ _)) (setChart_only _ _)

theorem writeItems_only (s : State) (l : List (Nat × List Byte)) : onlyChanged [.chart, .pel] s (writeItems s l) := by
  induction l generalizing s with
  | nil => exact only_refl _ _
  | cons x xs ih => exact only_trans (writeItem_only _ _ _) (ih _)

theorem finishLoad_spec (hc : findCmd s c.key = some c') (im : Image) (n : Nat) (m : Model) :
    filed s (finishLoad s c im n m) c.key 0 ∧ onlyChanged [.cmds, .helm, .log, .chart, .pel, .out] s (finishLoad s c im n m) := by
  have hitems := writeItems_only s ((m.places.map (·.1)).zip ((loadItems im).map (·.2)))
  have hw := fun cert => only_then (gs := [.chart, .pel, .out]) (only_mono hitems (by decide)) (hostWrite_only _ c cert)
  exact ⟨fileLoad_filed (hw _) hc _ _ _, only_then (only_mono (hw _) (by decide)) (fileLoad_only _ _ _ _ _)⟩

/-- LOAD_MODEL of a command that its check found to fit ends the load of the image that was checked. -/
theorem doLoadModel_fitted {m : Model} (hc : findCmd s k = some c) (hp : c.phase = .fitted) (hop : opOf c.desc = 0x01)
    (him : c.image = some im) (hm : mget s.helm.models (dModel c.desc % 4096) = some m) (hr : ready s = true) (im' : Image) :
    doLoadModel s k im' = finishLoad s c im (dModel c.desc % 4096) m := by
  have hno : runnable s k 0x01 = none := runnable_none hc (by simp [waitingToRun, hp]) _
  simp only [doLoadModel, hno, hc, him, hm, hp, hop, hr, and_self, if_true]

/-- Settles O16: the branches of LOAD_MODEL in their order, the two ends of FIT_CHECK, and the end of the load. -/
theorem modelLoading : Obligations.ModelLoading := by
  intro s k c im
  refine ⟨fun hrun hown hroom hfree => ?_, fun hrun hown him => ?_, fun hn him hp hr hfree => ?_, fun m im' hc hp hop him hm hr => ?_⟩
  · obtain ⟨hc, -, -⟩ := runnable_spec hrun
    obtain rfl := findCmd_key hc
    have hgo := doLoadModel_arrives hrun im
    exact ⟨fun hok hnan => gives_of_eq rfl hgo (startLoad_whole hown hroom hfree hc hok hnan),
      fun hbad => gives_of_eq rfl hgo (startLoad_broken hown hroom hfree hc hbad),
      fun hok hnan => gives_of_eq rfl hgo (startLoad_nan hown hroom hfree hc hok hnan)⟩
  · obtain ⟨hc, -, -⟩ := runnable_spec hrun
    obtain rfl := findCmd_key hc
    exact gives_of_eq rfl (doLoadModel_arrives hrun im) (startLoad_again hown him hc)
  · exact ⟨fun hfit => gives_of_eq rfl rfl (doFitCheck_fits hn him hp hr hfree hfit),
      fun hfit => gives_of_eq rfl rfl (doFitCheck_noFit hn him hp hr hfree hfit)⟩
  · have hgo := doLoadModel_fitted hc hp hop him hm hr im'
    obtain rfl := findCmd_key hc
    exact gives_of_eq rfl hgo (finishLoad_spec hc im _ m)

/-! ## UNLOAD_MODEL and its end (02 R50) -/

/-- UNLOAD_MODEL of a loaded model that no earlier UNLOAD_MODEL takes begins its wait. -/
theorem doUnloadModel_waits (h : runnable s k 0x02 = some c) (hl : (modelOf s (dModel c.desc % 4096)).isSome = true)
    (hu : unloadStands s c = false) : doUnloadModel s k = putCmd s { c with phase := .unloading } := by
  obtain ⟨m, hm⟩ := Option.isSome_iff_exists.mp hl
  simp only [doUnloadModel, h, hm, hu, Option.isNone_some, Bool.or_self, Bool.false_eq_true, if_false]

/-- UNLOAD_MODEL of one that is not loaded, or that an earlier UNLOAD_MODEL takes, is a mismatch. -/
theorem doUnloadModel_mismatch (h : runnable s k 0x02 = some c)
    (hbad : modelOf s (dModel c.desc % 4096) = none ∨ unloadStands s c = true) : doUnloadModel s k = fileStatus s c 0x31 := by
  have hcond : ((modelOf s (dModel c.desc % 4096)).isNone || unloadStands s c) = true := by
    simpa only [Bool.or_eq_true, Option.isNone_iff_eq_none] using hbad
  simp only [doUnloadModel, h, hcond, if_true]

/-- The wait is over when nothing that it waits for stands: the request carries the bytes that come free. -/
theorem doUnloadComplete_ends {m : Model} (hc : findCmd s k = some c) (hp : c.phase = .unloading)
    (hm : mget s.helm.models (dModel c.desc % 4096) = some m) (hw : unloadWaits s c (dModel c.desc % 4096) = false) (hr : ready s = true) :
    doUnloadComplete s k = fileReq s c { plainReq s 0 (modelBytes m) 0 0 0 with charge := c.chargeDue } := by
  simp only [doUnloadComplete, hc, hm, hp, hw, hr, Bool.not_false, and_self, if_true]

/-- Settles O17: the two branches of UNLOAD_MODEL, and the end of its wait. -/
theorem modelUnloading : Obligations.ModelUnloading := by
  intro s k c
  refine ⟨fun hrun => ?_, fun m hc hp hm hw hr => ?_⟩
  · obtain ⟨hc, -, -⟩ := runnable_spec hrun
    obtain rfl := findCmd_key hc
    refine ⟨fun hl hu => gives_of_eq rfl (doUnloadModel_waits hrun hl hu) ?_, fun hbad => gives_of_eq rfl (doUnloadModel_mismatch hrun hbad) ?_⟩
    · exact ⟨findCmd_putCmd (c := { c with phase := .unloading }) hc, putCmd_only _ _⟩
    · exact ⟨fileStatus_filed hc _, fileStatus_only _ _ _⟩
  · have hgo := doUnloadComplete_ends hc hp hm hw hr
    obtain rfl := findCmd_key hc
    exact gives_of_eq rfl hgo ⟨fileReq_filedAs (only_refl [] s) hc ⟨rfl, rfl⟩, fileReq_only _ _ _⟩

end Sys2Proof.Proofs

/-! SUPPORT. The proof of the statement of 03_solution_methods.md: SETUP_END, ITERATION_END and the convergence test. -/

namespace Sys2Proof.Proofs
open Sys2Proof Sys2Proof.Machine Sys2Proof.Laws

/- One proof at a time: elaborated beside the pending kernel checks of the text's tests, they need more threads than the memory limit holds. -/
set_option Elab.async false

variable {s v : State} {gs : List StateGroup} {k : CmdKey} {r r' : Run} {m : Model}

/-! ## Laws that the ends of a phase share: a run replaced, its counts, its settings, its ranked candidate. -/

/-- A run put back under its key is found there. -/
theorem putRun_found (hr : findRun s k = some r) (hk : r'.key = r.key) : findRun (putRun s r') k = some r' := by
  obtain rfl : r'.key = k := hk.trans (findRun_key hr)
  exact findRun_putRun hr

/-- What holds of a run holds of the one found after it is put back, within a frame that lets the runs change. -/
theorem putRun_leaves {P : Run → Prop} (hv : onlyChanged gs s v) (hr : findRun v k = some r) (hp : P r') (hk : r'.key = r.key := by rfl)
    (hg : StateGroup.runs ∈ gs := by decide) : (∃ x, findRun (putRun v r') k = some x ∧ P x) ∧ onlyChanged gs s (putRun v r') :=
  ⟨⟨r', putRun_found hr hk, hp⟩, only_then hv (putRun_only _ _) (by simpa using hg)⟩

/-- The same of a run that ends an iteration: its commit phase begins (03 R60). -/
theorem endIter_leaves {P : Run → Prop} {st : Nat} (hv : onlyChanged gs s v) (hr : findRun v k = some r)
    (hp : P (endRun r' v.clk.chipAk st 0)) (hk : r'.key = r.key := by rfl) (hg : StateGroup.runs ∈ gs := by decide) :
    (∃ x, findRun (endIter v r' st) k = some x ∧ P x) ∧ onlyChanged gs s (endIter v r' st) :=
  putRun_leaves hv hr hp hk hg

/-- A run stopped at once or at its tick boundary has its status, and keeps its trap record. -/
theorem finish0_leaves {st after : Nat} (hr : findRun s k = some r) (hk : r'.key = r.key := by rfl) :
    (∃ x, findRun (finish0 s r' st after) k = some x ∧ x.status = some st ∧ x.trap = r'.trap) ∧
      onlyChanged [.runs] s (finish0 s r' st after) := by
  unfold finish0
  split
  · exact putRun_leaves (only_refl _ s) hr ⟨rfl, rfl⟩ hk
  · exact putRun_leaves (only_refl _ s) hr ⟨rfl, rfl⟩ hk

/-- The settings of a run depend on the commands and the bindings alone. -/
theorem runDesc_congr (hv : onlyChanged gs s v) (hk : r'.key = r.key := by rfl) (hst : r'.stream = r.stream := by rfl)
    (hc : StateGroup.cmds ∉ gs := by decide) (hs : StateGroup.streams ∉ gs := by decide) : runDesc v r' = runDesc s r := by
  simp only [runDesc, hk, hst, only_streams hv hs, findCmd_congr (only_cmds hv hc)]

/-- A run with the arithmetic of its phase counted. -/
def countedRun (s : State) (r : Run) (t : Tally) (tr : Traffic) : Run := { r with counts := r.counts.add (tallyCounts s r t tr) }

theorem phaseCounts_spec (hr : findRun s k = some r) (t : Tally) (tr : Traffic) :
    findRun (phaseCounts s r t tr) k = some (countedRun s r t tr) ∧ onlyChanged [.runs, .pel] s (phaseCounts s r t tr) := by
  unfold phaseCounts
  dsimp only
  split
  · exact ⟨putRun_found hr rfl, only_mono (putRun_only _ _) (by decide)⟩
  · have hg := gcount_only s (0x1070 + leadSector r % 16) (tallyCounts s r t tr).sxtFlushed
    exact ⟨putRun_found ((findRun_congr (only_runs hg (by decide)) k).trans hr) rfl, only_then (only_mono hg (by decide)) (putRun_only _ _)⟩

/-- Arithmetic with no trap and no abort stops no run (06 R168; 07 R186). -/
theorem phaseStop_quiet {t : Tally} (h : quietTally (runNum s r) t) (site : TrapRec) : phaseStop s r t site = none := by
  obtain ⟨⟨hnan, hovf⟩, habort⟩ := h
  have hno : ¬ (0 < t.ev.nanGen ∧ (runNum s r).nanTrap = true) := by
    rintro ⟨hpos, htrap⟩
    rcases hnan with h0 | hoff
    · omega
    · simp [hoff] at htrap
  simp only [phaseStop, hno, hovf, habort, Nat.lt_irrefl, if_false]

/-- The same in the state and of the run that the counting leaves. -/
theorem phaseStop_counted {t : Tally} {tr : Traffic} (hv : onlyChanged gs s v) (h : quietTally (runNum s r) t) (site : TrapRec)
    (hc : StateGroup.cmds ∉ gs := by decide) (hs : StateGroup.streams ∉ gs := by decide) :
    phaseStop v (countedRun s r t tr) t site = none :=
  phaseStop_quiet (by rwa [runNum, runDesc_congr hv (r' := countedRun s r t tr) rfl rfl hc hs]) site

/-- A run with a candidate as its last iterate, and as its best where it ranks better (04 R102). -/
def rankedRun (r : Run) (c : Cand) : Run :=
  { r with
    last := some c, best := if better c r.best then some c else r.best, bestBuf := if better c r.best then !r.bestBuf else r.bestBuf }

theorem rankCand_eq (r : Run) (c : Cand) : rankCand r c = rankedRun r c := by
  unfold rankCand rankedRun
  split <;> rfl

/-- The convergence test (03 R67, R68). -/
theorem converged_iff (res : Resid) (d : Line) :
    converged res d = true ↔ (leX (f64 res.rp) (epsOf (dEpsP d)) = true ∧ leX (f64 res.rd) (epsOf (dEpsD d)) = true ∧
      leX (f64 res.rg) (epsOf (dEpsG d)) = true ∧ (f64 res.merit).isNan = false) := by
  simp only [converged, Bool.and_eq_true, Bool.not_eq_true']
  tauto

/-! ## SETUP_END (02 R37, R38; 03 R75) -/

section
variable (hr : findRun s k = some r) (hm : runModel s r = some m) (hf : frozen s = false) (hs : suppressed s r = false) (hp : r.phase = .setup)
include hr hm hf hs hp

/-- Setup of a run whose input holds a NaN ends at its check in NAN_TRAP. -/
theorem doSetupEnd_nan {e fm pat c : Nat} (hnan : instanceNan s r = some ((e, fm, pat), c))
    (hdue : dueNow s (r.launchAk + nanEndAk s r) = true) (data : SetupData) :
    doSetupEnd s k data = finish0 s { r with trap := some (instanceTrap s r data.site e fm pat c), trig := none } 0x21 0 := by
  simp [doSetupEnd, hr, hm, hf, hs, hp, hnan, hdue]

/-- With an impossible bound pair it ends at the bound treatment in INFEASIBLE_PRIMAL. -/
theorem doSetupEnd_impossible (hnan : instanceNan s r = none) (himp : runImpossible s r m = true)
    (hdue : dueNow s (r.launchAk + leadIn s r + r.route.boundAk) = true) (data : SetupData) :
    doSetupEnd s k data = finish0 s { r with trig := none } 0x10 0 := by
  simp [doSetupEnd, hr, hm, hf, hs, hp, hnan, himp, hdue]

/-- Otherwise it ends by the chart's method when its phase does. -/
theorem doSetupEnd_due (hnan : instanceNan s r = none) (himp : runImpossible s r m = false) (hdue : dueNow s r.phaseEnd = true)
    (hw : r.waits = []) (data : SetupData) :
    doSetupEnd s k data = if m.chart.kalman then endKalmanSetup s r data else endSetup s r m data := by
  simp [doSetupEnd, hr, hm, hf, hs, hp, hnan, himp, hdue, hw]

end

/-- Iteration 1 of a run begins now (03 R75). -/
def begun (s : State) (r x : Run) : Prop :=
  x.phase = .iterating ∧ x.phaseStart = s.clk.chipAk ∧ x.phaseEnd = s.clk.chipAk + iterLen r.route 1

/-- A phase without arithmetic counts the route's traffic in the run alone. -/
theorem phaseCounts_idle (s : State) (r : Run) (tr : Traffic) : phaseCounts s r {} tr = putRun s (countedRun s r {} tr) := by
  have h0 : (tallyCounts s r {} tr).sxtFlushed = 0 := by simp [tallyCounts, beyond]
  simp only [phaseCounts, h0, if_true, countedRun]

/-- Setup of a direct update begins its one iteration. -/
theorem endKalmanSetup_eq (hr : findRun s k = some r) (data : SetupData) :
    let x := countedRun s r {} data.traffic
    endKalmanSetup s r data = putRun (putRun s x) (iterating (putRun s x) x) := by
  obtain rfl := findRun_key hr
  have hfound := putRun_found (r' := countedRun s r {} data.traffic) hr rfl
  simp only [endKalmanSetup, phaseCounts_idle, hfound]

theorem endKalmanSetup_leaves (hr : findRun s k = some r) (data : SetupData) :
    (∃ x, findRun (endKalmanSetup s r data) k = some x ∧ begun s r x) ∧ onlyChanged [.runs] s (endKalmanSetup s r data) := by
  rw [endKalmanSetup_eq hr]
  exact putRun_leaves (putRun_only _ _) (putRun_found hr rfl) ⟨rfl, rfl, rfl⟩

/-- The tally of setup with the events of the warm store's conversion. -/
def warmTally (t : Tally) (w : WarmPick) : Tally := { t with ev := t.ev.add w.ev }

/-- The state with a setup counted, and its free starting point drawn (log 127). -/
def setupCounted (s : State) (r : Run) (m : Model) (t : Tally) (w : WarmPick) (tr : Traffic) : State :=
  let v := phaseCounts s r (warmTally t w) tr
  if m.chart.cls = 6 ∧ w.src.isNone then v.setFree (v.free + 1) else v

theorem setupCounted_spec (hr : findRun s k = some r) (m : Model) (t : Tally) (w : WarmPick) (tr : Traffic) :
    findRun (setupCounted s r m t w tr) k = some (countedRun s r (warmTally t w) tr) ∧
      onlyChanged [.runs, .pel, .free] s (setupCounted s r m t w tr) := by
  obtain ⟨hfound, honly⟩ := phaseCounts_spec hr (warmTally t w) tr
  unfold setupCounted
  dsimp only
  split
  · exact ⟨hfound, only_trans (only_mono honly (by decide)) (by simp [onlyChanged])⟩
  · exact ⟨hfound, only_mono honly (by decide)⟩

theorem putTileElem_only (s : State) (slot : Nat) (b : Berth) (i j : Nat) (w : W48) : onlyChanged [.rose] s (putTileElem s slot b i j w) := by
  unfold putTileElem
  exact only_ite (by simp [onlyChanged]) (by simp [onlyChanged])

theorem loadTiles_only (s : State) (r : Run) (m : Model) : onlyChanged [.rose] s (loadTiles s r m) := by
  unfold loadTiles
  refine only_ite (only_refl _ _) (only_foldl (fun _ _ h => ?_) (only_refl _ _))
  exact only_foldl (fun _ _ h => only_trans h (putTileElem_only _ _ _ _ _ _)) h

/-- A run that begins its iterations from what setup computed, the starting point ranked as its first candidate (03 R75). -/
def begunRun (s : State) (r : Run) (st : Start) (w : WarmPick) : Run :=
  rankedRun { iterating s r with
    prob := some st.prob, base := st.base, scaleD := st.scaleD, scaleF := st.scaleF, work := st.work, phase1 := st.phase1
    warmFlags := w.flags } st.cand

theorem endSetup_quiet {st : Start} {t : Tally} {w : WarmPick} (hr : findRun s k = some r) (ho : runSetup s r m = ((st, t), w))
    (hq : quietTally (runNum s r) (warmTally t w)) (data : SetupData) :
    let v := setupCounted s r m t w data.traffic
    let x := countedRun s r (warmTally t w) data.traffic
    endSetup s r m data = putRun (loadTiles v x m) (begunRun v x st w) := by
  obtain rfl := findRun_key hr
  obtain ⟨hfound, honly⟩ := setupCounted_spec hr m t w data.traffic
  have hstop := phaseStop_counted (tr := data.traffic) honly hq data.site
  simp only [setupCounted, warmTally] at hfound hstop ⊢
  simp only [endSetup, ho, hfound, hstop, rankCand_eq]
  rfl

/-- A setup with no trap and no abort begins the iterations from what it computed. -/
theorem endSetup_leaves {st : Start} {t : Tally} {w : WarmPick} (hr : findRun s k = some r) (ho : runSetup s r m = ((st, t), w))
    (hq : quietTally (runNum s r) (warmTally t w)) (data : SetupData) :
    (∃ x, findRun (endSetup s r m data) k = some x ∧ begun s r x ∧ x.prob = some st.prob ∧ x.last = some st.cand ∧ x.work = st.work) ∧
      onlyChanged [.runs, .pel, .rose, .free] s (endSetup s r m data) := by
  obtain ⟨hfound, honly⟩ := setupCounted_spec hr m t w data.traffic
  have hload := loadTiles_only (setupCounted s r m t w data.traffic) (countedRun s r (warmTally t w) data.traffic) m
  have hak : (setupCounted s r m t w data.traffic).clk.chipAk = s.clk.chipAk := congrArg Clk.chipAk (only_clk honly (by decide))
  rw [endSetup_quiet hr ho hq]
  exact putRun_leaves (only_then (only_mono honly (by decide)) hload) ((findRun_congr (only_runs hload (by decide)) k).trans hfound)
    ⟨⟨rfl, hak, congrArg (· + iterLen r.route 1) hak⟩, rfl, rfl, rfl⟩

/-! ## ITERATION_END (03 R60 to R88) -/

section
variable (hr : findRun s k = some r) (hm : runModel s r = some m) (hf : frozen s = false) (hs : suppressed s r = false)
  (hp : r.phase = .iterating) (hdue : dueNow s r.phaseEnd = true) (hw : r.waits = [])
include hr hm hf hs hp hdue hw

theorem doIterationEnd_direct (hk : m.chart.kalman = true) (data : IterData) : doIterationEnd s k data = endKalman s r m data := by
  simp [doIterationEnd, hr, hm, hf, hs, hp, hdue, hw, hk]

theorem doIterationEnd_qp {p : ProbData} {prev : Cand} (hk : m.chart.kalman = false) (hprob : r.prob = some p) (hlast : r.last = some prev)
    (data : IterData) : doIterationEnd s k data = endQp s r m p prev data := by
  simp [doIterationEnd, hr, hm, hf, hs, hp, hdue, hw, hk, hprob, hlast]

end

/-! ### A direct update (03 R82) -/

theorem freeTrap_only (s : State) : onlyChanged [.free] s (freeTrap s).2 := by simp [onlyChanged, freeTrap, freeNat]

theorem kalmanCand_only (s : State) (u : Iter × Machine.Num) (t : Tally) : onlyChanged [.free] s (kalmanCand s u t).2 := by
  simp [onlyChanged, kalmanCand, freeNat]

/-- The status of a direct update comes from its merit value alone, whatever residuals it stores (log 37). -/
theorem kalmanStatus_cand (d : Line) (s : State) (u : Iter × Machine.Num) (t : Tally) :
    kalmanStatus d (kalmanCand s u t).1 = if (f64 (w64 u.2)).isNan then 0x21 else if leX (f64 (w64 u.2)) (epsOf (dEpsP d)) then 0 else 2 := rfl

/-- A run with its direct update as its candidate. -/
def updatedRun (r : Run) (c : Cand) : Run := rankedRun { r with iter := 1, trig := none } c

/-- The end of a direct update by its status, with a trap record of its own where that is NAN_TRAP (03 R68). -/
def endUpdate (s : State) (r : Run) (st : Nat) : State :=
  if st = 0x21 then endIter (freeTrap s).2 { r with trap := some (freeTrap s).1 } 0x21 else endIter s r st

theorem endUpdate_leaves {st : Nat} (hv : onlyChanged [.runs, .pel, .free] s v) (hr : findRun v k = some r) (hk : r'.key = r.key := by rfl) :
    (∃ x, findRun (endUpdate v r' st) k = some x ∧ x.phase = .commit ∧ x.iter = r'.iter ∧ x.status = some st) ∧
      onlyChanged [.runs, .pel, .free] s (endUpdate v r' st) := by
  unfold endUpdate
  split
  · next hst =>
    have ht := freeTrap_only v
    exact endIter_leaves (only_then hv ht) ((findRun_congr (only_runs ht (by decide)) k).trans hr) ⟨rfl, rfl, hst ▸ rfl⟩ hk
  · exact endIter_leaves hv hr ⟨rfl, rfl, rfl⟩ hk

theorem endKalman_quiet {u : Iter × Machine.Num} {t : Tally} (hr : findRun s k = some r) (ho : runUpdate s r m = (u, t))
    (hq : quietTally (runNum s r) t) (data : IterData) :
    let v := phaseCounts s r t data.traffic
    let c := (kalmanCand v u t).1
    endKalman s r m data = endUpdate (kalmanCand v u t).2 (updatedRun (countedRun s r t data.traffic) c) (kalmanStatus (runDesc s r) c) := by
  obtain rfl := findRun_key hr
  obtain ⟨hfound, honly⟩ := phaseCounts_spec hr t data.traffic
  have hstop := phaseStop_counted (tr := data.traffic) honly hq data.site
  intro v c
  have hdesc : runDesc (kalmanCand v u t).2 (updatedRun (countedRun s r t data.traffic) c) = runDesc s r :=
    runDesc_congr (only_then (gs := [.runs, .pel, .free]) (only_mono honly (by decide)) (kalmanCand_only _ _ _))
  rw [← hdesc]
  simp only [endKalman, ho, hfound, hstop, rankCand_eq]
  rfl

/-- A direct update with no trap and no abort ends by its merit value. -/
theorem endKalman_leaves {u : Iter × Machine.Num} {t : Tally} (hr : findRun s k = some r) (ho : runUpdate s r m = (u, t))
    (hq : quietTally (runNum s r) t) (data : IterData) :
    (∃ x, findRun (endKalman s r m data) k = some x ∧ x.phase = .commit ∧ x.iter = 1 ∧
      let v := f64 (w64 u.2)
      x.status = some (if v.isNan then 0x21 else if leX v (epsOf (dEpsP (runDesc s r))) then 0 else 2)) ∧
      onlyChanged [.runs, .pel, .free] s (endKalman s r m data) := by
  obtain ⟨hfound, honly⟩ := phaseCounts_spec hr t data.traffic
  have hcand := kalmanCand_only (phaseCounts s r t data.traffic) u t
  rw [endKalman_quiet hr ho hq, kalmanStatus_cand]
  exact endUpdate_leaves (only_then (only_mono honly (by decide)) hcand) ((findRun_congr (only_runs hcand (by decide)) k).trans hfound)

/-! ### A QP iteration (03 R60) -/

section
variable {o : IterOut} {data : IterData} {n : Nat}

/-- The tests of an iterate that ends the solve as converged (03 R67, 14 R350). -/
theorem endTests_converged (hend : (converged o.cand.res (runDesc s r) && consensusEnds (runDesc s r) r.route data) = true) :
    endTests s r m o data n = endIter s { r with trig := none } 0 := by
  simp only [endTests, hend, if_true]

variable (hend : (converged o.cand.res (runDesc s r) && consensusEnds (runDesc s r) r.route data) = false)
include hend

/-- The tests of one that finds the problem infeasible (03 R86). -/
theorem endTests_infeasible {st : Nat} (hst : o.inf.status = some st) :
    endTests s r m o data n = endIter s { r with trig := none, cert := packVec o.inf.cert } st := by
  simp only [endTests, hend, hst, Bool.false_eq_true, if_false]

/-- The tests of one below the limit that ends nothing (03 R88). -/
theorem endTests_goesOn (hst : o.inf.status = none) (h3 : m.chart.method ≠ 3) (hlim : n < r.limit) (htrig : r.trig = none) :
    endTests s r m o data n = putRun s { r with
      phaseStart := s.clk.chipAk, phaseEnd := s.clk.chipAk + iterLen r.route (n + 1), waits := [], mark := r.counts } := by
  simp only [endTests, hend, hst, h3, Nat.not_le.mpr hlim, htrig, or_self, Bool.false_eq_true, if_false]

end

/-- A run with an iteration's outcome, its iterate ranked as a candidate. -/
def iteratedRun (r : Run) (o : IterOut) : Run :=
  rankedRun { r with
    iter := r.iter + 1, work := o.work, phase1 := o.phase1, infP := o.inf.p, infD := o.inf.d, rhoExp := o.rho } o.cand

section
variable {p : ProbData} {prev : Cand} {o : IterOut} {t : Tally} {data : IterData}
  (hr : findRun s k = some r) (ho : runIter s r m p prev = (o, t)) (hq : quietTally (runNum s r) t)
include hr ho hq

theorem endQp_quiet : endQp s r m p prev data =
    endTests (phaseCounts s r t data.traffic) (iteratedRun (countedRun s r t data.traffic) o) m o data (r.iter + 1) := by
  obtain rfl := findRun_key hr
  obtain ⟨hfound, honly⟩ := phaseCounts_spec hr t data.traffic
  have hstop := phaseStop_counted (tr := data.traffic) honly hq data.site
  simp only [endQp, ho, hfound, hstop, rankCand_eq]
  rfl

/-- An iteration that converges goes to its commit phase as OK_CONVERGED. -/
theorem endQp_converged (hend : (converged o.cand.res (runDesc s r) && consensusEnds (runDesc s r) r.route data) = true) :
    (∃ x, findRun (endQp s r m p prev data) k = some x ∧ x.phase = .commit ∧ x.status = some 0 ∧ x.iter = r.iter + 1 ∧ x.last = some o.cand ∧
      x.commitAt = some (s.clk.chipAk + r.route.commitAk)) ∧ onlyChanged [.runs, .pel] s (endQp s r m p prev data) := by
  obtain ⟨hfound, honly⟩ := phaseCounts_spec hr t data.traffic
  have hak : (phaseCounts s r t data.traffic).clk.chipAk = s.clk.chipAk := congrArg Clk.chipAk (only_clk honly (by decide))
  rw [← runDesc_congr (r' := iteratedRun (countedRun s r t data.traffic) o) honly] at hend
  rw [endQp_quiet hr ho hq, endTests_converged hend]
  exact endIter_leaves honly hfound ⟨rfl, rfl, rfl, rfl, congrArg (fun n => some (n + r.route.commitAk)) hak⟩

variable (hend : (converged o.cand.res (runDesc s r) && consensusEnds (runDesc s r) r.route data) = false)
include hend

/-- One whose infeasibility test succeeds ends with that status and its certificate. -/
theorem endQp_infeasible {st : Nat} (hst : o.inf.status = some st) :
    (∃ x, findRun (endQp s r m p prev data) k = some x ∧ x.phase = .commit ∧ x.status = some st ∧ x.cert = packVec o.inf.cert) ∧
      onlyChanged [.runs, .pel] s (endQp s r m p prev data) := by
  obtain ⟨hfound, honly⟩ := phaseCounts_spec hr t data.traffic
  rw [← runDesc_congr (r' := iteratedRun (countedRun s r t data.traffic) o) honly] at hend
  rw [endQp_quiet hr ho hq, endTests_infeasible hend hst]
  exact endIter_leaves honly hfound ⟨rfl, rfl, rfl⟩

/-- Any other below the limit leaves the run iterating from its iterate. -/
theorem endQp_goesOn (hp : r.phase = .iterating) (hst : o.inf.status = none) (h3 : m.chart.method ≠ 3) (hlim : r.iter + 1 < r.limit)
    (htrig : r.trig = none) :
    (∃ x, findRun (endQp s r m p prev data) k = some x ∧ x.phase = .iterating ∧ x.iter = r.iter + 1 ∧ x.last = some o.cand ∧
      x.work = o.work ∧ x.rhoExp = o.rho ∧ x.phaseEnd = s.clk.chipAk + iterLen r.route (r.iter + 2)) ∧
      onlyChanged [.runs, .pel] s (endQp s r m p prev data) := by
  obtain ⟨hfound, honly⟩ := phaseCounts_spec hr t data.traffic
  have hak : (phaseCounts s r t data.traffic).clk.chipAk = s.clk.chipAk := congrArg Clk.chipAk (only_clk honly (by decide))
  rw [← runDesc_congr (r' := iteratedRun (countedRun s r t data.traffic) o) honly] at hend
  rw [endQp_quiet hr ho hq, endTests_goesOn hend hst h3 hlim htrig]
  exact putRun_leaves honly hfound ⟨hp, rfl, rfl, rfl, rfl, congrArg (· + iterLen r.route (r.iter + 2)) hak⟩

end

/-! ## The statement -/

/-- Settles O51: each branch of SETUP_END and ITERATION_END by the equation of what ends there, and the fields of the run put back. -/
theorem setupAndIterations : Obligations.SetupAndIterations := by
  intro s k r m hr hm hf hs n
  refine ⟨fun res => converged_iff res _, fun hp data => ⟨fun e fm pat c hnan hdue => ?_, fun hnan himp hdue => ?_,
    fun hnan himp hdue hw => ⟨fun hk => ?_, fun hk => ?_⟩⟩, fun hp hdue hw data => ⟨fun hk => ?_, fun hk p prev hprob hlast => ?_⟩⟩
  · obtain ⟨⟨x, hx, hst, htrap⟩, honly⟩ := finish0_leaves (st := 0x21) (after := 0) (r' := { r with
      trap := some (instanceTrap s r data.site e fm pat c), trig := none }) hr
    exact gives_of_eq rfl (doSetupEnd_nan hr hm hf hs hp hnan hdue data) ⟨⟨x, _, hx, hst, htrap, rfl, rfl, rfl, rfl⟩, honly⟩
  · obtain ⟨⟨x, hx, hst, -⟩, honly⟩ := finish0_leaves (st := 0x10) (after := 0) (r' := { r with trig := none }) hr
    exact gives_of_eq rfl (doSetupEnd_impossible hr hm hf hs hp hnan himp hdue data) ⟨⟨x, hx, hst⟩, honly⟩
  · exact gives_of_eq rfl ((doSetupEnd_due hr hm hf hs hp hnan himp hdue hw data).trans (if_pos hk)) (endKalmanSetup_leaves hr data)
  · obtain ⟨⟨⟨st, t⟩, w⟩, ho⟩ : ∃ o, runSetup s r m = o := ⟨_, rfl⟩
    rw [ho]
    intro _ _ hq
    exact gives_of_eq rfl ((doSetupEnd_due hr hm hf hs hp hnan himp hdue hw data).trans (if_neg (by simp [hk]))) (endSetup_leaves hr ho hq data)
  · obtain ⟨⟨u, t⟩, ho⟩ : ∃ o, runUpdate s r m = o := ⟨_, rfl⟩
    rw [ho]
    exact fun hq => gives_of_eq rfl (doIterationEnd_direct hr hm hf hs hp hdue hw hk data) (endKalman_leaves hr ho hq data)
  · obtain ⟨⟨o, t⟩, ho⟩ : ∃ o, runIter s r m p prev = o := ⟨_, rfl⟩
    rw [ho]
    intro hq _ _
    have hgo := doIterationEnd_qp hr hm hf hs hp hdue hw hk hprob hlast data
    exact ⟨fun hend => gives_of_eq rfl hgo (endQp_converged hr ho hq hend),
      fun _ hend hst => gives_of_eq rfl hgo (endQp_infeasible hr ho hq hend hst),
      fun hend hst h3 hlim htrig => gives_of_eq rfl hgo (endQp_goesOn hr ho hq hend hp hst h3 hlim htrig)⟩

end Sys2Proof.Proofs

/-! SUPPORT. The proof of the statement of 04_deadlines_and_warm_starts.md: DEADLINE_TRIGGER and DEADLINE_STOP. -/

namespace Sys2Proof.Proofs
open Sys2Proof Sys2Proof.Machine Sys2Proof.Laws

/- One proof at a time: elaborated beside the pending kernel checks of the text's tests, they need more threads than the memory limit holds. -/
set_option Elab.async false

variable {s : State} {k : CmdKey} {r : Run}

/-! ## The status that a trigger gives (04 R99) -/

/-- With a best iterate a status stands as it is (03 R68). -/
theorem noNumber_best (hb : r.best.isSome = true) (st : Nat) : noNumber r st = st := by
  simp [noNumber, ← Option.not_isSome, hb]

/-- Where no candidate has a number it turns into NAN_TRAP (03 R68). -/
theorem noNumber_none (hb : r.best = none) (st : Nat) : noNumber r st = 0x21 := by
  simp [noNumber, hb]

/-- Inside setup a trigger ends the command as LATE. -/
theorem triggerStatus_setup (hp : r.phase = .setup) : triggerStatus r = 0x40 := if_pos hp

/-- In the iterations it ends it by its candidates. -/
theorem triggerStatus_iterating (hp : r.phase = .iterating) : triggerStatus r = noNumber r 1 := if_neg (by simp [hp])

/-! ## DEADLINE_TRIGGER (04 R96, R97) -/

/-- A solve with a best iterate ends with its status and no trap record. -/
theorem endNum_best (hb : r.best.isSome = true) {st : Nat} (hst : st ≠ 0x21) : endNum s r st = endIter s r st := by
  simp only [endNum, noNumber_best hb, hst, if_false]

/-- A run told to stop in this AK cycle, by which deadline. -/
def triggeredRun (s : State) (r : Run) : Run := { r with trig := some ⟨s.clk.chipAk, meridianDue s r, false⟩ }

/-- A deadline that has come ends the solve on the cycle of an iteration's end, after its tests (03 R88), and else marks the run. -/
theorem doDeadlineTrigger_due (hr : findRun s k = some r) (hw : working r = true) (hf : frozen s = false) (htrig : r.trig = none)
    (hdue : budgetDue s r = true ∨ meridianDue s r = true) :
    doDeadlineTrigger s k =
      if r.phase = .iterating ∧ 0 < r.iter ∧ r.phaseStart = s.clk.chipAk then endNum s (triggeredRun s r) 1
      else putRun s { triggeredRun s r with abandoned := decide (r.phase ≠ .iterating) || decide (r.phaseEnd ≠ s.clk.chipAk) } := by
  have hcome : (budgetDue s r || meridianDue s r) = true := by simpa using hdue
  simp [doDeadlineTrigger, triggeredRun, hr, hw, hf, htrig, hcome]

/-! ## DEADLINE_STOP (04 R97) -/

/-- Within 96 AK cycles of its trigger a run outside a batch stops; 6 cycles select the buffer. -/
theorem doDeadlineStop_inTime {tr : Trig} (hr : findRun s k = some r) (hw : working r = true) (hf : frozen s = false)
    (htrig : r.trig = some tr) (hafter : tr.ak < s.clk.chipAk) (hin : s.clk.chipAk ≤ tr.ak + 96) (hslot : r.slot = none) :
    doDeadlineStop s k = stopRun s r 6 := by
  simp [doDeadlineStop, hr, hw, hf, htrig, hslot, Nat.not_le.mpr hafter, Nat.not_lt.mpr hin]

/-- A run whose unfinished iteration or setup is lost, its commit phase begun after some cycles of selection. -/
def stoppedAfter (s : State) (r : Run) (after : Nat) (x : Run) : Prop :=
  x.phase = .commit ∧ x.abandoned = true ∧ x.commitAt = some (s.clk.chipAk + after + r.route.commitAk)

/-- A run that its trigger stops with a status of its own. -/
theorem stopRun_status {st : Nat} (hr : findRun s k = some r) (hst : triggerStatus r = st) (hne : st ≠ 0x21) (after : Nat) :
    (∃ x, findRun (stopRun s r after) k = some x ∧ stoppedAfter s r after x ∧ x.status = some st) ∧
      onlyChanged [.runs] s (stopRun s r after) := by
  have heq : stopRun s r after = putRun s (endRun { r with abandoned := true } s.clk.chipAk st after) := by
    simp only [stopRun, hst, hne, if_false]
  rw [heq]
  exact putRun_leaves (P := fun x => stoppedAfter s r after x ∧ x.status = some st) (only_refl _ s) hr ⟨⟨rfl, rfl, rfl⟩, rfl⟩

/-- One that it stops without a number has a trap record, of free fields (log 36). -/
theorem stopRun_nan (hr : findRun s k = some r) (hst : triggerStatus r = 0x21) (after : Nat) :
    (∃ x, findRun (stopRun s r after) k = some x ∧ stoppedAfter s r after x ∧ x.status = some 0x21 ∧ x.trap.isSome = true) ∧
      onlyChanged [.runs, .free] s (stopRun s r after) := by
  have hfree := freeTrap_only s
  have heq : stopRun s r after =
      putRun (freeTrap s).2 (endRun { r with trap := some (freeTrap s).1, abandoned := true } s.clk.chipAk 0x21 after) := by
    simp only [stopRun, hst, if_true, only_clk hfree (by decide)]
  rw [heq]
  exact putRun_leaves (P := fun x => stoppedAfter s r after x ∧ x.status = some 0x21 ∧ x.trap.isSome = true)
    (only_mono hfree (by decide)) ((findRun_congr (only_runs hfree (by decide)) k).trans hr) ⟨⟨rfl, rfl, rfl⟩, rfl, rfl⟩

/-! ## The statement -/

/-- Settles O52: each branch of the trigger by the equation of what it does, and the stop by the status that the trigger gives. -/
theorem deadlines : Obligations.Deadlines := by
  intro s k r hr hw hf
  refine ⟨fun htrig hdue => ?_, fun tr htrig hafter hin hslot => ?_⟩
  · have hdo := doDeadlineTrigger_due hr hw hf htrig hdue
    refine ⟨fun hwhen => ?_, fun hp hi hstart hb => ?_⟩
    · have hnot : ¬ (r.phase = .iterating ∧ 0 < r.iter ∧ r.phaseStart = s.clk.chipAk) := by
        rintro ⟨hp, hi, hstart⟩
        rcases hwhen with hsetup | h0 | hne
        · simp [hp] at hsetup
        · omega
        · exact hne hstart
      exact gives_of_eq rfl (hdo.trans (if_neg hnot)) (putRun_leaves (only_refl _ s) hr ⟨rfl, rfl, rfl⟩)
    · have hend := (hdo.trans (if_pos ⟨hp, hi, hstart⟩)).trans (endNum_best (r := triggeredRun s r) hb (by decide))
      exact gives_of_eq rfl hend (endIter_leaves (only_refl _ s) hr ⟨rfl, rfl, rfl⟩)
  · have hstop := doDeadlineStop_inTime hr hw hf htrig hafter hin hslot
    refine ⟨fun hp hb => ?_, fun hp hb => ?_, fun hp => ?_⟩
    · exact gives_of_eq rfl hstop (stopRun_status hr ((triggerStatus_iterating hp).trans (noNumber_best hb 1)) (by decide) 6)
    · exact gives_of_eq rfl hstop (stopRun_nan hr ((triggerStatus_iterating hp).trans (noNumber_none hb 1)) 6)
    · exact gives_of_eq rfl hstop (stopRun_status hr (triggerStatus_setup hp) (by decide) 6)

end Sys2Proof.Proofs

/-! SUPPORT. The proof of the statement of 06_number_formats.md: the comparisons, and the operations of a Sextant lane. -/

namespace Sys2Proof.Proofs
open Sys2Proof Sys2Proof.Machine Sys2Proof.Laws

/- One proof at a time: elaborated beside the pending kernel checks of the text's tests, they need more threads than the memory limit holds. -/
set_option Elab.async false

variable {s t u v : State} {gs : List StateGroup} {k : CmdKey} {r r' : Run} {x : SxtAt}

/-! ## Comparisons (06 R163) -/

/-- A NaN is unordered. -/
theorem cmpX_nan {a b : Machine.Num} (h : a.isNan = true ∨ b.isNan = true) : cmpX a b = none := by
  rcases h with h | h
  · cases a with
    | nan => rfl
    | zero | fin | inf => exact nomatch h
  · cases b with
    | nan => cases a <;> rfl
    | zero | fin | inf => exact nomatch h

/-- Two zeros are equal, whatever their signs. -/
theorem cmpX_zero (m n : Bool) : cmpX (.zero m) (.zero n) = some .eq := rfl

theorem compareX_unordered {a b : Machine.Num} (h : cmpX a b = none) (op : CmpOp) : compareX op a b = decide (op = .ne) := by
  unfold compareX
  rw [h]
  cases op <;> rfl

theorem compareX_congr {a b c d : Machine.Num} (h : cmpX a b = cmpX c d) (op : CmpOp) : compareX op a b = compareX op c d := by
  unfold compareX
  rw [h]

theorem leX_unordered {a b : Machine.Num} (h : cmpX a b = none) : leX a b = false := by
  unfold leX
  rw [h]

/-! ## The events of an operation: what they leave of the lanes and of the run -/

/-- What the events of a run's operation keep: the results of the lanes, and of the run its settings and its count of operations. -/
structure Evented (k : CmdKey) (s t : State) : Prop where
  only : onlyChanged [.rose, .runs, .pel] s t
  sxt : t.rose.sxt = s.rose.sxt
  run : ∀ r, findRun s k = some r → ∃ y, findRun t k = some y ∧ y.stream = r.stream ∧ y.counts.sxtOps = r.counts.sxtOps

theorem Evented.refl (k : CmdKey) (s : State) : Evented k s s := ⟨only_refl _ s, rfl, fun r h => ⟨r, h, rfl, rfl⟩⟩

theorem Evented.trans (h : Evented k s t) (h' : Evented k t u) : Evented k s u := by
  refine ⟨only_trans h.only h'.only, h'.sxt.trans h.sxt, fun r hr => ?_⟩
  obtain ⟨y, hy, hst, hops⟩ := h.run r hr
  obtain ⟨z, hz, hst', hops'⟩ := h'.run y hy
  exact ⟨z, hz, hst'.trans hst, hops'.trans hops⟩

/-- A change outside the runs that leaves the results of the lanes. -/
theorem Evented.of_only (h : onlyChanged gs s t) (hsxt : t.rose.sxt = s.rose.sxt) (hg : ∀ g, g ∈ gs → g = .rose ∨ g = .pel := by decide) :
    Evented k s t where
  only := only_mono h (fun g hmem => by rcases hg g hmem with rfl | rfl <;> decide)
  sxt := hsxt
  run r hr := ⟨r, (findRun_congr (only_runs h (fun hmem => absurd (hg _ hmem) (by decide))) k).trans hr, rfl, rfl⟩

theorem Evented.putRun (hr : findRun s k = some r) (hk : r'.key = r.key := by rfl) (hst : r'.stream = r.stream := by rfl)
    (hops : r'.counts.sxtOps = r.counts.sxtOps := by rfl) : Evented k s (putRun s r') := by
  refine ⟨only_mono (putRun_only _ _) (by decide), rfl, fun q hq => ?_⟩
  obtain rfl := Option.some.inj (hr.symm.trans hq)
  exact ⟨r', putRun_found hr hk, hst, hops⟩

/-- The settings of the run stand. -/
theorem Evented.runNum (h : Evented k s t) (hr : findRun s k = some r) : ∃ y, findRun t k = some y ∧ runNum t y = runNum s r := by
  obtain ⟨y, hy, hst, -⟩ := h.run r hr
  refine ⟨y, hy, ?_⟩
  rw [Machine.runNum, runDesc_congr h.only ((findRun_key hy).trans (findRun_key hr).symm) hst]
  rfl

theorem dropLive_only (s : State) (org : Nat) (k : CmdKey) : onlyChanged [.pel] s (dropLive s org k) := setPel_only _ _

/-- A run that a trap stops gives up the content of its facets and its live counters (06 R168). -/
theorem trapDrops_evented (s : State) (r : Run) :
    Evented k s (r.berths.foldl (fun s b => dropLive s b.origin r.key) (if r.slot.isSome then s else emptyFacets s (runFacets r))) := by
  have hfacets : Evented k s (if r.slot.isSome then s else emptyFacets s (runFacets r)) := by
    split
    · exact .refl _ _
    · exact .of_only (emptyFacets_only _ _) (emptyFacets_sxt _ _)
  generalize (if r.slot.isSome then s else emptyFacets s (runFacets r)) = v at hfacets
  generalize r.berths = bs
  induction bs generalizing v with
  | nil => exact hfacets
  | cons b bs ih => exact ih _ (hfacets.trans (.of_only (dropLive_only _ _ _) rfl))

theorem trapRun_evented (hr : findRun s k = some r) (tr : TrapRec) : Evented k s (trapRun s r tr) := by
  unfold trapRun
  dsimp only
  split
  · exact .refl _ _
  · split
    · exact .putRun hr
    · have hd := trapDrops_evented (k := k) s r
      obtain ⟨y, hy, hst, hops⟩ := hd.run r hr
      have hk : r.key = y.key := (findRun_key hr).trans (findRun_key hy).symm
      exact hd.trans (.putRun hy (by split <;> exact hk) (by split <;> exact hst.symm) (by split <;> exact hops.symm))

/-- A run with other counts. -/
def withCounts (r : Run) (c : RunCounts) : Run := { r with counts := c }

/-- A run with the events of an operation counted. -/
def eventRun (s : State) (r : Run) (e : NumEv) : Run := withCounts r { r.counts with ev := r.counts.ev.add (keptEv s r e) }

/-- The trap that the events of an operation raise: of a NaN under NAN_TRAP, of a STRICT overflow (06 R168). -/
def eventTrap (s : State) (r : Run) (e : NumEv) (site : TrapRec) : State :=
  if 0 < e.nanGen ∧ (runNum s r).nanTrap then trapRun s r { site with kind := 1, count := e.nanGen }
  else if 0 < e.strictOvf then trapRun s r { site with kind := 4, count := e.strictOvf }
  else s

theorem opEvents_eq (hr : findRun s k = some r) (hk : r'.key = r.key) (e : NumEv) (site : TrapRec) :
    opEvents s r' e site = eventTrap (putRun s (eventRun s r' e)) (eventRun s r' e) e site := by
  have hfound : findRun (putRun s (eventRun s r' e)) r'.key = some (eventRun s r' e) := by
    rw [hk, findRun_key hr]
    exact putRun_found hr hk
  unfold opEvents
  dsimp only
  split
  · next hnone => exact nomatch hnone.symm.trans hfound
  · next y hy =>
    obtain rfl := Option.some.inj (hy.symm.trans hfound)
    rfl

theorem eventTrap_evented (hr : findRun s k = some r) (e : NumEv) (site : TrapRec) : Evented k s (eventTrap s r e site) := by
  unfold eventTrap
  split
  · exact trapRun_evented hr _
  · split
    · exact trapRun_evented hr _
    · exact .refl _ _

/-- Quiet events raise none. -/
theorem eventTrap_quiet {e : NumEv} (h : quietEv (runNum s r) e) (site : TrapRec) : eventTrap s r e site = s := by
  obtain ⟨hnan, hovf⟩ := h
  have hno : ¬ (0 < e.nanGen ∧ (runNum s r).nanTrap = true) := by
    rintro ⟨hpos, htrap⟩
    rcases hnan with h0 | hoff
    · omega
    · simp [hoff] at htrap
  simp only [eventTrap, hno, hovf, Nat.lt_irrefl, if_false]

theorem opEvents_evented (hr : findRun s k = some r) (e : NumEv) (site : TrapRec) (hk : r'.key = r.key := by rfl)
    (hst : r'.stream = r.stream := by rfl) (hops : r'.counts.sxtOps = r.counts.sxtOps := by rfl) : Evented k s (opEvents s r' e site) := by
  rw [opEvents_eq hr hk]
  exact (Evented.putRun (r' := eventRun s r' e) hr hk hst hops).trans (eventTrap_evented (putRun_found (r' := eventRun s r' e) hr hk) e site)

/-- The flushes of an operation are counted for its sector (03 R72). -/
theorem laneFlushes_only (s : State) (x : SxtAt) (e : NumEv) :
    onlyChanged [.pel] s (if e.flushed = 0 then s else gcount s (0x1070 + x.sector % 16) e.flushed) :=
  only_ite (only_refl _ _) (gcount_only _ _ _)

theorem laneEvents_evented (s : State) (x : SxtAt) (e : NumEv) (tr : TrapRec) : Evented x.key s (laneEvents s x e tr) := by
  have hflush := laneFlushes_only s x e
  have hc : Evented x.key s (if e.flushed = 0 then s else gcount s (0x1070 + x.sector % 16) e.flushed) :=
    .of_only hflush (congrArg Rose.sxt (only_rose hflush (by decide)))
  unfold laneEvents
  dsimp only
  split
  · next y hy => exact hc.trans (opEvents_evented hy e tr)
  · exact hc

/-! ## A lane operation: its operands loaded, its result left (05 R139; 06 R151) -/

/-- A lane that acts has its run. -/
theorem laneRun_spec (h : laneRun s x = some r) : findRun s x.key = some r ∧ acting s r = true := by
  unfold laneRun at h
  split at h
  · exact nomatch h
  · split at h
    · next q hq =>
      split at h
      · next hact =>
        obtain rfl := Option.some.inj h
        exact ⟨hq, (Bool.and_eq_true_iff.mp hact).1⟩
      · exact nomatch h
    · exact nomatch h

/-- The words that the Chart reads of an operation corrected leave the runs and their settings. -/
theorem feedEcc_run (hr : findRun s k = some r) (words : List Nat) :
    findRun (feedEcc s words) k = some r ∧ runNum (feedEcc s words) r = runNum s r := by
  have he := feedEcc_only s words
  exact ⟨(findRun_congr (only_runs he (by decide)) k).trans hr, by rw [runNum, runDesc_congr (r := r) he]; rfl⟩

/-- A run with one Sextant operation more. -/
def issuedRun (r : Run) : Run := withCounts r { r.counts with sxtOps := r.counts.sxtOps + 1 }

theorem issue_eq (hr : findRun s x.key = some r) : issue s x = putRun (feedEcc s x.ecc) (issuedRun r) := by
  simp [issue, (feedEcc_run hr x.ecc).1, issuedRun, withCounts]

theorem issue_spec (hr : findRun s x.key = some r) :
    findRun (issue s x) x.key = some (issuedRun r) ∧ runNum (issue s x) (issuedRun r) = runNum s r ∧
      onlyChanged [.runs] (feedEcc s x.ecc) (issue s x) := by
  obtain ⟨hrun, hnum⟩ := feedEcc_run hr x.ecc
  have ho := putRun_only (feedEcc s x.ecc) (issuedRun r)
  rw [issue_eq hr]
  refine ⟨putRun_found hrun rfl, ?_, ho⟩
  rw [← hnum, runNum, runDesc_congr (r := r) ho]
  rfl

theorem loadOpnd_spec (hr : findRun s x.key = some r) (o : Opnd) :
    (loadOpnd s x o).1 = (laneLoad (runNum s r) x o).1 ∧ Evented x.key s (loadOpnd s x o).2 := by
  simp only [loadOpnd, hr]
  exact ⟨trivial, laneEvents_evented _ _ _ _⟩

/-- One operand loaded after others. -/
def loadStep (x : SxtAt) (acc : List Machine.Num × State) (o : Opnd) : List Machine.Num × State :=
  (acc.1 ++ [(loadOpnd acc.2 x o).1], (loadOpnd acc.2 x o).2)

/-- The operands of an operation as its lane loads them under the settings of the run. -/
def loadedArgs (s : State) (r : Run) (x : SxtAt) (ops : List Opnd) : List Machine.Num := ops.map (fun o => (laneLoad (runNum s r) x o).1)

/-- Operands are loaded in their order, under the settings of the run. -/
theorem loads_spec (ops : List Opnd) (vs : List Machine.Num) (hr : findRun s x.key = some r) :
    (ops.foldl (loadStep x) (vs, s)).1 = vs ++ loadedArgs s r x ops ∧
      Evented x.key s (ops.foldl (loadStep x) (vs, s)).2 := by
  induction ops generalizing vs s r with
  | nil => exact ⟨(List.append_nil vs).symm, .refl _ _⟩
  | cons o os ih =>
    obtain ⟨hval, hload⟩ := loadOpnd_spec hr o
    obtain ⟨y, hy, hnum⟩ := hload.runNum hr
    obtain ⟨hvals, hrest⟩ := ih (vs ++ [(loadOpnd s x o).1]) hy
    exact ⟨by simpa [loadStep, loadedArgs, hval, hnum] using hvals, hload.trans hrest⟩

theorem setLane_only (s : State) (x : SxtAt) (p : Nat) : onlyChanged [.rose] s (setLane s x p) := by simp [onlyChanged, setLane]

theorem laneVal_setLane (s : State) (x : SxtAt) (p : Nat) : laneVal (setLane s x p) x = BitVec.ofNat 64 p := by
  simp [laneVal, setLane]

/-- A result in its lane, and one operation of the run counted. -/
def laneLeft (x : SxtAt) (r : Run) (p : Nat) (s t : State) : Prop :=
  laneVal t x = BitVec.ofNat 64 p ∧ (∃ y, findRun t x.key = some y ∧ y.counts.sxtOps = r.counts.sxtOps + 1) ∧
    onlyChanged [.rose, .runs, .pel] (feedEcc s x.ecc) t

/-- A result stands after its own events, a trap among them. -/
theorem laneLeft_of_setLane (hr : findRun s x.key = some r) (hv : Evented x.key (issue s x) v) (p : Nat) (e : NumEv) (tr : TrapRec) :
    laneLeft x r p s (laneEvents (setLane v x p) x e tr) := by
  obtain ⟨hissued, -, honly⟩ := issue_spec hr
  obtain ⟨y, hy, -, hops⟩ := hv.run _ hissued
  have hl := setLane_only v x p
  have he := laneEvents_evented (setLane v x p) x e tr
  obtain ⟨z, hz, -, hops'⟩ := he.run y ((findRun_congr (only_runs hl (by decide)) _).trans hy)
  refine ⟨?_, ⟨z, hz, hops'.trans hops⟩, only_trans (only_then (only_trans (only_mono honly (by decide)) hv.only) hl) he.only⟩
  rw [laneVal, he.sxt]
  exact laneVal_setLane v x p

/-- A lane operation leaves what its function makes of the loaded operands, in the pattern of the lane's format. -/
theorem laneOp_leaves (h : laneRun s x = some r) (op : Nat) (ops : List Opnd) (f : Bool → List Machine.Num → Machine.Num × NumEv) :
    laneLeft x r (patOf (laneFmt x) (f (runNum s r).strict (loadedArgs s r x ops)).1) s (laneOp s x op ops f) := by
  obtain ⟨hr, -⟩ := laneRun_spec h
  obtain ⟨hissued, hnum, -⟩ := issue_spec hr
  obtain ⟨hvals, hloads⟩ := loads_spec ops [] hissued
  have hargs : loadedArgs s r x ops = (ops.foldl (loadStep x) ([], issue s x)).1 := by rw [hvals, loadedArgs, loadedArgs, hnum, List.nil_append]
  have hleft := laneLeft_of_setLane hr hloads
  simp only [laneOp, h]
  rw [hargs]
  exact hleft _ _ _

/-- The same of a command that is one lane operation. -/
theorem laneOp_gives {i : Instr} {op : Nat} {ops : List Opnd} {f : Bool → List Machine.Num → Machine.Num × NumEv} {w : Machine.Num}
    (h : laneRun s x = some r) (hi : exec i s = .next (laneOp s x op ops f)) (hw : (f (runNum s r).strict (loadedArgs s r x ops)).1 = w) :
    gives i s (laneLeft x r (patOf (laneFmt x) w) s) :=
  ⟨_, hi, hw ▸ laneOp_leaves h op ops f⟩

/-! ## POW2_SCALE: its free value (logs 38, 44) is drawn first -/

theorem emit_setFree (s : State) (n : Nat) (o : Output) : emit (s.setFree n) o = (emit s o).setFree n := by
  simp only [emit]
  split <;> rfl

theorem raiseMsix_setFree (s : State) (n f e : Nat) : raiseMsix (s.setFree n) f e = (raiseMsix s f e).setFree n := by
  have hm : canMaster (s.setFree n) f = canMaster s f := rfl
  simp only [raiseMsix, hm, State.setFree_msix, emit_setFree]
  split <;> rfl

theorem raiseIbi_setFree (s : State) (n a p : Nat) : raiseIbi (s.setFree n) a p = (raiseIbi s a p).setFree n := by
  by_cases hen : s.i3c.ibiEn = true
  · by_cases hwas : (mget s.i3c.ibis a).isSome = true
    · simp only [raiseIbi, State.setFree_i3c, hen, hwas, Bool.not_true, Bool.false_eq_true, if_true, if_false]
      rfl
    · simp only [raiseIbi, State.setFree_i3c, hen, hwas, Bool.not_true, Bool.false_eq_true, if_false]
      exact emit_setFree (s.setI3c _) n _
  · simp only [raiseIbi, State.setFree_i3c, hen, Bool.not_false, if_true]

/-- ALERT_N and the interrupts of a class that is enabled (15 R357). -/
def alerted (s : State) (c : Nat) : State :=
  if decide (c = 5) || (rget s 0x108).testBit c then
    let s := raiseMsix (s.setBin { s.bin with alertN := false }) 0 0
    raiseIbi s 1 (rget s 0x104)
  else s

theorem alerted_setFree (s : State) (n c : Nat) : alerted (s.setFree n) c = (alerted s c).setFree n := by
  have hm := raiseMsix_setFree (s.setBin { s.bin with alertN := false }) n 0 0
  have hcond : rget (s.setFree n) 0x108 = rget s 0x108 := rfl
  unfold alerted
  rw [hcond]
  split
  · exact (congrArg (fun v => raiseIbi v 1 (rget v 0x104)) hm).trans (raiseIbi_setFree _ n _ _)
  · rfl

/-- A corrected word counted and logged, its report still to come (15 R357). -/
def eccReported (s : State) (a : Nat) : State :=
  let s := gcount (s.setChart (eccNoted s.chart a)) (if a < 0x10000000 then 0x1030 + a / 0x1000000 else 0x1040) 1
  let s' := logEvent s (eventOf s
    { cls := 1, cause := 0x31, unitKind := 3, unitNo := if a < 0x10000000 then a / 0x1000000 else 16, detail := leBytes 4 a })
  rput (rflag s' 0x100 1) 0x104 s.log.next

theorem eccCorrected_alerted (s : State) (a : Nat) : eccCorrected s a = alerted (eccReported s a) 1 := rfl

theorem eccReported_setFree (s : State) (n a : Nat) : eccReported (s.setFree n) a = (eccReported s a).setFree n := rfl

theorem eccCorrected_setFree (s : State) (n a : Nat) : eccCorrected (s.setFree n) a = (eccCorrected s a).setFree n := by
  rw [eccCorrected_alerted, eccReported_setFree, alerted_setFree, ← eccCorrected_alerted]

theorem feedEcc_setFree (s : State) (n : Nat) (words : List Nat) : feedEcc (s.setFree n) words = (feedEcc s words).setFree n := by
  induction words generalizing s with
  | nil => rfl
  | cons a as ih => exact (congrArg (feedEcc · as) (eccCorrected_setFree s n a)).trans (ih _)

/-- The frame of a lane operation after a free value was drawn. -/
theorem laneOp_setFree (h : laneRun s x = some r) (n op : Nat) (ops : List Opnd) (f : Bool → List Machine.Num → Machine.Num × NumEv) :
    laneVal (laneOp (s.setFree n) x op ops f) x = BitVec.ofNat 64 (patOf (laneFmt x) (f (runNum s r).strict (loadedArgs s r x ops)).1) ∧
      onlyChanged [.rose, .runs, .pel, .free] (feedEcc s x.ecc) (laneOp (s.setFree n) x op ops f) := by
  obtain ⟨hval, -, honly⟩ := laneOp_leaves (s := s.setFree n) h op ops f
  rw [feedEcc_setFree] at honly
  exact ⟨hval, only_trans (t := (feedEcc s x.ecc).setFree n) (by simp [onlyChanged]) (only_mono honly (by decide))⟩

/-- A scaling by a power of two; the opcode of its trap is free (log 38). -/
theorem doPow2Scale_scales (h : laneRun s x = some r) (a : Opnd) (k : Int) : doPow2Scale s x a (some k) =
    laneOp (s.setFree (s.free + 1)) x ((freeNat s 38).1 % 256) [a] (fun st vs => finish (laneFmt x) st (scaleX (arg vs 0) k, false)) := by
  simp only [doPow2Scale, h]
  rfl

/-- The exponent of a finite value, and another value for any other operand. -/
def exponentOr (other : Machine.Num) (_ : Bool) (vs : List Machine.Num) : Machine.Num × NumEv :=
  match arg vs 0 with
  | .fin _ m e => (ofDyadic (topExp m e) 0 false, {})
  | _ => (other, {})

/-- An extraction of an exponent; that of a zero, an infinity or a NaN is free (log 44). -/
theorem doPow2Scale_exponent (h : laneRun s x = some r) (a : Opnd) : doPow2Scale s x a none =
    laneOp (s.setFree (s.free + 1)) x 0x1E [a] (exponentOr (decode (laneFmt x) (freeNat s 44).1).1) := by
  simp only [doPow2Scale, h]
  rfl

/-! ## CONVERT to the Plot: quiet events, and the write that waits for its bank cycle (05 R139, R142; 06 R152; 08 R203) -/

/-- What the quiet events of a run's operation keep: everything of the run but its counts, and everything else but the counters. -/
structure Counted (k : CmdKey) (s t : State) : Prop where
  only : onlyChanged [.runs, .pel] s t
  run : ∀ r, findRun s k = some r → ∃ c, findRun t k = some (withCounts r c)

/-- A change of the counters alone. -/
theorem Counted.of_only (h : onlyChanged [.pel] s t) : Counted k s t :=
  ⟨only_mono h (by decide), fun r hr => ⟨r.counts, (findRun_congr (only_runs h (by decide)) k).trans hr⟩⟩

theorem Counted.trans (h : Counted k s t) (h' : Counted k t u) : Counted k s u := by
  refine ⟨only_trans h.only h'.only, fun r hr => ?_⟩
  obtain ⟨c, hc⟩ := h.run r hr
  exact h'.run (withCounts r c) hc

theorem Counted.putRun (hr : findRun s k = some r) (c : RunCounts) : Counted k s (putRun s (withCounts r c)) := by
  refine ⟨only_mono (putRun_only _ _) (by decide), fun q hq => ?_⟩
  obtain rfl := Option.some.inj (hr.symm.trans hq)
  exact ⟨c, putRun_found hr rfl⟩

/-- The settings of the run stand. -/
theorem Counted.runNum (h : Counted k s t) (r : Run) (c : RunCounts) : runNum t (withCounts r c) = runNum s r := by
  rw [Machine.runNum, runDesc_congr (r := r) h.only]
  rfl

/-- Quiet events are counted and raise no trap (06 R165, R168). -/
theorem opEvents_quiet {e : NumEv} (hr : findRun s k = some r) {c : RunCounts} (hq : quietEv (runNum s r) e) (site : TrapRec) :
    Counted k s (opEvents s (withCounts r c) e site) := by
  have hp : Counted k s (Machine.putRun s (eventRun s (withCounts r c) e)) := .putRun hr _
  have hnum : Machine.runNum _ (eventRun s (withCounts r c) e) = Machine.runNum s r := hp.runNum r _
  rw [opEvents_eq (r' := withCounts r c) hr rfl, eventTrap_quiet (by rwa [hnum])]
  exact hp

theorem laneEvents_quiet {e : NumEv} (hr : findRun s x.key = some r) (hq : quietEv (runNum s r) e) (tr : TrapRec) :
    Counted x.key s (laneEvents s x e tr) := by
  have hc := Counted.of_only (k := x.key) (laneFlushes_only s x e)
  unfold laneEvents
  dsimp only
  generalize (if e.flushed = 0 then s else gcount s (0x1070 + x.sector % 16) e.flushed) = v at hc
  obtain ⟨c, hfound⟩ := hc.run r hr
  rw [hfound]
  exact hc.trans (opEvents_quiet (c := { c with sxtFlushed := c.sxtFlushed + e.flushed }) hfound (by rwa [hc.runNum]) tr)

/-! ### The write of a route into its Plot -/

/-- The window check goes by the windows, the banks and the clocks (08 R212). -/
theorem admits_congr (hw : t.chart.wins = s.chart.wins) (hb : t.chart.banks = s.chart.banks) (hclk : t.clk = s.clk) (hms : t.ms = s.ms)
    (row writer : Nat) (closing : Bool) : admits t row writer closing = admits s row writer closing := by
  have hexp : ∀ w, winExpired t w = winExpired s w := fun w => by
    unfold winExpired edgePassed winExpiry merInc
    rw [hclk, hms]
  have hbank : bankClosed t = bankClosed s := by
    funext i
    simp only [bankClosed, hb]
  have hrows : ∀ base len, rowsOnBank t bankClosed base len = rowsOnBank s bankClosed base len := fun base len => by
    simp only [rowsOnBank, hbank]
  have hat : windowAt t row = windowAt s row := by simp only [windowAt, hw]
  simp only [admits, hat, hclk, hexp, hrows]

theorem routeMayWrite_congr (hw : t.chart.wins = s.chart.wins) (hb : t.chart.banks = s.chart.banks) (hclk : t.clk = s.clk) (hms : t.ms = s.ms)
    (r : Run) (c : RunCounts) (bs : List Berth) (sector a n : Nat) :
    routeMayWrite t (withCounts r c) bs sector a n = routeMayWrite s r bs sector a n := by
  have hold : plotHolder (withCounts r c) bs a n = plotHolder r bs a n := rfl
  simp only [routeMayWrite, hold, admits_congr hw hb hclk hms]

theorem watchStore_only (s : State) (r : Run) (step a : Nat) (data : List Byte) (el : Option (Nat × Nat)) :
    onlyChanged [.pel] s (watchStore s r step a data el) := setPel_only _ _

/-- The bytes that a route's write admits: from an address, at the latency of its path, under its berth's writer ID (08 R203). -/
def admittedBy (s : State) (r : Run) (bs : List Berth) (sector a : Nat) (data : List Byte) : Admitted :=
  ⟨a, s.clk.chipAk + sectorLatency sector (a / 0x1000000) - 4, berthWriter ((bs ++ r.berths).headD ⟨0, 0, 0⟩), data⟩

/-- A write that may stand waits for its bank cycle. -/
theorem routeWrite_admitted {bs : List Berth} {sector a : Nat} {data : List Byte} (h : routeMayWrite s r bs sector a data.length = true)
    (step : Nat) (el : Option (Nat × Nat)) :
    (routeWrite s r bs sector step a data el).chart.admitted = s.chart.admitted ++ [admittedBy s r bs sector a data] ∧
      (routeWrite s r bs sector step a data el).chart.mem = s.chart.mem ∧
      onlyChanged [.runs, .chart, .pel] s (routeWrite s r bs sector step a data el) := by
  let v := admitBytes s a (berthWriter ((bs ++ r.berths).headD ⟨0, 0, 0⟩)) (sectorLatency sector (a / 0x1000000)) data
  have hv : onlyChanged [.chart] s v := setChart_only _ _
  have hw := watchStore_only v r step a data el
  have hall : onlyChanged [.runs, .chart, .pel] s (watchStore v r step a data el) := only_then (only_mono hv (by decide)) hw
  have hchart : (watchStore v r step a data el).chart = v.chart := only_chart hw (by decide)
  have hmem : (watchStore v r step a data el).chart.mem = s.chart.mem := by
    rw [hchart]
    rfl
  simp only [routeWrite, h, if_true]
  split
  · exact ⟨congrArg ChartSt.admitted hchart, hmem, only_then hall (putRun_only _ _)⟩
  · exact ⟨congrArg ChartSt.admitted hchart, hmem, hall⟩

/-! ### The store path of a Sextant -/

theorem leBytes_length (n v : Nat) : (leBytes n v).length = n := by
  induction n generalizing v with
  | zero => rfl
  | succ n ih => simp [leBytes, ih]

/-- The lists of corrected words apart, the Chart stands. -/
theorem feedEcc_writes (s : State) (words : List Nat) :
    (feedEcc s words).chart.wins = s.chart.wins ∧ (feedEcc s words).chart.banks = s.chart.banks ∧
      (feedEcc s words).chart.admitted = s.chart.admitted := by
  rw [feedEcc_chart]
  induction words generalizing s with
  | nil => exact ⟨rfl, rfl, rfl⟩
  | cons a as ih => exact ih (s.setChart (eccNoted s.chart a))

/-- The berths that a Sextant serves with a write: the run's in its sector, where it is a lead conductor's or the address lies in that sector
(05 R139, R142). -/
def storeBerths (x : SxtAt) (r : Run) (a : Nat) : List Berth :=
  let mine := r.berths.filter (fun b => b.sectors.contains (x.sector % 16))
  if mine.any (fun b => decide (b.sectors.headD 0 = x.sector % 16)) ∨ a / 0x1000000 = x.sector % 16 then mine else []

theorem laneWrite_eq (hr : findRun s x.key = some r) (hact : acting s r = true) (a : Nat) (data : List Byte) (el : Option (Nat × Nat)) :
    laneWrite s x a data el = routeWrite s r (storeBerths x r a) (x.sector % 16) x.site.step a data el := by
  simp only [laneWrite, hr, hact, if_true]
  rfl

/-- One element is converted, its events are counted, and its bytes written. -/
theorem laneStore_one (hr : findRun s x.key = some r) (f : Fmt) (code : Nat) (w : Machine.Num) (a : Nat) : ∃ tr,
    laneStore s x f code [w] [a] 0 =
      laneWrite (laneEvents s x (convert w f (runNum s r).rm (runNum s r).strict).2 tr) x a
        (leBytes f.bytes (convert w f (runNum s r).rm (runNum s r).strict).1) (some (code, 0)) := by
  simp only [laneStore, hr]
  exact ⟨_, rfl⟩

theorem loadOpnd_quiet {o : Opnd} (hr : findRun s x.key = some r) (hq : quietEv (runNum s r) (laneLoad (runNum s r) x o).2) :
    Counted x.key s (loadOpnd s x o).2 := by
  simp only [loadOpnd, hr]
  exact laneEvents_quiet hr hq _

theorem issue_counted (hr : findRun s x.key = some r) : Counted x.key (feedEcc s x.ecc) (issue s x) := by
  rw [issue_eq hr]
  exact .putRun (feedEcc_run hr x.ecc).1 _

/-- A conversion to the Plot loads its operand and stores it through the store path (06 R151). -/
theorem doConvert_plot {code : Nat} {g : Fmt} (h : laneRun s x = some r) (hf : fmtOfCode code = some g) (hb : blockOf code = 0) (h1 : code ≠ 1)
    (h2 : code ≠ 2) (o : Opnd) (a ea : Nat) :
    doConvert s x [o] (.plot code [a] ea) = laneStore (loadOpnd (issue s x) x o).2 x g code [(loadOpnd (issue s x) x o).1] [a] 0 := by
  simp [doConvert, h, hf, hb, h1, h2]

/-- A conversion that stays in a lane, under the command's mode (log 133). -/
theorem doConvert_lane {code : Nat} {g : Fmt} (h : laneRun s x = some r) (hf : fmtOfCode code = some g) (h6 : 6 ≤ code) (o : Opnd)
    (rest : List Opnd) : ∃ e tr, doConvert s x (o :: rest) (.lane code) =
      laneEvents (setLane (issue s x) x (convert (opndVal o) g (runNum s r).rm (runNum s r).strict).1) x e tr := by
  simp only [doConvert, h, hf, Nat.not_lt.mpr h6, if_false]
  exact ⟨_, _, rfl⟩

/-- Bytes that a Sextant writes wait for their bank cycle; the Chart's bytes stand until then (08 R203). -/
def writeWaits (x : SxtAt) (r : Run) (a : Nat) (data : List Byte) (s t : State) : Prop :=
  t.chart.admitted = s.chart.admitted ++ [admittedBy s r (storeBerths x r a) (x.sector % 16) a data] ∧ t.chart.mem = s.chart.mem ∧
    onlyChanged [.runs, .chart, .pel] (feedEcc s x.ecc) t

/-- After quiet events of its run, a write that may stand waits for its bank cycle. -/
theorem laneWrite_admitted {a : Nat} {data : List Byte} (h : laneRun s x = some r) (hv : Counted x.key (feedEcc s x.ecc) v)
    (hmay : routeMayWrite s r (storeBerths x r a) (x.sector % 16) a data.length = true) (el : Option (Nat × Nat)) :
    writeWaits x r a data s (laneWrite v x a data el) := by
  obtain ⟨hr, hact⟩ := laneRun_spec h
  have hecc := feedEcc_only s x.ecc
  obtain ⟨hwins, hbanks, hadm⟩ := feedEcc_writes s x.ecc
  obtain ⟨c, hc⟩ := hv.run r (feedEcc_run hr x.ecc).1
  have hclk : v.clk = s.clk := (only_clk hv.only (by decide)).trans (only_clk hecc (by decide))
  have hms : v.ms = s.ms := (only_ms hv.only (by decide)).trans (only_ms hecc (by decide))
  have hchart := only_chart hv.only (by decide)
  have hactv : acting v (withCounts r c) = true := by
    rw [← hact]
    simp only [acting, hclk]
    rfl
  rw [← routeMayWrite_congr (hchart ▸ hwins) (hchart ▸ hbanks) hclk hms r c] at hmay
  obtain ⟨hleft, hmem, honly⟩ := routeWrite_admitted hmay x.site.step el
  have hby : admittedBy v (withCounts r c) (storeBerths x r a) (x.sector % 16) a data =
      admittedBy s r (storeBerths x r a) (x.sector % 16) a data := by
    simp only [admittedBy, hclk]
    rfl
  have heq : laneWrite v x a data el = routeWrite v (withCounts r c) (storeBerths x r a) (x.sector % 16) x.site.step a data el :=
    laneWrite_eq hc hactv a data el
  rw [writeWaits, heq, hleft, hmem, hby, hchart, hadm]
  exact ⟨rfl, (feedEcc_mem s x.ecc).1, only_trans (only_mono hv.only (by decide)) honly⟩

/-- A conversion to the Plot whose events are quiet leaves its element to its bank cycle (06 R152). -/
theorem doConvert_admitted {code a : Nat} {g : Fmt} {o : Opnd} (h : laneRun s x = some r) (hf : fmtOfCode code = some g) (hb : blockOf code = 0)
    (h1 : code ≠ 1) (h2 : code ≠ 2) (hload : quietEv (runNum s r) (laneLoad (runNum s r) x o).2)
    (hconv : quietEv (runNum s r) (convert (laneLoad (runNum s r) x o).1 g (runNum s r).rm (runNum s r).strict).2)
    (hmay : routeMayWrite s r (storeBerths x r a) (x.sector % 16) a g.bytes = true) (ea : Nat) :
    writeWaits x r a (leBytes g.bytes (convert (laneLoad (runNum s r) x o).1 g (runNum s r).rm (runNum s r).strict).1) s
      (doConvert s x [o] (.plot code [a] ea)) := by
  obtain ⟨hr, -⟩ := laneRun_spec h
  obtain ⟨hissued, hnum, -⟩ := issue_spec hr
  have hval := (loadOpnd_spec hissued o).1
  have hloaded := loadOpnd_quiet (o := o) hissued (by rwa [hnum])
  obtain ⟨c, hc⟩ := hloaded.run _ hissued
  obtain ⟨tr, hstore⟩ := laneStore_one hc g code (loadOpnd (issue s x) x o).1 a
  have hcnum : runNum (loadOpnd (issue s x) x o).2 (withCounts (issuedRun r) c) = runNum s r := (hloaded.runNum _ c).trans hnum
  rw [hval, hcnum, hnum] at hstore
  have hstored := laneEvents_quiet hc (by rwa [hcnum]) tr
  rw [doConvert_plot h hf hb h1 h2, hval, hnum, hstore]
  exact laneWrite_admitted h (((issue_counted hr).trans hloaded).trans hstored) (by rwa [leBytes_length]) _

/-! ## The statement -/

/-- Settles O57: the comparisons by the order of values, each lane operation by what a lane operation leaves, and a conversion to the Plot by
the write that its quiet events leave to be admitted. -/
theorem sextantOperations : Obligations.SextantOperations := by
  intro s x r h
  obtain ⟨hr, -⟩ := laneRun_spec h
  refine ⟨fun op a b hnan => compareX_unordered (cmpX_nan hnan) op, fun op m n => compareX_congr (cmpX_zero m n) op, rfl,
    fun a b hnan => leX_unordered (cmpX_nan hnan), ?_, ?_, ?_, ?_, ?_, ?_, ?_⟩
  · exact fun a b c => laneOp_gives h rfl rfl
  · exact fun a b => ⟨laneOp_gives h rfl rfl, laneOp_gives h rfl rfl, laneOp_gives h rfl rfl, laneOp_gives h rfl rfl, laneOp_gives h rfl rfl,
      laneOp_gives h rfl rfl, fun op => laneOp_gives h rfl rfl⟩
  · exact fun a => ⟨laneOp_gives h rfl rfl, laneOp_gives h rfl rfl⟩
  · intro a k
    exact gives_of_eq rfl (doPow2Scale_scales h a k) (laneOp_setFree h _ _ [a] _)
  · intro a neg m e hval
    obtain ⟨hleft, honly⟩ := laneOp_setFree h (s.free + 1) 0x1E [a] (exponentOr (decode (laneFmt x) (freeNat s 44).1).1)
    have hload : loadedArgs s r x [a] = [.fin neg m e] := congrArg (fun w => [w]) hval
    rw [hload] at hleft
    exact gives_of_eq rfl (doPow2Scale_exponent h a) ⟨hleft, honly⟩
  · intro code g o rest hf h6
    obtain ⟨e, tr, heq⟩ := doConvert_lane h hf h6 o rest
    obtain ⟨hval, -, honly⟩ := laneLeft_of_setLane hr (.refl x.key _) (convert (opndVal o) g (runNum s r).rm (runNum s r).strict).1 e tr
    exact gives_of_eq rfl heq ⟨hval, honly⟩
  · intro code g o a ea hf hb h1 h2 hload hconv k mine bs hmay
    exact gives_of_eq rfl rfl (doConvert_admitted h hf hb h1 h2 hload hconv hmay ea)

end Sys2Proof.Proofs

/-! SUPPORT. The proof of the statement of 07_factorisation_kernels.md: PIVOT_DIV and COLUMN_STEP. -/

namespace Sys2Proof.Proofs
open Sys2Proof Sys2Proof.Machine Sys2Proof.Laws

/- One proof at a time: elaborated beside the pending kernel checks of the text's tests, they need more threads than the memory limit holds. -/
set_option Elab.async false

variable {s t u e p : State} {gs : List StateGroup} {k : CmdKey} {r r' y : Run} {x : ColStep} {slot : Nat} {W : Nat → Prop}

/-! ## Arithmetic outside STRICT counts no STRICT overflow (06 R159, R160) -/

theorem convert_lax (w : Machine.Num) (f : Fmt) (rm : RMode) : (convert w f rm false).2.strictOvf = 0 := by
  cases w <;> simp only [convert, overflowCode, apply_ite Prod.snd, apply_ite NumEv.strictOvf, Bool.false_eq_true, if_false, ite_self]

theorem finish_lax (f : Fmt) (w : Machine.Num × Bool) : (finish f false w).2.strictOvf = 0 := convert_lax w.1 f .rne
theorem addR_lax (f : Fmt) (a b : Machine.Num) : (addR f false a b).2.strictOvf = 0 := finish_lax f _
theorem mulR_lax (f : Fmt) (a b : Machine.Num) : (mulR f false a b).2.strictOvf = 0 := finish_lax f _
theorem fmaR_lax (f : Fmt) (a b c : Machine.Num) : (fmaR f false a b c).2.strictOvf = 0 := finish_lax f _
theorem divR_lax (f : Fmt) (a b : Machine.Num) : (divR f false a b).2.strictOvf = 0 := finish_lax f _
theorem sqrtR_lax (f : Fmt) (a : Machine.Num) : (sqrtR f false a).2.strictOvf = 0 := finish_lax f _

theorem add_lax {a b : NumEv} (ha : a.strictOvf = 0) (hb : b.strictOvf = 0) : (a.add b).strictOvf = 0 := by simp [NumEv.add, ha, hb]

theorem recipOf_lax (kern : Kernel) (d : Machine.Num) : (recipOf kern d).2.strictOvf = 0 := by
  unfold recipOf
  split <;> exact convert_lax _ _ _

theorem replacePivot_lax (policy : Nat) (thr d : Machine.Num) (neg : Bool) : (replacePivot false policy thr d neg).2.strictOvf = 0 := by
  unfold replacePivot
  split
  · exact addR_lax _ _ _
  · rfl

/-- A fused sum over a list. -/
theorem fusedSum_lax {α : Type} (l : List α) (f g : α → Machine.Num) (a : Machine.Num × NumEv) (ha : a.2.strictOvf = 0) :
    (l.foldl (fun (a : Machine.Num × NumEv) v => let (q, ev) := fmaR .w48 false (f v) (g v) a.1; (q, a.2.add ev)) a).2.strictOvf = 0 :=
  List.foldlRecOn (motive := fun (a : Machine.Num × NumEv) => a.2.strictOvf = 0) l _ ha (fun _ hb _ _ => add_lax hb (fmaR_lax _ _ _ _))

theorem tailNorm_lax (col : Vec) (i : Nat) : (tailNorm false col i).2.strictOvf = 0 :=
  add_lax (fusedSum_lax (col.drop i) id id _ rfl) (sqrtR_lax _ _)

theorem reflectorOf_lax (col : Vec) (i : Nat) (d : Machine.Num) : (reflectorOf false col i d).2.strictOvf = 0 := by
  have hfirst : (if (!(col.getD i nz).neg) = true then addR .w48 false (col.getD i nz) d
      else addR .w48 false (col.getD i nz) d.opp).2.strictOvf = 0 := by
    split <;> exact addR_lax _ _ _
  exact add_lax (add_lax hfirst (fusedSum_lax (_ :: col.drop (i + 1)) id id (nz, {}) rfl)) (divR_lax _ _ _)

theorem reflect_lax (h : Reflector) (col : Vec) : (reflect false h col).2.strictOvf = 0 := by
  refine List.foldlRecOn (motive := fun (a : NumEv) => a.strictOvf = 0) _ _
    (add_lax (fusedSum_lax _ Prod.fst Prod.snd _ rfl) (mulR_lax _ _ _)) (fun b hb q hq => add_lax hb ?_)
  obtain ⟨w, -, rfl⟩ := List.mem_map.mp hq
  exact fmaR_lax _ _ _ _

theorem multiplier_lax (s : State) (slot : Nat) (x : ColStep) (d : Machine.Num) (j : Nat) : (multiplier s slot x false d j).2.strictOvf = 0 := by
  unfold multiplier
  dsimp only
  split
  · exact mulR_lax _ _ _
  · rfl

theorem regPivot_lax (s : State) (slot : Nat) (x : ColStep) : (regPivot s slot x false).2.strictOvf = 0 := by
  unfold regPivot
  dsimp only
  split
  · exact addR_lax _ _ _
  · rfl

/-! ## The elements of a panel -/

theorem mem_rowsBelow {i : Nat} : i ∈ rowsBelow x ↔ i < 32 * x.facets.length ∧ x.col < i := by simp [rowsBelow]
theorem mem_colsRight {j : Nat} : j ∈ colsRight x ↔ j < x.width ∧ x.col < j := by simp [colsRight]

theorem panelAt_congr {i j : Nat} (h : mget t.rose.panel (elemKey slot x i j) = mget s.rose.panel (elemKey slot x i j)) :
    panelAt t slot x i j = panelAt s slot x i j := by
  simp only [panelAt, mgetD, h]

/-- Elements of two columns are two elements. -/
theorem elemKey_col_ne (hrow : x.rowwise = false) (slot : Nat) (i i' : Nat) {j c : Nat} (hj : j < 32) (hc : c < 32) (h : j ≠ c) :
    elemKey slot x i j ≠ elemKey slot x i' c := by
  simp only [elemKey, hrow, Bool.false_eq_true, if_false]
  omega

/-- Elements of two rows are two elements, as no facet holds two blocks of rows. -/
theorem elemKey_row_ne (hrow : x.rowwise = false) (hnd : x.facets.Nodup) (slot c : Nat) {i i' : Nat} (hi : i < 32 * x.facets.length)
    (hi' : i' < 32 * x.facets.length) (h : i ≠ i') : elemKey slot x i c ≠ elemKey slot x i' c := by
  intro heq
  have hb : i / 32 < x.facets.length := by omega
  have hb' : i' / 32 < x.facets.length := by omega
  simp only [elemKey, facetKey, hrow, Bool.false_eq_true, if_false, List.getD_eq_getElem _ _ hb, List.getD_eq_getElem _ _ hb'] at heq
  have hfacet : x.facets[i / 32] = x.facets[i' / 32] := by omega
  have hblock := hnd.getElem_inj_iff.mp hfacet
  omega

theorem rows_pairwise (hrow : x.rowwise = false) (hnd : x.facets.Nodup) (slot c : Nat) {rows : List Nat} (hrows : rows.Nodup)
    (hlt : ∀ i ∈ rows, i < 32 * x.facets.length) : rows.Pairwise (fun i j => elemKey slot x i c ≠ elemKey slot x j c) :=
  hrows.imp_of_mem (fun hi hj h => elemKey_row_ne hrow hnd slot c (hlt _ hi) (hlt _ hj) h)

/-! ## What the operations of a pivot unit keep -/

/-- A run with its numeric events left out. -/
def eventless (r : Run) : Run := withCounts r { r.counts with ev := {} }

/-- No NaN traps the run. -/
def Calm (k : CmdKey) (s : State) : Prop := ∀ r, findRun s k = some r → (runNum s r).nanTrap = false

/-- What operations of a pivot unit that raise no trap keep: everything of the run but its numeric events, the permutation, and the panel
buffers outside the keys W. -/
structure Stepped (k : CmdKey) (W : Nat → Prop) (s t : State) : Prop where
  only : onlyChanged [.rose, .runs] s t
  run : (findRun t k).map eventless = (findRun s k).map eventless
  perm : t.rose.perm = s.rose.perm
  panel : ∀ q, ¬ W q → mget t.rose.panel q = mget s.rose.panel q

theorem Stepped.refl (k : CmdKey) (W : Nat → Prop) (s : State) : Stepped k W s s := ⟨only_refl _ s, rfl, rfl, fun _ _ => rfl⟩

theorem Stepped.trans (h : Stepped k W s t) (h' : Stepped k W t u) : Stepped k W s u :=
  ⟨only_trans h.only h'.only, h'.run.trans h.run, h'.perm.trans h.perm, fun q hq => (h'.panel q hq).trans (h.panel q hq)⟩

/-- The run is still there. -/
theorem Stepped.found (h : Stepped k W s t) (hr : findRun s k = some r) : ∃ y, findRun t k = some y ∧ eventless y = eventless r := by
  have hrun := h.run
  rw [hr] at hrun
  exact Option.map_eq_some_iff.mp hrun

/-- The settings of the run go by its command or its binding. -/
theorem runNum_eventless (h : onlyChanged gs s t) (hy : eventless y = eventless r) (hc : StateGroup.cmds ∉ gs := by decide)
    (hs : StateGroup.streams ∉ gs := by decide) : runNum t y = runNum s r := by
  have hkey : y.key = r.key := show (eventless y).key = (eventless r).key by rw [hy]
  have hstream : y.stream = r.stream := show (eventless y).stream = (eventless r).stream by rw [hy]
  rw [runNum, runDesc_congr (r := r) h hkey hstream hc hs]
  rfl

theorem Stepped.calm (h : Stepped k W s t) (hc : Calm k s) : Calm k t := by
  intro y hy
  have hrun := h.run
  rw [hy] at hrun
  obtain ⟨r, hr, hyr⟩ := Option.map_eq_some_iff.mp hrun.symm
  rw [runNum_eventless h.only hyr.symm]
  exact hc r hr

/-- A change that keeps all this of a state in which no NaN traps the run. -/
def Steps (k : CmdKey) (W : Nat → Prop) (s t : State) : Prop := Calm k s → Stepped k W s t

theorem Steps.refl (k : CmdKey) (W : Nat → Prop) (s : State) : Steps k W s s := fun _ => .refl k W s
theorem Steps.calm (h : Steps k W s t) (hc : Calm k s) : Calm k t := (h hc).calm hc
theorem Steps.trans (h : Steps k W s t) (h' : Steps k W t u) : Steps k W s u := fun hc => (h hc).trans (h' ((h hc).calm hc))

theorem Steps.ite {c : Prop} [Decidable c] (h : Steps k W s t) (h' : Steps k W s u) : Steps k W s (if c then t else u) := by
  split <;> assumption

theorem Steps.foldl {α : Type} {f : State → α → State} {l : List α} (hf : ∀ t, ∀ a ∈ l, Steps k W t (f t a)) :
    Steps k W s (l.foldl f s) :=
  List.foldlRecOn (motive := Steps k W s) l f (.refl k W s) (fun t ht a ha => ht.trans (hf t a ha))

/-- A buffer that no operation writes stands. -/
theorem Steps.stands {q : Nat} (h : Steps k (· ≠ q) s t) (hc : Calm k s) : mget t.rose.panel q = mget s.rose.panel q := (h hc).panel q (by simp)

theorem setPanel_steps (s : State) {i j : Nat} (w : Machine.Num) (hW : W (elemKey slot x i j)) : Steps k W s (setPanel s slot x i j w) := by
  refine fun _ => ⟨by simp [onlyChanged, setPanel], rfl, rfl, fun q hq => mget_mset_ne _ _ ?_⟩
  rintro rfl
  exact hq hW

/-- Quiet events are counted, and nothing else. -/
theorem pivotEvents_quiet {w : Machine.Num × NumEv} (hq : ∀ r, findRun s x.key = some r → quietEv (runNum s r) w.2) (i j : Nat)
    (a d : Machine.Num) :
    onlyChanged [.runs] s (pivotEvents s x i j w a d) ∧
      (findRun (pivotEvents s x i j w a d) x.key).map eventless = (findRun s x.key).map eventless := by
  unfold pivotEvents
  split
  · next r hr =>
    have hp := putRun_only s (eventRun s r w.2)
    have hnum : runNum (putRun s (eventRun s r w.2)) (eventRun s r w.2) = runNum s r := runNum_eventless hp rfl
    rw [opEvents_eq hr rfl, eventTrap_quiet (by rw [hnum]; exact hq r hr), putRun_found (r' := eventRun s r w.2) hr rfl, hr]
    exact ⟨hp, rfl⟩
  · exact ⟨only_refl _ s, rfl⟩

theorem calm_quiet (hc : Calm k s) {ev : NumEv} (he : ev.strictOvf = 0) (r : Run) (hr : findRun s k = some r) : quietEv (runNum s r) ev :=
  ⟨.inr (hc r hr), he⟩

theorem pivotEvents_steps (s : State) {w : Machine.Num × NumEv} (he : w.2.strictOvf = 0) (i j : Nat) (a d : Machine.Num) :
    Steps x.key W s (pivotEvents s x i j w a d) := by
  intro hc
  obtain ⟨ho, hrun⟩ := pivotEvents_quiet (calm_quiet hc he) i j a d
  have hrose := only_rose ho (by decide)
  exact ⟨only_mono ho (by decide), hrun, by rw [hrose], fun q _ => by rw [hrose]⟩

theorem pivotPut_steps (s : State) {w : Machine.Num × NumEv} (he : w.2.strictOvf = 0) {i j : Nat} (a d : Machine.Num) (hW : W (elemKey slot x i j)) :
    Steps x.key W s (pivotPut s slot x i j w a d) :=
  (setPanel_steps s w.1 hW).trans (pivotEvents_steps _ he i j a d)

theorem setPanel_same (s : State) (slot : Nat) (x : ColStep) (i j : Nat) (w : Machine.Num) :
    mget (setPanel s slot x i j w).rose.panel (elemKey slot x i j) = some (toW48 w) := mget_mset_same _ _ _

theorem pivotPut_same {w : Machine.Num × NumEv} {i j : Nat} (hq : ∀ r, findRun s x.key = some r → quietEv (runNum s r) w.2) (a d : Machine.Num) :
    mget (pivotPut s slot x i j w a d).rose.panel (elemKey slot x i j) = some (toW48 w.1) := by
  have hset : ∀ r, findRun (setPanel s slot x i j w.1) x.key = some r → quietEv (runNum (setPanel s slot x i j w.1) r) w.2 := hq
  rw [pivotPut, only_rose (pivotEvents_quiet hset i j a d).1 (by decide)]
  exact setPanel_same _ _ _ _ _ _

theorem pivotPut_only {w : Machine.Num × NumEv} {i j : Nat} (hq : ∀ r, findRun s x.key = some r → quietEv (runNum s r) w.2) (a d : Machine.Num) :
    onlyChanged [.rose, .runs] s (pivotPut s slot x i j w a d) := by
  have hset : ∀ r, findRun (setPanel s slot x i j w.1) x.key = some r → quietEv (runNum (setPanel s slot x i j w.1) r) w.2 := hq
  exact only_trans (by simp [onlyChanged, setPanel]) (only_mono (pivotEvents_quiet hset i j a d).1 (by decide))

theorem setVec_steps (s : State) (m : Machine.Map (List W48)) : Steps k W s (s.setRose { s.rose with vec := m }) :=
  fun _ => ⟨by simp [onlyChanged], rfl, rfl, fun _ _ => rfl⟩

/-! ### A column of quotients (07 R174) -/

theorem scaleRows_steps (s : State) {rows : List Nat} (q d : Machine.Num) (hW : ∀ i ∈ rows, W (elemKey slot x i x.col)) :
    Steps x.key W s (scaleRows s slot x false rows q d) :=
  .foldl (fun t i hi => pivotPut_steps t (mulR_lax _ _ _) _ _ (hW i hi))

theorem scaleRows_stands {rows : List Nat} {key : Nat} (q d : Machine.Num) (hne : ∀ i ∈ rows, elemKey slot x i x.col ≠ key)
    (hc : Calm x.key s) :
    mget (scaleRows s slot x false rows q d).rose.panel key = mget s.rose.panel key :=
  (scaleRows_steps (W := (· ≠ key)) s q d hne).stands hc

/-- Each row holds the quotient of what it held. -/
theorem scaleRows_quotient {rows : List Nat} (hp : rows.Pairwise (fun i j => elemKey slot x i x.col ≠ elemKey slot x j x.col))
    (q d : Machine.Num) {i : Nat} (hi : i ∈ rows) (hc : Calm x.key s) :
    mget (scaleRows s slot x false rows q d).rose.panel (elemKey slot x i x.col) =
      some (toW48 (quotient false (panelAt s slot x i x.col) q).1) := by
  induction rows generalizing s with
  | nil => exact nomatch hi
  | cons a as ih =>
    obtain ⟨ha, has⟩ := List.pairwise_cons.mp hp
    have hput : ∀ W : Nat → Prop, W (elemKey slot x a x.col) → Stepped x.key W s
        (pivotPut s slot x a x.col (quotient false (panelAt s slot x a x.col) q) (panelAt s slot x a x.col) d) :=
      fun W hW => pivotPut_steps s (mulR_lax _ _ _) _ _ hW hc
    have hcalm := (hput (fun _ => True) trivial).calm hc
    rcases List.mem_cons.mp hi with rfl | hmem
    · exact (scaleRows_stands q d (fun j hj => (ha j hj).symm) hcalm).trans (pivotPut_same (calm_quiet hc (mulR_lax _ _ _)) _ _)
    · rw [show scaleRows s slot x false (a :: as) q d = scaleRows _ slot x false as q d from rfl, ih has hmem hcalm]
      rw [panelAt_congr ((hput (· ≠ elemKey slot x i x.col) (ha i hmem)).panel _ (by simp))]

/-! ## A symmetric column step: Cholesky and LDLᵀ (07 R174, R179) -/

/-- The panel with the pivot's value on the diagonal, the events of its reciprocal counted. -/
def pivotPlaced (s : State) (slot : Nat) (x : ColStep) (strict : Bool) (d : Machine.Num) : State :=
  let s := pivotEvents s x x.col x.col (recipOf x.kernel d) d d
  match x.kernel with
  | .chol => pivotPut s slot x x.col x.col (sqrtR .w48 strict d) d d
  | _ => setPanel s slot x x.col x.col d

/-- The updates of a panel's rows in the columns right of the pivot. -/
def rowsUpdated (s : State) (slot : Nat) (x : ColStep) (strict : Bool) (d : Machine.Num) : State :=
  (rowsBelow x).foldl (fun s i => (colsRight x).foldl (fun s j =>
    if j ≤ i then
      let m := multiplier s slot x strict d j
      let s := pivotEvents s x i j m (panelAt s slot x j x.col) d
      let a := panelAt s slot x i j
      pivotPut s slot x i j (fusedSub strict a (panelAt s slot x i x.col) m.1) a d
    else s) s) s

theorem symmetricStep_eq (s : State) (slot : Nat) (b : Berth) (x : ColStep) (strict : Bool) (d : Machine.Num) :
    symmetricStep s slot b x strict d = mirrorColumn (rowsUpdated (scaleRows (pivotPlaced s slot x strict d) slot x strict (rowsBelow x)
      (recipOf x.kernel d).1 d) slot x strict d) slot b x := rfl

theorem pivotPlaced_steps (s : State) (d : Machine.Num) (hW : W (elemKey slot x x.col x.col)) :
    Steps x.key W s (pivotPlaced s slot x false d) := by
  have hrecip : Steps x.key W s (pivotEvents s x x.col x.col (recipOf x.kernel d) d d) := pivotEvents_steps s (recipOf_lax _ _) _ _ _ _
  unfold pivotPlaced
  dsimp only
  split
  · exact hrecip.trans (pivotPut_steps _ (sqrtR_lax _ _) _ _ hW)
  · exact hrecip.trans (setPanel_steps _ _ hW)

/-- The root of the pivot stands on the diagonal for Cholesky, the pivot itself for LDLᵀ. -/
theorem pivotPlaced_same (d : Machine.Num) (hc : Calm x.key s) :
    mget (pivotPlaced s slot x false d).rose.panel (elemKey slot x x.col x.col) =
      some (toW48 (if x.kernel = .chol then (sqrtR .w48 false d).1 else d)) := by
  have hcalm := (pivotEvents_steps (x := x) (W := fun _ => True) s (recipOf_lax x.kernel d) x.col x.col d d).calm hc
  unfold pivotPlaced
  dsimp only
  split
  · next hk => simpa [hk] using pivotPut_same (calm_quiet hcalm (sqrtR_lax _ _)) d d
  · next hk =>
    rw [if_neg hk]
    exact setPanel_same _ _ _ _ _ _

theorem rowsUpdated_steps (s : State) (d : Machine.Num) (hW : ∀ i, ∀ j ∈ colsRight x, W (elemKey slot x i j)) :
    Steps x.key W s (rowsUpdated s slot x false d) :=
  .foldl (fun _ i _ => .foldl (fun u j hj => .ite
    ((pivotEvents_steps u (multiplier_lax _ _ _ _ _) _ _ _ _).trans (pivotPut_steps _ (fmaR_lax _ _ _ _) _ _ (hW i j hj))) (.refl _ _ u)))

theorem mirrorColumn_steps (s : State) (b : Berth)
    (hW : ∀ i ∈ rowsBelow x, ∀ g, mirrorOf b x i = some g → W (facetKey slot g * 1024 + x.col % 32 * 32 + i % 32)) :
    Steps k W s (mirrorColumn s slot b x) := by
  refine .foldl (fun t i hi => ?_)
  dsimp only
  split
  · next g hg =>
    refine fun _ => ⟨by simp [onlyChanged], rfl, rfl, fun q hq => mget_mset_ne _ _ ?_⟩
    rintro rfl
    exact hq (hW i hi g hg)
  · exact .refl k W t

/-! ### Where the transpose stands -/

/-- The facets of a panel lie in one berth column, in rising rows. -/
def oneColumn (x : ColStep) : Prop :=
  ∀ g, g ∈ x.facets.drop 1 → g < 256 ∧ dieRow (x.facets.headD 0) < dieRow g ∧ dieCol g = dieCol (x.facets.headD 0)

theorem dieCol_facetAt (a c : Nat) : dieCol (facetAt a c) = c % 16 := by
  simp only [dieCol, facetAt]
  omega

theorem facet_of_row (hcol : oneColumn x) {i : Nat} (h32 : 32 ≤ i) (hi : i < 32 * x.facets.length) :
    x.facets.getD (i / 32) 0 < 256 ∧ dieRow (x.facets.headD 0) < dieRow (x.facets.getD (i / 32) 0) ∧
      dieCol (x.facets.getD (i / 32) 0) = dieCol (x.facets.headD 0) := by
  have hb : i / 32 < x.facets.length := by omega
  refine hcol _ (List.mem_drop_iff_getElem.mpr ⟨i / 32 - 1, by omega, ?_⟩)
  rw [List.getD_eq_getElem _ _ hb]
  congr 1
  omega

/-- The panel stands in one die column. -/
theorem dieCol_of_row (hcol : oneColumn x) {i : Nat} (hi : i < 32 ∨ i < 32 * x.facets.length) :
    dieCol (x.facets.getD (i / 32) 0) = dieCol (x.facets.headD 0) := by
  by_cases h32 : 32 ≤ i
  · exact (facet_of_row hcol h32 (by omega)).2.2
  · rw [show i / 32 = 0 by omega]
    cases x.facets <;> rfl

/-- The facet of a transpose stands in another one. -/
theorem mirrorOf_dieCol (hcol : oneColumn x) {b : Berth} {i g : Nat} (hi : i ∈ rowsBelow x) (hg : mirrorOf b x i = some g) :
    dieCol g ≠ dieCol (x.facets.headD 0) := by
  simp only [mirrorOf] at hg
  split at hg
  · next hin =>
    obtain ⟨h256, hbelow, -⟩ := facet_of_row hcol hin.1 (mem_rowsBelow.mp hi).1
    obtain rfl := Option.some.inj hg
    rw [dieCol_facetAt]
    generalize x.facets.getD (i / 32) 0 = f at h256 hbelow
    generalize x.facets.headD 0 = h at hbelow
    simp only [dieRow] at hbelow ⊢
    simp only [dieCol]
    omega
  · exact nomatch hg

theorem mirror_ne_elem {i g c q n : Nat} (hcol : oneColumn x) (hi : i < 32 ∨ i < 32 * x.facets.length)
    (hg : dieCol g ≠ dieCol (x.facets.headD 0)) (hrow : x.rowwise = false) (hq : q < 32) (hn : n < 32) :
    facetKey slot g * 1024 + q * 32 + n ≠ elemKey slot x i c := by
  have hfacet : g ≠ x.facets.getD (i / 32) 0 := by
    rintro rfl
    exact hg (dieCol_of_row hcol hi)
  simp only [elemKey, facetKey, hrow, Bool.false_eq_true, if_false]
  omega

/-! ### What the step leaves -/

theorem symmetricStep_steps (s : State) (slot : Nat) (b : Berth) (d : Machine.Num) :
    Steps x.key (fun _ => True) s (symmetricStep s slot b x false d) := by
  rw [symmetricStep_eq]
  exact (((pivotPlaced_steps s d trivial).trans (scaleRows_steps _ _ _ (fun _ _ => trivial))).trans
    (rowsUpdated_steps _ d (fun _ _ _ => trivial))).trans (mirrorColumn_steps _ b (fun _ _ _ _ => trivial))

section
variable (hrow : x.rowwise = false) (hcol : oneColumn x) (h31 : x.col ≤ 31) (hw : x.width ≤ 32)
include hrow hcol h31 hw

/-- The updates and the transpose leave the completed column. -/
theorem rowsUpdated_mirror_stands (s : State) (b : Berth) (d : Machine.Num) {i : Nat} (hi : i < 32 ∨ i < 32 * x.facets.length) (hc : Calm x.key s) :
    mget (mirrorColumn (rowsUpdated s slot x false d) slot b x).rose.panel (elemKey slot x i x.col) =
      mget s.rose.panel (elemKey slot x i x.col) := by
  refine Steps.stands (k := x.key) ((rowsUpdated_steps s d (fun i' j hj => ?_)).trans (mirrorColumn_steps _ b (fun i' hi' g hg => ?_))) hc
  · have hright := mem_colsRight.mp hj
    exact elemKey_col_ne hrow slot i' i (by omega) (by omega) (by omega)
  · exact mirror_ne_elem hcol hi (mirrorOf_dieCol hcol hi' hg) hrow (by omega) (by omega)

/-- A symmetric step leaves the pivot's value over its column of quotients. -/
theorem symmetricStep_column (hnd : x.facets.Nodup) (b : Berth) (d : Machine.Num) (hc : Calm x.key s) :
    mget (symmetricStep s slot b x false d).rose.panel (elemKey slot x x.col x.col) =
        some (toW48 (if x.kernel = .chol then (sqrtR .w48 false d).1 else d)) ∧
      ∀ i ∈ rowsBelow x, mget (symmetricStep s slot b x false d).rose.panel (elemKey slot x i x.col) =
        some (toW48 (quotient false (panelAt s slot x i x.col) (recipOf x.kernel d).1).1) := by
  have hplaced := (pivotPlaced_steps (slot := slot) (W := fun _ => True) s d trivial).calm hc
  have hscaled := (scaleRows_steps (slot := slot) (W := fun _ => True) (rows := rowsBelow x) _ (recipOf x.kernel d).1 d
    (fun _ _ => trivial)).calm hplaced
  have hdiag : ∀ i ∈ rowsBelow x, elemKey slot x i x.col ≠ elemKey slot x x.col x.col := by
    intro i hi
    obtain ⟨hlt, hbelow⟩ := mem_rowsBelow.mp hi
    exact elemKey_row_ne hrow hnd slot x.col hlt (by omega) (by omega)
  rw [symmetricStep_eq]
  refine ⟨?_, fun i hi => ?_⟩
  · rw [rowsUpdated_mirror_stands hrow hcol h31 hw _ b d (by omega) hscaled, scaleRows_stands _ d hdiag hplaced]
    exact pivotPlaced_same d hc
  · have hpair := rows_pairwise (rows := rowsBelow x) hrow hnd slot x.col (List.nodup_range.filter _) (fun j hj => (mem_rowsBelow.mp hj).1)
    rw [rowsUpdated_mirror_stands hrow hcol h31 hw _ b d (.inr (mem_rowsBelow.mp hi).1) hscaled, scaleRows_quotient hpair _ d hi hplaced]
    rw [panelAt_congr ((pivotPlaced_steps (W := (· ≠ elemKey slot x i x.col)) s d (hdiag i hi).symm).stands hc)]

end

/-! ## A tile below a factored one (07 R177) -/

/-- The updates right of the column leave its quotients. -/
theorem solveStep_rest (s : State) (hW : ∀ i, ∀ j ∈ colsRight x, W (elemKey slot x i j)) :
    Steps x.key W (scaleRows s slot x false (List.range (32 * x.facets.length)) (w48 (x.vec.headD 0)) (w48 (x.vec.headD 0)))
      (solveStep s slot x false) :=
  .foldl (fun _ i _ => .foldl (fun u j hj => pivotPut_steps u (fmaR_lax _ _ _ _) _ _ (hW i j hj)))

theorem solveStep_steps (s : State) (slot : Nat) : Steps x.key (fun _ => True) s (solveStep s slot x false) :=
  (scaleRows_steps s _ _ (fun _ _ => trivial)).trans (solveStep_rest s (fun _ _ _ => trivial))

theorem solveStep_column (hrow : x.rowwise = false) (hnd : x.facets.Nodup) (h31 : x.col ≤ 31) (hw : x.width ≤ 32) (hc : Calm x.key s) {i : Nat}
    (hi : i < 32 * x.facets.length) : mget (solveStep s slot x false).rose.panel (elemKey slot x i x.col) =
      some (toW48 (quotient false (panelAt s slot x i x.col) (w48 (x.vec.headD 0))).1) := by
  have hscaled := (scaleRows_steps (slot := slot) (W := fun _ => True) (rows := List.range (32 * x.facets.length)) s (w48 (x.vec.headD 0))
    (w48 (x.vec.headD 0)) (fun _ _ => trivial)).calm hc
  have hpair := rows_pairwise hrow hnd slot x.col List.nodup_range (fun j hj => List.mem_range.mp hj)
  rw [(solveStep_rest s (fun i' j hj => ?_)).stands hscaled]
  · exact scaleRows_quotient hpair _ _ (List.mem_range.mpr hi) hc
  · have hright := mem_colsRight.mp hj
    exact elemKey_col_ne hrow slot i' i (by omega) (by omega) (by omega)

/-! ## LU (07 R180) -/

/-- The permutation takes the pivot's row. -/
def permTaken (s : State) (r : Run) (x : ColStep) (row : Nat) : State :=
  s.setRose { s.rose with perm := mset s.rose.perm (stepKey r x) (mgetD s.rose.perm (stepKey r x) [] ++ [berthRow (stepBerth r x) x row]) }

theorem luStep_steps (s : State) (r : Run) (row : Nat) (d : Machine.Num) :
    Steps x.key (fun _ => True) (permTaken s r x row) (luStep s r x false row d) :=
  (((setPanel_steps _ _ trivial).trans (pivotEvents_steps _ (recipOf_lax _ _) _ _ _ _)).trans (scaleRows_steps _ _ _ (fun _ _ => trivial))).trans
    (.foldl (fun _ _ _ => .foldl (fun u _ _ => pivotPut_steps u (fmaR_lax _ _ _ _) _ _ trivial)))

/-! ## Householder QR (07 R181; where a reflector stands: log 42) -/

theorem putCol_steps (s : State) (slot j : Nat) (w : List Machine.Num × NumEv) (d : Machine.Num) (he : w.2.strictOvf = 0) :
    Steps x.key (fun _ => True) s (putCol s slot x j w d) :=
  (Steps.foldl (fun u _ _ => setPanel_steps u _ trivial)).trans (pivotEvents_steps _ he _ _ _ _)


/-- The column below a bad norm, cleared. -/
def clearedBelow (s : State) (slot : Nat) (x : ColStep) : State :=
  (rowsBelow x).foldl (fun s i => if inPanel s slot x i x.col then setPanel s slot x i x.col (.zero false) else s) s

theorem qrStep_bad (s : State) (r : Run) (x : ColStep) (strict : Bool) (d : Machine.Num) :
    qrStep s r x strict d true =
      keepReflector (setPanel (clearedBelow s (runSlot r) x) (runSlot r) x x.col x.col d) r x (.zero false) (.zero false) := rfl

/-- The columns right of the pivot under a reflector. -/
def rightReflected (s : State) (slot : Nat) (x : ColStep) (strict : Bool) (h : Reflector) (d : Machine.Num) : State :=
  (colsRight x).foldl (fun s j => putCol s slot x j (reflect strict h (panelCol s slot x j)) d) s

theorem qrStep_good (s : State) (r : Run) (x : ColStep) (strict : Bool) (d : Machine.Num) :
    let h := reflectorOf strict (panelCol s (runSlot r) x x.col) x.col d
    let s1 := rightReflected (pivotEvents s x x.col x.col (h.1.beta, h.2) d d) (runSlot r) x strict h.1 d
    qrStep s r x strict d false = keepReflector (setPanel s1 (runSlot r) x x.col x.col d) r x (h.1.v.headD (.zero false)) h.1.beta := rfl

theorem rightReflected_steps (s : State) (slot : Nat) (h : Reflector) (d : Machine.Num) :
    Steps x.key (fun _ => True) s (rightReflected s slot x false h d) :=
  .foldl (fun u j _ => putCol_steps u slot j _ d (reflect_lax _ _))

theorem clearedBelow_steps (s : State) (slot : Nat) : Steps x.key (fun _ => True) s (clearedBelow s slot x) :=
  .foldl (fun u _ _ => .ite (setPanel_steps u _ trivial) (.refl _ _ u))

theorem clearedBelow_vec (s : State) (slot : Nat) (x : ColStep) : (clearedBelow s slot x).rose.vec = s.rose.vec :=
  List.foldlRecOn (motive := fun (t : State) => t.rose.vec = s.rose.vec) _ _ rfl (fun t ht i _ => by split <;> exact ht)

theorem qrStep_steps (s : State) (r : Run) (d : Machine.Num) (bad : Bool) : Steps x.key (fun _ => True) s (qrStep s r x false d bad) := by
  cases bad with
  | true =>
    rw [qrStep_bad]
    exact (clearedBelow_steps s _).trans ((setPanel_steps _ _ trivial).trans (setVec_steps _ _))
  | false =>
    rw [qrStep_good]
    exact ((pivotEvents_steps s (reflectorOf_lax _ _ _) _ _ _ _).trans (rightReflected_steps _ _ _ _)).trans
      ((setPanel_steps _ _ trivial).trans (setVec_steps _ _))

/-- The diagonal of R is the norm, or its replacement. -/
theorem qrStep_diagonal (s : State) (r : Run) (x : ColStep) (strict : Bool) (d : Machine.Num) (bad : Bool) :
    mget (qrStep s r x strict d bad).rose.panel (elemKey (runSlot r) x x.col x.col) = some (toW48 d) := by
  unfold qrStep
  dsimp only
  split <;> exact setPanel_same _ _ _ _ _ _

/-- A bad norm leaves an identity reflector. -/
theorem qrStep_bad_reflector (s : State) (r : Run) (x : ColStep) (strict : Bool) (d : Machine.Num) :
    mgetD (qrStep s r x strict d true).rose.vec (stepKey r x) [] =
      mgetD s.rose.vec (stepKey r x) [] ++ [toW48 (.zero false), toW48 (.zero false)] := by
  rw [qrStep_bad, ← clearedBelow_vec s (runSlot r) x]
  exact mgetD_mset_same _ _ _ _

/-! ## A rank-1 update (07 R188) -/

/-- A rotation's changes after the new diagonal. -/
theorem rotate_rest (s : State) (r : Run) (down same : Bool) (root : Machine.Num × NumEv)
    (hW : ∀ i ∈ rowsBelow x, W (elemKey (runSlot r) x i x.col)) :
    Steps x.key W (pivotPut s (runSlot r) x x.col x.col root (panelAt s (runSlot r) x x.col x.col) (panelAt s (runSlot r) x x.col x.col))
      (rotate s r x false down root same) := by
  unfold rotate
  dsimp only
  split
  · exact .refl _ _ _
  · refine ((pivotEvents_steps _ (divR_lax _ _ _) _ _ _ _).trans (pivotEvents_steps _ (divR_lax _ _ _) _ _ _ _)).trans (.foldl (fun t i hi => ?_))
    have hput := hW i (List.mem_filter.mp hi).1
    exact ((((pivotEvents_steps t (fmaR_lax _ _ _ _) _ _ _ _).trans (pivotPut_steps _ (divR_lax _ _ _) _ _ hput)).trans
      (pivotEvents_steps _ (mulR_lax _ _ _) _ _ _ _)).trans (pivotEvents_steps _ (fmaR_lax _ _ _ _) _ _ _ _)).trans (setVec_steps _ _)

theorem rotate_steps (s : State) (r : Run) (down same : Bool) {root : Machine.Num × NumEv} (hroot : root.2.strictOvf = 0) :
    Steps x.key (fun _ => True) s (rotate s r x false down root same) :=
  (pivotPut_steps s hroot _ _ trivial).trans (rotate_rest s r down same root (fun _ _ => trivial))

/-- The root of the changed pivot stands on the diagonal. -/
theorem rotate_diagonal (hrow : x.rowwise = false) (hnd : x.facets.Nodup) (down same : Bool) {root : Machine.Num × NumEv}
    (hroot : root.2.strictOvf = 0) (hc : Calm x.key s) :
    mget (rotate s r x false down root same).rose.panel (elemKey (runSlot r) x x.col x.col) = some (toW48 root.1) := by
  have hput : Steps x.key (fun _ => True) s (pivotPut s (runSlot r) x x.col x.col root (panelAt s (runSlot r) x x.col x.col)
    (panelAt s (runSlot r) x x.col x.col)) := pivotPut_steps s hroot _ _ trivial
  rw [(rotate_rest (W := (· ≠ elemKey (runSlot r) x x.col x.col)) s r down same root (fun i hi => ?_)).stands (hput.calm hc)]
  · exact pivotPut_same (calm_quiet hc hroot) _ _
  · obtain ⟨hlt, hbelow⟩ := mem_rowsBelow.mp hi
    exact elemKey_row_ne hrow hnd _ _ hlt (by omega) (by omega)

/-- d of an update: the diagonal and the vector's element, squared and added. -/
def updateNorm (s : State) (r : Run) (x : ColStep) : Machine.Num × NumEv :=
  let l := panelAt s (runSlot r) x x.col x.col
  let w := w48 ((mgetD s.rose.vec (stepKey r x) []).getD (x.site.col + x.col) 0)
  fmaR .w48 false w w (mulR .w48 false l l).1

theorem changeStep_update (s : State) (r : Run) (hk : x.kernel = .update) : ∃ q a b c d i j, q.2.strictOvf = 0 ∧
    changeStep s r x false = rotate (pivotEvents (pivotEvents s x i j q a b) x i j (updateNorm s r x) c d) r x false false
      (sqrtR .w48 false (updateNorm s r x).1) false := by
  simp only [changeStep, hk]
  exact ⟨_, _, _, _, _, _, _, mulR_lax .w48 _ _, rfl⟩

/-! ## A column step: its entry, its boundary -/

theorem pivotRun_spec (h : pivotRun s x = some r) : findRun s x.key = some r ∧ x.col ≤ 31 := by
  unfold pivotRun at h
  split at h
  · next q hq =>
    obtain ⟨hno, heq⟩ := Option.ite_none_left_eq_some.mp h
    obtain rfl := Option.some.inj heq
    simp only [Bool.or_eq_true, decide_eq_true_eq, not_or] at hno
    obtain ⟨⟨-, h31⟩, -⟩ := hno
    exact ⟨hq, by omega⟩
  · exact nomatch h

/-- Kernel entry changes the kernel's own data alone. -/
theorem enterKernel_frame (s : State) (r : Run) (x : ColStep) (strict : Bool) :
    onlyChanged [.rose] s (enterKernel s r x strict) ∧ (enterKernel s r x strict).rose.panel = s.rose.panel := by
  unfold enterKernel
  dsimp only
  split <;> split <;> simp [onlyChanged]

/-- The device at a point of a column step of a run whose operations have counted events alone: r' is the run with what else was counted. -/
structure Poised (k : CmdKey) (r' : Run) (e p : State) : Prop where
  only : onlyChanged [.runs] e p
  run : ∃ y, findRun p k = some y ∧ eventless y = eventless r'
  calm : Calm k p

theorem Poised.rose (h : Poised k r' e p) : p.rose = e.rose := only_rose h.only (by decide)

theorem Poised.pivotEvents {w : Machine.Num × NumEv} (h : Poised x.key r' e p) (he : w.2.strictOvf = 0) (i j : Nat) (a d : Machine.Num) :
    Poised x.key r' e (pivotEvents p x i j w a d) := by
  obtain ⟨ho, hrun⟩ := pivotEvents_quiet (calm_quiet h.calm he) i j a d
  obtain ⟨y, hy, hyr⟩ := h.run
  rw [hy] at hrun
  obtain ⟨z, hz, hzy⟩ := Option.map_eq_some_iff.mp hrun
  exact ⟨only_trans h.only ho, ⟨z, hz, hzy.trans hyr⟩, (pivotEvents_steps (W := fun _ => True) p he i j a d).calm h.calm⟩

/-- A run with pivots counted under their policies. -/
def countedPivots (r : Run) (reg inertia aband : Nat) : Run :=
  withCounts r { r.counts with
    pivReg := r.counts.pivReg + reg, pivInertia := r.counts.pivInertia + inertia, pivAbandoned := r.counts.pivAbandoned + aband }

theorem Poised.countPivot (h : Poised k r' e p) (reg inertia aband : Nat) :
    Poised k (countedPivots r' reg inertia aband) e (countPivot p k reg inertia aband) := by
  obtain ⟨y, hy, hyr⟩ := h.run
  have heq : Machine.countPivot p k reg inertia aband = putRun p (countedPivots y reg inertia aband) := by
    simp only [Machine.countPivot, hy]
    rfl
  have ho := putRun_only p (countedPivots y reg inertia aband)
  have hfound : findRun (putRun p (countedPivots y reg inertia aband)) k = some (countedPivots y reg inertia aband) := putRun_found hy rfl
  rw [heq]
  refine ⟨only_trans h.only ho, ⟨_, hfound, ?_⟩, fun z hz => ?_⟩
  · exact congrArg (fun q => countedPivots q reg inertia aband) hyr
  · obtain rfl := Option.some.inj (hz.symm.trans hfound)
    rw [runNum, runDesc_congr (r := y) ho]
    exact h.calm y hy

/-- A column step of a run enters its kernel on the panel as it stands, under the settings of the run. -/
structure Entered (s : State) (x : ColStep) (r : Run) (e : State) : Prop where
  only : onlyChanged (.rose :: eccGroups) s e
  panel : e.rose.panel = s.rose.panel
  poised : Poised x.key r e e
  found : findRun e x.key = some r

theorem enterKernel_entered (h : findRun s x.key = some r) (hn : (runNum s r).nanTrap = false) (strict : Bool) :
    Entered s x r (enterKernel (feedEcc s x.ecc) r x strict) := by
  have hecc := feedEcc_only s x.ecc
  obtain ⟨hrun, hnum⟩ := feedEcc_run h x.ecc
  obtain ⟨ho, hpanel⟩ := enterKernel_frame (feedEcc s x.ecc) r x strict
  have hfound := (findRun_congr (only_runs ho (by decide)) x.key).trans hrun
  refine ⟨only_trans (only_mono hecc (by decide)) (only_mono ho (by decide)), by rw [hpanel, only_rose hecc (by decide)],
    ⟨only_refl _ _, ⟨r, hfound, rfl⟩, fun q hq => ?_⟩, hfound⟩
  obtain rfl := Option.some.inj (hq.symm.trans hfound)
  exact (congrArg NumCtl.nanTrap ((runNum_eventless ho rfl).trans hnum)).trans hn

/-- A step with nothing to load or store is its kernel's arithmetic, and a boundary. -/
theorem doColumnStep_eq (h : pivotRun s x = some r) (hl : x.load = []) (hs : x.store = []) (hd : x.storeLd = []) : doColumnStep s x =
    boundary (columnStepOf (enterKernel (feedEcc s x.ecc) r x (runNum s r).strict) r x (runNum s r).strict) x.key := by
  have hrun := (feedEcc_run (pivotRun_spec h).1 x.ecc).1
  simp only [doColumnStep, h, loadPanel, hl, List.foldl_nil, hrun, storeColumn, hs, hd]

theorem boundary_only (s : State) (k : CmdKey) : onlyChanged [.runs] s (boundary s k) := by
  unfold boundary
  split
  · split
    · exact only_ite (putRun_only _ _) (only_refl _ _)
    · exact only_refl _ _
  · exact only_refl _ _

/-- A boundary leaves the run but for its trigger. -/
theorem boundary_found (h : findRun s k = some r) : ∃ tr, findRun (boundary s k) k = some { r with trig := tr } := by
  unfold boundary
  rw [h]
  dsimp only
  split
  · next tr htrig =>
    split
    · exact ⟨some { tr with stopped := true }, putRun_found h rfl⟩
    · exact ⟨r.trig, h⟩
  · exact ⟨r.trig, h⟩

/-- Outside STRICT, a step gives what its kernel's arithmetic leaves at the boundary. -/
theorem columnStep_gives {P : State → Prop} (h : pivotRun s x = some r) (hl : x.load = []) (hs : x.store = []) (hd : x.storeLd = [])
    (he : enterKernel (feedEcc s x.ecc) r x (runNum s r).strict = e) (hstrict : (runNum s r).strict = false)
    (hc : onlyChanged [.rose, .runs] e (columnStepOf e r x false)) (hP : P (boundary (columnStepOf e r x false) x.key)) :
    gives (.columnStep x) s (fun t => P t ∧ onlyChanged [.rose, .runs] (feedEcc s x.ecc) t) := by
  have hstep : doColumnStep s x = boundary (columnStepOf e r x false) x.key := by rw [doColumnStep_eq h hl hs hd, he, hstrict]
  have hentry : onlyChanged [.rose] (feedEcc s x.ecc) e := he ▸ (enterKernel_frame _ _ _ _).1
  exact gives_of_eq rfl hstep ⟨hP, only_then (only_trans (only_mono hentry (by decide)) hc) (boundary_only _ _)⟩

/-! ## The policies (07 R184 to R187) -/

theorem stepThr_congr (h : t.rose = s.rose) (r : Run) (x : ColStep) : stepThr t r x = stepThr s r x := by simp only [stepThr, h]

/-- The replacement of a bad pivot by the policy of the run. -/
def replacement (s : State) (r : Run) (x : ColStep) (d : Machine.Num) (neg : Bool) : Machine.Num × NumEv :=
  replacePivot (runNum s r).strict (dPolicy (runDesc s r)) (stepThr s r x) d neg

/-- A bad pivot counted under REGULARISE or INERTIA, with the events of its replacement. -/
def pivotReplaced (s : State) (r : Run) (x : ColStep) (row : Nat) (d : Machine.Num) (neg : Bool) : State :=
  pivotEvents (countPivot s x.key (if dPolicy (runDesc s r) = 2 then 0 else 1) (if dPolicy (runDesc s r) = 2 then 1 else 0) 0) x row x.col
    (replacement s r x d neg) d d

section
variable {d : Machine.Num} {neg : Bool} (row : Nat) (go : State → Machine.Num → Bool → State)

theorem withPivot_good (h : pivotBad (stepThr s r x) d neg = false) : withPivot s r x row d neg go = go s d false := by
  simp [withPivot, pivotTest, h]

theorem withPivot_replaced (h : pivotBad (stepThr s r x) d neg = true) (hpol : dPolicy (runDesc s r) ≠ 1) :
    withPivot s r x row d neg go = go (pivotReplaced s r x row d neg) (replacement s r x d neg).1 true := by
  simp [withPivot, pivotTest, h, hpol, pivotReplaced, replacement]

theorem withPivot_abandoned (h : pivotBad (stepThr s r x) d neg = true) (hpol : dPolicy (runDesc s r) = 1) (hsup : suppressed s r = true) :
    withPivot s r x row d neg go = countPivot s x.key 0 0 1 := by
  simp [withPivot, pivotTest, h, hpol, hsup]

theorem withPivot_aborts (h : pivotBad (stepThr s r x) d neg = true) (hpol : dPolicy (runDesc s r) = 1) (hsup : suppressed s r = false)
    (hy : findRun s x.key = some y) (htrap : y.trap = none) : withPivot s r x row d neg go = pivotAbort s y := by
  simp [withPivot, pivotTest, h, hpol, hsup, hy, htrap]

end

/-! ### What a policy leaves of the run -/

theorem Poised.desc (h : Poised k r' e p) (r : Run) : runDesc p r = runDesc e r := runDesc_congr h.only

theorem Poised.pivotReplaced (h : Poised x.key r e p) (hstrict : (runNum e r).strict = false) (row : Nat) (d : Machine.Num) (neg : Bool) :
    Poised x.key (countedPivots r (if dPolicy (runDesc e r) = 2 then 0 else 1) (if dPolicy (runDesc e r) = 2 then 1 else 0) 0) e
      (pivotReplaced p r x row d neg) := by
  have hnum : (runNum p r).strict = false := by rw [runNum, h.desc]; exact hstrict
  unfold Proofs.pivotReplaced
  rw [h.desc]
  refine (h.countPivot _ _ _).pivotEvents ?_ _ _ _ _
  rw [replacement, hnum]
  exact replacePivot_lax _ _ _ _

/-- A step whose run has pivots counted under their policies. -/
def countsLeft (k : CmdKey) (r : Run) (reg inertia aband : Nat) (t : State) : Prop :=
  ∃ y, findRun t k = some y ∧ y.counts.pivReg = r.counts.pivReg + reg ∧ y.counts.pivInertia = r.counts.pivInertia + inertia ∧
    y.counts.pivAbandoned = r.counts.pivAbandoned + aband ∧ y.phase = r.phase

theorem boundary_counts {reg inertia aband : Nat} (h : ∃ y, findRun s k = some y ∧ eventless y = eventless (countedPivots r reg inertia aband)) :
    countsLeft k r reg inertia aband (boundary s k) := by
  obtain ⟨y, hy, heq⟩ := h
  obtain ⟨tr, htr⟩ := boundary_found hy
  have hcounts : (eventless y).counts = (eventless (countedPivots r reg inertia aband)).counts := congrArg Run.counts heq
  have hphase : (eventless y).phase = (eventless (countedPivots r reg inertia aband)).phase := congrArg Run.phase heq
  exact ⟨_, htr, congrArg RunCounts.pivReg hcounts, congrArg RunCounts.pivInertia hcounts, congrArg RunCounts.pivAbandoned hcounts, hphase⟩

/-- PIVOT_ABORT ends a run outside a batch, and its commit phase begins after 6 cycles (07 R186). -/
theorem pivotAbort_spec (hr : findRun s k = some r) (hslot : r.slot = none) :
    onlyChanged [.runs] s (pivotAbort s r) ∧ ∃ y, findRun (boundary (pivotAbort s r) k) k = some y ∧
      y.phase = .commit ∧ y.status = some 0x20 ∧ y.commitAt = some (s.clk.chipAk + 6 + r.route.commitAk) := by
  have heq : pivotAbort s r = putRun s (endRun { r with trig := none, abandoned := true } s.clk.chipAk 0x20 6) := by simp [pivotAbort, hslot]
  rw [heq]
  obtain ⟨tr, htr⟩ := boundary_found (putRun_found (r' := endRun { r with trig := none, abandoned := true } s.clk.chipAk 0x20 6) hr rfl)
  exact ⟨putRun_only _ _, _, htr, rfl, rfl, rfl⟩

theorem boundary_rose (s : State) (k : CmdKey) : (boundary s k).rose = s.rose := only_rose (boundary_only s k) (by decide)

/-! ## The column steps of the kernels -/

theorem regPivot_congr (h : t.rose.panel = s.rose.panel) (slot : Nat) (x : ColStep) (strict : Bool) :
    regPivot t slot x strict = regPivot s slot x strict := by
  simp only [regPivot, panelAt, h]

theorem panelCol_congr (h : t.rose.panel = s.rose.panel) (slot : Nat) (x : ColStep) (j : Nat) : panelCol t slot x j = panelCol s slot x j := by
  simp only [panelCol, panelAt, h]

theorem Entered.desc (h : Entered s x r e) : runDesc e r = runDesc s r := runDesc_congr h.only
theorem Entered.num (h : Entered s x r e) : runNum e r = runNum s r := congrArg dNumCtl h.desc
theorem Entered.clk (h : Entered s x r e) : e.clk = s.clk := only_clk h.only (by decide)

theorem Entered.panelAt (h : Entered s x r e) (hp : p.rose = e.rose) (slot i j : Nat) : panelAt p slot x i j = panelAt s slot x i j :=
  panelAt_congr (by rw [hp, h.panel])

/-- From such a point on, operations that raise no trap stay within the frame. -/
theorem Poised.steps_only (h : Poised x.key r' e p) (ht : Steps x.key W p t) : onlyChanged [.rose, .runs] e t :=
  only_trans (only_mono h.only (by decide)) (ht h.calm).only

/-- They leave the run too. -/
theorem Poised.steps_run (h : Poised k r' e p) (ht : Steps k W p t) : ∃ y, findRun t k = some y ∧ eventless y = eventless r' := by
  obtain ⟨y, hy, hyr⟩ := h.run
  obtain ⟨z, hz, hzy⟩ := (ht h.calm).found hy
  exact ⟨z, hz, hzy.trans hyr⟩

/-! ### Cholesky and LDLᵀ -/

/-- The expected sign of a symmetric step's pivot: negative on an equality row of a quasi-definite system (07 R184). -/
def expectsNeg (x : ColStep) : Bool := decide (x.kernel = .ldl) && x.eqRow

/-- The events of the pivot's regularisation counted. -/
def pivotFormed (e : State) (r : Run) (x : ColStep) (strict : Bool) : State :=
  pivotEvents e x x.col x.col (regPivot e (runSlot r) x strict) (panelAt e (runSlot r) x x.col x.col) (regPivot e (runSlot r) x strict).1

theorem columnStepOf_symmetric (hk : x.kernel = .chol ∨ x.kernel = .ldl) (e : State) (r : Run) (strict : Bool) :
    columnStepOf e r x strict = withPivot (pivotFormed e r x strict) r x x.col (regPivot e (runSlot r) x strict).1 (expectsNeg x)
      (fun s d _ => symmetricStep s (runSlot r) (stepBerth r x) x strict d) := by
  rcases hk with hk | hk <;> simp only [columnStepOf, pivotFormed, expectsNeg, hk]

section
variable (he : Entered s x r e) (hk : x.kernel = .chol ∨ x.kernel = .ldl)
include he hk

omit hk in
theorem pivotFormed_poised : Poised x.key r e (pivotFormed e r x false) := he.poised.pivotEvents (regPivot_lax _ _ _) _ _ _ _

omit hk in
/-- The test of a symmetric step's pivot is that of the panel's element, against the threshold at kernel entry. -/
theorem pivotFormed_test : pivotBad (stepThr (pivotFormed e r x false) r x) (regPivot e (runSlot r) x false).1 (expectsNeg x) =
    pivotBad (stepThr e r x) (regPivot s (runSlot r) x false).1 (expectsNeg x) := by
  rw [stepThr_congr (pivotFormed_poised he).rose, regPivot_congr he.panel]

theorem symmetric_good (hcol : oneColumn x) (hnd : x.facets.Nodup) (h31 : x.col ≤ 31) (hw : x.width ≤ 32)
    (hgood : pivotBad (stepThr e r x) (regPivot s (runSlot r) x false).1 (expectsNeg x) = false) :
    let d := (regPivot s (runSlot r) x false).1
    let t := columnStepOf e r x false
    onlyChanged [.rose, .runs] e t ∧
      mget t.rose.panel (elemKey (runSlot r) x x.col x.col) = some (toW48 (if x.kernel = .chol then (sqrtR .w48 false d).1 else d)) ∧
      ∀ i ∈ rowsBelow x, mget t.rose.panel (elemKey (runSlot r) x i x.col) =
        some (toW48 (quotient false (panelAt s (runSlot r) x i x.col) (recipOf x.kernel d).1).1) := by
  have hp := pivotFormed_poised he
  have hrow : x.rowwise = false := by rcases hk with hk | hk <;> simp [ColStep.rowwise, hk]
  dsimp only
  rw [columnStepOf_symmetric hk, withPivot_good _ _ ((pivotFormed_test he).trans hgood), regPivot_congr he.panel]
  obtain ⟨hdiag, hbelow⟩ := symmetricStep_column (slot := runSlot r) hrow hcol h31 hw hnd (stepBerth r x)
    (regPivot s (runSlot r) x false).1 hp.calm
  refine ⟨hp.steps_only (symmetricStep_steps _ _ _ _), hdiag, fun i hi => ?_⟩
  rw [hbelow i hi, he.panelAt hp.rose]

theorem symmetric_replaced (hstrict : (runNum s r).strict = false) (hpol : dPolicy (runDesc s r) ≠ 1)
    (hbad : pivotBad (stepThr e r x) (regPivot s (runSlot r) x false).1 (expectsNeg x) = true) :
    onlyChanged [.rose, .runs] e (columnStepOf e r x false) ∧ countsLeft x.key r (if dPolicy (runDesc s r) = 2 then 0 else 1)
      (if dPolicy (runDesc s r) = 2 then 1 else 0) 0 (boundary (columnStepOf e r x false) x.key) := by
  have hp := pivotFormed_poised he
  rw [columnStepOf_symmetric hk, withPivot_replaced _ _ ((pivotFormed_test he).trans hbad) (by rwa [hp.desc, he.desc])]
  have hr := hp.pivotReplaced (by rwa [he.num]) x.col (regPivot e (runSlot r) x false).1 (expectsNeg x)
  rw [he.desc] at hr
  exact ⟨hr.steps_only (symmetricStep_steps _ _ _ _), boundary_counts (hr.steps_run (symmetricStep_steps _ _ _ _))⟩

theorem symmetric_abandoned (hpol : dPolicy (runDesc s r) = 1) (hsup : suppressed s r = true)
    (hbad : pivotBad (stepThr e r x) (regPivot s (runSlot r) x false).1 (expectsNeg x) = true) :
    onlyChanged [.rose, .runs] e (columnStepOf e r x false) ∧ countsLeft x.key r 0 0 1 (boundary (columnStepOf e r x false) x.key) := by
  have hp := pivotFormed_poised he
  have hclk : (pivotFormed e r x false).clk = s.clk := (only_clk hp.only (by decide)).trans he.clk
  rw [columnStepOf_symmetric hk, withPivot_abandoned _ _ ((pivotFormed_test he).trans hbad) (by rwa [hp.desc, he.desc])
    (by simpa only [suppressed, hclk] using hsup)]
  have hc := hp.countPivot 0 0 1
  exact ⟨only_mono hc.only (by decide), boundary_counts hc.run⟩

theorem symmetric_aborts (hpol : dPolicy (runDesc s r) = 1) (hsup : suppressed s r = false) (htrap : r.trap = none) (hslot : r.slot = none)
    (hbad : pivotBad (stepThr e r x) (regPivot s (runSlot r) x false).1 (expectsNeg x) = true) :
    onlyChanged [.rose, .runs] e (columnStepOf e r x false) ∧ ∃ y, findRun (boundary (columnStepOf e r x false) x.key) x.key = some y ∧
      y.phase = .commit ∧ y.status = some 0x20 ∧ y.commitAt = some (s.clk.chipAk + 6 + r.route.commitAk) := by
  have hp := pivotFormed_poised he
  have hclk : (pivotFormed e r x false).clk = s.clk := (only_clk hp.only (by decide)).trans he.clk
  obtain ⟨y, hy, hyr⟩ := hp.run
  have htrap' : y.trap = r.trap := show (eventless y).trap = (eventless r).trap by rw [hyr]
  have hslot' : y.slot = r.slot := show (eventless y).slot = (eventless r).slot by rw [hyr]
  have hroute : y.route = r.route := show (eventless y).route = (eventless r).route by rw [hyr]
  rw [columnStepOf_symmetric hk, withPivot_aborts _ _ ((pivotFormed_test he).trans hbad) (by rwa [hp.desc, he.desc])
    (by simpa only [suppressed, hclk] using hsup) hy (htrap'.trans htrap), ← hclk, ← hroute]
  obtain ⟨honly, hends⟩ := pivotAbort_spec hy (hslot'.trans hslot)
  exact ⟨only_trans (only_mono hp.only (by decide)) (only_mono honly (by decide)), hends⟩

end

/-! ### LU -/

/-- The expected sign of an LU pivot: that of the chosen entry, + for a zero (07 R180). -/
def entrySign (d : Machine.Num) : Bool := match d with | .fin m _ _ => m | _ => false

/-- The row of the panel that an LU step chooses. -/
def chosenRow (e : State) (r : Run) (x : ColStep) : Nat := (pivotRow e (runSlot r) x (openRows e r x)).getD x.col

theorem columnStepOf_lu (hk : x.kernel = .lu) (e : State) (r : Run) (strict : Bool) :
    columnStepOf e r x strict = withPivot e r x (chosenRow e r x) (panelAt e (runSlot r) x (chosenRow e r x) x.col)
      (entrySign (panelAt e (runSlot r) x (chosenRow e r x) x.col))
      (fun s d _ => luStep s r x strict (chosenRow e r x) d) := by
  simp only [columnStepOf, hk]
  rfl

theorem lu_good (he : Entered s x r e) (hk : x.kernel = .lu)
    (hgood : pivotBad (stepThr e r x) (panelAt s (runSlot r) x (chosenRow e r x) x.col)
      (entrySign (panelAt s (runSlot r) x (chosenRow e r x) x.col)) = false) :
    onlyChanged [.rose, .runs] e (columnStepOf e r x false) ∧ mgetD (columnStepOf e r x false).rose.perm (stepKey r x) [] =
      mgetD e.rose.perm (stepKey r x) [] ++ [berthRow (stepBerth r x) x (chosenRow e r x)] := by
  rw [← he.panelAt rfl] at hgood
  rw [columnStepOf_lu hk, withPivot_good _ _ hgood]
  have hstep := luStep_steps e r (chosenRow e r x) (panelAt e (runSlot r) x (chosenRow e r x) x.col) he.poised.calm
  refine ⟨only_trans (by simp [onlyChanged, permTaken]) hstep.only, ?_⟩
  rw [hstep.perm]
  exact mgetD_mset_same _ _ _ _

/-! ### QR -/

/-- The events of the column's norm counted. -/
def normFormed (e : State) (r : Run) (x : ColStep) (strict : Bool) : State :=
  let d := tailNorm strict (panelCol e (runSlot r) x x.col) x.col
  pivotEvents e x x.col x.col d d.1 d.1

theorem columnStepOf_qr (hk : x.kernel = .qr) (e : State) (r : Run) (strict : Bool) :
    columnStepOf e r x strict = withPivot (normFormed e r x strict) r x x.col (tailNorm strict (panelCol e (runSlot r) x x.col) x.col).1 false
      (fun s d bad => qrStep s r x strict (if bad then nextPow (stepThr s r x) else d) bad) := by
  simp only [columnStepOf, normFormed, hk]

section
variable (he : Entered s x r e) (hk : x.kernel = .qr)
include he hk

omit hk in
theorem normFormed_poised : Poised x.key r e (normFormed e r x false) := he.poised.pivotEvents (tailNorm_lax _ _) _ _ _ _

omit hk in
theorem normFormed_test : pivotBad (stepThr (normFormed e r x false) r x) (tailNorm false (panelCol e (runSlot r) x x.col) x.col).1 false =
    pivotBad (stepThr e r x) (tailNorm false (panelCol s (runSlot r) x x.col) x.col).1 false := by
  rw [stepThr_congr (normFormed_poised he).rose, panelCol_congr he.panel]

theorem qr_good (hgood : pivotBad (stepThr e r x) (tailNorm false (panelCol s (runSlot r) x x.col) x.col).1 false = false) :
    onlyChanged [.rose, .runs] e (columnStepOf e r x false) ∧ mget (columnStepOf e r x false).rose.panel (elemKey (runSlot r) x x.col x.col) =
      some (toW48 (tailNorm false (panelCol s (runSlot r) x x.col) x.col).1) := by
  rw [columnStepOf_qr hk, withPivot_good _ _ ((normFormed_test he).trans hgood), panelCol_congr he.panel]
  exact ⟨(normFormed_poised he).steps_only (qrStep_steps _ _ _ _), qrStep_diagonal _ _ _ _ _ _⟩

theorem qr_replaced (hstrict : (runNum s r).strict = false) (hpol : dPolicy (runDesc s r) ≠ 1)
    (hbad : pivotBad (stepThr e r x) (tailNorm false (panelCol s (runSlot r) x x.col) x.col).1 false = true) :
    onlyChanged [.rose, .runs] e (columnStepOf e r x false) ∧
      mget (columnStepOf e r x false).rose.panel (elemKey (runSlot r) x x.col x.col) = some (toW48 (nextPow (stepThr e r x))) ∧
      mgetD (columnStepOf e r x false).rose.vec (stepKey r x) [] =
        mgetD e.rose.vec (stepKey r x) [] ++ [toW48 (.zero false), toW48 (.zero false)] := by
  have hp := normFormed_poised he
  rw [columnStepOf_qr hk, withPivot_replaced _ _ ((normFormed_test he).trans hbad) (by rwa [hp.desc, he.desc])]
  have hr := hp.pivotReplaced (by rwa [he.num]) x.col (tailNorm false (panelCol e (runSlot r) x x.col) x.col).1 false
  rw [if_pos rfl, stepThr_congr hr.rose, ← hr.rose]
  exact ⟨hr.steps_only (qrStep_steps _ _ _ _), qrStep_diagonal _ _ _ _ _ _, qrStep_bad_reflector _ _ _ _ _⟩

end

/-! ### A tile below a factored one, and a rank-1 update -/

theorem solve_left (he : Entered s x r e) (hk : x.kernel = .solve) (hnd : x.facets.Nodup) (h31 : x.col ≤ 31) (hw : x.width ≤ 32) :
    onlyChanged [.rose, .runs] e (columnStepOf e r x false) ∧ ∀ i, i < 32 * x.facets.length →
      mget (columnStepOf e r x false).rose.panel (elemKey (runSlot r) x i x.col) =
        some (toW48 (quotient false (panelAt s (runSlot r) x i x.col) (w48 (x.vec.headD 0))).1) := by
  have heq : columnStepOf e r x false = solveStep e (runSlot r) x false := by simp only [columnStepOf, hk]
  rw [heq]
  refine ⟨he.poised.steps_only (solveStep_steps _ _), fun i hi => ?_⟩
  rw [solveStep_column (by simp [ColStep.rowwise, hk]) hnd h31 hw he.poised.calm hi, he.panelAt rfl]

theorem update_left (he : Entered s x r e) (hk : x.kernel = .update) (hnd : x.facets.Nodup) :
    onlyChanged [.rose, .runs] e (columnStepOf e r x false) ∧
      mget (columnStepOf e r x false).rose.panel (elemKey (runSlot r) x x.col x.col) =
        some (toW48 (sqrtR .w48 false (updateNorm e r x).1).1) := by
  have heq : columnStepOf e r x false = changeStep e r x false := by simp only [columnStepOf, hk]
  obtain ⟨q, a, b, c, d, i, j, hq, hchange⟩ := changeStep_update e r hk
  have hp := (he.poised.pivotEvents hq i j a b).pivotEvents (fmaR_lax .w48 _ _ _ : (updateNorm e r x).2.strictOvf = 0) i j c d
  rw [heq, hchange]
  exact ⟨hp.steps_only (rotate_steps _ r false false (sqrtR_lax _ _)),
    rotate_diagonal (by simp [ColStep.rowwise, hk]) hnd false false (sqrtR_lax _ _) hp.calm⟩

/-! ## PIVOT_DIV (07 R172) -/

/-- Events that are quiet for a run are quiet after others of it. -/
theorem quiet_after {ev : NumEv} (ho : onlyChanged [.runs] s p) (hrun : (findRun p k).map eventless = (findRun s k).map eventless)
    (hr : findRun s k = some r) (hq : quietEv (runNum s r) ev) (q : Run) (hfound : findRun p k = some q) : quietEv (runNum p q) ev := by
  rw [hfound, hr] at hrun
  rw [runNum_eventless ho (Option.some.inj hrun)]
  exact hq

theorem pivotDiv_gives (h : pivotRun s x = some r) (row : Nat) (pivot : W48) (hq : quietEv (runNum s r) (recipOf x.kernel (w48 pivot)).2)
    (hv : quietEv (runNum s r) (quotient (runNum s r).strict (panelAt s (runSlot r) x row x.col) (recipOf x.kernel (w48 pivot)).1).2) :
    gives (.pivotDiv x row pivot) s (fun t => mget t.rose.panel (elemKey (runSlot r) x row x.col) =
      some (toW48 (quotient (runNum s r).strict (panelAt s (runSlot r) x row x.col) (recipOf x.kernel (w48 pivot)).1).1) ∧
      onlyChanged [.rose, .runs] s t) := by
  have hr := (pivotRun_spec h).1
  have hfirst := quiet_after (only_refl [.runs] s) rfl hr hq
  obtain ⟨ho, hrun⟩ := pivotEvents_quiet hfirst row x.col (panelAt s (runSlot r) x row x.col) (w48 pivot)
  have hthen := quiet_after ho hrun hr hv
  refine gives_of_eq rfl (by rw [doPivotDiv, h]) ⟨pivotPut_same hthen _ _, ?_⟩
  exact only_trans (only_mono ho (by decide)) (pivotPut_only hthen _ _)

/-! ## The statement -/

/-- Settles O56: PIVOT_DIV by its quiet events; each kernel's column step by what its arithmetic leaves of the panel, the permutation and the
run where nothing traps. Where QR keeps its reflector, in the vector and below the diagonal, is log 42; the order of its norm log 121. -/
theorem pivotOperations : Obligations.PivotOperations := by
  intro s x r h
  obtain ⟨hr, h31⟩ := pivotRun_spec h
  refine ⟨fun row pivot hq hv => pivotDiv_gives h row pivot hq hv, ?_⟩
  intro hl hs hd hw hnd
  dsimp only
  have hent := fun hnan : (runNum s r).nanTrap = false => enterKernel_entered hr hnan (runNum s r).strict
  generalize he : enterKernel (feedEcc s x.ecc) r x (runNum s r).strict = e at hent ⊢
  refine ⟨fun hk hcol => ⟨?_, ?_, ?_, ?_⟩, fun hk => ?_, fun hk => ⟨?_, ?_⟩, fun hk => ?_, fun hk => ?_⟩
  · rintro hgood ⟨hnan, hstrict⟩
    rw [hstrict] at hgood ⊢
    obtain ⟨ho, hdiag, hbelow⟩ := symmetric_good (hent hnan) hk hcol hnd h31 hw hgood
    exact columnStep_gives h hl hs hd he hstrict ho (by rw [boundary_rose]; exact ⟨hdiag, hbelow⟩)
  · rintro hbad hpol ⟨hnan, hstrict⟩
    rw [hstrict] at hbad
    obtain ⟨ho, y, hy, hreg, hinertia, -, hphase⟩ := symmetric_replaced (hent hnan) hk hstrict hpol hbad
    exact columnStep_gives h hl hs hd he hstrict ho ⟨y, hy, hreg, hinertia, hphase⟩
  · rintro hbad hpol hsup ⟨hnan, hstrict⟩
    rw [hstrict] at hbad
    obtain ⟨ho, y, hy, -, -, haband, hphase⟩ := symmetric_abandoned (hent hnan) hk hpol hsup hbad
    exact columnStep_gives h hl hs hd he hstrict ho ⟨y, hy, haband, hphase⟩
  · rintro hbad hpol hsup htrap hslot ⟨hnan, hstrict⟩
    rw [hstrict] at hbad
    obtain ⟨ho, hends⟩ := symmetric_aborts (hent hnan) hk hpol hsup htrap hslot hbad
    exact columnStep_gives h hl hs hd he hstrict ho hends
  · rintro hgood ⟨hnan, hstrict⟩
    obtain ⟨ho, hperm⟩ := lu_good (hent hnan) hk hgood
    exact columnStep_gives h hl hs hd he hstrict ho (by rwa [boundary_rose])
  · rintro hgood ⟨hnan, hstrict⟩
    rw [hstrict] at hgood ⊢
    obtain ⟨ho, hdiag⟩ := qr_good (hent hnan) hk hgood
    exact columnStep_gives h hl hs hd he hstrict ho (by rwa [boundary_rose])
  · rintro hbad hpol ⟨hnan, hstrict⟩
    rw [hstrict] at hbad
    obtain ⟨ho, hleft⟩ := qr_replaced (hent hnan) hk hstrict hpol hbad
    exact columnStep_gives h hl hs hd he hstrict ho (by rwa [boundary_rose])
  · rintro ⟨hnan, hstrict⟩
    obtain ⟨ho, hleft⟩ := solve_left (hent hnan) hk hnd h31 hw
    exact columnStep_gives h hl hs hd he hstrict ho (by rwa [boundary_rose])
  · rintro ⟨hnan, hstrict⟩
    obtain ⟨ho, hdiag⟩ := update_left (hent hnan) hk hnd
    refine columnStep_gives h hl hs hd he hstrict ho ?_
    rw [boundary_rose, hdiag, updateNorm, (hent hnan).panelAt rfl]

end Sys2Proof.Proofs

/-! SUPPORT. The proofs of the statements of 08_chart_memory.md: the window commands, the power of a bank, the upkeep of Chart memory, the
watches that read it, and the writes and inputs that reach it. -/

namespace Sys2Proof.Proofs
open Sys2Proof Sys2Proof.Machine Sys2Proof.Laws

/- One proof at a time: elaborated beside the pending kernel checks of the text's tests, they need more threads than the memory limit holds. -/
set_option Elab.async false

variable {s t : State} {k : CmdKey} {i j n a : Nat}

/-! ## Flags of a register -/

/-- A flag just set reads as set. -/
theorem rflag_same (off : Nat) (hi : i < 32) : (rget (rflag s off i) off).testBit i = true := by
  rw [rflag, rget_rput_same, Nat.testBit_mod_two_pow, Nat.testBit_or]
  simp [hi]

/-- Setting a flag clears no other. -/
theorem rflag_keeps (off : Nat) {off' : Nat} (hj : j < 32) (h : (rget s off').testBit j = true) : (rget (rflag s off i) off').testBit j = true := by
  by_cases he : off' = off
  · subst he
    rw [rflag, rget_rput_same, Nat.testBit_mod_two_pow, Nat.testBit_or]
    simp [h, hj]
  · rwa [rflag, rget_rput_ne _ he]

/-! ## Windows (08 R213 to R216) -/

@[simp] theorem winOf_setWin_same (s : State) (i : Nat) (w : Window) : winOf (setWin s i w) i = w := by simp [winOf, setWin]

theorem winOf_setWin_ne (w : Window) (h : j ≠ i) : winOf (setWin s i w) j = winOf s j := by simp [winOf, setWin, mgetD_mset_ne _ _ _ h]

theorem setWin_only (s : State) (i : Nat) (w : Window) : onlyChanged [.chart] s (setWin s i w) := setChart_only _ _

/-- Closing a window clears OPEN in its descriptor. -/
theorem winOf_closeWin_same (s : State) (i : Nat) : winOf (closeWin s i) i = { winOf s i with isOpen := false } := by
  unfold closeWin
  split
  · exact winOf_setWin_same _ _ _
  · next h => rw [← Bool.eq_false_iff.mpr h]

/-- Closing a window writes the descriptors alone. -/
theorem closeWin_eq (s : State) (i : Nat) : ∃ ws, closeWin s i = s.setChart { s.chart with wins := ws } := by
  unfold closeWin
  split <;> exact ⟨_, rfl⟩

theorem closeWins_eq (s : State) (is : List Nat) : ∃ ws, closeWins s is = s.setChart { s.chart with wins := ws } := by
  induction is generalizing s with
  | nil => exact ⟨_, rfl⟩
  | cons i is ih =>
    obtain ⟨ws, hws⟩ := closeWin_eq s i
    obtain ⟨ws', hws'⟩ := ih (closeWin s i)
    exact ⟨ws', by rw [closeWins, hws', hws]; rfl⟩

/-- The flags of CHM_STAT that an OPEN sets when it fails (08 R215). -/
def openFlags (s : State) (i : Nat) : State :=
  let v := if windowOverlaps s i (winOf s i) then rflag s 0x30014 2 else s
  if windowBad s (winOf s i) then rflag v 0x30014 1 else v

theorem openFlags_only (s : State) (i : Nat) : onlyChanged [.regs] s (openFlags s i) :=
  only_ite (only_trans (only_ite (rflag_only _ _ _) (only_refl _ _)) (rflag_only _ _ _)) (only_ite (rflag_only _ _ _) (only_refl _ _))

theorem openFlags_overlap (h : windowOverlaps s i (winOf s i) = true) : (rget (openFlags s i) 0x30014).testBit 2 = true := by
  have hov : (rget (rflag s 0x30014 2) 0x30014).testBit 2 = true := rflag_same _ (by decide)
  simp only [openFlags, h, if_true]
  split
  · exact rflag_keeps _ (by decide) hov
  · exact hov

theorem openFlags_bad (h : windowBad s (winOf s i) = true) : (rget (openFlags s i) 0x30014).testBit 1 = true := by
  simp only [openFlags, h, if_true]
  exact rflag_same _ (by decide)

section
variable (hi : i < 1024) (hp : pfOpen s = true) (hc : (winOf s i).isOpen = false)
include hi hp hc

/-- An OPEN that nothing of R215 refuses. -/
theorem doWindowOpen_opens (hov : windowOverlaps s i (winOf s i) = false) (hbad : windowBad s (winOf s i) = false) :
    doWindowOpen s i = openWin s i (winOf s i) := by
  simp [doWindowOpen, Nat.mod_eq_of_lt hi, hp, hc, hov, hbad]

/-- An OPEN that fails. -/
theorem doWindowOpen_fails (h : windowOverlaps s i (winOf s i) = true ∨ windowBad s (winOf s i) = true) : doWindowOpen s i = openFlags s i := by
  have hfail : (windowOverlaps s i (winOf s i) || windowBad s (winOf s i)) = true := by simpa using h
  simp only [doWindowOpen, Nat.mod_eq_of_lt hi, hp, hc, hfail, Bool.false_eq_true, Bool.not_true, or_self, if_false, if_true]
  rfl

/-- A word of a closed window's descriptor is written (08 R213). -/
theorem doWindowDescriptorWrite_closed (hj : j < 8) (v : Word) : doWindowDescriptorWrite s i j v = setWin s i (winWord (winOf s i) j v.toNat) := by
  simp [doWindowDescriptorWrite, Nat.not_le.mpr hi, Nat.not_le.mpr hj, hp, hc]

end

/-- A write to an open window's descriptor sets its flag alone (08 R213). -/
theorem doWindowDescriptorWrite_open (hi : i < 1024) (hp : pfOpen s = true) (hc : (winOf s i).isOpen = true) (hj : j < 8) (v : Word) :
    doWindowDescriptorWrite s i j v = rflag s 0x30014 1 := by
  simp [doWindowDescriptorWrite, Nat.not_le.mpr hi, Nat.not_le.mpr hj, hp, hc]

theorem doWindowClose_closes (hi : i < 1024) (hp : pfOpen s = true) : doWindowClose s i = closeWin s i := by
  simp [doWindowClose, hp, Nat.mod_eq_of_lt hi]

theorem doWindowExpiry_closes (hc : (winOf s i).isOpen = true) (he : winExpired s (winOf s i) = true) : doWindowExpiry s i = closeWin s i := by
  simp [doWindowExpiry, hc, he]

/-- Settles O41: an OPEN by whether R215 refuses it, a close and an expiry by what closing a window does, a descriptor write by OPEN. -/
theorem windowCommands : Obligations.WindowCommands := by
  intro s i hi hp
  refine ⟨fun hc hov hbad => ?_, fun hc hov => ?_, fun hc hbad => ?_, ?_, fun hc he => ?_, fun j v hj hc => ?_, fun j v hj hc => ?_⟩
  · exact gives_of_eq rfl (doWindowOpen_opens hi hp hc hov hbad)
      ⟨winOf_setWin_same _ _ _, fun j hj => winOf_setWin_ne _ hj, setWin_only _ _ _⟩
  · have ho := openFlags_only s i
    exact gives_of_eq rfl (doWindowOpen_fails hi hp hc (.inl hov)) ⟨only_chart ho (by decide), openFlags_overlap hov, ho⟩
  · have ho := openFlags_only s i
    exact gives_of_eq rfl (doWindowOpen_fails hi hp hc (.inr hbad)) ⟨only_chart ho (by decide), openFlags_bad hbad, ho⟩
  · obtain ⟨ws, hws⟩ := closeWin_eq s i
    exact gives_of_eq rfl (doWindowClose_closes hi hp)
      ⟨by rw [winOf_closeWin_same], by rw [winOf_closeWin_same], by rw [hws]; rfl, closeWin_only _ _⟩
  · exact gives_of_eq rfl (doWindowExpiry_closes hc he) ⟨winOf_closeWin_same _ _, closeWin_only _ _⟩
  · exact gives_of_eq rfl (doWindowDescriptorWrite_closed hi hp hc hj v) ⟨winOf_setWin_same _ _ _, setWin_only _ _ _⟩
  · have ho := rflag_only s 0x30014 1
    exact gives_of_eq rfl (doWindowDescriptorWrite_open hi hp hc hj v) ⟨only_chart ho (by decide), rflag_same _ (by decide), ho⟩

/-! ## The power of a bank (08 R218 to R220) -/

/-- A filter that admits a key keeps its entry. -/
theorem mget_filter_keep {α : Type} (m : Machine.Map α) {p : Nat × α → Bool} {k : Nat} (h : ∀ v, p (k, v) = true) :
    mget (m.filter p) k = mget m k := by
  induction m with
  | nil => rfl
  | cons e m ih =>
    obtain ⟨j, w⟩ := e
    by_cases hj : j = k
    · subst hj
      simp [h w, mget]
    · simp only [List.filter_cons, mget, hj, if_false]
      split
      · simp [mget, hj, ih]
      · exact ih

theorem setBank_only (s : State) (n : Nat) (b : Option BankState) : onlyChanged [.chart] s (setBank s n b) := setChart_only _ _
theorem setOffReq_only (s : State) (n : Nat) (on : Bool) : onlyChanged [.regs] s (setOffReq s n on) := rput_only _ _ _

/-- The OFF_REQ bits lie in the registers of the banks. -/
theorem rget_setOffReq_ne {off : Nat} (h : off ≠ (bankReg n).1) (on : Bool) : rget (setOffReq s n on) off = rget s off := rget_rput_ne _ h

/-- A bank put in a state by its request, with its OFF_REQ bit. -/
theorem setOffReq_setBank (s : State) (n : Nat) (on : Bool) (b : BankState) :
    let t := setBank (setOffReq s n on) n (some b)
    mget t.chart.banks n = some b ∧ t.chart.mem = s.chart.mem ∧ onlyChanged [.regs, .chart] s t :=
  ⟨mget_mset_same _ _ _, rfl, only_then (only_mono (setOffReq_only s n on) (by decide)) (setBank_only _ _ _)⟩

/-- Steps 1 and 2 of R220: the bank drains, the windows over it close. -/
theorem startPowerDown_spec (s : State) (n : Nat) :
    let t := startPowerDown s n
    mget t.chart.banks n = some (.draining s.clk.chipAk) ∧ t.chart.mem = s.chart.mem ∧ onlyChanged [.chart] s t := by
  intro t
  let v := setBank s n (some (.draining s.clk.chipAk))
  obtain ⟨ws, hws⟩ : ∃ ws, t = v.setChart { v.chart with wins := ws } := closeWins_eq v _
  rw [hws]
  exact ⟨mget_mset_same _ _ _, rfl, only_trans (setBank_only s n (some (.draining s.clk.chipAk))) (setChart_only _ _)⟩

section
variable (hn : n < 576) (hp : pfOpen s = true)
include hn hp

/-- A request that R219 refuses. -/
theorem doBankPowerDownRequest_refused (hr : powerRefused s n = true) :
    doBankPowerDownRequest s n = setOffReq (rflag s 0x30014 5) n false := by
  simp [doBankPowerDownRequest, Nat.not_le.mpr hn, hp, hr]

/-- One that it does not refuse, for a bank that is on: behind a live berth it waits, else it begins to drain. -/
theorem doBankPowerDownRequest_accepted (hr : powerRefused s n = false) (hon : bankNotOn s n = false) :
    doBankPowerDownRequest s n =
      if bankLive s n then setBank (setOffReq s n true) n (some .pending) else startPowerDown (setOffReq s n true) n := by
  have hnone : mget s.chart.banks n = none := by simpa [bankNotOn] using hon
  have hbank : mget (setOffReq s n true).chart.banks n = none := hnone
  simp only [doBankPowerDownRequest, Nat.not_le.mpr hn, hp, hr, hbank, Bool.not_true, Bool.false_eq_true, or_self, if_false]
  rfl

end

/-- A bank without power, or refilling, whose bytes are gone. -/
def emptiedBank (s : State) (n : Nat) (b : BankState) : State :=
  s.setChart { s.chart with banks := mset s.chart.banks n b, mem := s.chart.mem.filter (fun e => !inBank n e.1) }

/-- Each byte of an emptied bank reads 0, every other as before. -/
theorem emptiedBank_read (s : State) (n : Nat) (b : BankState) (a : Nat) :
    memRead 0#8 (emptiedBank s n b).chart.mem a = if inBank n a then 0#8 else memRead 0#8 s.chart.mem a := by
  cases h : inBank n a with
  | true => simp [emptiedBank, memRead, mgetD, mget_filter_none s.chart.mem (p := fun e => !inBank n e.1) (k := a) (by simp [h])]
  | false => simp [emptiedBank, memRead, mgetD, mget_filter_keep s.chart.mem (p := fun e => !inBank n e.1) (k := a) (by simp [h])]

/-- With no admitted write outstanding, a bank that drains loses power and content; one whose request was cleared meanwhile is filled. -/
theorem doBankDrainEnd_drained {x : Nat} (hb : mget s.chart.banks n = some (.draining x)) (hadm : s.chart.admitted = [])
    (hret : bankRetired s n = false) :
    doBankDrainEnd s n = emptiedBank s n (if offReq s n then .off else .filling s.clk.chipAk) := by
  simp only [doBankDrainEnd, hb, hadm, hret, List.any_nil, Bool.false_eq_true, if_false]
  rfl

theorem doBankPowerRestore_off (hp : pfOpen s = true) (hb : mget s.chart.banks n = some .off) :
    doBankPowerRestore s n = setBank (setOffReq s n false) n (some (.filling s.clk.chipAk)) := by
  have hbank : mget (setOffReq s n false).chart.banks n = some .off := hb
  simp only [doBankPowerRestore, hp, hbank, Bool.not_true, Bool.false_eq_true, if_false]
  rfl

theorem doBankZeroFillEnd_filled {x : Nat} (hb : mget s.chart.banks n = some (.filling x)) (hfull : x + fillAk n ≤ s.clk.chipAk) :
    doBankZeroFillEnd s n = setBank s n none := by
  simp only [doBankZeroFillEnd, hb, hfull, if_true]

theorem doBankPowerDownStart_starts (hb : mget s.chart.banks n = some .pending) (hlive : bankLive s n = false) :
    doBankPowerDownStart s n = startPowerDown s n := by
  simp [doBankPowerDownStart, hb, hlive]

/-- Settles O42: a request by whether R219 refuses it and whether a berth is live, the drain by what emptying a bank leaves of each byte, the
restore and the fill by the state that they give the bank. -/
theorem bankPower : Obligations.BankPower := by
  intro s n hn
  refine ⟨fun hp _ hr => ?_, fun hp hon hr hlive => ?_, fun hp hon hr hlive => ?_, fun hb hlive => ?_, fun x hb hadm hret => ?_,
    fun hp hb => ?_, fun x hb hfull => ?_⟩
  · have hne : (0x30014 : Nat) ≠ (bankReg n).1 := by
      simp only [bankReg]
      omega
    have ho := only_trans (rflag_only s 0x30014 5) (setOffReq_only _ n false)
    refine gives_of_eq rfl (doBankPowerDownRequest_refused hn hp hr) ⟨only_chart ho (by decide), ?_, ho⟩
    rw [rget_setOffReq_ne hne]
    exact rflag_same _ (by decide)
  · exact gives_of_eq rfl ((doBankPowerDownRequest_accepted hn hp hr hon).trans (if_pos hlive)) (setOffReq_setBank s n true .pending)
  · obtain ⟨hbank, hmem, ho⟩ := startPowerDown_spec (setOffReq s n true) n
    exact gives_of_eq rfl ((doBankPowerDownRequest_accepted hn hp hr hon).trans (if_neg (by simp [hlive])))
      ⟨hbank, hmem, only_then (only_mono (setOffReq_only s n true) (by decide)) ho⟩
  · exact gives_of_eq rfl (doBankPowerDownStart_starts hb hlive) (startPowerDown_spec s n)
  · exact gives_of_eq rfl (doBankDrainEnd_drained hb hadm hret)
      ⟨mget_mset_same _ _ _, fun a ha => (emptiedBank_read s n _ a).trans (if_pos ha),
        fun a ha => (emptiedBank_read s n _ a).trans (if_neg (by simp [ha])), setChart_only _ _⟩
  · exact gives_of_eq rfl (doBankPowerRestore_off hp hb) (setOffReq_setBank s n false _)
  · exact gives_of_eq rfl (doBankZeroFillEnd_filled hb hfull) ⟨rfl, setBank_only _ _ _⟩

/-! ## Almanac lines (08 R194) -/

/-- CHM_SECT_ALM with a count of lines and its ERR bit. -/
theorem almLines_rput (b : Nat) {lines err : Nat} (hl : lines < 2 ^ 14) (he : err % 2 ^ 14 = 0) :
    almLines (rput s (0x30100 + 4 * b) (lines + err)) b = lines := by
  simp only [almLines, nbits, rget_rput_same, Nat.shiftRight_zero]
  omega

theorem almLines_lt (s : State) (b : Nat) : almLines s b < 2 ^ 14 := Nat.mod_lt _ (by decide)

/-- The ERR bit that a write of CHM_SECT_ALM leaves: what stood and was not cleared (W1C). -/
def almErrKept (s : State) (b : Nat) (v : Word) : Nat := bitAt ((rget s (0x30100 + 4 * b)).testBit 31 && !bit v 31) 31

theorem almErrKept_lines (s : State) (b : Nat) (v : Word) : almErrKept s b v % 2 ^ 14 = 0 := by
  unfold almErrKept bitAt
  split <;> rfl

section
variable {b : Nat} {v : Word} (hb : b < 16) (hp : pfOpen s = true)
include hb hp

theorem doAlmLinesWrite_taken (hmax : v.toNat % 2 ^ 14 ≤ 8192) (hitem : (8192 - v.toNat % 2 ^ 14) * 2048 ≤ lowestItem s b)
    (hplot : almLines s b < v.toNat % 2 ^ 14 → plotAbove s b ((8192 - v.toNat % 2 ^ 14) * 2048) = false) :
    doAlmLinesWrite s b v = rput s (0x30100 + 4 * b) (v.toNat % 2 ^ 14 + almErrKept s b v) := by
  have hroom : (decide (almLines s b < v.toNat % 2 ^ 14) && plotAbove s b ((8192 - v.toNat % 2 ^ 14) * 2048)) = false :=
    Bool.and_eq_false_imp.mpr (fun hl => hplot (of_decide_eq_true hl))
  simp only [doAlmLinesWrite, Nat.not_le.mpr hb, hp, hroom, Nat.not_lt.mpr hmax, Nat.not_lt.mpr hitem, decide_false, Bool.not_true,
    Bool.false_eq_true, Bool.or_self, or_self, if_false]
  rfl

theorem doAlmLinesWrite_refused (h : 8192 < v.toNat % 2 ^ 14 ∨ lowestItem s b < (8192 - v.toNat % 2 ^ 14) * 2048) :
    doAlmLinesWrite s b v = rput s (0x30100 + 4 * b) (almLines s b + 2 ^ 31) := by
  have hbad : (decide (8192 < v.toNat % 2 ^ 14) || decide (lowestItem s b < (8192 - v.toNat % 2 ^ 14) * 2048)) = true := by simpa using h
  simp only [doAlmLinesWrite, Nat.not_le.mpr hb, hp, gt_iff_lt, hbad, Bool.not_true, Bool.false_eq_true, Bool.true_or, or_self, if_false, if_true]

end

/-! ## The scrubber (08 R206, R208) -/

/-- Bytes read agree where every byte does. -/
theorem memReadBytes_congr {d : Byte} {m m' : List (Nat × Byte)} (h : ∀ a, memRead d m' a = memRead d m a) (a n : Nat) :
    memReadBytes d m' a n = memReadBytes d m a n := by
  induction n generalizing a with
  | zero => rfl
  | succ n ih => rw [memReadBytes, memReadBytes, h, ih]

/-- Writing back what was read leaves every byte as it reads (08 R206). -/
theorem memRead_writeBytes_readBytes {d : Byte} {m : List (Nat × Byte)} (h : memWf d m = true) (a n x : Nat) :
    memRead d (memWriteBytes d m a (memReadBytes d m a n)) x = memRead d m x := by
  induction n generalizing m a with
  | zero => rfl
  | succ n ih =>
    have hone : ∀ y, memRead d (memWrite d m a (memRead d m a)) y = memRead d m y := fun y => by
      by_cases hy : y = a
      · rw [hy, memRead_write_same _ _ _ h]
      · exact memRead_write_ne _ _ hy
    rw [memReadBytes, memWriteBytes, ← memReadBytes_congr hone, ih (memWf_write _ _ h), hone]

/-- The oldest queued word written back with its value. -/
def scrubbed (s : State) (a : Nat) (rest : List Nat) : State :=
  chartPut (s.setChart { s.chart with scrubQ := rest }) a (chartGet s a 8)

theorem doScrubRewrite_free {rest : List Nat} (hq : s.chart.scrubQ = a :: rest)
    (hfree : lanesFree s [bankOf a] (fun l => decide (l = laneOfByte a)) = true) :
    doScrubRewrite s = countChartWr (scrubbed s a rest) a 8 := by
  simp only [doScrubRewrite, hq, hfree, Bool.not_true, Bool.false_eq_true, if_false]
  rfl

theorem doScrubRewrite_held {rest : List Nat} (hq : s.chart.scrubQ = a :: rest)
    (hheld : lanesFree s [bankOf a] (fun l => decide (l = laneOfByte a)) = false) : doScrubRewrite s = s := by
  simp only [doScrubRewrite, hq, hheld, Bool.not_false, if_true]

theorem scrubbed_counted (hwf : memWf 0#8 s.chart.mem = true) (a : Nat) (rest : List Nat) :
    let t := countChartWr (scrubbed s a rest) a 8
    t.chart.scrubQ = rest ∧ (∀ x, memRead 0#8 t.chart.mem x = memRead 0#8 s.chart.mem x) ∧ onlyChanged [.chart, .pel] s t := by
  have hc := countChartWr_only (scrubbed s a rest) a 8
  have hs : onlyChanged [.chart, .pel] s (scrubbed s a rest) :=
    only_then (only_mono (setChart_only s { s.chart with scrubQ := rest }) (by decide)) (setChart_only _ _)
  intro t
  have ht : t.chart = (scrubbed s a rest).chart := only_chart hc (by decide)
  rw [ht]
  exact ⟨rfl, memRead_writeBytes_readBytes hwf a 8, only_then hs hc⟩

/-! ### The report of an event's class (15 R357) -/

/-- The alert of a class writes no register. -/
theorem alerted_regs (s : State) (cls : Nat) : (alerted s cls).regs = s.regs := by
  unfold alerted
  dsimp only
  split
  · rw [only_regs (raiseIbi_only _ _ _) (by decide), only_regs (raiseMsix_only _ _ _) (by decide)]
    rfl
  · rfl

theorem reportClass_none (s : State) (cls : Nat) : reportClass s cls none = alerted (rflag s 0x100 cls) cls := rfl
theorem reportClass_some (s : State) (cls i : Nat) : reportClass s cls (some i) = alerted (rput (rflag s 0x100 cls) 0x104 i) cls := rfl

/-- A report sets the bit of its class. -/
theorem reportClass_bit (s : State) {cls : Nat} (i : Option Nat) (hc : cls < 32) : (rget (reportClass s cls i) 0x100).testBit cls = true := by
  have hflag : (rget (rflag s 0x100 cls) 0x100).testBit cls = true := rflag_same _ hc
  cases i with
  | none =>
    rw [reportClass_none, rget_congr (alerted_regs _ _)]
    exact hflag
  | some i =>
    rw [reportClass_some, rget_congr (alerted_regs _ _), rget_rput_ne _ (by decide)]
    exact hflag

theorem raiseEvent_bit (s : State) (e : EvArg) (hc : e.cls < 32) : (rget (raiseEvent s e) 0x100).testBit e.cls = true :=
  reportClass_bit (logEvent s (eventOf s e)) (some s.log.next) hc

theorem raiseNotice_bit (s : State) (src : Nat) (always : Bool) (e : EvArg) : (rget (raiseNotice s src always e) 0x100).testBit 0 = true := by
  unfold raiseNotice
  dsimp only
  split <;> exact reportClass_bit _ _ (by decide)

/-! ### The patrol -/

/-- A patrol period that ends, with what it covered. -/
def patrolEnded (s : State) (covered : Bool) : State := s.setChart { s.chart with patrolled := covered, patrolMer := s.clk.mer }

theorem doScrubPeriod_due (hdue : s.chart.patrolMer + 64000000 * nsU ≤ s.clk.mer) (covered : Bool) :
    doScrubPeriod s covered = if covered then patrolEnded s covered
      else raiseNotice (gcount (patrolEnded s covered) 0x1060 1) srcScrub false { cls := 0, cause := 0x30 } := by
  simp only [doScrubPeriod, Nat.not_lt.mpr hdue, if_false]
  rfl

/-! ## Gated sectors (01 R29, 08 R201, R219) -/

/-- A device without runs, batches and bindings holds no sector. -/
theorem sectorBusy_idle (hr : s.runs = []) (hb : s.batches = []) (hst : s.streams = []) (b : Nat) : sectorBusy s b = false := by
  simp [sectorBusy, liveRuns, hr, hb, hst]

/-- The other sectors that drain. -/
def gatingOthers (s : State) (b : Nat) : List Nat := s.chart.gating.filter (fun x => decide (x ≠ b))

section
variable {b : Nat} (hb : b < 16) (hbusy : sectorBusy s b = false) (hon : s.clk.gated[b]? = some none)
include hb hbusy hon

/-- The gating of an idle sector closes its windows; drained, its clock stops, else it drains. -/
theorem doSectorGate_idle : ∃ ws, doSectorGate s b =
    if undrained s b then s.setChart { s.chart with wins := ws, gating := gatingOthers s b ++ [b] }
    else (s.setChart { s.chart with wins := ws, gating := gatingOthers s b }).setClk
      { s.clk with gated := lset s.clk.gated b (some (stampR s)) } := by
  obtain ⟨ws, hws⟩ := closeWins_eq s ((s.chart.wins.filter (fun e => e.2.isOpen && decide (e.2.base / 0x1000000 = b))).map (·.1))
  have hgated : s.clk.gated.getD b none = none := by simp [List.getD, hon]
  refine ⟨ws, ?_⟩
  simp only [doSectorGate, Nat.not_le.mpr hb, hbusy, hgated, hws, Option.isSome_none, Bool.false_eq_true, or_self, if_false]
  rfl

end

/-- A sector restarts at its count's next value congruent to the chip's, and leaves a GATED record (08 R201, 13 R320). -/
theorem doSectorRestart_gated {b : Nat} {x : Mer} (hg : s.clk.gated[b]? = some (some x)) (hc : s.clk.sectorAk[b]? = some n) : ∃ r,
    doSectorRestart s b = trace (s.setClk { s.clk with
      gated := lset s.clk.gated b none, sectorAk := lset s.clk.sectorAk b (resumeCount n s.clk.chipAk) }) r := by
  have hgated : s.clk.gated.getD b none = some x := by simp [List.getD, hg]
  have hcount : s.clk.sectorAk.getD b 0 = n := by simp [List.getD, hc]
  simp only [doSectorRestart, hgated, hcount]
  exact ⟨_, rfl⟩

/-- The count of a restart is not behind the sector's, and in step with the chip's. -/
theorem resumeCount_spec (n chip : Nat) : resumeCount n chip % 32 = chip % 32 ∧ n ≤ resumeCount n chip := by
  unfold resumeCount
  omega

theorem doDroopStretch_clk (s : State) (mv : Nat) : doDroopStretch s mv =
    s.setClk { s.clk with stretch := if s.clk.stretch < stretchOf mv then stretchOf mv else s.clk.stretch } := by
  unfold doDroopStretch
  dsimp only
  split <;> rfl

theorem setClk_only (s : State) (c : Clk) : onlyChanged [.clk] s (s.setClk c) := by simp [onlyChanged]

/-- Settles O43: CHM_SECT_ALM by the value that its register takes, the scrubber by what writing a word back leaves, the patrol by its report,
gating by whether the sector has drained. -/
theorem chartUpkeep : Obligations.ChartUpkeep := by
  intro s b hb
  refine ⟨fun v hp hmax hitem hplot => ?_, fun v hp hbad => ?_, fun a rest hwf hq => ⟨fun hfree => ?_, fun hheld => ?_⟩,
    fun hdue => ⟨?_, ?_⟩, fun hr hba hst hon hadm => ?_, fun hbusy hon hdrain => ?_, fun x n hg hc => ?_, fun mv => ?_⟩
  · exact gives_of_eq rfl (doAlmLinesWrite_taken hb hp hmax hitem hplot)
      ⟨almLines_rput b (Nat.mod_lt _ (by decide)) (almErrKept_lines s b v), rput_only _ _ _⟩
  · refine gives_of_eq rfl (doAlmLinesWrite_refused hb hp hbad) ⟨almLines_rput b (almLines_lt s b) (by decide), ?_, rput_only _ _ _⟩
    have hlines := almLines_lt s b
    rw [rget_rput_same, Nat.mod_eq_of_lt (by omega), Nat.add_comm, Nat.testBit_two_pow_add_eq, Nat.testBit_lt_two_pow (by omega)]
    rfl
  · exact gives_of_eq rfl (doScrubRewrite_free hq hfree) (scrubbed_counted hwf a rest)
  · exact gives_of_eq rfl (doScrubRewrite_held hq hheld) rfl
  · exact gives_of_eq rfl (doScrubPeriod_due hdue true) ⟨rfl, setChart_only _ _⟩
  · have hcount := gcount_only (patrolEnded s false) 0x1060 1
    have hn := raiseNotice_only (gcount (patrolEnded s false) 0x1060 1) srcScrub false { cls := 0, cause := 0x30 }
    exact gives_of_eq rfl (doScrubPeriod_due hdue false) ⟨only_chart hn (by decide), raiseNotice_bit _ _ _ _,
      only_then (only_then (only_mono (setChart_only _ _) (by decide)) hcount) hn⟩
  · obtain ⟨ws, hgo⟩ := doSectorGate_idle hb (sectorBusy_idle hr hba hst b) hon
    exact gives_of_eq rfl (hgo.trans (if_neg (by simp [undrained, hadm])))
      ⟨rfl, rfl, only_then (only_mono (setChart_only _ _) (by decide)) (setClk_only _ _)⟩
  · obtain ⟨ws, hgo⟩ := doSectorGate_idle hb hbusy hon
    exact gives_of_eq rfl (hgo.trans (if_pos hdrain)) ⟨by simp, rfl, setChart_only _ _⟩
  · obtain ⟨r, hgo⟩ := doSectorRestart_gated hg hc
    obtain ⟨hstep, hle⟩ := resumeCount_spec n s.clk.chipAk
    have ht := trace_only (s.setClk { s.clk with
      gated := lset s.clk.gated b none, sectorAk := lset s.clk.sectorAk b (resumeCount n s.clk.chipAk) }) r
    exact gives_of_eq rfl hgo ⟨only_clk ht (by decide), hstep, hle, only_then (only_mono (setClk_only _ _) (by decide)) ht⟩
  · exact gives_of_eq rfl (doDroopStretch_clk s mv) ⟨rfl, setClk_only _ _⟩

/-! ## Watches (09 R238; 18 R418 to R420) -/

section
variable {w w' : Watch}

theorem findWatch_key (h : findWatch s k = some w) : w.key = k := by simpa using List.find?_some h
theorem findWatch_congr (h : t.pel.watches = s.pel.watches) (k : CmdKey) : findWatch t k = findWatch s k := by simp only [findWatch, h]

theorem findWatch_putWatch (h : findWatch s w.key = some w') : findWatch (putWatch s w) w.key = some w :=
  find?_replace Watch.key s.pel.watches w h

theorem putWatch_only (s : State) (w : Watch) : onlyChanged [.pel] s (putWatch s w) := setPel_only _ _

end

/-! ### What leaves the watches alone -/

theorem emit_watches (s : State) (o : Output) : (emit s o).pel.watches = s.pel.watches := by
  simp only [emit]
  split <;> rfl

theorem raiseMsix_watches (s : State) (f e : Nat) : (raiseMsix s f e).pel.watches = s.pel.watches := by
  simp only [raiseMsix]
  split
  · rfl
  · exact emit_watches _ _

theorem raiseIbi_watches (s : State) (kind p : Nat) : (raiseIbi s kind p).pel.watches = s.pel.watches := by
  simp only [raiseIbi]
  split
  · rfl
  · split
    · rfl
    · exact emit_watches _ _

theorem alerted_watches (s : State) (c : Nat) : (alerted s c).pel.watches = s.pel.watches := by
  unfold alerted
  dsimp only
  split
  · exact (raiseIbi_watches _ _ _).trans (raiseMsix_watches _ _ _)
  · rfl

/-- Corrected words leave the watches alone. -/
theorem feedEcc_watches (s : State) (words : List Nat) : (feedEcc s words).pel.watches = s.pel.watches := by
  induction words generalizing s with
  | nil => rfl
  | cons a as ih => exact (ih _).trans (by rw [eccCorrected_alerted, alerted_watches]; rfl)

/-- The function of a context goes by the ranges of the 64 functions (10 R255). -/
theorem fnOf_congr (h : ∀ f, f < 64 → rget t (0x10100 + 4 * f) = rget s (0x10100 + 4 * f)) (ctx : Nat) : fnOf t ctx = fnOf s ctx := by
  have howns : ∀ f, f < 64 → ownsCtx t f ctx = ownsCtx s f ctx := fun f hf => by
    unfold ownsCtx fnRange
    rw [h f hf]
  have hfrom : ∀ n f, n + f ≤ 64 → fnOfFrom t ctx n f = fnOfFrom s ctx n f := by
    intro n
    induction n with
    | zero => exact fun _ _ => rfl
    | succ n ih => exact fun f hf => by rw [fnOfFrom, fnOfFrom, howns f (by omega), ih (f + 1) (by omega)]
  exact hfrom 64 0 (by decide)

theorem feedEcc_fnFor (s : State) (words : List Nat) (ctx : Nat) : fnFor (feedEcc s words) ctx = fnFor s ctx := by
  rw [fnFor, fnOf_congr (fun f _ => feedEcc_rget s words (by omega) (by omega))]
  rfl

/-- What Chart memory holds reads the same after words of it were corrected. -/
theorem feedEcc_chartGet (s : State) (words : List Nat) (a n : Nat) : chartGet (feedEcc s words) a n = chartGet s a n := by
  rw [chartGet, (feedEcc_mem s words).1]
  rfl

/-! ### A result: its payload, its header, the watch put back -/

/-- A result is written behind its header's place and then its header, and the watch stands as it is put back. -/
theorem watchResult_spec {w w' x : Watch} (hw : findWatch s w.key = some w') (hx : x.key = w.key) (bs : List Byte) (killed : Bool) (n : Nat) :
    let t := putWatch (emitWatchHdr (watchPayload s w bs) w false killed n) x
    findWatch t w.key = some x ∧ Output.memWrite (fnFor s w.key.ctx) (w.outAddr + 64) bs ∈ t.out ∧ onlyChanged [.pel, .out] s t := by
  have hp : onlyChanged [.pel, .out] s (watchPayload s w bs) := emit_only _ _
  have hh : onlyChanged [.pel, .out] (watchPayload s w bs) (emitWatchHdr (watchPayload s w bs) w false killed n) := emit_only _ _
  refine ⟨?_, ?_, only_then (only_trans hp hh) (putWatch_only _ _)⟩
  · rw [← hx] at hw ⊢
    refine findWatch_putWatch (w' := w') ((findWatch_congr ?_ _).trans hw)
    exact (emit_watches _ _).trans (emit_watches _ _)
  · change _ ∈ (emitWatchHdr (watchPayload s w bs) w false killed n).out
    rw [emitWatchHdr, emit_out, watchPayload, emit_out]
    simp

/-! ### WATCH_FIRE -/

/-- A watch that has just fired on the berth with an origin (18 R418). -/
def firedWatch (s : State) (w : Watch) (r : Run) (c : Cmd) (org : Nat) : Watch :=
  let p := (plotOf r org).getD (0, 0)
  { w with
    fired := true, killed := false, run := c.runs, firedAt := stampR s, firedAk := sinceLaunch s r, origin := org, torn := none
    truncated := false, copying := w.dump, plot := some (p.1 + w.addr, watchLen w (p.2 * 2048))
    copied := if w.dump then watchLen w (p.2 * 2048) else 64 }

section
variable {w : Watch} {r : Run} {c : Cmd} {b : Berth} (hw : findWatch s k = some w) (hr : findRun s w.target = some r)
  (hc : findCmd s w.target = some c) (hl : launched s r = true) (hp : r.phase ≠ .done) (hf : w.fired = false ∨ w.killed = true)
  (hb : b ∈ r.berths)
include hw hr hc hl hp hf hb

/-- At its step a watch of a DUMP begins its copy, one of STATS writes its block. -/
theorem doWatchFire_fires (words : List Nat) : doWatchFire s k w.step b.origin words =
    if w.dump then putWatch (feedEcc s words) (firedWatch (feedEcc s words) w r c b.origin)
    else putWatch (emitWatchHdr (watchPayload s (firedWatch s w r c b.origin) (statsBytes w.taps)) (firedWatch s w r c b.origin) false false 64)
      { firedWatch s w r c b.origin with taps := [] } := by
  have hfires : (w.fired && !w.killed) = false := by
    rcases hf with h | h <;> simp [h]
  have hberth : r.berths.any (fun x => decide (x.origin = b.origin)) = true := List.any_eq_true.mpr ⟨b, hb, by simp⟩
  simp only [doWatchFire, hw, hr, hc, hl, hp, hfires, hberth, ne_eq, not_true_eq_false, decide_false, Bool.not_true, Bool.or_self,
    Bool.false_eq_true, if_false]
  cases hd : w.dump with
  | true =>
    simp only [hd, if_true, firedWatch]
  | false =>
    simp only [hd, Bool.false_eq_true, if_false, firedWatch]

theorem doWatchFire_leaves (words : List Nat) :
    let t := doWatchFire s k w.step b.origin words
    (∃ w', findWatch t k = some w' ∧ w'.fired = true ∧ w'.killed = false ∧ w'.copying = w.dump ∧ w'.firedAk = sinceLaunch s r ∧
      w'.run = c.runs ∧ w'.origin = b.origin) ∧
    (w.dump = false → Output.memWrite (fnFor s w.key.ctx) (w.outAddr + 64) (statsBytes w.taps) ∈ t.out) ∧
    onlyChanged [.pel, .out] (if w.dump then feedEcc s words else s) t := by
  obtain rfl := findWatch_key hw
  rw [doWatchFire_fires hw hr hc hl hp hf hb]
  cases hd : w.dump with
  | true =>
    have hfound : findWatch (feedEcc s words) w.key = some w := (findWatch_congr (feedEcc_watches s words) _).trans hw
    have hsince : sinceLaunch (feedEcc s words) r = sinceLaunch s r := by
      unfold sinceLaunch launched
      rw [only_clk (feedEcc_only s words) (by decide)]
    exact ⟨⟨_, findWatch_putWatch (w := firedWatch (feedEcc s words) w r c b.origin) hfound, rfl, rfl, hd, hsince, rfl, rfl⟩, nofun,
      only_mono (putWatch_only _ _) (by decide)⟩
  | false =>
    obtain ⟨hput, hout, ho⟩ := watchResult_spec (w := firedWatch s w r c b.origin)
      (x := { firedWatch s w r c b.origin with taps := [] }) hw rfl (statsBytes w.taps) false 64
    exact ⟨⟨_, hput, rfl, rfl, hd, rfl, rfl, rfl⟩, fun _ => hout, ho⟩

end

/-- At another step than its own a watch does nothing. -/
theorem doWatchFire_other {w : Watch} {step : Nat} (hw : findWatch s k = some w) (h : step ≠ w.step) (org : Nat) (words : List Nat) :
    doWatchFire s k step org words = s := by
  simp only [doWatchFire, hw]
  split
  · simp [h]
  · rfl

/-! ### The end of a copy -/

/-- A watch whose copy ended after n bytes: torn where a byte of them was written meanwhile (18 R418). -/
def endedCopy (w : Watch) (n : Nat) (cut : Bool) : Watch :=
  { w with
    copying := false, torn := match w.torn with | some o => if o < n then some o else none | none => none
    truncated := cut, copied := n }

/-- Where the copy of a watch begins. -/
def copyBase (w : Watch) : Nat := (w.plot.map (·.1)).getD 0

theorem endCopy_eq {w : Watch} (hn : n ≤ w.copied) (cut : Bool) : endCopy s w n cut =
    putWatch (emitWatchHdr (watchPayload (countChartRd s (copyBase w) n) (endedCopy w n cut) (chartGet s (copyBase w) n))
      (endedCopy w n cut) false w.killed n) (endedCopy w n cut) := by
  have hmin : (if n < w.copied then n else w.copied) = n := by
    split <;> omega
  simp only [endCopy, hmin]
  rfl

theorem countChartRd_only (s : State) (a n : Nat) : onlyChanged [.pel] s (countChartRd s a n) := only_ite (gcount_only _ _ _) (gcount_only _ _ _)

theorem countChartRd_watches (s : State) (a n : Nat) : (countChartRd s a n).pel.watches = s.pel.watches := by
  unfold countChartRd
  split <;> rfl

/-- A copy that ends after n bytes writes them as the Chart holds them (log 142). -/
theorem endCopy_spec {w : Watch} (hw : findWatch s w.key = some w) (hn : n ≤ w.copied) (cut : Bool) :
    let t := endCopy s w n cut
    (∃ w', findWatch t w.key = some w' ∧ w'.copying = false ∧ w'.truncated = cut ∧ w'.copied = n) ∧
    Output.memWrite (fnFor s w.key.ctx) (w.outAddr + 64) (chartGet s (copyBase w) n) ∈ t.out ∧ onlyChanged [.pel, .out] s t := by
  have hrd := countChartRd_only s (copyBase w) n
  have hfound := (findWatch_congr (countChartRd_watches s (copyBase w) n) w.key).trans hw
  obtain ⟨hput, hout, ho⟩ := watchResult_spec (w := endedCopy w n cut) (x := endedCopy w n cut) hfound rfl
    (chartGet s (copyBase w) n) w.killed n
  rw [fnFor_congr (only_regs hrd (by decide))] at hout
  rw [endCopy_eq hn]
  exact ⟨⟨_, hput, rfl, rfl, rfl⟩, hout, only_trans (only_mono hrd (by decide)) ho⟩

/-- The same after the words that its reads corrected. -/
theorem endCopy_corrected {w : Watch} (hw : findWatch s w.key = some w) (words : List Nat) (hn : n ≤ w.copied) (cut : Bool) :
    let t := endCopy (feedEcc s words) w n cut
    (∃ w', findWatch t w.key = some w' ∧ w'.copying = false ∧ w'.truncated = cut ∧ w'.copied = n) ∧
    Output.memWrite (fnFor s w.key.ctx) (w.outAddr + 64) (chartGet s (copyBase w) n) ∈ t.out ∧
    onlyChanged [.pel, .out] (feedEcc s words) t := by
  have hspec := endCopy_spec (s := feedEcc s words) ((findWatch_congr (feedEcc_watches s words) _).trans hw) hn cut
  rwa [feedEcc_fnFor, feedEcc_chartGet] at hspec

theorem doWatchCopyEnd_copying {w : Watch} (hw : findWatch s k = some w) (hcopy : w.copying = true) (words : List Nat) (lost : Option Nat) :
    doWatchCopyEnd s k words lost = endCopy (feedEcc s words) w (lost.getD w.copied) lost.isSome := by
  simp only [doWatchCopyEnd, hw, hcopy, if_true]

theorem doWatchTruncate_late {w : Watch} (hw : findWatch s k = some w) (hcopy : w.copying = true) (hn : n < w.copied)
    (hlate : w.firedAt + 10000000 * nsU ≤ s.clk.mer) (words : List Nat) : doWatchTruncate s k n words = endCopy (feedEcc s words) w n true := by
  simp only [doWatchTruncate, hw, hcopy, hn, hlate, and_self, if_true]

/-! ### WATCH -/

/-- With a watch free, one more is armed for a target that is not behind DONE, and the command asks for its commit. -/
theorem doWatch_arms {c : Cmd} (hrun : runnable s k 0x50 = some c) (hfree : s.pel.watches.length < 64)
    (hahead : ahead (ringOf s (newWatch k c.desc).target.ctx (newWatch k c.desc).target.ring).done (newWatch k c.desc).target.seq = false) :
    ∃ q : CommitReq, q.status = 0 ∧
      doWatch s k = fileReq (s.setPel { s.pel with watches := s.pel.watches ++ [newWatch k c.desc] }) c q := by
  let v := s.setPel { s.pel with watches := s.pel.watches ++ [newWatch k c.desc] }
  refine ⟨{ plainReq v 0 0 0 0 0 with charge := c.chargeDue }, rfl, ?_⟩
  simp only [doWatch, hrun, Nat.not_le.mpr hfree, hahead, Bool.false_eq_true, if_false]
  rfl

/-- Settles O21: the arming by its request, WATCH_FIRE by what the watch holds after it, the ends of a copy by what ending one writes. -/
theorem watchCommands : Obligations.WatchCommands := by
  intro s k
  refine ⟨fun c hrun hfree hahead => ?_, fun w r c hw hr hc hl hp hf b words hb => ?_, fun w step org words hw hne => ?_,
    fun w a n words hw hcopy hplot => ⟨?_, fun m hm => ?_⟩, fun w n words hw hcopy hn hlate => ?_⟩
  · obtain ⟨hc, -, -⟩ := runnable_spec hrun
    obtain rfl := findCmd_key hc
    obtain ⟨q, hq, hgo⟩ := doWatch_arms hrun hfree hahead
    have hv := setPel_only s { s.pel with watches := s.pel.watches ++ [newWatch c.key c.desc] }
    have hfile := fileReq_only (s.setPel { s.pel with watches := s.pel.watches ++ [newWatch c.key c.desc] }) c q
    exact gives_of_eq rfl hgo ⟨only_pel hfile (by decide), fileReq_filedAs hv hc hq, only_then (only_mono hv (by decide)) hfile⟩
  · exact gives_of_eq rfl rfl (doWatchFire_leaves hw hr hc hl hp hf hb words)
  · exact gives_of_eq rfl (doWatchFire_other hw hne org words) rfl
  · have hgo := doWatchCopyEnd_copying hw hcopy words none
    obtain rfl := findWatch_key hw
    have hspec := endCopy_corrected hw words (Nat.le_refl w.copied) false
    rw [copyBase, hplot] at hspec
    exact gives_of_eq rfl hgo hspec
  · have hgo := doWatchCopyEnd_copying hw hcopy words (some m)
    obtain rfl := findWatch_key hw
    have hspec := endCopy_corrected hw words hm true
    rw [copyBase, hplot] at hspec
    exact gives_of_eq rfl hgo hspec
  · have hgo := doWatchTruncate_late hw hcopy hn hlate words
    obtain rfl := findWatch_key hw
    obtain ⟨hfound, -, ho⟩ := endCopy_corrected hw words (Nat.le_of_lt hn) true
    exact gives_of_eq rfl hgo ⟨hfound, ho⟩

/-! ## Remote writes (08 R212, R217) -/

section
variable {row writer : Nat} {data : List Byte} {closing : Bool}

theorem doRemoteWrite_admitted (h512 : row % 512 = 0) (hcore : row < coreBase) (hready : s.boot.state = 1)
    (hadm : admits s row writer closing = true) : doRemoteWrite s row writer data closing = admitRow s row writer data := by
  simp [doRemoteWrite, h512, Nat.not_le.mpr hcore, hready, hadm]

theorem doRemoteWrite_refused (h512 : row % 512 = 0) (hcore : row < coreBase) (hready : s.boot.state = 1)
    (hadm : admits s row writer closing = false) : doRemoteWrite s row writer data closing = refusedOutcome s row writer := by
  simp [doRemoteWrite, h512, Nat.not_le.mpr hcore, hready, hadm]

end

/-! ### The count of a refused row -/

/-- A refused row is counted: its window's REFUSED, the flag in CHM_STAT, its block's counter. -/
theorem countRefused_eq (s : State) (row : Nat) : ∃ ws, countRefused s row =
    gcount (rflag (s.setChart { s.chart with wins := ws }) 0x30014 3) (0x1050 + row / 0x1000000 % 16) 1 := by
  unfold countRefused
  split <;> exact ⟨_, rfl⟩

theorem countRefused_spec (s : State) (row : Nat) :
    (countRefused s row).chart.mem = s.chart.mem ∧ (countRefused s row).chart.admitted = s.chart.admitted ∧
      (rget (countRefused s row) 0x30014).testBit 3 = true ∧ onlyChanged [.chart, .regs, .pel] s (countRefused s row) := by
  obtain ⟨ws, hws⟩ := countRefused_eq s row
  rw [hws]
  exact ⟨rfl, rfl, rflag_same (s := s.setChart { s.chart with wins := ws }) 0x30014 (by decide),
    only_then (only_then (only_mono (setChart_only _ _) (by decide)) (rflag_only _ _ _)) (gcount_only _ _ _)⟩

theorem countRefused_rget {off : Nat} (h : off ≠ 0x30014) (s : State) (row : Nat) : rget (countRefused s row) off = rget s off := by
  obtain ⟨ws, hws⟩ := countRefused_eq s row
  rw [hws, rget_congr (only_regs (gcount_only _ _ _) (by decide)), rflag, rget_rput_ne _ h]
  rfl

/-! ### The run whose input a refused row brings -/

theorem dmaRun_congr (hruns : t.runs = s.runs) (hfn : ∀ f, f < 64 → rget t (0x10100 + 4 * f) = rget s (0x10100 + 4 * f))
    (row f : Nat) :
    dmaRun t row f = dmaRun s row f := by
  unfold dmaRun
  rw [hruns]
  congr 1
  funext r
  rw [fnOf_congr hfn]

theorem dmaRun_countRefused (s : State) (row r' f : Nat) : dmaRun (countRefused s row) r' f = dmaRun s r' f :=
  dmaRun_congr (only_runs (countRefused_spec s row).2.2.2 (by decide)) (fun _ _ => countRefused_rget (by omega) s row) _ _

theorem dmaRun_spec {row f : Nat} {r : Run} (h : dmaRun s row f = some r) : r.phase = .placed ∧ r.stream = none := by
  have hr := List.find?_some h
  simp only [Bool.and_eq_true, decide_eq_true_eq, Option.isNone_iff_eq_none] at hr
  obtain ⟨⟨⟨hp, -⟩, hst⟩, -⟩ := hr
  exact ⟨hp, hst⟩

/-! ### A kill (10 R268): what it gives back, and what it leaves alone -/

theorem dropFrames_only (s : State) (k : CmdKey) : onlyChanged [.fleet] s (dropFrames s k) := by simp [onlyChanged, dropFrames]

theorem unreserve_only (s : State) (n : Nat) (pat : List Nat) : onlyChanged [.helm] s (unreserve s n pat) := by
  induction pat generalizing s n with
  | nil => exact only_refl _ _
  | cons p ps ih => exact only_trans (only_ite (setHelm_only _ _) (only_refl _ _)) (ih _ _)

theorem addBalance_only (s : State) (c : Nat) (n : Int) : onlyChanged [.helm] s (addBalance s c n) := by
  unfold addBalance
  split
  · exact setHelm_only _ _
  · exact only_refl _ _

theorem emptyRun_only (s : State) (r : Run) : onlyChanged [.rose] s (emptyRun s r) := only_ite (emptyKeys_only _ _) (emptyFacets_only _ _)

theorem killWatches_only (s : State) (k : CmdKey) : onlyChanged [.pel, .out] s (killWatches s k) := by
  unfold killWatches
  exact only_then (only_foldl (fun _ _ h => only_ite (only_trans h (emit_only _ _)) h) (only_refl _ _)) (setPel_only _ _)

/-- The groups of what a run holds. -/
def heldGroups : List StateGroup := [.chart, .batches, .rose, .helm, .pel, .runs, .fleet]

/-- What a run holds beside its windows is given back. -/
def releaseRest (s : State) (r : Run) : State :=
  let s := emptyRun (if r.slot.isSome then freeSlot s r.key else s) r
  let s := if r.launchAk ≠ 0 ∧ r.slot = none ∧ r.stream = none then unreserve s r.launchAk (runPattern r) else s
  let s := r.berths.foldl (fun s b => dropLive s b.origin r.key) s
  dropFrames (dropRun s r.key) r.key

theorem releaseRest_only (s : State) (r : Run) : onlyChanged [.batches, .rose, .helm, .pel, .runs, .fleet] s (releaseRest s r) := by
  unfold releaseRest
  refine only_then (only_then (only_foldl (fun _ _ h => only_then h (dropLive_only _ _ _)) ?_) (dropRun_only _ _)) (dropFrames_only _ _)
  refine only_ite (only_then ?_ (unreserve_only _ _ _)) ?_ <;>
    exact only_then (only_ite (only_mono (setBatches_only _ _) (by decide)) (only_refl _ _)) (emptyRun_only _ _)

/-- A released run is gone; the bytes of Chart memory stand. -/
theorem releaseRun_spec (s : State) (r : Run) :
    findRun (releaseRun s r) r.key = none ∧ (releaseRun s r).chart.mem = s.chart.mem ∧ onlyChanged heldGroups s (releaseRun s r) := by
  obtain ⟨ws, hws⟩ := closeWins_eq s r.wins
  have hrest := releaseRest_only (s.setChart { s.chart with wins := ws }) r
  have heq : releaseRun s r = releaseRest (s.setChart { s.chart with wins := ws }) r := by
    unfold releaseRun
    rw [hws]
    rfl
  rw [heq]
  refine ⟨findRun_dropRun _ _, ?_, only_then (only_mono (setChart_only _ _) (by decide)) hrest⟩
  rw [only_chart hrest (by decide)]
  rfl

/-- A command whose run was killed: it waits to read its input again. -/
def returned (c : Cmd) (charge : Nat) (ran : Bool) : Cmd :=
  { c with
    phase := .ready, rerun := c.rerun || ran, inputIn := false, raw := [], inst := [], launchableAt := none, chargeDue := c.chargeDue + charge }

theorem returnCmd_found {c : Cmd} (hc : findCmd s k = some c) (charge : Nat) (ran : Bool) :
    findCmd (returnCmd s k charge ran) k = some (returned c charge ran) := by
  obtain rfl := findCmd_key hc
  have heq : returnCmd s c.key charge ran = putCmd s (returned c charge ran) := by
    simp only [returnCmd, hc]
    rfl
  rw [heq]
  exact findCmd_putCmd (c := returned c charge ran) hc

theorem returnCmd_only (s : State) (k : CmdKey) (charge : Nat) (ran : Bool) : onlyChanged [.cmds] s (returnCmd s k charge ran) := by
  unfold returnCmd
  split
  · exact putCmd_only _ _
  · exact only_refl _ _

/-- A trace record may count itself as dropped, in no other register. -/
theorem trace_rget (s : State) (x : TraceRec) {off : Nat} (h : off ≠ 0xC0048) : rget (trace s x) off = rget s off := by
  unfold trace
  split
  · rfl
  · split
    · exact rget_rput_ne _ h
    · rfl

/-- A fault kill of a command's run: its record, its watches, what it held, its balance, its command. -/
theorem killRun_command {r : Run} (hst : r.stream = none) (hat : r.commitAt ≠ some s.clk.chipAk) (hp : r.phase ≠ .done) : ∃ x n bal ran,
    killRun s r causeFault true = returnCmd
      (if r.isSoft then addBalance (releaseRun (killWatches (trace s x) r.key) r) r.key.ctx bal else releaseRun (killWatches (trace s x) r.key) r)
      r.key n ran := by
  have hno : ¬ (causeFault = causePreempt ∨ causeFault = causeEvict) := by decide
  simp only [killRun, hst, hat, hp, hno, or_self, if_false, if_true, traceCmd]
  exact ⟨_, _, _, _, rfl⟩

/-- After it the run is gone and its command stands; the Logbook's queue, the bytes of Chart memory and the registers but the count of dropped
records are as before. -/
theorem killRun_leaves {r : Run} {c : Cmd} (hst : r.stream = none) (hat : r.commitAt ≠ some s.clk.chipAk) (hp : r.phase ≠ .done)
    (hc : findCmd s r.key = some c) :
    let t := killRun s r causeFault true
    findRun t r.key = none ∧ (∃ c', findCmd t r.key = some c') ∧ t.log = s.log ∧ t.chart.mem = s.chart.mem ∧
      ∀ off, off ≠ 0xC0048 → rget t off = rget s off := by
  obtain ⟨x, n, bal, ran, hkill⟩ := killRun_command hst hat hp
  have hw := killWatches_only (trace s x) r.key
  obtain ⟨hgone, hmem, hrel⟩ := releaseRun_spec (killWatches (trace s x) r.key) r
  generalize hu : releaseRun (killWatches (trace s x) r.key) r = u at hkill hgone hmem hrel
  have hbal : onlyChanged [.helm] u (if r.isSoft then addBalance u r.key.ctx bal else u) := only_ite (addBalance_only _ _ _) (only_refl _ _)
  generalize (if r.isSoft then addBalance u r.key.ctx bal else u) = v at hkill hbal
  have hret := returnCmd_only v r.key n ran
  have hheld : onlyChanged (.regs :: .out :: heldGroups) s v :=
    only_then (only_then (only_then (only_mono (trace_only s x) (by decide)) hw) hrel) hbal
  have hall := only_then (gs := .cmds :: .regs :: .out :: heldGroups) (only_mono hheld (by decide)) hret
  intro t
  rw [show t = returnCmd v r.key n ran from hkill]
  have hfound := returnCmd_found ((findCmd_congr (only_cmds hheld (by decide)) _).trans hc) n ran
  refine ⟨?_, ⟨_, hfound⟩, only_log hall (by decide), ?_, fun off hoff => ?_⟩
  · rw [findRun_congr (only_runs hret (by decide)), findRun_congr (only_runs hbal (by decide)), hgone]
  · rw [only_chart hret (by decide), only_chart hbal (by decide), hmem, only_chart hw (by decide), only_chart (trace_only s x) (by decide)]
  · rw [rget_congr (only_regs hret (by decide)), rget_congr (only_regs hbal (by decide)), rget_congr (only_regs hrel (by decide)),
      rget_congr (only_regs hw (by decide)), trace_rget _ _ hoff]

/-- A refused row ends the command whose input it brings with WINDOW_FAULT (09 R243, log 139). -/
theorem dmaFault_leaves {row writer : Nat} {r : Run} {c : Cmd} (hr : dmaRun s row (writer % 64) = some r) (hc : findCmd s r.key = some c)
    (hat : r.commitAt ≠ some s.clk.chipAk) :
    let t := dmaFault s row writer
    findRun t r.key = none ∧ filed s t r.key 0x51 ∧ t.chart.mem = s.chart.mem ∧ rget t 0x30014 = rget s 0x30014 := by
  obtain ⟨hp, hst⟩ := dmaRun_spec hr
  obtain ⟨hgone, ⟨c', hc'⟩, hlog, hmem, hregs⟩ := killRun_leaves hst hat (by simp [hp]) hc
  have hkey := findCmd_key hc'
  obtain ⟨q, hq, heq⟩ : ∃ q : CommitReq, q.status = 0x51 ∧ dmaFault s row writer = fileReq (killRun s r causeFault true) c' q := by
    refine ⟨{ plainReq (killRun s r causeFault true) 0x51 row writer 0 0 with charge := c'.chargeDue }, rfl, ?_⟩
    simp only [dmaFault, hr, hc']
  have hfile := fileReq_only (killRun s r causeFault true) c' q
  have hfound := fileReq_filed (hkey ▸ hc') q
  rw [hkey] at hfound
  intro t
  rw [show t = fileReq (killRun s r causeFault true) c' q from heq]
  refine ⟨(findRun_congr (only_runs hfile (by decide)) _).trans hgone, ⟨_, _, hfound, rfl, rfl, hq, ?_⟩,
    (congrArg ChartSt.mem (only_chart hfile (by decide))).trans hmem, ?_⟩
  · rw [fileReq_queue, hlog, hkey]
  · rw [rget_congr (only_regs hfile (by decide)), hregs _ (by decide)]

section
variable {row writer : Nat} {data : List Byte} {closing : Bool} (h512 : row % 512 = 0) (hcore : row < coreBase) (hst : s.boot.state = 1)
  (hadm : admits s row writer closing = false)
include h512 hcore hst hadm

/-- A refused row of the Chart DMA for a host function. -/
theorem doRemoteWrite_ends {r : Run} {c : Cmd} (h1 : writer / 4096 = 1) (hr : dmaRun s row (writer % 64) = some r)
    (hc : findCmd s r.key = some c) (hat : r.commitAt ≠ some s.clk.chipAk) :
    let t := doRemoteWrite s row writer data closing
    findRun t r.key = none ∧ filed s t r.key 0x51 ∧ t.chart.mem = s.chart.mem ∧ (rget t 0x30014).testBit 3 = true := by
  obtain ⟨hmem, -, hflag, ho⟩ := countRefused_spec s row
  have hat' : r.commitAt ≠ some (countRefused s row).clk.chipAk := by rwa [only_clk ho (by decide)]
  obtain ⟨hgone, ⟨y, q, hy⟩, hmem', hreg⟩ := dmaFault_leaves (writer := writer) ((dmaRun_countRefused s row row _).trans hr)
    ((findCmd_congr (only_cmds ho (by decide)) _).trans hc) hat'
  have hgo : refusedOutcome s row writer = dmaFault (countRefused s row) row writer := by simp [refusedOutcome, h1]
  rw [only_log ho (by decide)] at hy
  rw [← hreg] at hflag
  rw [doRemoteWrite_refused h512 hcore hst hadm, hgo]
  exact ⟨hgone, ⟨y, q, hy⟩, hmem'.trans hmem, hflag⟩

/-- A refused row that ends nothing is counted only. -/
theorem doRemoteWrite_counted (h2 : writer / 4096 ≠ 2) (h4 : writer / 4096 ≠ 4)
    (hdma : writer / 4096 = 1 → dmaRun s row (writer % 64) = none) : doRemoteWrite s row writer data closing = countRefused s row := by
  rw [doRemoteWrite_refused h512 hcore hst hadm]
  by_cases h1 : writer / 4096 = 1
  · simp [refusedOutcome, h1, dmaFault, dmaRun_countRefused, hdma h1]
  · simp [refusedOutcome, h1, h2, h4]

end

/-! ## Input reads (02 R49; 08 R198, R206, R207; 15 R362) -/

/-- The layout of a command's input, as its model gives it (02 R49). -/
def instLayout (s : State) (c : Cmd) : List InstField :=
  match mget s.helm.models (dModel c.desc % 4096) with | some m => m.layout | none => []

/-- The bytes of a command's input. -/
def instBytes (c : Cmd) (rows : List Byte) : List Byte := (padTo (dInLen c.desc * 64) rows).take (dInLen c.desc * 64)

/-- A command's input taken in, before its rows stand in the Plot. -/
def inputTaken (s : State) (c : Cmd) (rows : List Byte) (off : Nat) (words : List Nat) : State :=
  putCmd (pcieIn (feedEcc s words) (dInLen c.desc * 64)) (withInst c (instLayout s c) (instBytes c rows) off)

theorem inputTaken_spec {c : Cmd} (hc : findCmd s k = some c) (rows : List Byte) (off : Nat) (words : List Nat) :
    findCmd (inputTaken s c rows off words) k = some (withInst c (instLayout s c) (instBytes c rows) off) ∧
      onlyChanged [.cmds, .pel] (feedEcc s words) (inputTaken s c rows off words) := by
  obtain rfl := findCmd_key hc
  have hin := pcieIn_only (feedEcc s words) (dInLen c.desc * 64)
  have hecc : findCmd (feedEcc s words) c.key = some c := (findCmd_congr (only_cmds (feedEcc_only s words) (by decide)) _).trans hc
  exact ⟨findCmd_putCmd_after (c := withInst c (instLayout s c) (instBytes c rows) off) hin hecc,
    only_then (only_mono hin (by decide)) (putCmd_only _ _)⟩

/-- Beside its command, what an input changes is the count of words and bytes. -/
theorem inputTaken_only (s : State) (c : Cmd) (rows : List Byte) (off : Nat) (words : List Nat) :
    onlyChanged (.cmds :: eccGroups) s (inputTaken s c rows off words) :=
  only_then (only_then (only_mono (feedEcc_only s words) (by decide)) (pcieIn_only _ _)) (putCmd_only _ _)

theorem inputTaken_run (s : State) (c : Cmd) (rows : List Byte) (off : Nat) (words : List Nat) (k : CmdKey) :
    findRun (inputTaken s c rows off words) k = findRun s k := findRun_congr (only_runs (inputTaken_only s c rows off words) (by decide)) k

section
variable {c : Cmd} (hc : findCmd s k = some c) (hread : readingInput s c = true) (hready : ready s = true)
include hc hread hready

/-- The rows of an input are in: with a run they go to its Plot, and its launch cycle is fixed where it has none. -/
theorem doInputReadComplete_in (rows : List Byte) (off : Nat) (words : List Nat) : doInputReadComplete s k rows off words none =
    match findRun s k with
    | some r =>
      let v := writeInst (inputTaken s c rows off words) r (instBytes c rows) off
      if r.armedOff.isNone ∧ r.launchAk = 0 then fixLaunch v r else v
    | none => inputTaken s c rows off words := by
  have hlay : instLayout (feedEcc s words) c = instLayout s c := by
    unfold instLayout
    rw [only_helm (feedEcc_only s words) (by decide)]
  rw [← inputTaken_run s c rows off words]
  unfold inputTaken
  rw [← hlay]
  simp only [doInputReadComplete, hc, hread, hready, Bool.not_true, Bool.false_eq_true, or_self, if_false]
  rfl

theorem doInputReadComplete_lost (rows : List Byte) (off : Nat) (words : List Nat) (a : Nat) :
    doInputReadComplete s k rows off words (some a) = commandFault (repairRead (feedEcc s words) a).1 k [] := by
  simp only [doInputReadComplete, hc, hread, hready, Bool.not_true, Bool.false_eq_true, or_self, if_false]

/-- A failed read of a command's input is a COMMAND event. -/
theorem doInputReadError_reading : doInputReadError s k none = commandFault s k [] := by
  simp only [doInputReadError, hc, hread, hready, Bool.true_or, Bool.and_self, if_true]

end

/-- An input read without a berth is a batch problem's that waits to join. -/
theorem readingInput_waits {c : Cmd} (hread : readingInput s c = true) (hr : findRun s c.key = none) : c.phase = .ready := by
  simp only [readingInput, hr, Bool.and_eq_true, decide_eq_true_eq] at hread
  obtain ⟨-, ⟨-, hp⟩, -⟩ := hread
  exact hp

/-! ### The rows in the Plot (log 131) -/

theorem writeInst_only (s : State) (r : Run) (bs : List Byte) (off : Nat) : onlyChanged [.chart, .pel] s (writeInst s r bs off) := by
  unfold writeInst
  refine only_ite (only_refl _ _) (only_foldl (fun _ _ h => ?_) (only_refl _ _))
  split
  · exact only_ite (only_then (only_then h (setChart_only _ _)) (countChartWr_only _ _ _)) h
  · exact h

/-- The bytes of an input on one berth with one Plot range, at their offset into it. -/
theorem writeInst_one {r : Run} {b : Berth} {p : PlotRange} {bs : List Byte} {off : Nat} (hb : r.berths = [b]) (hp : r.plots = [p])
    (hsec : b.sectors.contains p.sector = true) (hfit : off + bs.length ≤ p.lines * 2048) (hne : bs.isEmpty = false) (s : State) :
    writeInst s r bs off = countChartWr (chartPut s (plotBase p + off) bs) (plotBase p + off) bs.length := by
  have hone : [p].find? (fun q => b.sectors.contains q.sector) = some p := by simp only [List.find?_cons, hsec]
  unfold writeInst
  rw [hne, if_neg Bool.false_ne_true, hb, hp, List.foldl_cons, List.foldl_nil, hone]
  exact if_pos hfit

theorem countedPut_mem (s : State) (a n : Nat) (bs : List Byte) :
    (countChartWr (chartPut s a bs) a n).chart.mem = memWriteBytes 0#8 s.chart.mem a bs :=
  congrArg ChartSt.mem (only_chart (countChartWr_only _ _ _) (by decide))

theorem writeInst_mem {r : Run} {b : Berth} {p : PlotRange} {bs : List Byte} {off : Nat} (hb : r.berths = [b]) (hp : r.plots = [p])
    (hsec : b.sectors.contains p.sector = true) (hfit : off + bs.length ≤ p.lines * 2048) (s : State) :
    (writeInst s r bs off).chart.mem = memWriteBytes 0#8 s.chart.mem (plotBase p + off) bs := by
  cases he : bs.isEmpty with
  | true => rw [writeInst, if_pos he, List.isEmpty_iff.mp he, memWriteBytes]
  | false => rw [writeInst_one hb hp hsec hfit he, countedPut_mem]

/-! ### The launch cycle (04 R101, 11 R287) -/

theorem noteWait_only (s : State) (n : Nat) : onlyChanged [.regs] s (noteWait s n) :=
  have hput := only_ite (rput_only s _ _) (only_refl _ s)
  only_ite hput (only_trans hput (rcount_only _ _ _ _ _))

theorem reserve_only (s : State) (n : Nat) (pat : List Nat) : onlyChanged [.helm] s (reserve s n pat) := by
  induction pat generalizing s n with
  | nil => exact only_refl _ _
  | cons p ps ih => exact only_trans (setHelm_only _ _) (ih _ _)

/-- The ladder goes by the Helm group and the clocks. -/
theorem findStep_congr (hhelm : t.helm = s.helm) (hclk : t.clk = s.clk) (pat : List Nat) : findStep t pat = findStep s pat := by
  have hheld : ∀ n, stepHeld t n = stepHeld s n := fun n => by
    unfold stepHeld holdSpan
    rw [hhelm, hclk]
  have hfits : ∀ pat n, patternFits t n pat = patternFits s n pat := by
    intro pat
    induction pat with
    | nil => exact fun _ => rfl
    | cons p ps ih => exact fun n => by rw [patternFits, patternFits, hhelm, hclk, hheld, ih]
  unfold findStep firstStep
  simp only [hfits, hclk]

theorem akTime_congr (hclk : t.clk = s.clk) (hms : t.ms = s.ms) (n : Nat) : akTime t n = akTime s n := by
  unfold akTime stamp merInc
  rw [hclk, hms]

/-- A pattern that fits in time is reserved, and the run has its launch cycle. -/
theorem fixLaunch_found {r : Run} {c : Cmd} (hc : findCmd s r.key = some c) (hstep : findStep s (runPattern r) = some a)
    (htime : tooLate c r.route (akTime s a) = false) : ∃ v, onlyChanged [.regs] s v ∧
      fixLaunch s r = putRun (putCmd (reserve v a (runPattern r)) { c with waitRetry := 0 }) { r with launchAk := a } := by
  simp only [fixLaunch, hc, hstep, htime, Bool.false_eq_true, if_false]
  exact ⟨_, only_ite (noteWait_only _ _) (only_ite (rput_only _ _ _) (only_refl _ _)), rfl⟩

theorem fixLaunch_leaves {r r' : Run} {c : Cmd} (hr : findRun s r.key = some r') (hc : findCmd s r.key = some c)
    (hstep : findStep s (runPattern r) = some a) (htime : tooLate c r.route (akTime s a) = false) :
    findRun (fixLaunch s r) r.key = some { r with launchAk := a } ∧ findCmd (fixLaunch s r) r.key = some { c with waitRetry := 0 } ∧
      onlyChanged [.cmds, .runs, .helm, .regs] s (fixLaunch s r) := by
  obtain ⟨v, hv, hgo⟩ := fixLaunch_found hc hstep htime
  have hres := reserve_only v a (runPattern r)
  have hw : onlyChanged [.regs, .helm] s (reserve v a (runPattern r)) := only_then (only_mono hv (by decide)) hres
  have hput := putCmd_only (reserve v a (runPattern r)) { c with waitRetry := 0 }
  have hkey := findCmd_key hc
  rw [hgo]
  refine ⟨findRun_putRun (r := { r with launchAk := a }) (r' := r') ?_, ?_,
    only_then (only_then (only_mono hw (by decide)) hput) (putRun_only _ _)⟩
  · exact (findRun_congr ((only_runs hput (by decide)).trans (only_runs hw (by decide))) _).trans hr
  · rw [findCmd_congr (only_cmds (putRun_only _ _) (by decide)), ← hkey]
    exact findCmd_putCmd_after (c := { c with waitRetry := 0 }) hw (hkey ▸ hc)

/-! ### A COMMAND event against a command without a run (15 R362, R363) -/

/-- A command without its input. -/
def unread (c : Cmd) : Cmd := { c with inputIn := false, raw := [], inst := [], launchableAt := none }

/-- A command whose input read failed once: it reads its input again. -/
def failedRead (c : Cmd) (idx : Nat) : Cmd := { unread c with faultKills := 1, faultIdx := idx, rerun := true }

/-- The COMMAND event of a failed read. -/
def commandEvent (k : CmdKey) (detail : List Byte) : EvArg := { cls := 2, cause := 0x21, key := some k, detail := detail }

section
variable {c : Cmd} (hr : findRun s k = none) (hc : findCmd s k = some c) (hp : c.phase ≠ .requested) (h0 : c.faultKills = 0)
include hr hc hp h0

theorem commandFault_reruns (detail : List Byte) :
    commandFault s k detail = putCmd (putCmd (raiseEvent s (commandEvent k detail)) (unread c)) (failedRead c s.log.next) := by
  have he := raiseEvent_only s (commandEvent k detail)
  have hcmd : findCmd (raiseEvent s (commandEvent k detail)) k = some c := (findCmd_congr (only_cmds he (by decide)) _).trans hc
  have hrun : findRun (raiseEvent s (commandEvent k detail)) k = none := (findRun_congr (only_runs he (by decide)) _).trans hr
  have hunread : findCmd (putCmd (raiseEvent s (commandEvent k detail)) (unread c)) k = some (unread c) := by
    rw [← findCmd_key hc] at hcmd ⊢
    exact findCmd_putCmd (c := unread c) hcmd
  have hcount : commandFault s k detail = countFault (putCmd (raiseEvent s (commandEvent k detail)) (unread c)) k c.avoid s.log.next := by
    simp only [commandEvent] at hcmd hrun
    simp only [commandFault, hrun, hcmd, hp, if_false]
    rfl
  exact hcount.trans (countFault_first hunread hp h0 c.avoid s.log.next)

theorem commandFault_first (detail : List Byte) :
    let t := commandFault s k detail
    (rget t 0x100).testBit 2 = true ∧ findCmd t k = some (failedRead c s.log.next) ∧ onlyChanged (.cmds :: reportGroups) s t := by
  have hgo := commandFault_reruns hr hc hp h0 detail
  obtain rfl := findCmd_key hc
  have he := raiseEvent_only s (commandEvent c.key detail)
  have hcmd : findCmd (raiseEvent s (commandEvent c.key detail)) c.key = some c := (findCmd_congr (only_cmds he (by decide)) _).trans hc
  have hput := only_trans (putCmd_only (raiseEvent s (commandEvent c.key detail)) (unread c)) (putCmd_only _ (failedRead c s.log.next))
  rw [hgo]
  refine ⟨?_, findCmd_putCmd (c := failedRead c s.log.next) (findCmd_putCmd (c := unread c) hcmd), only_then (only_mono he (by decide)) hput⟩
  rw [rget_congr (only_regs hput (by decide))]
  exact raiseEvent_bit s (commandEvent c.key detail) (show 2 < 32 by decide)

end

/-- A Plot word lost after others were corrected: what its repair leaves (08 R207). -/
theorem repairRead_corrected (hp : inPlot s (a / 8 * 8) = true) (hh : s.chart.rowHist.contains (a / 8 * 8) = false) (words : List Nat) :
    onlyChanged eccGroups s (repairRead (feedEcc s words) a).1 ∧
      (repairRead (feedEcc s words) a).1.chart.mem = (chartClear s (a / 8 * 8) (a / 8 * 8 + 8)).chart.mem := by
  have hpe : inPlot (feedEcc s words) (a / 8 * 8) = true := (inPlot_congr (fun b => feedEcc_rget s words (by omega) (by omega)) _).trans hp
  have hhe : (feedEcc s words).chart.rowHist.contains (a / 8 * 8) = false := by rw [(feedEcc_mem s words).2, hh]
  obtain ⟨ho, hm⟩ := repairRead_plot hpe hhe
  refine ⟨only_then (feedEcc_only s words) ho, hm.trans ?_⟩
  simp only [chartClear, State.setChart_chart, (feedEcc_mem s words).1]

/-! ## A descriptor read that times out (09 R226, 19 R424) -/

/-- A ring that a failed descriptor read has stopped at its slot. -/
def failedFetch (r : Machine.Ring) : Machine.Ring := { r with fetchErr := true, stopped := true, next := r.head }

theorem fetchFailed_spec (s : State) (ctx ring : Nat) :
    ringOf (fetchFailed s ctx ring) ctx ring = failedFetch (ringOf s ctx ring) ∧
      onlyChanged (.helm :: reportGroups) s (fetchFailed s ctx ring) := by
  have hset := setRing_only s ctx ring (failedFetch (ringOf s ctx ring))
  have ho : onlyChanged reportGroups (setRing s ctx ring (failedFetch (ringOf s ctx ring))) (fetchFailed s ctx ring) :=
    only_trans (raiseNotice_only _ _ _ _) (raiseRing_only _ _ _)
  exact ⟨(ringOf_congr (only_helm ho (by decide)) ctx ring).trans (ringOf_setRing_same _ _ _), only_then (only_mono hset (by decide)) ho⟩

theorem doPcieCompletionTimeout_fetch (hready : ready s = true) (hf : fetching (ringOf s k.ctx k.ring) = true) :
    doPcieCompletionTimeout s k true = fetchFailed s k.ctx k.ring := by
  simp only [doPcieCompletionTimeout, timeoutFetch, hready, hf, if_true]

/-! ## The input of a command, case by case -/

section
variable {c : Cmd} (hc : findCmd s k = some c) (hread : readingInput s c = true) (hready : ready s = true)
include hc hread hready

/-- A batch problem's input stands with its command. -/
theorem inputIn_waiting (hr : findRun s k = none) (rows : List Byte) (off : Nat) (words : List Nat) :
    doInputReadComplete s k rows off words none = inputTaken s c rows off words := by
  rw [doInputReadComplete_in hc hread hready, hr]

section
variable {r : Run} (hr : findRun s k = some r)
include hr

/-- The input of a run that a TIMED_LAUNCH covers goes to its Plot. -/
theorem inputIn_armed (harm : r.armedOff.isSome = true) (rows : List Byte) (off : Nat) (words : List Nat) :
    let t := doInputReadComplete s k rows off words none
    findCmd t k = some (withInst c (instLayout s c) (instBytes c rows) off) ∧
      (∀ b p, r.berths = [b] → r.plots = [p] → b.sectors.contains p.sector = true → off + (instBytes c rows).length ≤ p.lines * 2048 →
        t.chart.mem = memWriteBytes 0#8 s.chart.mem (plotBase p + off) (instBytes c rows)) ∧
      onlyChanged [.cmds, .chart, .pel] (feedEcc s words) t := by
  obtain ⟨htaken, ho⟩ := inputTaken_spec hc rows off words
  have hw := writeInst_only (inputTaken s c rows off words) r (instBytes c rows) off
  have harmed : ¬ (r.armedOff.isNone = true ∧ r.launchAk = 0) := fun h => by simp [Option.isNone_iff_eq_none.mp h.1] at harm
  have hgo := doInputReadComplete_in hc hread hready rows off words
  rw [hr] at hgo
  rw [show doInputReadComplete s k rows off words none = _ from hgo.trans (if_neg harmed)]
  refine ⟨(findCmd_congr (only_cmds hw (by decide)) _).trans htaken, fun b p hb hp hsec hfit => ?_, only_then (only_mono ho (by decide)) hw⟩
  rw [writeInst_mem hb hp hsec hfit, only_chart ho (by decide), (feedEcc_mem s words).1]

/-- The input of any other placed run fixes its launch cycle as well, where a pattern fits in time. -/
theorem inputIn_launches (harm : r.armedOff = none) (hl : r.launchAk = 0) (hstep : findStep s (runPattern r) = some a)
    (htime : tooLate c r.route (akTime s a) = false) (rows : List Byte) (off : Nat) (words : List Nat) :
    let t := doInputReadComplete s k rows off words none
    findRun t k = some { r with launchAk := a } ∧
      (∃ x, findCmd t k = some x ∧ x.inst = parseInst (instLayout s c) (instBytes c rows) ∧ x.inputIn = true) ∧
      onlyChanged [.cmds, .runs, .helm, .regs, .chart, .pel] (feedEcc s words) t := by
  obtain ⟨htaken, ho⟩ := inputTaken_spec hc rows off words
  have hgo := doInputReadComplete_in hc hread hready rows off words
  have hw := writeInst_only (inputTaken s c rows off words) r (instBytes c rows) off
  have hall := only_then (inputTaken_only s c rows off words) hw
  obtain rfl := findRun_key hr
  rw [hr] at hgo
  rw [show doInputReadComplete s r.key rows off words none = _ from hgo.trans (if_pos ⟨by simp [harm], hl⟩)]
  obtain ⟨hrun, hcmd, hfix⟩ := fixLaunch_leaves ((findRun_congr (only_runs hall (by decide)) _).trans hr)
    ((findCmd_congr (only_cmds hw (by decide)) _).trans htaken)
    ((findStep_congr (only_helm hall (by decide)) (only_clk hall (by decide)) _).trans hstep)
    ((congrArg (tooLate c r.route) (akTime_congr (only_clk hall (by decide)) (only_ms hall (by decide)) a)).trans htime)
  exact ⟨hrun, ⟨_, hcmd, rfl, rfl⟩, only_then (only_then (only_mono ho (by decide)) hw) hfix⟩

end

section
variable (hr : findRun s k = none) (h0 : c.faultKills = 0)
include hr h0

/-- A failed read of a batch problem's input reruns the command. -/
theorem doInputReadError_leaves :
    let t := doInputReadError s k none
    (rget t 0x100).testBit 2 = true ∧ findCmd t k = some (failedRead c s.log.next) ∧ onlyChanged (.cmds :: reportGroups) s t := by
  have hphase := readingInput_waits hread (findCmd_key hc ▸ hr)
  rw [doInputReadError_reading hc hread hready]
  exact commandFault_first hr hc (by simp [hphase]) h0 []

/-- So does a Plot word that its write could not merge with, once that is repaired. -/
theorem inputIn_lost (hp : inPlot s (a / 8 * 8) = true) (hh : s.chart.rowHist.contains (a / 8 * 8) = false) (rows : List Byte) (off : Nat)
    (words : List Nat) :
    let t := doInputReadComplete s k rows off words (some a)
    t.chart.mem = (chartClear s (a / 8 * 8) (a / 8 * 8 + 8)).chart.mem ∧ ∃ idx, findCmd t k = some (failedRead c idx) := by
  obtain ⟨ho, hmem⟩ := repairRead_corrected hp hh words
  have hphase := readingInput_waits hread (findCmd_key hc ▸ hr)
  obtain ⟨-, hcmd, hev⟩ := commandFault_first ((findRun_congr (only_runs ho (by decide)) k).trans hr)
    ((findCmd_congr (only_cmds ho (by decide)) k).trans hc) (by simp [hphase]) h0 []
  rw [doInputReadComplete_lost hc hread hready]
  exact ⟨(congrArg ChartSt.mem (only_chart hev (by decide))).trans hmem, _, hcmd⟩

end

end

/-! ## The statement of the writes and inputs -/

/-- Settles O48: a row by the window check and by what a refusal gives back, an input by what taking it in, its rows, its launch cycle and its
fault leave, a timeout by the read that it ends. -/
theorem writesAndInputs : Obligations.WritesAndInputs := by
  intro s
  refine ⟨fun row writer data closing h512 hcore hst => ⟨fun hadm => ?_, fun r c hadm h1 hr hc hat => ?_, fun hadm h2 h4 hdma => ?_⟩,
    fun k c rows off words hc hread hready => ⟨fun hr => ?_, fun r hr harm => ?_, fun r a hr harm hl hstep htime => ?_,
      fun a hr h0 hp hh => ?_⟩, fun k c hc hread hready hr h0 => ?_, fun k => rfl, fun k hready hf => ?_⟩
  · exact gives_of_eq rfl (doRemoteWrite_admitted h512 hcore hst hadm) ⟨rfl, setChart_only _ _⟩
  · exact gives_of_eq rfl rfl (doRemoteWrite_ends h512 hcore hst hadm h1 hr hc hat)
  · exact gives_of_eq rfl (doRemoteWrite_counted h512 hcore hst hadm h2 h4 hdma) (countRefused_spec s row)
  · exact gives_of_eq rfl (inputIn_waiting hc hread hready hr rows off words) (inputTaken_spec hc rows off words)
  · exact gives_of_eq rfl rfl (inputIn_armed hc hread hready hr harm rows off words)
  · exact gives_of_eq rfl rfl (inputIn_launches hc hread hready hr harm hl hstep htime rows off words)
  · obtain ⟨hmem, idx, hcmd⟩ := inputIn_lost hc hread hready hr h0 hp hh rows off words
    exact gives_of_eq rfl rfl ⟨hmem, _, hcmd, rfl, rfl, rfl⟩
  · obtain ⟨hbit, hcmd, ho⟩ := doInputReadError_leaves hc hread hready hr h0
    exact gives_of_eq rfl rfl ⟨hbit, ⟨_, hcmd, rfl, rfl, rfl, rfl⟩, ho⟩
  · exact gives_of_eq rfl (doPcieCompletionTimeout_fetch hready hf) (fetchFailed_spec s k.ctx k.ring)

end Sys2Proof.Proofs

/-! SUPPORT. The proofs of the statements of 09_rings_and_records.md: doorbells, rings and their descriptors; the commands that run on the
Helm cores; timed launches; what a route and a signal send to the fleet. -/

namespace Sys2Proof.Proofs
open Sys2Proof Sys2Proof.Machine Sys2Proof.Laws

/- One proof at a time: elaborated beside the pending kernel checks of the text's tests, they need more threads than the memory limit holds. -/
set_option Elab.async false

variable {s t v : State} {gs : List StateGroup} {k : CmdKey} {c c' : Cmd}

/-! ## Doorbells (09 R225) and the control word of a ring (09 R224) -/

/-- A poisoned doorbell is dropped and counted, and does nothing else (15 R362). -/
theorem doDoorbell_poisoned (s : State) (fn page ring : Nat) (tail : Word) :
    doDoorbell s fn page ring tail true = s.setPci { s.pci with epDropped := s.pci.epDropped + 1 } := rfl

section
variable {fn page ring ctx : Nat}

/-- A ring put back after a change outside the Helm group. -/
theorem setRing_leaves (hv : onlyChanged [.pel] s v) (x : Machine.Ring) :
    ringOf (setRing v ctx ring x) ctx ring = x ∧ onlyChanged [.helm, .pel] s (setRing v ctx ring x) :=
  ⟨ringOf_setRing_same _ _ _, only_then (only_mono hv (by decide)) (setRing_only _ _ _ _)⟩

/-! ### What the count of a PCIe write leaves (18 R413) -/

@[simp] theorem ctxOf_pcieIn (s : State) (n c : Nat) : ctxOf (pcieIn s n) c = ctxOf s c := rfl
@[simp] theorem ringOf_pcieIn (s : State) (n c r : Nat) : ringOf (pcieIn s n) c r = ringOf s c r := rfl
@[simp] theorem ringActive_pcieIn (s : State) (n c r : Nat) : ringActive (pcieIn s n) c r = ringActive s c r := rfl
@[simp] theorem recordOk_pcieIn (s : State) (n f : Nat) (rec : Rec) : recordOk (pcieIn s n) f rec = recordOk s f rec := rfl

/-! ### What a doorbell value does to its ring -/

section
variable {tail : Word}

theorem doorbellAct_disabled (he : (ringOf s ctx ring).enable = false) :
    doorbellAct s ctx ring tail = setRing s ctx ring { ringOf s ctx ring with dbIgnored := true } := by
  simp [doorbellAct, dbCase, he]

theorem doorbellAct_stale (he : (ringOf s ctx ring).enable = true) (hh : 2 ^ 31 ≤ (tail - (ringOf s ctx ring).head).toNat) :
    doorbellAct s ctx ring tail = s := by
  have hcase : dbCase (ringOf s ctx ring) tail = .stale := by
    simp only [dbCase, he, Bool.not_true, Bool.false_eq_true, if_false, ge_iff_le, hh, if_true]
  simp only [doorbellAct, hcase]

section
variable (he : (ringOf s ctx ring).enable = true) (hh : (tail - (ringOf s ctx ring).head).toNat < 2 ^ 31)
include he hh

/-- A value past the slots still unposted sets its flag, and is reported. -/
theorem doorbellAct_overrun (hd : 2 ^ (ringOf s ctx ring).log2e ≤ (tail - (ringOf s ctx ring).done).toNat) :
    ringOf (doorbellAct s ctx ring tail) ctx ring = { ringOf s ctx ring with dbOverrun := true } ∧
      onlyChanged (.helm :: reportGroups) s (doorbellAct s ctx ring tail) := by
  have hcase : dbCase (ringOf s ctx ring) tail = .overrun := by
    simp only [dbCase, he, Bool.not_true, Bool.false_eq_true, if_false, ge_iff_le, Nat.not_le.mpr hh, hd, if_true]
  have hreport : onlyChanged reportGroups (setRing s ctx ring { ringOf s ctx ring with dbOverrun := true }) (doorbellAct s ctx ring tail) := by
    simp only [doorbellAct, hcase]
    exact only_trans (raiseNotice_only _ _ _ _) (raiseRing_only _ _ _)
  exact ⟨(ringOf_congr (only_helm hreport (by decide)) ctx ring).trans (ringOf_setRing_same _ _ _),
    only_then (only_mono (setRing_only _ _ _ _) (by decide)) hreport⟩

/-- Any other value is announced, and what it announces is requested. -/
theorem doorbellAct_announce (hd : (tail - (ringOf s ctx ring).done).toNat < 2 ^ (ringOf s ctx ring).log2e) :
    let t := doorbellAct s ctx ring tail
    ringOf t ctx ring = { ringOf s ctx ring with tail := newerTail (ringOf s ctx ring) tail, next := (ringOf t ctx ring).next } ∧
      onlyChanged [.helm, .pel, .out] s t := by
  have hcase : dbCase (ringOf s ctx ring) tail = .announce := by
    simp only [dbCase, he, Bool.not_true, Bool.false_eq_true, if_false, ge_iff_le, Nat.not_le.mpr hh, Nat.not_le.mpr hd]
  intro t
  have ht : t = pump (setRing s ctx ring { ringOf s ctx ring with tail := newerTail (ringOf s ctx ring) tail }) ctx ring := by
    simp only [t, doorbellAct, hcase]
  obtain ⟨hpump, hrow⟩ := pump_spec (setRing s ctx ring { ringOf s ctx ring with tail := newerTail (ringOf s ctx ring) tail }) ctx ring
  rw [← ht, ringOf_setRing_same] at hrow
  rw [← ht] at hpump
  exact ⟨hrow, only_then (only_mono (setRing_only _ _ _ _) (by decide)) hpump⟩

end

end

section
variable (hring : ring < 8) (hfn : fnEnabled s fn = true) (hctx : pageCtx s fn page = some ctx)
include hring hfn hctx

/-- A doorbell of an undefined context sets its ring's flag alone. -/
theorem doDoorbell_undefined (hx : ctxOf s ctx = none) (tail : Word) :
    doDoorbell s fn page ring tail false = setRing (pcieIn s 4) ctx ring { ringOf s ctx ring with dbIgnored := true } := by
  simp [doDoorbell, hring, hfn, hctx, hx]

theorem doDoorbell_defined {x : Ctx} (hx : ctxOf s ctx = some x) (tail : Word) :
    doDoorbell s fn page ring tail false = doorbellAct (pcieIn s 4) ctx ring tail := by
  simp [doDoorbell, hring, hfn, hctx, hx]

/-- A ring that cannot be enabled: of an undefined context, or ACTIVE. -/
theorem doRingEnable_refused (h : ctxOf s ctx = none ∨ ringActive s ctx ring = true) (w : Word) (rec : Rec) :
    doRingEnable s fn page ring w rec = setRing (pcieIn s 4) ctx ring { ringW1c (ringOf s ctx ring) w with enableRefused := true } := by
  simp [doRingEnable, hring, hfn, hctx, h]

section
variable {x : Ctx} (hx : ctxOf s ctx = some x) (ha : ringActive s ctx ring = false) {rec : Rec}
include hx ha

/-- Any other ring with a good record. -/
theorem doRingEnable_enables (hok : recordOk s fn rec = true) (w : Word) :
    doRingEnable s fn page ring w rec = setRing (pcieIn (pcieIn s 4) 32) ctx ring (enabledRing (ringW1c (ringOf s ctx ring) w) rec) := by
  simp [doRingEnable, hring, hfn, hctx, hx, ha, hok]

/-- Any other ring with a bad one. -/
theorem doRingEnable_recordErr (hbad : recordOk s fn rec = false) (w : Word) :
    doRingEnable s fn page ring w rec =
      setRing (pcieIn (pcieIn s 4) 32) ctx ring { ringW1c (ringOf s ctx ring) w with recordErr := true, enable := false } := by
  simp [doRingEnable, hring, hfn, hctx, hx, ha, hbad]

end

theorem doRingDisable_clears (w : Word) :
    doRingDisable s fn page ring w = setRing (pcieIn s 4) ctx ring { ringW1c (ringOf s ctx ring) w with enable := false } := by
  simp [doRingDisable, hring, hfn, hctx]

end

end

/-- Settles O10: a poisoned doorbell apart, one of an undefined context, and the four cases of R225 by what the value does to its ring. -/
theorem doorbellDecides : Obligations.DoorbellDecides := by
  intro s fn page ring ctx tail hring hfn hctx r c
  have hin := pcieIn_only s 4
  refine ⟨gives_of_eq rfl (doDoorbell_poisoned s fn page ring tail) ⟨rfl, by simp [onlyChanged]⟩, fun hx => ?_, fun x hx => ?_⟩
  · exact gives_of_eq rfl (doDoorbell_undefined hring hfn hctx hx tail) (setRing_leaves hin _)
  · have hgo := doDoorbell_defined hring hfn hctx hx tail
    refine ⟨fun he => ?_, fun he hh => ?_, fun he hh hd => ?_, fun he hh hd => ?_⟩
    · exact gives_of_eq rfl (hgo.trans (doorbellAct_disabled he)) (setRing_leaves hin _)
    · exact gives_of_eq rfl (hgo.trans (doorbellAct_stale he hh)) hin
    · obtain ⟨hrow, ho⟩ := doorbellAct_overrun (s := pcieIn s 4) he hh hd
      exact gives_of_eq rfl hgo ⟨hrow, only_trans (only_mono hin (by decide)) ho⟩
    · obtain ⟨hrow, ho⟩ := doorbellAct_announce (s := pcieIn s 4) he hh hd
      exact gives_of_eq rfl hgo ⟨hrow, only_trans (only_mono hin (by decide)) ho⟩

/-- Settles O11: a write of the control word that enables a ring by whether it is refused and by its record, and one that disables it. -/
theorem ringEnableDisable : Obligations.RingEnableDisable := by
  intro s fn page ring ctx w rec hring hfn hctx r c
  have hin := pcieIn_only s 4
  refine ⟨fun x hx ha => ⟨fun hok => ?_, fun hbad => ?_⟩, fun href => ?_, ?_⟩
  · obtain ⟨hrow, ho⟩ := setRing_leaves (only_trans hin (pcieIn_only _ 32)) (enabledRing r rec)
    refine gives_of_eq rfl (doRingEnable_enables hring hfn hctx hx ha hok w) ?_
    rw [hrow]
    exact ⟨rfl, rfl, rfl, rfl, rfl, rfl, rfl, ho⟩
  · exact gives_of_eq rfl (doRingEnable_recordErr hring hfn hctx hx ha hbad w) (setRing_leaves (only_trans hin (pcieIn_only _ 32)) _)
  · exact gives_of_eq rfl (doRingEnable_refused hring hfn hctx href w rec) (setRing_leaves hin _)
  · exact gives_of_eq rfl (doRingDisable_clears hring hfn hctx w) (setRing_leaves hin _)

/-! ## DESCRIPTOR_ACCEPT (09 R226) -/

/-! ### A command just accepted -/

theorem busyNamed_spec (s : State) (hs : List Nat) : (busyNamed s hs).helm.rings = s.helm.rings ∧ onlyChanged [.helm] s (busyNamed s hs) := by
  induction hs generalizing s with
  | nil => exact ⟨rfl, only_refl _ _⟩
  | cons h hs ih =>
    simp only [busyNamed]
    split
    · exact ⟨(ih _).1, only_trans (setHdgState_only _ _ _) (ih _).2⟩
    · exact ih _

/-- A command that did not launch asks for its commit. -/
theorem fileStatus_eq (s : State) (c : Cmd) (st : Nat) : ∃ q, fileStatus s c st = fileReq s c q := by
  unfold fileStatus
  split
  · exact ⟨_, rfl⟩
  · split <;> exact ⟨_, rfl⟩

/-- What acceptance decides of a command beside the entries that it holds BUSY: nothing, or its commit request. -/
theorem settleAccepted_cases (s : State) (c : Cmd) : ∃ hs,
    settleAccepted s c = busyNamed s hs ∨ ∃ q, settleAccepted s c = fileReq (busyNamed s hs) c q := by
  unfold settleAccepted
  split
  · exact ⟨[], .inr ⟨_, rfl⟩⟩
  · refine ⟨heldEntries c, ?_⟩
    dsimp only
    split
    · exact .inr ⟨_, rfl⟩
    · split
      · exact .inr (fileStatus_eq _ _ _)
      · split
        · exact .inr (fileStatus_eq _ _ _)
        · exact .inl rfl

theorem settleAccepted_leaves (hc : findCmd s c.key = some c) :
    (settleAccepted s c).helm.rings = s.helm.rings ∧ (∃ c', findCmd (settleAccepted s c) c.key = some c' ∧ c'.desc = c.desc) ∧
      onlyChanged [.cmds, .helm, .log] s (settleAccepted s c) := by
  obtain ⟨hs, hgo⟩ := settleAccepted_cases s c
  obtain ⟨hrings, hb⟩ := busyNamed_spec s hs
  have hfound : findCmd (busyNamed s hs) c.key = some c := (findCmd_congr (only_cmds hb (by decide)) _).trans hc
  obtain hnone | ⟨q, hreq⟩ := hgo
  · rw [hnone]
    exact ⟨hrings, ⟨c, hfound, rfl⟩, only_mono hb (by decide)⟩
  · rw [hreq]
    exact ⟨hrings, ⟨_, fileReq_filed hfound q, rfl⟩, only_then (only_mono hb (by decide)) (fileReq_only _ _ _)⟩

section
variable {ctx ring : Nat}

/-- The state in which a descriptor has become the newest command. -/
def newlyAccepted (s : State) (ctx ring : Nat) (d : Line) : State :=
  let v := setRing s ctx ring { ringOf s ctx ring with head := (ringOf s ctx ring).head + 1 }
  let w := v.setCmds (v.cmds ++ [newCmd v ⟨ctx, ring, (ringOf s ctx ring).head⟩ d])
  w.setHelm { w.helm with accepts := w.helm.accepts + 1 }

/-- A key that no command has is the new command's. -/
theorem findCmd_append (h : findCmd s c.key = none) : findCmd (s.setCmds (s.cmds ++ [c])) c.key = some c := by
  simp only [findCmd] at h
  simp [findCmd, h]

/-- The slot at HEAD becomes the command of its key. -/
theorem acceptDesc_new (hnew : findCmd s ⟨ctx, ring, (ringOf s ctx ring).head⟩ = none) (d : Line) :
    let r := ringOf s ctx ring
    let t := acceptDesc s ctx ring d
    ringOf t ctx ring = { r with head := r.head + 1 } ∧ (∃ c, findCmd t ⟨ctx, ring, r.head⟩ = some c ∧ c.desc = d) ∧
      onlyChanged [.cmds, .helm, .log] s t := by
  intro r t
  have hv : findCmd (setRing s ctx ring { r with head := r.head + 1 }) ⟨ctx, ring, r.head⟩ = none := hnew
  let n := newCmd (setRing s ctx ring { r with head := r.head + 1 }) ⟨ctx, ring, r.head⟩ d
  have ht : t = settleAccepted (newlyAccepted s ctx ring d) n := by
    simp only [r] at hv
    simp only [t, acceptDesc, hv]
    rfl
  have hfound : findCmd (newlyAccepted s ctx ring d) ⟨ctx, ring, r.head⟩ = some n := findCmd_append (c := n) hv
  obtain ⟨hrings, hcmd, ho⟩ := settleAccepted_leaves (c := n) hfound
  have hnewly : onlyChanged [.cmds, .helm, .log] s (newlyAccepted s ctx ring d) := by simp [onlyChanged, newlyAccepted, setRing]
  rw [ht]
  refine ⟨?_, hcmd, only_trans hnewly ho⟩
  simp only [ringOf, hrings]
  exact ringOf_setRing_same (s := s) ctx ring { r with head := r.head + 1 }

theorem doDescriptorAccept_reads (hcan : canFetch s ctx ring (ringOf s ctx ring) (ringOf s ctx ring).head = true)
    (hf : fetching (ringOf s ctx ring) = true) (d : Line) :
    doDescriptorAccept s ctx ring 0 (.bytes d) = pump (acceptDesc (pcieIn s 64) ctx ring d) ctx ring := by
  simp [doDescriptorAccept, hcan, hf]

theorem doDescriptorAccept_fails (hcan : canFetch s ctx ring (ringOf s ctx ring) (ringOf s ctx ring).head = true)
    (hf : fetching (ringOf s ctx ring) = true) : doDescriptorAccept s ctx ring 0 .failed = fetchFailed s ctx ring := by
  simp [doDescriptorAccept, hcan, hf]

end

/-- Settles O12: the bytes read by what acceptance leaves and what the next requests leave of its ring, a failed read by its report. -/
theorem descriptorAccepted : Obligations.DescriptorAccepted := by
  intro s ctx ring d r hcan hf
  refine ⟨fun hnew => gives_of_eq rfl (doDescriptorAccept_reads hcan hf d) ?_,
    gives_of_eq rfl (doDescriptorAccept_fails hcan hf) (fetchFailed_spec s ctx ring)⟩
  obtain ⟨hrow, ⟨c, hc, hdesc⟩, ho⟩ := acceptDesc_new (s := pcieIn s 64) hnew d
  obtain ⟨hpump, hnext⟩ := pump_spec (acceptDesc (pcieIn s 64) ctx ring d) ctx ring
  have hall := only_then (gs := [.cmds, .helm, .log, .pel, .out]) (only_then (only_mono (pcieIn_only s 64) (by decide)) ho) hpump
  rw [hnext, hrow]
  exact ⟨rfl, rfl, rfl, ⟨c, (findCmd_congr (only_cmds hpump (by decide)) _).trans hc, hdesc⟩,
    only_runs hall (by decide), only_chart hall (by decide), only_streams hall (by decide)⟩

/-! ## The commands that run on the Helm cores: what their places in their course leave. -/

/-- A command that may run, put back with another place in its course. -/
theorem runnable_put {op : Nat} (hrun : runnable s k op = some c) (x : Cmd) (hx : x.key = c.key := by rfl) :
    findCmd (putCmd s x) k = some x ∧ onlyChanged [.cmds] s (putCmd s x) := by
  obtain ⟨hc, -, -⟩ := runnable_spec hrun
  obtain rfl := findCmd_key hc
  rw [← hx] at hc ⊢
  exact ⟨findCmd_putCmd hc, putCmd_only _ _⟩

/-- A command that waits is the one of its key. -/
theorem waitingCmd_spec {op : Nat} (h : waitingCmd s k op = some c) : findCmd s k = some c ∧ c.phase = .waiting := by
  unfold waitingCmd at h
  split at h
  · next d hd =>
    split at h
    · next hw =>
      obtain rfl := Option.some.inj h
      simp only [Bool.and_eq_true, decide_eq_true_eq] at hw
      obtain ⟨⟨-, hphase⟩, -⟩ := hw
      exact ⟨hd, hphase⟩
    · exact nomatch h
  · exact nomatch h

/-- Meridian time goes by the clocks and the servo. -/
theorem stamp_congr (hclk : t.clk = s.clk) (hms : t.ms = s.ms) : stamp t = stamp s := by simp only [stamp, merInc, hclk, hms]

/-- A wait, or another command, that asks for its commit after a change outside the commands and the Logbook. -/
theorem fileReq_leaves {q : CommitReq} {p : CommitReq → Prop} (hv : onlyChanged gs s v) (hc : findCmd s k = some c)
    (hp : p { q with order := v.helm.requests }) (hg : StateGroup.cmds ∉ gs := by decide) (hl : StateGroup.log ∉ gs := by decide) :
    filedAs s (fileReq v c q) k p ∧ onlyChanged (.cmds :: .helm :: .log :: gs) s (fileReq v c q) := by
  obtain rfl := findCmd_key hc
  exact ⟨fileReq_filedAs hv hc hp hg hl, only_trans (only_mono hv (by simp +contextual)) (only_mono (fileReq_only _ _ _) (by simp))⟩

/-- A command that waits from now. -/
def waitingFrom (s : State) (c : Cmd) : Cmd := { c with phase := .waiting, since := stamp s }

theorem waitingFrom_congr (hclk : t.clk = s.clk) (hms : t.ms = s.ms) (c : Cmd) : waitingFrom t c = waitingFrom s c := by
  simp only [waitingFrom, stamp_congr hclk hms]

/-! ## Solve commands (09 R247) -/

/-- A solve command that stands launchable from now. -/
def launchableNow (s : State) (c : Cmd) : Cmd := { c with phase := .ready, launchableAt := some s.clk.mer }

/-- A solve command that may start, is not launchable yet and has no TIMED_LAUNCH becomes launchable; a batch problem's input is read. -/
theorem takeSolve_launchable {op : Nat} (hrun : runnable s k op = some c) (hl : c.launchableAt = none) (hcov : c.cover = none) :
    takeSolve s k op = if op = 0x11 then
        emit (putCmd s (launchableNow s c)) (.hostRead (fnFor s k.ctx) (dInAddr c.desc) (dInLen c.desc * 64))
      else putCmd s (launchableNow s c) := by
  have hgo : ¬ (c.launchableAt.isSome ∨ c.cover.isSome) := by simp [hl, hcov]
  simp only [takeSolve, hrun, hgo, if_false]
  rfl

/-- Settles O18: a problem of a berth by its place alone, one of a batch by its place and the read of its input. -/
theorem solveLaunchable : Obligations.SolveLaunchable := by
  intro s k c hl hcov c'
  refine ⟨fun hrun => ?_, fun hrun => ?_, fun hrun => ?_⟩
  · exact gives_of_eq rfl ((takeSolve_launchable hrun hl hcov).trans (if_neg (by decide))) (runnable_put hrun c')
  · exact gives_of_eq rfl ((takeSolve_launchable hrun hl hcov).trans (if_neg (by decide))) (runnable_put hrun c')
  · obtain ⟨hput, ho⟩ := runnable_put hrun c'
    have he := emit_only (putCmd s c') (.hostRead (fnFor s k.ctx) (dInAddr c.desc) (dInLen c.desc * 64))
    exact gives_of_eq rfl ((takeSolve_launchable hrun hl hcov).trans (if_pos rfl)) ⟨(findCmd_congr (only_cmds he (by decide)) _).trans hput,
      (emit_out _ _).trans (congrArg (· ++ _) (only_out ho (by decide))), only_then (only_mono ho (by decide)) he⟩

/-! ## BEACON_WAIT (09 R236) -/

theorem doBeaconWait_begins (hrun : runnable s k 0x41 = some c) (hh : ringHead s k = true) :
    ∃ v, onlyChanged [.regs, .pel] s v ∧ doBeaconWait s k = putCmd v (waitingFrom v c) := by
  simp only [doBeaconWait, hrun, hh, Bool.not_true, Bool.false_eq_true, if_false]
  exact ⟨_, traceCmd_only _ _ _ _ _ _ _ _, rfl⟩

/-- A value that is met ends the wait, unless its timeout has come. -/
theorem doBeaconWaitSatisfied_met (hw : waitingCmd s k 0x41 = some c) (hm : waitMet s c.desc = true) (hh : ringHead s k = true)
    (ht : ∀ x, waitTimeout s c.desc = some x → s.clk.mer < x) : ∃ v q, onlyChanged [.regs, .pel] s v ∧
      doBeaconWaitSatisfied s k = fileReq v c q ∧ q.status = 0 ∧ q.res0 = (beaconOf v (waitTarget c.desc)).toNat := by
  simp only [doBeaconWaitSatisfied, hw, hm, hh, Bool.not_true, Bool.false_or]
  split
  · next x hx =>
    rw [if_neg (by simpa using ht x hx)]
    exact ⟨_, _, traceCmd_only _ _ _ _ _ _ _ _, rfl, rfl, rfl⟩
  · rw [if_neg Bool.false_ne_true]
    exact ⟨_, _, traceCmd_only _ _ _ _ _ _ _ _, rfl, rfl, rfl⟩

/-- A timeout ends the wait, whether it has begun or not. -/
theorem doBeaconWaitTimeout_late {x : Mer} (hc : findCmd s k = some c) (hop : opOf c.desc = 0x41)
    (hp : c.phase = .waiting ∨ waitingToRun c = true) (hx : waitTimeout s c.desc = some x) (hle : x ≤ s.clk.mer) (hr : ready s = true)
    (hs : servedHalted s k.ctx = false) : ∃ v q, onlyChanged [.regs, .pel] s v ∧ doBeaconWaitTimeout s k = fileReq v c q ∧
      q.status = 0x40 ∧ q.res0 = (beaconOf s (waitTarget c.desc)).toNat := by
  have hp' : (decide (c.phase = .waiting) || waitingToRun c) = true := by simpa using hp
  simp only [doBeaconWaitTimeout, hc, hop, hp', hx, hle, hr, hs, ne_eq, not_true_eq_false, decide_true, Bool.not_true, Bool.false_eq_true,
    or_self, if_false]
  exact ⟨_, _, only_ite (traceCmd_only _ _ _ _ _ _ _ _) (only_refl _ _), rfl, rfl, rfl⟩

/-- Settles O19: the wait begins, and ends by its value or by its timeout, each with a record of the trace at most beside its command. -/
theorem beaconWaits : Obligations.BeaconWaits := by
  intro s k c
  refine ⟨fun hrun hh => ?_, fun hw hm hh ht => ?_, fun x hc hop hp hx hle hr hs => ?_⟩
  · obtain ⟨v, hv, hgo⟩ := doBeaconWait_begins hrun hh
    obtain ⟨hc, -, -⟩ := runnable_spec hrun
    obtain rfl := findCmd_key hc
    rw [waitingFrom_congr (only_clk hv (by decide)) (only_ms hv (by decide))] at hgo
    exact gives_of_eq rfl hgo ⟨findCmd_putCmd_after (c := waitingFrom s c) hv hc,
      only_then (only_mono hv (by decide)) (putCmd_only _ _)⟩
  · obtain ⟨v, q, hv, hgo, hst, hres⟩ := doBeaconWaitSatisfied_met hw hm hh ht
    rw [show beaconOf v (waitTarget c.desc) = beaconOf s (waitTarget c.desc) by simp only [beaconOf, only_helm hv (by decide)]] at hres
    exact gives_of_eq rfl hgo (fileReq_leaves hv (waitingCmd_spec hw).1 ⟨hst, hres⟩)
  · obtain ⟨v, q, hv, hgo, hst, hres⟩ := doBeaconWaitTimeout_late hc hop hp hx hle hr hs
    exact gives_of_eq rfl hgo (fileReq_leaves hv hc ⟨hst, hres⟩)

/-! ## FENCE and ATTEST (09 R237, R239) -/

theorem doFence_waits (hrun : runnable s k 0x42 = some c) : doFence s k = putCmd s (waitingFrom s c) := by
  simp only [doFence, hrun]
  rfl

theorem doFenceComplete_holds (hw : waitingCmd s k 0x42 = some c) (hf : fenceHolds s c = true) :
    doFenceComplete s k = fileReq s c { plainReq s 0 0 0 0 0 with charge := c.chargeDue } := by
  simp only [doFenceComplete, hw, hf, if_true]

/-- The end of an ATTEST: what it attests goes to host memory, its length to the record. -/
def attested (s : State) (c : Cmd) (bs : List Byte) : State :=
  fileReq (hostWrite s c bs) c { plainReq s 0 bs.length 0 0 0 with charge := c.chargeDue }

theorem attested_spec (hc : findCmd s k = some c) (bs : List Byte) :
    (attested s c bs).out = s.out ++ [.memWrite (fnFor s c.key.ctx) (dOutAddr c.desc) bs] ∧
      filedAs s (attested s c bs) k (fun q => q.status = 0 ∧ q.res0 = bs.length) ∧
      onlyChanged [.cmds, .helm, .log, .pel, .out] s (attested s c bs) :=
  ⟨(only_out (fileReq_only _ _ _) (by decide)).trans (hostWrite_out s c bs), fileReq_leaves (hostWrite_only s c bs) hc ⟨rfl, rfl⟩⟩

section
variable (hrun : runnable s k 0x60 = some c)
include hrun

theorem doAttest_report (hk : leField c.desc 34 1 = 0) : doAttest s k = attested s c (reportSigned s (leField c.desc 40 8) c.rows) := by
  simp only [doAttest, hrun, hk, if_true]
  rfl

/-- A certificate is signed afresh where its model and its route stand and no UNLOAD_MODEL takes the model. -/
theorem doAttest_certificate {m : Model} {r : Route} (hk : leField c.desc 34 1 = 1) (hm : modelOf s (dModel c.desc % 4096) = some m)
    (hr : (if (leField c.desc 35 1).testBit 0 then batchRoute m else berthRoute m) = some r) (hu : unloadStands s c = false) :
    doAttest s k = attested s c (certBytes s (dModel c.desc % 4096) m.sig r true (leField c.desc 40 8)) := by
  simp only [doAttest, hrun, hk, hm, hr, hu, Nat.one_ne_zero, Bool.false_eq_true, if_false]
  rfl

theorem doAttest_mismatch (hk : leField c.desc 34 1 = 1) (hm : modelOf s (dModel c.desc % 4096) = none) :
    doAttest s k = fileStatus s c 0x31 := by
  simp only [doAttest, hrun, hk, hm, Nat.one_ne_zero, if_false]

end

/-- Settles O20: a fence by its place and its condition, ATTEST by what it attests. -/
theorem fencesAndReports : Obligations.FencesAndReports := by
  intro s k c
  refine ⟨fun hrun => ?_, fun hw hf => ?_, fun hrun hk => ?_, fun m r hrun hk hm hr hu => ?_, fun hrun hk hm => ?_⟩
  · exact gives_of_eq rfl (doFence_waits hrun) (runnable_put hrun _)
  · exact gives_of_eq rfl (doFenceComplete_holds hw hf) (fileReq_leaves (only_refl [] s) (waitingCmd_spec hw).1 rfl)
  · exact gives_of_eq rfl (doAttest_report hrun hk) (attested_spec (runnable_spec hrun).1 _)
  · exact gives_of_eq rfl (doAttest_certificate hrun hk hm hr hu) (attested_spec (runnable_spec hrun).1 _)
  · obtain ⟨hc, -, -⟩ := runnable_spec hrun
    obtain rfl := findCmd_key hc
    exact gives_of_eq rfl (doAttest_mismatch hrun hk hm) ⟨fileStatus_filed hc _, fileStatus_only _ _ _⟩

/-! ## What a kill leaves of the commands and the registers (10 R268) -/

/-- The groups that a kill can touch before its command or unit is given back, beside the registers of its trace record. -/
def killGroups : List StateGroup := [.log, .out, .chart, .batches, .rose, .helm, .pel, .runs, .fleet]

/-- What a killed run holds is given back, after the event of a kill that has one; then its cost is counted. -/
theorem killRelease_only (s : State) (r : Run) (e : Event) (charged : Bool) (n : Nat) (b : Int) {p : Prop} [Decidable p] :
    let v := releaseRun (killWatches (if p then logEvent s e else s) r.key) r
    let w := if charged then v else gcount v 0x6000 n
    onlyChanged killGroups s (if r.isSoft then addBalance w r.key.ctx b else w) := by
  intro v w
  have hevent : onlyChanged killGroups s (if p then logEvent s e else s) :=
    only_ite (only_mono (logEvent_only_log _ _) (by decide)) (only_refl _ _)
  obtain ⟨-, -, hrel⟩ := releaseRun_spec (killWatches (if p then logEvent s e else s) r.key) r
  have hv : onlyChanged killGroups s v := only_then (only_then hevent (killWatches_only _ _)) hrel
  have hw : onlyChanged killGroups s w := only_ite hv (only_then hv (gcount_only _ _ _))
  exact only_ite (only_then hw (addBalance_only _ _ _)) hw

/-- A kill is a trace record, a release of what the run holds, and the return of its unit or of its command. -/
theorem killRun_cases (s : State) (r : Run) (cause : Nat) (charged : Bool) : killRun s r cause charged = s ∨
    ∃ x v, onlyChanged killGroups (trace s x) v ∧
      ((∃ n, killRun s r cause charged = returnUnit v n) ∨ ∃ n ran, killRun s r cause charged = returnCmd v r.key n ran) := by
  by_cases hend : r.commitAt = some s.clk.chipAk ∨ r.phase = .done
  · exact .inl (by simp only [killRun, hend, if_true])
  · right
    cases hst : r.stream with
    | none =>
      simp only [killRun, hend, hst, if_false]
      exact ⟨_, _, killRelease_only _ r _ charged _ _, .inr ⟨_, _, rfl⟩⟩
    | some n =>
      simp only [killRun, hend, hst, if_false]
      exact ⟨_, _, killRelease_only _ r _ charged _ _, .inl ⟨_, rfl⟩⟩

theorem returnUnit_only (s : State) (n : Nat) : onlyChanged [.streams] s (returnUnit s n) := by
  unfold returnUnit
  split
  · exact setStreams_only _ _
  · exact only_refl _ _

/-- A kill writes no register but the count of dropped trace records. -/
theorem killRun_rget (s : State) (r : Run) (cause : Nat) (charged : Bool) {off : Nat} (h : off ≠ 0xC0048) :
    rget (killRun s r cause charged) off = rget s off := by
  obtain hsame | ⟨x, v, hv, hgo⟩ := killRun_cases s r cause charged
  · rw [hsame]
  · have hheld : rget v off = rget s off := (rget_congr (only_regs hv (by decide)) off).trans (trace_rget s x h)
    obtain ⟨n, hunit⟩ | ⟨n, ran, hcmd⟩ := hgo
    · rw [hunit, rget_congr (only_regs (returnUnit_only v n) (by decide)), hheld]
    · rw [hcmd, rget_congr (only_regs (returnCmd_only v r.key n ran) (by decide)), hheld]

/-! ### The commands keep their keys -/

/-- The keys of the commands, in their order. -/
def cmdKeys (s : State) : List CmdKey := s.cmds.map Cmd.key

theorem cmdKeys_only (h : onlyChanged gs s t) (hg : StateGroup.cmds ∉ gs := by decide) : cmdKeys t = cmdKeys s := by
  simp only [cmdKeys, only_cmds h hg]

/-- A command of either state is one of the other. -/
theorem findCmd_of_cmdKeys (h : cmdKeys t = cmdKeys s) (hc : findCmd s k = some c) : ∃ c', findCmd t k = some c' := by
  have hkey : k ∈ cmdKeys t := by
    rw [h, ← findCmd_key hc]
    exact List.mem_map_of_mem (List.mem_of_find?_eq_some hc)
  obtain ⟨d, hd, rfl⟩ := List.mem_map.mp hkey
  exact findCmd_of_mem hd

theorem cmdKeys_foldl {α : Type} {f : State → α → State} (hf : ∀ t x, cmdKeys (f t x) = cmdKeys t) (l : List α) (s : State) :
    cmdKeys (l.foldl f s) = cmdKeys s := by
  induction l generalizing s with
  | nil => rfl
  | cons x xs ih => exact (ih _).trans (hf s x)

@[simp] theorem cmdKeys_putCmd (s : State) (c : Cmd) : cmdKeys (putCmd s c) = cmdKeys s := by
  simp only [cmdKeys, putCmd, State.setCmds_cmds, List.map_map]
  refine List.map_congr_left (fun d _ => ?_)
  simp only [Function.comp_apply]
  split
  · next hd => exact (by simpa using hd : d.key = c.key).symm
  · rfl

@[simp] theorem cmdKeys_fileReq (s : State) (c : Cmd) (q : CommitReq) : cmdKeys (fileReq s c q) = cmdKeys s := cmdKeys_putCmd _ _

@[simp] theorem cmdKeys_fileStatus (s : State) (c : Cmd) (st : Nat) : cmdKeys (fileStatus s c st) = cmdKeys s := by
  obtain ⟨q, hq⟩ := fileStatus_eq s c st
  rw [hq, cmdKeys_fileReq]

@[simp] theorem cmdKeys_returnCmd (s : State) (k : CmdKey) (n : Nat) (ran : Bool) : cmdKeys (returnCmd s k n ran) = cmdKeys s := by
  unfold returnCmd
  split
  · exact cmdKeys_putCmd _ _
  · rfl

@[simp] theorem cmdKeys_killRun (s : State) (r : Run) (cause : Nat) (charged : Bool) : cmdKeys (killRun s r cause charged) = cmdKeys s := by
  obtain hsame | ⟨x, v, hv, hgo⟩ := killRun_cases s r cause charged
  · rw [hsame]
  · have hheld : cmdKeys v = cmdKeys s := (cmdKeys_only hv).trans (cmdKeys_only (trace_only s x))
    obtain ⟨n, hunit⟩ | ⟨n, ran, hcmd⟩ := hgo
    · rw [hunit, cmdKeys_only (returnUnit_only v n), hheld]
    · rw [hcmd, cmdKeys_returnCmd, hheld]

/-- The runs of a batch unit are killed. -/
def killSlots (s : State) (u : BatchUnit) (cause : Nat) : State :=
  (u.slots.filterMap id).foldl (fun s k => match findRun s k with | some r => killRun s r cause false | none => s) s

theorem cmdKeys_killSlots (s : State) (u : BatchUnit) (cause : Nat) : cmdKeys (killSlots s u cause) = cmdKeys s := by
  refine cmdKeys_foldl (fun t k => ?_) _ _
  split
  · exact cmdKeys_killRun _ _ _ _
  · rfl

@[simp] theorem cmdKeys_killUnit (s : State) (i : Nat) (u : BatchUnit) (cause : Nat) : cmdKeys (killUnit s i u cause) = cmdKeys s := by
  have hslots := cmdKeys_killSlots s u cause
  unfold killUnit
  dsimp only
  split
  · exact hslots
  · split
    · exact hslots
    · refine (apply_ite cmdKeys _ _ _).trans ?_
      split
      · exact hslots
      · exact (cmdKeys_only (only_then (only_then (only_mono (gs := [.chart, .rose, .batches]) (closeWins_only _ _) (by decide))
          (emptyFacets_only _ _)) (setBatches_only _ _))).trans hslots

@[simp] theorem cmdKeys_killFor (s : State) (p : Placement) : cmdKeys (killFor s p) = cmdKeys s := by
  refine (cmdKeys_foldl (fun t r => cmdKeys_killRun t r _ _) _ _).trans ?_
  exact (cmdKeys_only (setBatches_only _ _)).trans (cmdKeys_foldl (fun t (x : Nat × BatchUnit) => cmdKeys_killUnit t x.1 x.2 _) _ _)

theorem cmdKeys_quotaPlacement {r : Route} {dual : Bool} {avoid : List Nat} {p : Placement}
    (h : quotaPlacement s r dual avoid = some (t, p)) : cmdKeys t = cmdKeys s := by
  unfold quotaPlacement at h
  split at h
  · obtain ⟨rfl, -⟩ := Prod.mk.inj (Option.some.inj h)
    rfl
  · dsimp only at h
    split at h
    · exact nomatch h
    · obtain ⟨q, -, heq⟩ := Option.map_eq_some_iff.mp h
      obtain ⟨rfl, -⟩ := Prod.mk.inj heq
      exact cmdKeys_killFor _ _

/-! ## TIMED_LAUNCH and its arming (09 R234, 11 R291) -/

theorem openWins_only (s : State) (ws : List (Nat × Window)) : onlyChanged [.chart] s (openWins s ws) := by
  induction ws generalizing s with
  | nil => exact only_refl _ _
  | cons x xs ih => exact only_trans (setWin_only _ _ _) (ih _)

theorem setRuns_only (s : State) (rs : List Run) : onlyChanged [.runs] s (s.setRuns rs) := by simp [onlyChanged]

/-- What a placement does beside its command: the run, its windows, its context's balance, the read of its input. -/
theorem placement_only (s : State) (rs : List Run) (ws : List (Nat × Window)) (ctx : Nat) (n : Int) (o : Output) {p q : Prop} [Decidable p]
    [Decidable q] :
    let v := openWins (s.setRuns rs) ws
    let w := if p then addBalance v ctx n else v
    onlyChanged [.runs, .chart, .helm, .pel, .out] s (if q then emit w o else w) := by
  intro v w
  have hv : onlyChanged [.runs, .chart, .helm, .pel, .out] s v := only_then (only_mono (setRuns_only _ _) (by decide)) (openWins_only _ _)
  have hw : onlyChanged [.runs, .chart, .helm, .pel, .out] s w := only_ite (only_then hv (addBalance_only _ _ _)) hv
  exact only_ite (only_then hw (emit_only _ _)) hw

/-- A placement whose launch cycle waits for a trigger. -/
theorem cmdKeys_place (s : State) (c : Cmd) (m : Nat) (r : Route) (p : Placement) (off : Nat) : cmdKeys (place s c m r p (some off)) = cmdKeys s := by
  simp only [place, Option.isSome_some, Bool.or_true, if_true]
  exact (cmdKeys_only (placement_only _ _ _ _ _ _)).trans (cmdKeys_putCmd _ _)

/-- The placement of a covered command, if any: a SOFT one's where it fits, a quota command's after the kills that it takes (10 R265). -/
theorem cmdKeys_coveredPlacement {late soft room : Prop} [Decidable late] [Decidable soft] [Decidable room] {fit : Option Placement} {r : Route}
    {dual : Bool} {avoid : List Nat} {p : Placement}
    (h : (if late then none else if soft then fit.map (fun p => (s, p)) else if room then quotaPlacement s r dual avoid else none) = some (t, p)) :
    cmdKeys t = cmdKeys s := by
  split at h
  · exact nomatch h
  · split at h
    · obtain ⟨q, -, heq⟩ := Option.map_eq_some_iff.mp h
      obtain ⟨rfl, -⟩ := Prod.mk.inj heq
      rfl
    · split at h
      · exact cmdKeys_quotaPlacement h
      · exact nomatch h

/-- Arming a covered command files it or places it. -/
theorem cmdKeys_armCovered (s : State) (k : CmdKey) (tl : Mer) (q : Word) (off : Nat) : cmdKeys (armCovered s k tl q off).1 = cmdKeys s := by
  unfold armCovered
  dsimp only
  split
  · rfl
  · split
    · rfl
    · split
      · exact cmdKeys_fileStatus _ _ _
      · split
        · rfl
        · split
          · exact cmdKeys_fileStatus _ _ _
          · split
            · exact cmdKeys_fileStatus _ _ _
            · next u p hfound =>
              have hu := cmdKeys_coveredPlacement hfound
              split
              · exact (cmdKeys_place _ _ _ _ _ _).trans hu
              · exact hu

theorem cmdKeys_armAll (s : State) (k : CmdKey) (tl : Mer) (qs : List Word) (n : Nat) (acc : List (CmdKey × Nat)) :
    cmdKeys (armAll s k tl qs n acc).1 = cmdKeys s := by
  induction qs generalizing s n acc with
  | nil => rfl
  | cons q qs ih => exact (ih _ _ _).trans (cmdKeys_armCovered s k tl q (32 * n))

theorem doTimedLaunch_waits (hrun : runnable s k 0x30 = some c) :
    doTimedLaunch s k = putCmd s { c with phase := .waiting, deadline := some (launchTime s c.desc) } := by
  simp only [doTimedLaunch, hrun]

section
variable {tl : Mer} (hw : waitingCmd s k 0x30 = some c) (hd : c.deadline = some tl) (hstop : s.fleet.stopped = false)
include hw hd hstop

/-- In time, the covered commands are armed, and the launch joins the armed ones. -/
theorem doTimedLaunchArm_arms (hnear : tl ≤ s.clk.mer + 10 * usU) (hin : s.clk.mer + 160 * nsU ≤ tl) : ∃ v covered n at0, cmdKeys v = cmdKeys s ∧
    doTimedLaunchArm s k =
      putCmd (v.setHelm { v.helm with armed := v.helm.armed ++ [⟨k, tl, covered, n, none, at0⟩] }) { c with phase := .armed } := by
  have hgo : ¬ (s.clk.mer + 10 * usU < tl ∨ s.fleet.stopped) := by simp [hnear, hstop]
  simp only [doTimedLaunchArm, hw, hd, hgo, Nat.not_lt.mpr hin, if_false]
  refine ⟨markLate (armAll s k tl (coveredSeqs k c.desc) 0 []).1 k (coveredSeqs k c.desc), _, _, _, ?_, rfl⟩
  exact (cmdKeys_only (setHelm_only _ _)).trans (cmdKeys_armAll _ _ _ _ _ _)

/-- With less than 160 ns left, the covered commands are LATE, and the launch with them (11 R291). -/
theorem doTimedLaunchArm_late (hlate : tl < s.clk.mer + 160 * nsU) : ∃ v q, cmdKeys v = cmdKeys s ∧ q.status = 0x40 ∧
    doTimedLaunchArm s k = fileReq v c q := by
  have hgo : ¬ (s.clk.mer + 10 * usU < tl ∨ s.fleet.stopped) := by
    have hus : 160 * nsU ≤ 10 * usU := by decide
    simpa [hstop] using hlate.le.trans (Nat.add_le_add_left hus _)
  simp only [doTimedLaunchArm, hw, hd, hgo, hlate, if_false, if_true]
  refine ⟨_, _, ?_, rfl, rfl⟩
  refine (cmdKeys_only (setHelm_only _ _)).trans (cmdKeys_foldl (fun t q => ?_) _ _)
  split
  · refine (apply_ite cmdKeys _ _ _).trans ?_
    simp only [cmdKeys_fileStatus, ite_self]
  · rfl

end

/-! ## LAUNCH_TRIGGER (11 R292) -/

/-- Changing the elements of one key leaves the first of them changed. -/
theorem find?_update {α κ : Type} [BEq κ] (key : α → κ) (l : List α) (k : κ) (f : α → α) {y : α} (hf : ∀ d, key (f d) = key d)
    (h : l.find? (fun d => key d == k) = some y) :
    (l.map (fun d => if key d == k then f d else d)).find? (fun d => key d == k) = some (f y) := by
  have hkey : ∀ d, key (if key d == k then f d else d) = key d := fun d => by split <;> simp only [hf]
  have hy : (key y == k) = true := List.find?_some (p := fun d => key d == k) h
  simp only [List.find?_map, Function.comp_def, hkey, h, Option.map_some, hy, if_true]

theorem reserve_armed (s : State) (n : Nat) (pat : List Nat) : (reserve s n pat).helm.armed = s.helm.armed := by
  induction pat generalizing s n with
  | nil => rfl
  | cons p ps ih => exact ih _ _

/-- A launch cycle that is fixed reserves its starts; a batch problem's input is read. The armed launches stand. -/
theorem fixCovered_spec (s : State) (start : Nat) (x : CmdKey × Nat) :
    (fixCovered s start x).helm.armed = s.helm.armed ∧ onlyChanged [.helm, .runs, .cmds, .pel, .out] s (fixCovered s start x) := by
  unfold fixCovered
  split
  · next r _ =>
    split
    · exact ⟨reserve_armed _ _ _, only_then (only_mono (reserve_only _ _ _) (by decide)) (putRun_only _ _)⟩
    · exact ⟨rfl, only_refl _ _⟩
  · split
    · have ho := fun (y : Cmd) (o : Output) => only_then (gs := [.cmds, .pel, .out]) (only_mono (putCmd_only s y) (by decide)) (emit_only _ o)
      split
      · exact ⟨congrArg Helm.armed (only_helm (ho _ _) (by decide)), only_mono (ho _ _) (by decide)⟩
      · exact ⟨rfl, only_refl _ _⟩
    · exact ⟨rfl, only_refl _ _⟩

theorem fixCovereds_spec (s : State) (start : Nat) (l : List (CmdKey × Nat)) :
    let t := l.foldl (fun s x => fixCovered s start x) s
    t.helm.armed = s.helm.armed ∧ onlyChanged [.helm, .runs, .cmds, .pel, .out] s t := by
  induction l generalizing s with
  | nil => exact ⟨rfl, only_refl _ _⟩
  | cons x xs ih =>
    obtain ⟨harmed, ho⟩ := fixCovered_spec s start x
    obtain ⟨harmed', ho'⟩ := ih (fixCovered s start x)
    exact ⟨harmed'.trans harmed, only_trans ho ho'⟩

/-- The armed launches with the start step of one of them fixed. -/
def startFixed (s : State) (k : CmdKey) (start : Nat) : State :=
  s.setHelm { s.helm with armed := s.helm.armed.map (fun x => if x.key == k then { x with startAk := some start } else x) }

/-- The trigger of a launch whose MK edge has passed fixes the ladder step of its start, and every covered launch cycle by it. -/
theorem doLaunchTrigger_fixes {a : Armed} (ha : s.helm.armed.find? (fun x => x.key == k) = some a) (hs : a.startAk = none)
    (hedge : edgePassed s a.tl 2 = true) (hf : s.bin.frozen = false) :
    let start := ceilDiv s.clk.chipAk 32 * 32
    doLaunchTrigger s k = a.covered.foldl (fun s x => fixCovered s start x) (startFixed s k start) := by
  simp only [doLaunchTrigger, ha, hs, hedge, hf, Option.isSome_none, Bool.not_true, Bool.false_eq_true, or_self, if_false]
  rfl

theorem doLaunchTrigger_leaves {a : Armed} (ha : s.helm.armed.find? (fun x => x.key == k) = some a) (hs : a.startAk = none)
    (hedge : edgePassed s a.tl 2 = true) (hf : s.bin.frozen = false) :
    let t := doLaunchTrigger s k
    t.helm.armed.find? (fun x => x.key == k) = some { a with startAk := some (ceilDiv s.clk.chipAk 32 * 32) } ∧
      onlyChanged [.helm, .runs, .cmds, .pel, .out] s t := by
  intro t
  obtain ⟨harmed, ho⟩ := fixCovereds_spec (startFixed s k (ceilDiv s.clk.chipAk 32 * 32)) (ceilDiv s.clk.chipAk 32 * 32) a.covered
  rw [show t = _ from doLaunchTrigger_fixes ha hs hedge hf]
  refine ⟨?_, only_trans (only_mono (setHelm_only _ _) (by decide)) ho⟩
  rw [harmed]
  exact find?_update Armed.key s.helm.armed k (fun x => { x with startAk := some (ceilDiv s.clk.chipAk 32 * 32) }) (fun _ => rfl) ha

/-- The edge of a launch time that has come has passed once 2 AK cycles have (11 R291). -/
theorem edgePassed_now {x : Mer} {n : Nat} (hx : x ≤ s.clk.mer) (hn : s.clk.mkAk + n ≤ s.clk.chipAk) : edgePassed s x n = true := by
  simp [edgePassed, hx, hn]

/-- Settles O24: the launch waits, arms or is LATE with the commands keeping their keys, and its trigger fixes the start of the armed launch. -/
theorem timedLaunches : Obligations.TimedLaunches := by
  intro s k
  refine ⟨fun c hrun => ?_, fun c tl hw hd hnear hstop hin => ?_, fun c tl hw hd hlate hstop => ?_, fun a ha hs hx hn hf => ?_⟩
  · exact gives_of_eq rfl (doTimedLaunch_waits hrun) (runnable_put hrun _)
  · obtain ⟨hc, -⟩ := waitingCmd_spec hw
    obtain ⟨v, covered, n, at0, hkeys, hgo⟩ := doTimedLaunchArm_arms hw hd hstop hnear hin
    obtain ⟨c', hc'⟩ := findCmd_of_cmdKeys hkeys hc
    obtain rfl := findCmd_key hc
    refine gives_of_eq rfl hgo ⟨?_, ⟨_, List.mem_append_right _ (List.mem_singleton_self _), rfl, rfl, rfl⟩⟩
    exact findCmd_putCmd_after (c := { c with phase := .armed }) (setHelm_only v _) hc'
  · obtain ⟨hc, -⟩ := waitingCmd_spec hw
    obtain ⟨v, q, hkeys, hst, hgo⟩ := doTimedLaunchArm_late hw hd hstop hlate
    obtain ⟨c', hc'⟩ := findCmd_of_cmdKeys hkeys hc
    obtain rfl := findCmd_key hc
    obtain ⟨x, y, hfound, hphase, hreq, hy, -⟩ := fileReq_filedAs (p := fun q => q.status = 0x40) (only_refl [] v) hc' hst
    exact gives_of_eq rfl hgo ⟨x, y, hfound, hphase, hreq, hy⟩
  · exact gives_of_eq rfl rfl (doLaunchTrigger_leaves ha hs (edgePassed_now hx hn) hf)

/-! ## What a route and a signal send (14 R344, R346, R348) -/

/-! ### Frames for a member that is UP -/

theorem isMember_congr (h : t.regs = s.regs) (p : Nat) : isMember t p = isMember s p := by
  have hchip : chipId t = chipId s := by simp only [chipId, rget_congr h]
  rw [isMember, isMember, hchip, peerCfg, peerCfg, rget_congr h]

theorem newFrame_congr (h : t.regs = s.regs) (kind : RType) (p : Nat) : newFrame t kind p = newFrame s kind p := by
  simp only [newFrame, fleetId, chipId, rget_congr h]

theorem peerOf_congr (h : t.fleet = s.fleet) (p : Nat) : peerOf t p = peerOf s p := by simp only [peerOf, h]

@[simp] theorem peerOf_setPeer (s : State) (p : Nat) (x : Peer) : peerOf (setPeer s p x) p = x := by simp [peerOf, setPeer]

theorem setPeer_only (s : State) (p : Nat) (x : Peer) : onlyChanged [.fleet] s (setPeer s p x) := by simp [onlyChanged, setPeer]

/-- A frame as it waits for its start on the wire. -/
def waitingFrame (key : Option CmdKey) (f : RFrame) : SentFrame := ⟨f, 0, 0, false, key⟩

section
variable {p : Nat} (hm : isMember s p = true) (hup : (peerOf s p).up = true)
include hm hup

theorem queueFrame_up (f : RFrame) (key : Option CmdKey) :
    queueFrame s p f key = setPeer s p { peerOf s p with sent := (peerOf s p).sent ++ [waitingFrame key f] } := by
  simp only [queueFrame, hm, hup, Bool.not_true, Bool.false_eq_true, if_false, if_true]
  rfl

/-- Frames for a member that is UP join its queue in their order. -/
theorem queueFrames_up (fs : List RFrame) (key : Option CmdKey) :
    let t := fs.foldl (fun s f => queueFrame s p f key) s
    (peerOf t p).sent = (peerOf s p).sent ++ fs.map (waitingFrame key) ∧ onlyChanged [.fleet] s t := by
  induction fs generalizing s with
  | nil => exact ⟨(List.append_nil _).symm, only_refl _ _⟩
  | cons f fs ih =>
    have ho := queueFrame_only s p f key
    have hgo := queueFrame_up hm hup f key
    obtain ⟨hsent, ho'⟩ := ih (s := queueFrame s p f key) ((isMember_congr (only_regs ho (by decide)) p).trans hm) (by simp [hgo, hup])
    refine ⟨hsent.trans ?_, only_trans ho ho'⟩
    simp [hgo]

end

/-! ### RASTAN_SEND -/

theorem readRows_only (s : State) (rows : List Nat) : onlyChanged [.pel] s (readRows s rows).1 :=
  only_foldl (fun _ _ h => only_trans h (only_ite (gcount_only _ _ _) (gcount_only _ _ _))) (only_refl _ _)

theorem readRows_length (s : State) (rows : List Nat) : (readRows s rows).2.length = rows.length := List.length_map _

/-- The frames of a route step: the rows that it reads, then the Beacon that it signals. -/
def routeFrames (s : State) (peer win off : Nat) (rows : List Nat) (b : Option (Nat × Word × Bool)) : List RFrame :=
  writeFrames (rows.length + 1) { newFrame s .write peer with winId := win % 1024 } off (rows.map (fun a => chartGet s a 512)) ++
    (match b with
     | some (n, v, raise) => [{ newFrame s .beacon peer with value := v, aux := n % 32768, raise := raise }]
     | none => [])

/-- Frames of a run are queued, and kept as the last of their window. -/
def framesSent (s : State) (k : CmdKey) (peer win : Nat) (fs : List RFrame) : State :=
  let t := fs.foldl (fun s f => queueFrame s peer f (some k)) s
  if fs.isEmpty then t else setPeer t peer { peerOf t peer with last := mset (peerOf t peer).last (win % 1024) (k, fs) }

theorem framesSent_up {p : Nat} (hm : isMember s p = true) (hup : (peerOf s p).up = true) (win : Nat) (fs : List RFrame) :
    (peerOf (framesSent s k p win fs) p).sent = (peerOf s p).sent ++ fs.map (waitingFrame (some k)) ∧
      onlyChanged [.fleet] s (framesSent s k p win fs) := by
  obtain ⟨hsent, ho⟩ := queueFrames_up hm hup fs (some k)
  unfold framesSent
  dsimp only
  split
  · exact ⟨hsent, ho⟩
  · exact ⟨by rw [peerOf_setPeer]; exact hsent, only_trans ho (setPeer_only _ _ _)⟩

/-- A route step at work sends its frames, and counts its rows. -/
theorem doRastanSend_sends {r : Run} {peer : Nat} (hr : findRun s k = some r) (hw : working r = true) (hl : launched s r = true)
    (hf : frozen s = false) (hstop : s.fleet.stopped = false) (hs : suppressed s r = false) (hm : isMember s peer = true)
    (hen : fltEn s = true) (win off : Nat) (rows : List Nat) (b : Option (Nat × Word × Bool)) : ∃ r',
    doRastanSend s k peer win off rows b [] =
      putRun (framesSent (readRows s rows).1 k peer win (routeFrames s peer win off rows b)) r' := by
  have hregs := only_regs (readRows_only s rows) (by decide)
  have hm' : isMember (readRows s rows).1 peer = true := (isMember_congr hregs peer).trans hm
  have hen' : fltEn (readRows s rows).1 = true := by simpa only [fltEn, rget_congr hregs] using hen
  simp only [doRastanSend, hr, hw, hl, hf, hstop, hs, hm', hen', newFrame_congr hregs, readRows_length, Bool.not_true,
    Bool.false_eq_true, or_self, if_false, Bool.and_self, if_true]
  exact ⟨_, rfl⟩

/-! ### BEACON_SIGNAL -/

/-- The frame of a remote signal (09 R235). -/
def signalFrame (s : State) (d : Line) : RFrame :=
  { newFrame s .beacon (leField d 35 1 % 32) with
    value := BitVec.ofNat 32 (leField d 40 4), aux := leField d 36 2 % 32768, raise := decide (leField d 34 1 = 1) }

section
variable (hrun : runnable s k 0x40 = some c)
include hrun

theorem doBeaconSignal_local (hd : (leField c.desc 35 1).testBit 7 = false) :
    doBeaconSignal s k = fileReq s c { plainReq s 0 0 0 0 0 with charge := c.chargeDue } := by
  simp only [doBeaconSignal, hrun, hd, Bool.not_false, if_true]

section
variable (hd : (leField c.desc 35 1).testBit 7 = true) (hh : ringHead s k = true)
include hd hh

/-- A remote signal is queued for a member that is UP, and waits. -/
theorem doBeaconSignal_queued (hm : isMember s (leField c.desc 35 1 % 32) = true) (hup : (peerOf s (leField c.desc 35 1 % 32)).up = true)
    (hen : fltEn s = true) : doBeaconSignal s k =
      queueFrame (putCmd s (waitingFrom s c)) (leField c.desc 35 1 % 32) (signalFrame s c.desc) (some k) := by
  simp only [doBeaconSignal, hrun, hd, hh, hm, hup, hen, Bool.not_true, Bool.false_eq_true, if_false, Bool.and_self]
  rfl

/-- A remote signal to a chip that cannot receive it is a COMMAND event (14 R346). -/
theorem doBeaconSignal_lost (h : isMember s (leField c.desc 35 1 % 32) = false ∨ (peerOf s (leField c.desc 35 1 % 32)).up = false ∨ fltEn s = false) :
    doBeaconSignal s k =
      commandFault (putCmd s { c with phase := .ready }) k (b1 (leField c.desc 35 1 % 32) ++ b1 0) := by
  have hno : (isMember s (leField c.desc 35 1 % 32) && (peerOf s (leField c.desc 35 1 % 32)).up && fltEn s) = false := by
    simpa only [Bool.and_eq_false_iff, or_assoc] using h
  simp only [doBeaconSignal, hrun, hd, hh, hno, Bool.not_true, Bool.not_false, Bool.false_eq_true, if_false, if_true]

end

end

/-! ### A COMMAND event sets its bit, whatever it ends -/

theorem fileUnit_only (s : State) (n : Nat) (q : CommitReq) : onlyChanged [.streams, .helm, .log] s (fileUnit s n q) := by
  unfold fileUnit
  split
  · exact only_then (only_then (only_mono (setStreams_only _ _) (by decide)) (setHelm_only _ _)) (setLog_only _ _)
  · exact only_refl _ _

theorem countFault_only (s : State) (k : CmdKey) (avoid : List Nat) (idx : Nat) :
    onlyChanged [.cmds, .helm, .log] s (countFault s k avoid idx) := by
  unfold countFault
  split
  · exact only_refl _ _
  · have hput := fun y => only_mono (gs := [.cmds, .helm, .log]) (putCmd_only s y) (by decide)
    exact only_ite (only_refl _ _) (only_ite (only_then (hput _) (fileReq_only _ _ _)) (hput _))

/-- A fault kill writes no register but the count of dropped trace records. -/
theorem faultKill_rget (s : State) (r : Run) (idx : Nat) {off : Nat} (h : off ≠ 0xC0048) : rget (faultKill s r idx) off = rget s off := by
  have hkill := killRun_rget s r causeFault true h
  unfold faultKill
  split
  · rfl
  · dsimp only
    split
    · exact (rget_congr (only_regs (countFault_only _ _ _ _) (by decide)) off).trans hkill
    · split
      · exact hkill
      · have hset := fun m => only_mono (gs := [.streams, .helm, .log]) (setStreams_only (killRun s r causeFault true) m) (by decide)
        exact (rget_congr (only_regs (only_ite (only_then (hset _) (fileUnit_only _ _ _)) (hset _)) (by decide)) off).trans hkill

theorem commandFault_bit (s : State) (k : CmdKey) (detail : List Byte) : (rget (commandFault s k detail) 0x100).testBit 2 = true := by
  have hbit : (rget (raiseEvent s (commandEvent k detail)) 0x100).testBit 2 = true :=
    raiseEvent_bit s (commandEvent k detail) (show 2 < 32 by decide)
  suffices hkept : rget (commandFault s k detail) 0x100 = rget (raiseEvent s (commandEvent k detail)) 0x100 by rw [hkept, hbit]
  unfold commandFault
  dsimp only
  split
  · exact faultKill_rget _ _ _ (by decide)
  · split
    · have hput := fun p [Decidable p] y => only_ite (c := p) (only_refl [.cmds, .helm, .log] (raiseEvent s (commandEvent k detail)))
        (only_mono (putCmd_only _ y) (by decide))
      exact rget_congr (only_regs (only_trans (hput _ _) (countFault_only _ _ _ _)) (by decide)) _
    · rfl

/-- Settles O45: a route step and a remote signal by the frames that they queue for a member that is UP, a local signal by its request, and one
that nobody receives by its event. -/
theorem fleetSends : Obligations.FleetSends := by
  intro s k
  refine ⟨fun r peer win off rows b hr hw hl hf hstop hs hm hen hup => ?_, fun c hrun hd => ?_,
    fun c hrun hd hh => ⟨fun hm hup hen => ?_, fun hlost => ?_⟩⟩
  · obtain ⟨r', hgo⟩ := doRastanSend_sends hr hw hl hf hstop hs hm hen win off rows b
    have hread := readRows_only s rows
    have hpeer := peerOf_congr (only_fleet hread (by decide)) peer
    obtain ⟨hsent, ho⟩ := framesSent_up (k := k) ((isMember_congr (only_regs hread (by decide)) peer).trans hm) (hpeer ▸ hup) win
      (routeFrames s peer win off rows b)
    have hput := putRun_only (framesSent (readRows s rows).1 k peer win (routeFrames s peer win off rows b)) r'
    refine gives_of_eq rfl hgo ⟨?_, only_then (only_then (only_mono hread (by decide)) ho) hput⟩
    rw [peerOf_congr (only_fleet hput (by decide)), hsent, hpeer]
    rfl
  · exact gives_of_eq rfl (doBeaconSignal_local hrun hd) (fileReq_leaves (only_refl [] s) (runnable_spec hrun).1 rfl)
  · obtain ⟨hfound, hput⟩ := runnable_put hrun (waitingFrom s c)
    have hq := queueFrame_only (putCmd s (waitingFrom s c)) (leField c.desc 35 1 % 32) (signalFrame s c.desc) (some k)
    refine gives_of_eq rfl (doBeaconSignal_queued hrun hd hh hm hup hen)
      ⟨(findCmd_congr (only_cmds hq (by decide)) k).trans hfound, ?_, only_then (only_mono hput (by decide)) hq⟩
    rw [queueFrame_up (s := putCmd s (waitingFrom s c)) hm hup, peerOf_setPeer]
    rfl
  · exact gives_of_eq rfl (doBeaconSignal_lost hrun hd hh hlost) (commandFault_bit _ _ _)

end Sys2Proof.Proofs

/-! SUPPORT. The proofs of the statements of 10_scheduling_and_preemption.md: the context commands and registers, the scheduling round, job
faults with the units that they name, and the tick boundaries of a batch. -/

namespace Sys2Proof.Proofs
open Sys2Proof Sys2Proof.Machine Sys2Proof.Laws

/- One proof at a time: elaborated beside the pending kernel checks of the text's tests, they need more threads than the memory limit holds. -/
set_option Elab.async false

variable {s t v : State} {gs : List StateGroup} {k : CmdKey} {c : Cmd} {r : Run}

/-! ## CTX_DEFINE, CTX_UPDATE, CTX_UNDEFINE (10 R254) -/

theorem cmdRegWrite_only (s : State) (off : Nat) (w : Word) : onlyChanged [.regs] s (cmdRegWrite s off w) := rput_only _ _ _
theorem cmdRegErr_only (s : State) (off : Nat) : onlyChanged [.regs] s (cmdRegErr s off) := rflag_only _ _ _

/-- ERR of a command register just set reads as set. -/
theorem cmdRegErr_bit (s : State) (off : Nat) : (rget (cmdRegErr s off) off).testBit 29 = true := rflag_same off (by decide)

/-- A command written to HELM_CTX_CMD leaves HELM_RSV_FACETS. -/
theorem rsvFacets_cmdRegWrite (s : State) (w : Word) : rsvFacets (cmdRegWrite s 0x10010 w) = rsvFacets s := by
  unfold rsvFacets cmdRegWrite
  rw [rget_rput_ne _ (show 0x1000C ≠ 0x10010 by decide)]

section
variable {ctx : Nat} {b : Line} {w : Word}

/-- One context set in the table: the others stand, and so does the rest of the Helm group. -/
theorem ctxSet_leaves {x : Ctx} (hh : t.helm = { s.helm with ctxs := mset s.helm.ctxs ctx x }) :
    ctxOf t ctx = some x ∧ (∀ c, c ≠ ctx → ctxOf t c = ctxOf s c) ∧ t.helm = { s.helm with ctxs := t.helm.ctxs } := by
  have hctxs : t.helm.ctxs = mset s.helm.ctxs ctx x := congrArg Helm.ctxs hh
  simp only [ctxOf, hctxs]
  exact ⟨mget_mset_same _ _ _, fun c hc => mget_mset_ne _ _ hc, hh⟩

/-- A context as DEFINE makes it: idle, with balance 0 (10 R254, R261). -/
def definedCtx (s : State) (b : Line) : Ctx := ⟨blkShares b, blkQuota b, none, 0, 0, false, 0, .idle, s.clk.mer, false⟩

/-- DEFINE with nothing against it. -/
theorem ctxDefine_defines (hx : ctxOf s ctx = none) (hb : blkValid b = true) (hsh : blkShares b ≠ 0)
    (hq : quotaSum s ctx + blkQuota b ≤ rsvFacets s) :
    (ctxDefine s ctx b).helm = { s.helm with ctxs := mset s.helm.ctxs ctx (definedCtx s b) } ∧ onlyChanged [.helm, .pel] s (ctxDefine s ctx b) := by
  have hx' : ctxOf (pcieIn s 64) ctx = none := hx
  have hq' : ¬ rsvFacets (pcieIn s 64) < quotaSum (pcieIn s 64) ctx + blkQuota b := Nat.not_lt.mpr hq
  simp only [ctxDefine, hx', hb, hsh, hq', Option.isSome_none, Bool.not_true, Bool.or_self, decide_false, Bool.false_eq_true, if_false]
  exact ⟨rfl, only_then (only_then (only_mono (pcieIn_only s 64) (by decide)) (setPel_only _ _)) (setHelm_only _ _)⟩

/-- DEFINE of a defined context, of a bad block, or of more QUOTA than RSV has left (10 R254). -/
theorem ctxDefine_refused (h : (ctxOf s ctx).isSome = true ∨ blkValid b = false ∨ blkShares b = 0 ∨ rsvFacets s < quotaSum s ctx + blkQuota b) :
    ctxDefine s ctx b = cmdRegErr (pcieIn s 64) 0x10010 := by
  have hno : ((ctxOf (pcieIn s 64) ctx).isSome || !blkValid b || decide (blkShares b = 0) ||
      decide (rsvFacets (pcieIn s 64) < quotaSum (pcieIn s 64) ctx + blkQuota b)) = true := by
    simp only [Bool.or_eq_true, Bool.not_eq_true', decide_eq_true_eq, or_assoc]
    exact h
  simp only [ctxDefine, hno, if_true]

/-- UPDATE of a defined context, its QUOTA within RSV: the block waits for the next round. -/
theorem ctxUpdate_updates {x : Ctx} (hx : ctxOf s ctx = some x) (hsh : blkShares b ≠ 0) (hq : quotaSum s ctx + blkQuota b ≤ rsvFacets s) :
    (ctxUpdate s ctx b).helm = { s.helm with ctxs := mset s.helm.ctxs ctx { x with upd := some (blkShares b, blkQuota b) } } ∧
      onlyChanged [.helm, .pel] s (ctxUpdate s ctx b) := by
  have hq' : ¬ rsvFacets (pcieIn s 64) < quotaSum (pcieIn s 64) ctx + blkQuota b := Nat.not_lt.mpr hq
  simp only [ctxUpdate, hx, hsh, hq', Bool.or_self, decide_false, Bool.false_eq_true, if_false]
  exact ⟨rfl, only_then (only_mono (pcieIn_only s 64) (by decide)) (setHelm_only _ _)⟩

/-- Has a context a ring that is enabled or ACTIVE? -/
theorem liveRings_iff : (List.range 8).any (fun i => (ringOf s ctx i).enable || ringActive s ctx i) = true ↔
    ∃ i, i < 8 ∧ ((ringOf s ctx i).enable = true ∨ ringActive s ctx i = true) := by simp

/-- UNDEFINE of a context whose rings are at rest. -/
theorem ctxUndefine_removes (hx : (ctxOf s ctx).isSome = true)
    (hrest : ∀ i, i < 8 → (ringOf s ctx i).enable = false ∧ ringActive s ctx i = false) :
    ctxUndefine s ctx = s.setHelm { s.helm with ctxs := mdel s.helm.ctxs ctx } := by
  have hlive : (List.range 8).any (fun i => (ringOf s ctx i).enable || ringActive s ctx i) = false := by
    rw [Bool.eq_false_iff, ne_eq, liveRings_iff]
    rintro ⟨i, hi, h⟩
    simp [hrest i hi] at h
  have hdef : (ctxOf s ctx).isNone = false := by rw [← Option.not_isSome, hx, Bool.not_true]
  simp only [ctxUndefine, hdef, hlive, Bool.or_self, Bool.false_eq_true, if_false]

/-- UNDEFINE of an undefined context, or of one with a ring enabled or ACTIVE. -/
theorem ctxUndefine_refused (h : ctxOf s ctx = none ∨ ∃ i, i < 8 ∧ ((ringOf s ctx i).enable = true ∨ ringActive s ctx i = true)) :
    ctxUndefine s ctx = cmdRegErr s 0x10010 := by
  have hno : ((ctxOf s ctx).isNone || (List.range 8).any (fun i => (ringOf s ctx i).enable || ringActive s ctx i)) = true := by
    rw [Bool.or_eq_true, Option.isNone_iff_eq_none, liveRings_iff]
    exact h
  simp only [ctxUndefine, hno, if_true]

/-! ### The writes of HELM_CTX_CMD that carry them -/

section
variable (hp : pfOpen s = true) (hgo : bit w 31 = true)
include hp hgo

theorem doCtxDefine_go (hop : cmdOp w = 1) : doCtxDefine s w b = ctxDefine (cmdRegWrite s 0x10010 w) (cmdCtx w) b := by
  simp only [doCtxDefine, hp, hgo, hop, and_self, if_true]

theorem doCtxUpdate_go (hop : cmdOp w = 2) : doCtxUpdate s w b = ctxUpdate (cmdRegWrite s 0x10010 w) (cmdCtx w) b := by
  simp only [doCtxUpdate, hp, hgo, hop, and_self, if_true]

theorem doCtxUndefine_go (hop : cmdOp w = 3) : doCtxUndefine s w = ctxUndefine (cmdRegWrite s 0x10010 w) (cmdCtx w) := by
  simp only [doCtxUndefine, hp, hgo, hop, and_self, if_true]

end

end

/-- Settles O13: each command by what it does to the table behind its register write, or by the ERR that it sets there. -/
theorem contextCommands : Obligations.ContextCommands := by
  intro s w b hp hgo ctx
  have hw := cmdRegWrite_only s 0x10010 w
  have hrsv := rsvFacets_cmdRegWrite s w
  refine ⟨fun hop hx hb hsh hq => ?_, fun hop hno => ?_, fun x hop hx hsh hq => ?_, fun hop hx hrest => ?_, fun hop hno => ?_⟩
  · obtain ⟨hh, ho⟩ := ctxDefine_defines (s := cmdRegWrite s 0x10010 w) hx hb hsh (hrsv.symm ▸ hq)
    obtain ⟨hset, hothers, hrest⟩ := ctxSet_leaves (s := s) hh
    exact gives_of_eq rfl (doCtxDefine_go hp hgo hop) ⟨hset, hothers, hrest, only_then (only_mono hw (by decide)) ho⟩
  · refine gives_of_eq rfl ((doCtxDefine_go hp hgo hop).trans (ctxDefine_refused (hrsv.symm ▸ hno))) ⟨cmdRegErr_bit _ _, ?_⟩
    exact only_then (only_then (only_mono hw (by decide)) (pcieIn_only _ 64)) (cmdRegErr_only _ _)
  · obtain ⟨hh, ho⟩ := ctxUpdate_updates (s := cmdRegWrite s 0x10010 w) hx hsh (hrsv.symm ▸ hq)
    obtain ⟨hset, hothers, hrest⟩ := ctxSet_leaves (s := s) hh
    exact gives_of_eq rfl (doCtxUpdate_go hp hgo hop) ⟨hset, hothers, hrest, only_then (only_mono hw (by decide)) ho⟩
  · refine gives_of_eq rfl ((doCtxUndefine_go hp hgo hop).trans (ctxUndefine_removes (s := cmdRegWrite s 0x10010 w) hx hrest)) ⟨rfl, ?_⟩
    exact only_then (only_mono hw (by decide)) (setHelm_only _ _)
  · refine gives_of_eq rfl ((doCtxUndefine_go hp hgo hop).trans (ctxUndefine_refused (s := cmdRegWrite s 0x10010 w) hno)) ⟨cmdRegErr_bit _ _, ?_⟩
    exact only_then hw (cmdRegErr_only _ _)

/-! ## HELM_CTX_BASE, HELM_RSV_FACETS and HELM_FN_CTX (10 R253 to R255) -/

section
variable {w : Word}

theorem ctxBaseWrite_taken (h : s.helm.ctxs = []) (hi : Bool) (w : Word) :
    ctxBaseWrite s hi w = if hi then rput s 0x10004 w.toNat else rput s 0x10000 (w.toNat / 2 ^ 21 * 2 ^ 21) := by
  simp only [ctxBaseWrite, h, List.isEmpty_nil, Bool.not_true, Bool.false_eq_true, if_false]

/-- While a context is defined the table does not move (10 R253). -/
theorem ctxBaseWrite_refused (h : s.helm.ctxs ≠ []) (hi : Bool) (w : Word) : ctxBaseWrite s hi w = cmdRegErr s 0x10010 := by
  have hno : (!s.helm.ctxs.isEmpty) = true := by simpa using h
  simp only [ctxBaseWrite, hno, if_true]

/-- A register reads as the word stored in it. -/
theorem rget_rput_of_lt {off n : Nat} (h : n < 2 ^ 32) : rget (rput s off n) off = n := by rw [rget_rput_same, Nat.mod_eq_of_lt h]

/-- RSV of HELM_RSV_FACETS, beside its ERR bit. -/
theorem rsvFacets_rput {n err : Nat} (hn : n < 512) (he : err % 512 = 0) : rsvFacets (rput s 0x1000C (n + err)) = n := by
  simp only [rsvFacets, nbits, rget_rput_same, Nat.shiftRight_zero]
  omega

theorem bitAt_rsvErr (e : Bool) : bitAt e 31 % 512 = 0 := by cases e <;> rfl

/-- A value that covers the sum of QUOTA is taken. -/
theorem rsvWrite_taken (h : quotaSum s 4096 ≤ bits w 8 0) : ∃ err, err % 512 = 0 ∧ rsvWrite s w = rput s 0x1000C (bits w 8 0 + err) := by
  simp only [rsvWrite, Nat.not_lt.mpr h, if_false]
  exact ⟨_, bitAt_rsvErr _, rfl⟩

/-- A value below the sum of QUOTA sets ERR and leaves RSV (10 R254). -/
theorem rsvWrite_refused (h : bits w 8 0 < quotaSum s 4096) : rsvWrite s w = rput s 0x1000C (rsvFacets s + 2 ^ 31) := by
  simp only [rsvWrite, h, if_true]
  rfl

theorem rsvFacets_lt (s : State) : rsvFacets s < 512 := Nat.mod_lt _ (by decide)

/-- ERR of HELM_RSV_FACETS, above a value of RSV. -/
theorem rsvErr_bit {n : Nat} (hn : n < 512) : (rget (rput s 0x1000C (n + 2 ^ 31)) 0x1000C).testBit 31 = true := by
  rw [rget_rput_of_lt (by omega), Nat.add_comm, Nat.testBit_two_pow_add_eq, Nat.testBit_lt_two_pow (by omega), Bool.not_false]

section
variable {f : Nat} (hvf : 0 < f → bits w 28 16 ≤ 256)
  (hmeet : ∀ g, g < 64 → g ≠ f → rangesMeet (bits w 11 0) (bits w 28 16) (fnRange s g).1 (fnRange s g).2 = false)
  (hcover : ∀ c x, (c, x) ∈ s.helm.ctxs → ownsCtx s f c = true → bits w 11 0 ≤ c ∧ c < bits w 11 0 + bits w 28 16)
include hvf hmeet hcover

/-- A range that meets no other function's and leaves no defined context of its own outside is taken (10 R255, 19 R427). -/
theorem fnCtxWrite_taken : fnCtxWrite s f w = rput s (0x10100 + 4 * f) (w.toNat &&& 0x1FFF0FFF) := by
  have hoverlap : (List.range 64).any (fun g => decide (g ≠ f) &&
      rangesMeet (bits w 11 0) (bits w 28 16) (fnRange s g).1 (fnRange s g).2) = false := by
    simp only [List.any_eq_false, List.mem_range, Bool.and_eq_true, decide_eq_true_eq, not_and, Bool.not_eq_true]
    exact hmeet
  have hcuts : s.helm.ctxs.any (fun e => ownsCtx s f e.1 &&
      !(decide (bits w 11 0 ≤ e.1) && decide (e.1 < bits w 11 0 + bits w 28 16))) = false := by
    rw [List.any_eq_false]
    rintro ⟨c, x⟩ hmem
    simpa using fun hown => hcover c x hmem hown
  have hcount : (decide (0 < f) && decide (256 < bits w 28 16)) = false := by simpa using hvf
  refine if_neg (Bool.eq_false_iff.mp (?_ : (_ || _ || _) = false))
  rw [Bool.or_eq_false_iff, Bool.or_eq_false_iff]
  exact ⟨⟨hoverlap, hcuts⟩, hcount⟩

end

/-- A mask that has every bit of a field leaves the field. -/
theorem nbits_and {hi lo m : Nat} (hm : (m >>> lo) % 2 ^ (hi + 1 - lo) = 2 ^ (hi + 1 - lo) - 1) (x : Nat) :
    nbits (x &&& m) hi lo = nbits x hi lo := by
  rw [nbits, Nat.shiftRight_and_distrib, Nat.and_mod_two_pow, hm, Nat.and_two_pow_sub_one_eq_mod, Nat.mod_mod, nbits]

/-- The word kept of a HELM_FN_CTX write reads as the range written. -/
theorem fnRange_rput_same (f : Nat) (w : Word) :
    fnRange (rput s (0x10100 + 4 * f) (w.toNat &&& 0x1FFF0FFF)) f = (bits w 11 0, bits w 28 16) := by
  simp only [fnRange, rget_rput_of_lt (lt_of_le_of_lt Nat.and_le_left w.isLt)]
  rw [nbits_and (by decide), nbits_and (by decide)]
  rfl

theorem fnRange_rput_ne {f g : Nat} (h : g ≠ f) (n : Nat) : fnRange (rput s (0x10100 + 4 * f) n) g = fnRange s g := by
  simp only [fnRange, rget_rput_ne _ (show 0x10100 + 4 * g ≠ 0x10100 + 4 * f by omega)]

end

/-- Settles O14: the value taken reads back from its register; a refused one leaves its field beside the ERR bit set. -/
theorem contextRegisters : Obligations.ContextRegisters := by
  intro s w hp
  refine ⟨fun h => ⟨?_, ?_⟩, fun hi h => ?_, fun h => ?_, fun h => ?_, fun f hf hvf hmeet hcover => ?_⟩
  · refine gives_of_eq rfl ((if_pos hp).trans (ctxBaseWrite_taken h false w)) ⟨rget_rput_of_lt ?_, rput_only _ _ _⟩
    exact lt_of_le_of_lt (Nat.div_mul_le_self _ _) w.isLt
  · exact gives_of_eq rfl ((if_pos hp).trans (ctxBaseWrite_taken h true w)) ⟨rget_rput_of_lt w.isLt, rput_only _ _ _⟩
  · refine gives_of_eq rfl ((if_pos hp).trans (ctxBaseWrite_refused h hi w)) ⟨?_, ?_, cmdRegErr_bit _ _, cmdRegErr_only _ _⟩ <;>
      exact rget_rput_ne _ (by decide)
  · obtain ⟨err, he, hgo⟩ := rsvWrite_taken h
    exact gives_of_eq rfl ((if_pos hp).trans hgo) ⟨rsvFacets_rput (Nat.mod_lt _ (by decide)) he, rput_only _ _ _⟩
  · refine gives_of_eq rfl ((if_pos hp).trans (rsvWrite_refused h)) ?_
    exact ⟨rsvFacets_rput (rsvFacets_lt s) (by decide), rsvErr_bit (rsvFacets_lt s), rput_only _ _ _⟩
  · refine gives_of_eq rfl ((if_pos ⟨hp, hf⟩).trans (fnCtxWrite_taken hvf hmeet hcover)) ⟨fnRange_rput_same f w, fun g hg => ?_, rput_only _ _ _⟩
    exact fnRange_rput_ne hg _

/-! ## SCHEDULING_ROUND (10 R263 to R265) -/

/-- A key that no run has is the new run's. -/
theorem findRun_append (h : findRun s r.key = none) : findRun (s.setRuns (s.runs ++ [r])) r.key = some r := by
  simp only [findRun] at h
  simp [findRun, h]

/-- A command on its berth whose input is being read. -/
def readingOn (c : Cmd) : Cmd := { c with phase := .placed, inputIn := false }

/-- A round that finds the model of every command that waits for a berth refuses none (02 R50). -/
theorem rejectMissing_none (h : ∀ e, e ∈ s.cmds → awaitsBerth s e = true → modelMissing s e = false) : rejectMissing s = s := by
  have hnone : s.cmds.filter (fun e => awaitsBerth s e && modelMissing s e) = [] := by
    simpa [List.filter_eq_nil_iff] using h
  simp only [rejectMissing, hnone, List.foldl_nil]

section
variable {m : Nat} {rt : Route} {p : Placement}

/-- A quota command with an input to read, put on its berth. -/
theorem place_reads (hc : findCmd s c.key = some c) (hr : findRun s c.key = none) (hq : dClass c.desc ≠ 0) (hin : 0 < dInLen c.desc) :
    let t := place s c m rt p none
    findCmd t c.key = some (readingOn c) ∧ findRun t c.key = some (placedRun s c m rt p none) ∧ t.cmds = (putCmd s (readingOn c)).cmds ∧
      t.out = s.out ++ [.hostRead (fnFor s c.key.ctx) (dInAddr c.desc) (dInLen c.desc * 64)] ∧
      onlyChanged [.cmds, .runs, .chart, .pel, .out] s t := by
  let u := putCmd s (readingOn c)
  let v := openWins (u.setRuns (u.runs ++ [placedRun s c m rt p none])) (runWindows s c.key.ctx rt p.berths p.plots)
  have hopen := openWins_only (u.setRuns (u.runs ++ [placedRun s c m rt p none])) (runWindows s c.key.ctx rt p.berths p.plots)
  have hv : onlyChanged [.cmds, .runs, .chart, .pel, .out] s v :=
    only_then (only_then (only_mono (putCmd_only _ _) (by decide)) (setRuns_only _ _)) hopen
  have ho := emit_only v (.hostRead (fnFor s c.key.ctx) (dInAddr c.desc) (dInLen c.desc * 64))
  have ht : place s c m rt p none = emit v (.hostRead (fnFor s c.key.ctx) (dInAddr c.desc) (dInLen c.desc * 64)) := by
    have hsoft : (placedRun s c m rt p none).isSoft = false := decide_eq_false hq
    rw [← fnFor_congr (only_regs hv (by decide))]
    simp only [place, hin, hsoft, Option.isSome_none, decide_true, Bool.true_or, Bool.not_true, Bool.false_eq_true, if_true, if_false]
    rfl
  have hcmds : v.cmds = u.cmds := (only_cmds hopen (by decide)).trans rfl
  rw [ht]
  refine ⟨?_, ?_, (only_cmds ho (by decide)).trans hcmds, ?_, only_then hv ho⟩
  · rw [findCmd_congr (only_cmds ho (by decide)), findCmd_congr hcmds]
    exact findCmd_putCmd (c := readingOn c) hc
  · rw [findRun_congr (only_runs ho (by decide)), findRun_congr (only_runs hopen (by decide))]
    exact findRun_append (s := u) (r := placedRun s c m rt p none) hr
  · rw [emit_out, only_out hopen (by decide)]
    rfl

/-- A quota command that has room in its quota and a free placement takes it (10 R265). -/
theorem tryQuota_places {M : Model} (hc : findCmd s k = some c) (hrt : cmdRoute s c.desc = some (M, rt))
    (hroom : quotaRoom s k.ctx (needFacets c.desc rt) = true) (hp : placementFor s (occupancy s) rt (dDual c.desc) c.avoid = some p) :
    tryQuota s k = place s c (dModel c.desc % 4096) rt p none := by
  simp only [tryQuota, hc, hrt, hroom, quotaPlacement, hp, Bool.not_true, Bool.false_eq_true, if_false]

end

/-! ### The part of a round that serves SOFT commands -/

/-- No accepted command is SOFT. -/
def noSoft (s : State) : Prop := ∀ e, e ∈ s.cmds → dClass e.desc ≠ 0

theorem noSoft_putCmd {x : Cmd} (h : noSoft s) (hx : dClass x.desc ≠ 0) : noSoft (putCmd s x) := by
  intro e he
  obtain ⟨d, hd, rfl⟩ := List.mem_map.mp he
  split
  · exact hx
  · exact h d hd

/-- With no SOFT command a context has none to launch. -/
theorem softQueue_noSoft (h : noSoft s) (ctx : Nat) : softQueue s ctx = [] := by
  have hnone : s.cmds.filter (fun c => decide (c.key.ctx = ctx) && decide (dClass c.desc = 0) && launchable s c) = [] := by
    simp only [List.filter_eq_nil_iff, Bool.and_eq_true, decide_eq_true_eq]
    rintro e he ⟨⟨-, hsoft⟩, -⟩
    exact h e he hsoft
  simp only [softQueue, hnone, sortBy, List.foldr_nil]

theorem softBatchWaits_noSoft (h : noSoft s) (ctx : Nat) : softBatchWaits s ctx = false := by
  simp only [softBatchWaits, List.any_eq_false, Bool.and_eq_true, decide_eq_true_eq]
  rintro e he ⟨⟨⟨-, hsoft⟩, -⟩, -⟩
  exact h e he hsoft

/-- A slot whose context has no SOFT command: its balance does not accumulate (10 R263). -/
theorem serveSlot_noSoft (h : noSoft s) (i : Nat) : onlyChanged [.helm] s (serveSlot s i) := by
  unfold serveSlot
  split
  · exact only_refl _ _
  · simp only [softQueue_noSoft h, softBatchWaits_noSoft h, List.isEmpty_nil, Bool.not_false, Bool.and_self, if_true]
    exact setHelm_only _ _

theorem serveSlots_noSoft (h : noSoft s) (l : List Nat) (f : Nat → Nat) : onlyChanged [.helm] s (l.foldl (fun s i => serveSlot s (f i)) s) := by
  induction l generalizing s with
  | nil => exact only_refl _ _
  | cons i is ih =>
    have hi := serveSlot_noSoft h (f i)
    have hnext : noSoft (serveSlot s (f i)) := by rwa [noSoft, only_cmds hi (by decide)]
    exact only_trans hi (ih hnext)

/-- A round with one launchable quota command and nothing to refuse: that command is tried, then the slots are served. -/
theorem doSchedulingRound_one (hready : ready s = true) (hstop : s.fleet.stopped = false)
    (hone : s.cmds.filter (fun e => decide (dClass e.desc ≠ 0) && launchable (snapshotStates s) e) = [c])
    (hfound : ∀ e, e ∈ s.cmds → awaitsBerth (snapshotStates s) e = true → modelMissing (snapshotStates s) e = false) :
    let t := tryQuota (snapshotStates s) c.key
    doSchedulingRound s = (List.range 64).foldl (fun s i => serveSlot s ((t.helm.lastSlot + 1 + i) % 64)) t := by
  have hcmds : (snapshotStates s).cmds = s.cmds := rfl
  simp only [doSchedulingRound, hready, hstop, rejectMissing_none (s := snapshotStates s) hfound, hcmds, hone, sortBy, List.foldr_cons,
    List.foldr_nil, insBy, List.foldl_cons, List.foldl_nil, Bool.not_true, Bool.or_self, Bool.false_eq_true, if_false]

/-- Settles O22: the round tries the one command, which finds its placement free, and serves slots that have no SOFT command. -/
theorem roundPlaces : Obligations.RoundPlaces := by
  intro s c m r p hready hstop hclass s1 hone hc hfound hrt hroom hp hr hin
  have hs1 : onlyChanged [.helm] s s1 := setHelm_only _ _
  have hq : dClass c.desc ≠ 0 := hclass c (List.mem_of_find?_eq_some hc)
  have htry := tryQuota_places (s := s1) hc hrt hroom hp
  obtain ⟨hcmd, hrun, hcmds, hout, ho⟩ := place_reads (s := s1) (m := dModel c.desc % 4096) (rt := r) (p := p) hc hr hq hin
  have hsoft : noSoft (place s1 c (dModel c.desc % 4096) r p none) := by
    rw [noSoft, hcmds]
    exact noSoft_putCmd (s := s1) hclass hq
  have hserve := serveSlots_noSoft hsoft (List.range 64) (fun i => ((place s1 c (dModel c.desc % 4096) r p none).helm.lastSlot + 1 + i) % 64)
  refine gives_of_eq rfl (doSchedulingRound_one hready hstop hone hfound) ?_
  rw [htry]
  have hall := only_then (gs := [.helm, .cmds, .runs, .chart, .pel, .out]) (only_then (only_mono hs1 (by decide)) ho) hserve
  refine ⟨⟨_, (findCmd_congr (only_cmds hserve (by decide)) _).trans hcmd, rfl⟩,
    ⟨_, (findRun_congr (only_runs hserve (by decide)) _).trans hrun, rfl, rfl, rfl, rfl, rfl⟩, ?_,
    only_clk hall (by decide), only_bin hall (by decide), only_boot hall (by decide), only_flash hall (by decide)⟩
  rw [only_out hserve (by decide), hout, only_out hs1 (by decide), fnFor_congr (only_regs hs1 (by decide))]

/-! ## A job fault of a run (10 R273, R274; 15 R363) -/

theorem setRose_only (s : State) (x : Rose) : onlyChanged [.rose] s (s.setRose x) := by simp [onlyChanged]

/-- A request filed is one from any state with the same journal queue. -/
theorem filed_of_queue {st : Nat} (h : filed t v k st) (hq : t.log.queue = s.log.queue) : filed s v k st := by
  obtain ⟨c, q, hc, hphase, hreq, hst, hlog⟩ := h
  exact ⟨c, q, hc, hphase, hreq, hst, hq ▸ hlog⟩

/-- A request stays filed through changes outside the commands and the Logbook. -/
theorem filed_congr {st : Nat} (h : filed s t k st) (ho : onlyChanged gs t v) (hc : StateGroup.cmds ∉ gs := by decide)
    (hl : StateGroup.log ∉ gs := by decide) : filed s v k st := by
  obtain ⟨c, q, hfound, hphase, hreq, hst, hlog⟩ := h
  exact ⟨c, q, (findCmd_congr (only_cmds ho hc) k).trans hfound, hphase, hreq, hst, (congrArg LogSt.queue (only_log ho hl)).trans hlog⟩

theorem alerted_only (s : State) (cls : Nat) : onlyChanged [.bin, .msix, .i3c, .pel, .out] s (alerted s cls) :=
  only_ite (only_then (only_then (only_mono (setBin_only s _) (by decide)) (raiseMsix_only _ _ _)) (raiseIbi_only _ _ _)) (only_refl _ _)

/-- An event joins the Logbook's records, and leaves the requests in its queue. -/
theorem raiseEvent_queue (s : State) (a : EvArg) : (raiseEvent s a).log.queue = s.log.queue := by
  rw [raiseEvent, reportClass_some, only_log (alerted_only _ _) (by decide)]
  rfl

/-- The second fault kill of a command that is not waiting for its commit ends it FAILED_FAULT (15 R363). -/
theorem countFault_second (hc : findCmd s k = some c) (hp : c.phase ≠ .requested) (h1 : c.faultKills = 1) (avoid : List Nat) (idx : Nat) :
    filed s (countFault s k avoid idx) k 0x50 := by
  obtain rfl := findCmd_key hc
  let x := { c with faultKills := 2, faultIdx := idx, avoid := avoid, rerun := true }
  have hgo : countFault s c.key avoid idx = fileFault (putCmd s x) x idx := by
    simp only [countFault, hc, hp, h1, if_false]
    rfl
  rw [hgo]
  exact filed_of_queue (t := putCmd s x) (fileReq_filedAs (c := x) (only_refl [] (putCmd s x)) (findCmd_putCmd (c := x) hc) rfl) rfl

/-! ### What a kill gives back leaves the parity registers -/

theorem emptyRun_parity (s : State) (r : Run) : (emptyRun s r).rose.parity = s.rose.parity := by
  unfold emptyRun
  split <;> rfl

theorem releaseRun_parity (s : State) (r : Run) : (releaseRun s r).rose.parity = s.rose.parity := by
  have hfreed : onlyChanged [.chart, .batches] s (if r.slot.isSome then freeSlot (closeWins s r.wins) r.key else closeWins s r.wins) :=
    have hw := only_mono (gs := [.chart, .batches]) (closeWins_only s r.wins) (by decide)
    only_ite (only_then hw (setBatches_only _ _)) hw
  generalize he : emptyRun (if r.slot.isSome then freeSlot (closeWins s r.wins) r.key else closeWins s r.wins) r = e
  have hrest : onlyChanged [.helm, .pel, .runs, .fleet] e (releaseRun s r) := by
    simp only [releaseRun, he]
    refine only_then (only_then (only_foldl (fun _ _ h => only_then h (dropLive_only _ _ _)) ?_) (dropRun_only _ _)) (dropFrames_only _ _)
    exact only_ite (only_mono (unreserve_only _ _ _) (by decide)) (only_refl _ _)
  rw [only_rose hrest (by decide), ← he, emptyRun_parity, only_rose hfreed (by decide)]

/-- The groups that a job fault of a run can touch. -/
def jobGroups : List StateGroup := .cmds :: reportGroups ++ heldGroups

/-- A run that may be killed: of a command, not at its commit point, not past it (01 R26). -/
structure Killable (s : State) (r : Run) (c : Cmd) : Prop where
  ofCommand : r.stream = none
  beforeCommit : r.commitAt ≠ some s.clk.chipAk
  notDone : r.phase ≠ .done
  command : findCmd s r.key = some c

theorem Killable.congr (h : Killable s r c) (ho : onlyChanged gs s t) (hc : StateGroup.cmds ∉ gs := by decide)
    (hk : StateGroup.clk ∉ gs := by decide) : Killable t r c :=
  ⟨h.ofCommand, by rw [only_clk ho hk]; exact h.beforeCommit, h.notDone, (findCmd_congr (only_cmds ho hc) _).trans h.command⟩

/-- A fault kill gives the command back to its ring's launch order, and leaves the parity registers. -/
theorem killRun_returns (h : Killable s r c) :
    let t := killRun s r causeFault true
    (∃ n ran, findCmd t r.key = some (returned c n ran)) ∧ t.rose.parity = s.rose.parity ∧ onlyChanged jobGroups s t := by
  obtain ⟨x, n, bal, ran, hkill⟩ := killRun_command h.ofCommand h.beforeCommit h.notDone
  have hw : onlyChanged [.regs, .pel, .out] s (killWatches (trace s x) r.key) :=
    only_then (only_mono (trace_only s x) (by decide)) (killWatches_only _ _)
  obtain ⟨-, -, hrel⟩ := releaseRun_spec (killWatches (trace s x) r.key) r
  have hpar := releaseRun_parity (killWatches (trace s x) r.key) r
  generalize releaseRun (killWatches (trace s x) r.key) r = u at hkill hrel hpar
  have hbal : onlyChanged [.helm] u (if r.isSoft then addBalance u r.key.ctx bal else u) := only_ite (addBalance_only _ _ _) (only_refl _ _)
  generalize (if r.isSoft then addBalance u r.key.ctx bal else u) = v at hkill hbal
  have hret := returnCmd_only v r.key n ran
  have hheld : onlyChanged (.regs :: .out :: heldGroups) s v := only_then (only_then (only_mono hw (by decide)) hrel) hbal
  intro t
  rw [show t = returnCmd v r.key n ran from hkill]
  refine ⟨⟨n, ran, returnCmd_found ((findCmd_congr (only_cmds hheld (by decide)) _).trans h.command) n ran⟩, ?_,
    only_then (only_mono hheld (by decide)) hret⟩
  rw [only_rose hret (by decide), only_rose hbal (by decide), hpar, only_rose hw (by decide)]

/-- The event of a job fault, and the kill of its run. -/
def faultKilled (s : State) (r : Run) (kind no : Nat) (detail : List Byte) : State :=
  killRun (jobFaultEvent s r kind no detail) r causeFault true

/-- What stands after the event of a job fault and the kill of its run: the command waits to run again, the PARTITION bit is set, the run is
gone, the journal queue and the parity registers are as before. -/
theorem faultKilled_leaves (h : Killable s r c) (kind no : Nat) (detail : List Byte) :
    let t := faultKilled s r kind no detail
    (∃ n ran, findCmd t r.key = some (returned c n ran)) ∧ findRun t r.key = none ∧ (rget t 0x100).testBit 3 = true ∧
      t.log.queue = s.log.queue ∧ t.rose.parity = s.rose.parity ∧ onlyChanged jobGroups s t := by
  have he : onlyChanged reportGroups s (jobFaultEvent s r kind no detail) := raiseEvent_only _ _
  have hk : Killable (jobFaultEvent s r kind no detail) r c := h.congr he
  obtain ⟨hcmd, hpar, ho⟩ := killRun_returns hk
  obtain ⟨hgone, -, hlog, -, hregs⟩ := killRun_leaves hk.ofCommand hk.beforeCommit hk.notDone hk.command
  refine ⟨hcmd, hgone, ?_, (congrArg LogSt.queue hlog).trans (raiseEvent_queue _ _), hpar.trans ?_, only_trans (only_mono he (by decide)) ho⟩
  · rw [faultKilled, hregs _ (by decide)]
    exact raiseEvent_bit s _ (show 3 < 32 by decide)
  · rw [only_rose he (by decide)]

/-- A job fault that kills and reruns counts the kill. -/
theorem jobFault_eq (h : Killable s r c) (kind no : Nat) (detail : List Byte) :
    jobFault s r kind no detail = countFault (faultKilled s r kind no detail) r.key (runFacets r) s.log.next := by
  have hk : Killable (jobFaultEvent s r kind no detail) r c := h.congr (raiseEvent_only _ _) (gs := reportGroups)
  have hno : ¬ (r.commitAt = some (jobFaultEvent s r kind no detail).clk.chipAk ∨ r.phase = .done) := by
    simp [hk.beforeCommit, hk.notDone]
  simp only [jobFault, faultKill, hno, if_false, h.ofCommand]
  rfl

/-- What a job fault leaves, be it the first of its command or the second. -/
theorem jobFault_leaves (h : Killable s r c) (kind no : Nat) (detail : List Byte) :
    let t := jobFault s r kind no detail
    findRun t r.key = none ∧ (rget t 0x100).testBit 3 = true ∧ t.rose.parity = s.rose.parity ∧ onlyChanged jobGroups s t := by
  obtain ⟨-, hgone, hbit, -, hpar, ho⟩ := faultKilled_leaves h kind no detail
  have hcount := countFault_only (faultKilled s r kind no detail) r.key (runFacets r) s.log.next
  intro t
  rw [show t = _ from jobFault_eq h kind no detail, findRun_congr (only_runs hcount (by decide)), rget_congr (only_regs hcount (by decide)),
    only_rose hcount (by decide)]
  exact ⟨hgone, hbit, hpar, only_then ho hcount⟩

/-- The first job fault of a command: it runs again (15 R363). -/
theorem jobFault_first (h : Killable s r c) (h0 : c.faultKills = 0) (kind no : Nat) (detail : List Byte) :
    ∃ x, findCmd (jobFault s r kind no detail) r.key = some x ∧ x.phase = .ready ∧ x.rerun = true ∧ x.faultKills = 1 := by
  obtain ⟨⟨n, ran, hc⟩, -⟩ := faultKilled_leaves h kind no detail
  have hkey := findCmd_key hc
  rw [jobFault_eq h, countFault_first hc (by simp [returned]) h0]
  rw [← hkey] at hc ⊢
  exact ⟨_, findCmd_putCmd (c := { returned c n ran with faultKills := 1, faultIdx := s.log.next, avoid := runFacets r, rerun := true }) hc,
    rfl, rfl, rfl⟩

/-- The second: it ends FAILED_FAULT. -/
theorem jobFault_second (h : Killable s r c) (h1 : c.faultKills = 1) (kind no : Nat) (detail : List Byte) :
    filed s (jobFault s r kind no detail) r.key 0x50 := by
  obtain ⟨⟨n, ran, hc⟩, -, -, hqueue, -⟩ := faultKilled_leaves h kind no detail
  rw [jobFault_eq h]
  exact filed_of_queue (countFault_second hc (by simp [returned]) h1 _ _) hqueue

/-- A refused write of a route ends its command WINDOW_FAULT (10 R274). -/
theorem windowFault_leaves (h : Killable s r c) (row writer : Nat) :
    let t := windowFault s r row writer
    findRun t r.key = none ∧ filed s t r.key 0x51 ∧ (rget t 0x100).testBit 3 = true := by
  have hno : ¬ (r.commitAt = some s.clk.chipAk ∨ r.phase = .done) := by simp [h.beforeCommit, h.notDone]
  obtain ⟨⟨n, ran, hc⟩, hgone, hbit, hqueue, -⟩ := faultKilled_leaves h 1 (runOrigin r) (leBytes 4 row)
  have hkey := findCmd_key hc
  obtain ⟨q, hst, hgo⟩ : ∃ q : CommitReq, q.status = 0x51 ∧
      windowFault s r row writer = fileReq (faultKilled s r 1 (runOrigin r) (leBytes 4 row)) (returned c n ran) q := by
    refine ⟨{ plainReq (faultKilled s r 1 (runOrigin r) (leBytes 4 row)) 0x51 row writer 0 0 with charge := (returned c n ran).chargeDue }, rfl, ?_⟩
    unfold faultKilled at hc ⊢
    simp only [windowFault, hno, if_false, h.ofCommand, hc]
  have hfile := fileReq_only (faultKilled s r 1 (runOrigin r) (leBytes 4 row)) (returned c n ran) q
  intro t
  rw [show t = _ from hgo, findRun_congr (only_runs hfile (by decide)), rget_congr (only_regs hfile (by decide))]
  refine ⟨hgone, filed_of_queue ?_ hqueue, hbit⟩
  rw [← hkey] at hc ⊢
  exact fileReq_filedAs (only_refl [] _) hc hst

/-! ### PARTITION_RESET of one strip -/

/-- A bit set in a number that may have it already. -/
theorem testBit_set (n j : Nat) : (if n.testBit j then n else n + 2 ^ j).testBit j = true := by
  split
  · assumption
  · next h => simp [Nat.add_comm n, Nat.testBit_two_pow_add_eq, h]

/-- A parity error marks its strip in its facet's register (01 R24). -/
theorem markParity_strip (s : State) (g j : Nat) :
    (mgetD (markParity s [.parity (.strip g j)]).rose.parity g 0).testBit j = true ∧ onlyChanged [.rose] s (markParity s [.parity (.strip g j)]) := by
  refine ⟨?_, setRose_only _ _⟩
  simp only [markParity, State.setRose_rose, mgetD_mset_same]
  exact testBit_set _ _

section
variable {u : FaultUnit} (hr : findRun s k = some r) (hl : launched s r = true) (hf : frozen s = false) (hst : r.stream = none)
include hr hl hf hst

/-- A parity error alone: its strip is marked, its run killed, its unit named. -/
theorem doPartitionReset_parity (hu : causeOf r (.parity u) = true) : doPartitionReset s k [.parity u] =
    (nameUnit (jobFault (markParity s [.parity u]) r (unitName u).1 (unitName u).2.1 (b1 (unitName u).2.2)) u).1 := by
  simp only [doPartitionReset, hr, List.filter_cons, hu, List.filter_nil, if_true, hl, hf, hst, Bool.not_true, Bool.false_eq_true, or_self,
    if_false, firstCause, causeName, causeDetail, repairAll]

/-- An access outside the Plot alone. -/
theorem doPartitionReset_outsidePlot {a : Nat} (hu : causeOf r (.outsidePlot u a) = true) : ∃ writer,
    doPartitionReset s k [.outsidePlot u a] = windowFault s r (a / 512 * 512) writer := by
  simp only [doPartitionReset, hr, List.filter_cons, hu, List.filter_nil, if_true, hl, hf, hst, Bool.not_true, Bool.false_eq_true, or_self,
    if_false, firstCause, repairAll, markParity]
  exact ⟨_, rfl⟩

end

/-- Naming a facet touches the history of its faults and its LBIST alone (15 R365). -/
theorem nameFacet_leaves (s : State) (g : Nat) :
    (nameFacet s g).1.rose.parity = s.rose.parity ∧ onlyChanged [.rose] s (nameFacet s g).1 := ⟨rfl, setRose_only _ _⟩

/-- A parity error in a strip of the run's berths: the run is gone, the PARTITION bit and the strip's error bit are set, and the command runs
again or ends, by its count of fault kills. -/
theorem doPartitionReset_strip {g j : Nat} (h : Killable s r c) (hr : findRun s r.key = some r) (hl : launched s r = true)
    (hf : frozen s = false) (hg : (runFacets r).contains g = true) (hj : j < 32) :
    let t := doPartitionReset s r.key [.parity (.strip g j)]
    findRun t r.key = none ∧ (rget t 0x100).testBit 3 = true ∧ (mgetD t.rose.parity g 0).testBit j = true ∧ onlyChanged jobGroups s t ∧
      (c.faultKills = 0 → ∃ x, findCmd t r.key = some x ∧ x.phase = .ready ∧ x.rerun = true ∧ x.faultKills = 1) ∧
      (c.faultKills = 1 → filed s t r.key 0x50) := by
  have hu : causeOf r (.parity (.strip g j)) = true := by simp only [causeOf, hg, hj, decide_true, Bool.and_self]
  obtain ⟨hmark, hm⟩ := markParity_strip s g j
  generalize hw : markParity s [.parity (.strip g j)] = w at hmark hm
  have hk := h.congr hm
  obtain ⟨hgone, hbit, hpar, ho⟩ := jobFault_leaves hk 1 g (b1 j)
  obtain ⟨hnamed, hn⟩ := nameFacet_leaves (jobFault w r 1 g (b1 j)) g
  intro t
  rw [show t = (nameFacet (jobFault w r 1 g (b1 j)) g).1 from hw ▸ doPartitionReset_parity hr hl hf h.ofCommand hu,
    findRun_congr (only_runs hn (by decide)), rget_congr (only_regs hn (by decide)), hnamed, hpar, findCmd_congr (only_cmds hn (by decide))]
  refine ⟨hgone, hbit, hmark, only_then (only_then (only_mono hm (by decide)) ho) hn, fun h0 => jobFault_first hk h0 1 g (b1 j), fun h1 => ?_⟩
  exact filed_of_queue (filed_congr (jobFault_second hk h1 1 g (b1 j)) hn) (congrArg LogSt.queue (only_log hm (by decide)))

/-! ## FACET_LBIST_END and SPARE_SUBSTITUTION (15 R365, 11 R289) -/

theorem lset_eq_set {α : Type} (l : List α) (i : Nat) (x : α) : lset l i x = l.set i x := by
  induction l generalizing i with
  | nil => rfl
  | cons y ys ih => cases i with
    | zero => rfl
    | succ i => exact congrArg (y :: ·) (ih i)

/-- An element that is there, replaced. -/
theorem lset_same {α : Type} {l : List α} {i : Nat} {y : α} (h : l[i]? = some y) (x : α) : (lset l i x)[i]? = some x := by
  obtain ⟨hi, -⟩ := List.getElem?_eq_some_iff.mp h
  rw [lset_eq_set, List.getElem?_set_self hi]

/-- One sector's status replaced, then reports. -/
theorem sector_reported {n : Nat} {y : Sector} (h : s.rose.sectors[n]? = some y) (x : Sector)
    (ho : onlyChanged reportGroups (s.setRose { s.rose with sectors := lset s.rose.sectors n x }) t) :
    t.rose.sectors[n]? = some x ∧ onlyChanged (.rose :: reportGroups) s t := by
  refine ⟨?_, only_then (only_mono (setRose_only _ _) (by decide)) ho⟩
  rw [only_rose ho (by decide)]
  exact lset_same h x

/-- A sector with a position marked failed, for which the spare is to stand in where it can (11 R289). -/
def positionFailed (x : Sector) (l : Nat) : Sector :=
  { x with
    failed := if x.failed.testBit l then x.failed else x.failed + 2 ^ l
    pendingSub := if x.pendingSub.isSome || x.subPos.isSome || x.spareFail then x.pendingSub else some l }

section
variable {u n : Nat} {x : Sector}

/-- A facet that fails, where the spare does not stand in its place, is marked failed. -/
theorem failFacet_leaves (hx : s.rose.sectors[u / 16]? = some x) (hsub : x.subPos ≠ some (u % 16)) :
    (∃ y, (failFacet s u).rose.sectors[u / 16]? = some y ∧ y.failed.testBit (u % 16) = true ∧ y.subPos = x.subPos) ∧
      onlyChanged (.rose :: reportGroups) s (failFacet s u) := by
  have ho : onlyChanged reportGroups (s.setRose { s.rose with sectors := lset s.rose.sectors (u / 16) (positionFailed x (u % 16)) })
      (failFacet s u) := by
    simp only [failFacet, sectorOf, hx, hsub, if_false]
    exact raiseNotice_only _ _ _ _
  obtain ⟨hsec, hall⟩ := sector_reported hx _ ho
  exact ⟨⟨_, hsec, testBit_set _ _, rfl⟩, hall⟩

theorem failSextant_leaves (hx : s.rose.sectors[n]? = some x) :
    (failSextant s n).rose.sectors[n]? = some { x with sxtFailed := true } ∧ onlyChanged (.rose :: reportGroups) s (failSextant s n) := by
  refine sector_reported hx _ ?_
  simp only [failSextant, hx]
  exact raiseNotice_only _ _ _ _

/-- A targeted LBIST off its list. -/
def lbistEnded (s : State) (u : Nat) : State := s.setRose { s.rose with lbist := s.rose.lbist.filter (fun v => decide (v ≠ u)) }

theorem doFacetLbistEnd_under (h : s.rose.lbist.contains u = true) (pass : Bool) : doFacetLbistEnd s u pass =
    if pass then lbistEnded s u else if u < 256 then failFacet (lbistEnded s u) u else failSextant (lbistEnded s u) (u - 256) := by
  simp only [doFacetLbistEnd, h, Bool.not_true, Bool.false_eq_true, if_false]
  rfl

theorem doFacetLbistEnd_other (h : s.rose.lbist.contains u = false) (pass : Bool) : doFacetLbistEnd s u pass = s := by
  simp only [doFacetLbistEnd, h, Bool.not_false, if_true]

section
variable {l : Nat} (hx : s.rose.sectors[n]? = some x) (hp : x.pendingSub = some l)
include hx hp

/-- The spare stands in once no berth holds the position. -/
theorem doSpareSubstitution_free (hheld : (heldFacets s).contains (16 * n + l) = false) (hok : x.spareFail = false) :
    let t := doSpareSubstitution s n
    t.rose.sectors[n]? = some { x with subPos := some l, pendingSub := none } ∧ onlyChanged (.rose :: reportGroups) s t := by
  refine sector_reported hx _ ?_
  simp only [doSpareSubstitution, hx, hp, hheld, hok, Bool.false_eq_true, or_self, if_false]
  exact only_trans (raiseNotice_only _ _ _ _) (raiseEvent_only _ _)

theorem doSpareSubstitution_held (hheld : (heldFacets s).contains (16 * n + l) = true) : doSpareSubstitution s n = s := by
  simp only [doSpareSubstitution, hx, hp, hheld, true_or, if_true]

end

end

/-- Settles O49: a parity error by the job fault that it is, the first and the second, an access outside the Plot by its window fault; the end
of an LBIST by whether its unit was under one; a substitution by whether the position is held. -/
theorem faultyUnits : Obligations.FaultyUnits := by
  intro s
  refine ⟨fun k r c g j hr hc hl hf hst hdone hat hp hg hj => ?_, fun u hu => ⟨?_, fun x hlt hx hsub => ?_, fun x hge hx => ?_⟩,
    fun u pass hu => ?_, fun n x l hx hp => ⟨fun hheld hok => ?_, fun hheld => ?_⟩⟩
  · obtain rfl := findRun_key hr
    have hkill : Killable s r c := ⟨hst, hat, hdone, hc⟩
    obtain ⟨hgone, hbit, hmark, ho, hfirst, hsecond⟩ := doPartitionReset_strip hkill hr hl hf hg hj
    refine ⟨fun h0 => gives_of_eq rfl rfl ⟨hgone, hfirst h0, hbit, hmark, only_clk ho (by decide), only_boot ho (by decide),
      only_flash ho (by decide)⟩, fun h1 => gives_of_eq rfl rfl ⟨hgone, hsecond h1, hbit, hmark⟩, fun a => ?_⟩
    obtain ⟨writer, hout⟩ := doPartitionReset_outsidePlot (u := .strip g j) (a := a) hr hl hf hst hg
    exact gives_of_eq rfl hout (windowFault_leaves hkill _ _)
  · exact gives_of_eq rfl (doFacetLbistEnd_under hu true) ⟨rfl, setRose_only _ _⟩
  · obtain ⟨hsec, ho⟩ := failFacet_leaves (s := lbistEnded s u) hx hsub
    refine gives_of_eq rfl ((doFacetLbistEnd_under hu false).trans (if_pos hlt)) ⟨hsec, ?_⟩
    exact only_trans (only_mono (setRose_only _ _) (by decide)) ho
  · obtain ⟨hsec, ho⟩ := failSextant_leaves (s := lbistEnded s u) hx
    refine gives_of_eq rfl ((doFacetLbistEnd_under hu false).trans (if_neg (Nat.not_lt.mpr hge))) ⟨hsec, ?_⟩
    exact only_trans (only_mono (setRose_only _ _) (by decide)) ho
  · exact gives_of_eq rfl (doFacetLbistEnd_other hu pass) rfl
  · exact gives_of_eq rfl rfl (doSpareSubstitution_free hx hp hheld hok)
  · exact gives_of_eq rfl (doSpareSubstitution_held hx hp hheld) rfl

/-! ## BATCH_TICK (10 R270 to R272): a state with two commands of one key -/

/-- The batch route of one facet. -/
def slotRoute : Route := { facetRoute with batch := true }

/-- A loaded model with that route alone. -/
def slotModel : Model :=
  { owner := 1, loader := ⟨1, 0, 0⟩, chart := parseChart [], sig := 0, routes := [slotRoute], places := [], first := 0, count := 0, warmBase := 0,
    warmSize := 0, spill := 0, instBytes := 0, scaleD := [], scaleF := [], parts := [], layout := [], smap := none, loaded := true }

/-- An accepted command of context 1, ring 0, at its place in the ring's order. -/
def acceptedCmd (seq : Word) (desc : Line) (ph : CmdPhase) (deadline : Option Mer) : Cmd :=
  { key := ⟨1, 0, seq⟩, desc := desc, acceptedAt := 0, order := 0, phase := ph, freeAt := [], deadline := deadline, faultKills := 0,
    rerun := false, avoid := [], inputIn := true, raw := [], instOff := 0, inst := [], nanElem := none, nanCount := 0, image := none, since := 0,
    launchableAt := some 0, cover := none, req := none, waitRetry := 0, chargeDue := 0, faultIdx := 0, runs := 0, rows := [], bcnOk := false,
    watched := false }

/-- A FIRM SOLVE_BATCH of model 1 (09 R228, R230): its opcode, its model, its class. -/
def batchDesc : Line := 0x11#512 ||| 1#512 <<< 96 ||| 1#512 <<< 272

/-- The command that joins; a FENCE under the same key; the next command of the ring, which the FENCE holds back, its deadline gone. -/
def joiner : Cmd := acceptedCmd 8 batchDesc .ready none
def twinFence : Cmd := acceptedCmd 8 0x42#512 .waiting none
def lateNext : Cmd := acceptedCmd 9 batchDesc .ready (some 0)

/-- A unit on facet 5 with one problem, and its batch, at a boundary in AK cycle 96. -/
def oneUnit : BatchUnit := ⟨⟨5, 1, 1⟩, [], [], [], [some facetRun.key, none]⟩
def oneBatch : Batch := ⟨1, 1, true, 32, [oneUnit]⟩

/-- The device at work with these. -/
def twinKeys : State :=
  { facetAtWork with
    helm := { Helm.reset with ctxs := [(1, ⟨1, 0, none, 0, 0, true, 0, .runnable, 0, false⟩)], models := [(1, slotModel)] }
    cmds := [joiner, twinFence, lateNext], batches := [oneBatch] }

theorem batchKeys_oneBatch : batchKeys oneBatch = [facetRun.key] := by decide

/-- The FENCE holds the late command back, so that one command waits to join. -/
theorem joinQueue_twinKeys : joinQueue twinKeys 1 1 true = [joiner] := by decide +kernel

theorem joiner_inTime : tooLate joiner slotRoute (stamp twinKeys) = false := by decide +kernel

/-- Once the joiner runs, no FENCE is left under its key: the late command is taken too, and files its request. -/
theorem twinKeys_files : (doBatchTick twinKeys 1 1 true).log.queue = [lateNext.key] := by decide +kernel

/-- Refutes O54: its last clause has the journal queue stay as it was when one command waits to join. It leaves the keys of the commands free,
and the model puts a command back under its key wherever that key stands: on twinKeys, where a FENCE has the joiner's key, the FENCE is gone
with the join, the command that it held back is LATE in the same tick (10 R272, 04 R101), and its request enters the empty queue. -/
theorem not_batchTicks : ¬ Obligations.BatchTicks := by
  intro h
  obtain ⟨-, -, hboundary⟩ := h twinKeys 1 1 true slotRoute rfl rfl rfl
  obtain ⟨-, -, hjoin⟩ := hboundary 0 oneBatch rfl (by decide) (by decide)
  obtain ⟨t, hexec, -, -, -, hqueue⟩ := hjoin joiner 5 1 oneUnit [] joinQueue_twinKeys rfl rfl rfl rfl (by decide)
    (fun k hk => ⟨facetRun, by rw [batchKeys_oneBatch, List.mem_singleton] at hk; rw [hk]; rfl, rfl, rfl, rfl⟩) joiner_inTime rfl
  have ht : t = doBatchTick twinKeys 1 1 true := (Host.Outcome.next.inj hexec).symm
  rw [ht, twinKeys_files] at hqueue
  exact nomatch hqueue

end Sys2Proof.Proofs

/-! SUPPORT. The proof of the statement of 11_repeatability.md: the retry of a launch cycle, the slot of a runnable context, the deadline of a
queued command. -/

namespace Sys2Proof.Proofs
open Sys2Proof Sys2Proof.Machine Sys2Proof.Laws

/- One proof at a time: elaborated beside the pending kernel checks of the text's tests, they need more threads than the memory limit holds. -/
set_option Elab.async false

variable {s t : State} {k : CmdKey} {c : Cmd} {r : Run}

/-! ## LADDER_RETRY (11 R287) -/

/-- A placed command that waits for room, with its input in, has its launch cycle sought anew. -/
theorem doLadderRetry_tries (hr : findRun s k = some r) (hc : findCmd s k = some c) (hp : r.phase = .placed) (hl : r.launchAk = 0)
    (hw : c.waitRetry ≠ 0) (hin : c.inputIn = true) (harm : r.armedOff = none) (hserve : canServe s k.ctx = true)
    (hfleet : s.fleet.stopped = false) : doLadderRetry s k = fixLaunch s r := by
  simp only [doLadderRetry, hr, hc]
  exact if_pos ⟨hp, hl, hw, hin, harm, hserve, by simp only [hfleet, Bool.not_false]⟩

/-! ## CONTEXT_RESIDENCY (10 R258, R259) -/

section
variable {ctx slot : Nat} {x : Ctx}

/-! ### What requesting descriptors leaves of the contexts -/

theorem ctxOf_congr (h : t.helm.ctxs = s.helm.ctxs) (d : Nat) : ctxOf t d = ctxOf s d := congrArg (mget · d) h

theorem pumpN_ctxs (n : Nat) (s : State) (ctx ring : Nat) : (pumpN n s ctx ring).helm.ctxs = s.helm.ctxs := by
  induction n generalizing s with
  | zero => rfl
  | succ n ih =>
    unfold pumpN
    dsimp only
    split
    · rw [ih, only_helm (emit_only _ _) (by decide)]
      rfl
    · rfl

theorem pumpCtx_leaves (s : State) (ctx : Nat) :
    (pumpCtx s ctx).helm.ctxs = s.helm.ctxs ∧ onlyChanged [.helm, .pel, .out] s (pumpCtx s ctx) := by
  unfold pumpCtx
  refine ⟨?_, only_foldl (fun _ _ h => only_trans h (pump_spec _ _ _).1) (only_refl _ _)⟩
  refine List.foldlRecOn (motive := fun t : State => t.helm.ctxs = s.helm.ctxs) _ _ rfl (fun t ht ring _ => ?_)
  exact (pumpN_ctxs 32 t ctx ring).trans ht

/-! ### The grant of a slot, and the eviction that may come first -/

/-- A context set resident, its rings requesting their descriptors. -/
def granted (s : State) (ctx : Nat) (x : Ctx) : State := pumpCtx (s.setHelm { s.helm with ctxs := mset s.helm.ctxs ctx x }) ctx

theorem granted_leaves (s : State) (ctx : Nat) (x : Ctx) :
    ctxOf (granted s ctx x) ctx = some x ∧ (∀ d, d ≠ ctx → ctxOf (granted s ctx x) d = ctxOf s d) ∧
      onlyChanged [.helm, .pel, .out] s (granted s ctx x) := by
  obtain ⟨hctxs, ho⟩ := pumpCtx_leaves (s.setHelm { s.helm with ctxs := mset s.helm.ctxs ctx x }) ctx
  obtain ⟨hself, hothers, -⟩ := ctxSet_leaves (s := s) (t := s.setHelm { s.helm with ctxs := mset s.helm.ctxs ctx x }) rfl
  exact ⟨(ctxOf_congr hctxs ctx).trans hself, fun d hd => (ctxOf_congr hctxs d).trans (hothers d hd),
    only_then (only_mono (setHelm_only _ _) (by decide)) ho⟩

/-- An evicted context, where it is defined at all, has no slot, and its balance is saved (10 R259). -/
theorem evict_saves {v : Nat} (hv : ctxOf (evict s v) v = some x) : x.resident = false ∧ x.saved = true := by
  unfold evict at hv
  dsimp only at hv
  split at hv
  · next hnone => exact nomatch hnone.symm.trans hv
  · simp only [ctxOf, State.setHelm_helm, mget_mset_same, Option.some.injEq] at hv
    exact hv ▸ ⟨rfl, rfl⟩

section
variable (hres : x.resident = false) (hst : x.st = .runnable) (hready : ready s = true) (hfleet : s.fleet.stopped = false)
include hres hst hready hfleet

/-- A runnable context without a slot, in a device at work, is one that CONTEXT_RESIDENCY serves. -/
theorem slot_due : ¬ (x.resident = true ∨ x.st ≠ .runnable ∨ (!ready s) = true ∨ s.fleet.stopped = true) := by
  simp only [hres, hst, hready, hfleet, ne_eq, not_true_eq_false, Bool.not_true, Bool.false_eq_true, or_self, not_false_eq_true]

variable (hx : ctxOf s ctx = some x)
include hx

/-- A free slot goes to a context with nothing saved. -/
theorem doContextResidency_free (hslot : chooseSlot s x = some (slot, none)) (hsaved : x.saved = false) (block : Option (Int × Nat)) :
    doContextResidency s ctx block = granted s ctx { x with resident := true, slot := slot } := by
  simp only [doContextResidency, hx, if_neg (slot_due hres hst hready hfleet), hslot, hsaved]
  rfl

/-- A victim's slot goes to a context that was evicted itself, with the balance and the charged total of its block. -/
theorem doContextResidency_evicts {v : Nat} (hslot : chooseSlot s x = some (slot, some v)) (hsaved : x.saved = true) (b : Int) (ch : Nat) :
    doContextResidency s ctx (some (b, ch)) =
      granted (evict s v) ctx { x with resident := true, slot := slot, balance := b, charged := ch, saved := false } := by
  simp only [doContextResidency, hx, if_neg (slot_due hres hst hready hfleet), hslot, hsaved]
  rfl

end

end

/-! ## QUEUED_DEADLINE_EXPIRY (04 R101) -/

/-- A queued command whose deadline has passed, on a core that serves it, is LATE. -/
theorem doQueuedDeadlineExpiry_late {d : Mer} (hc : findCmd s k = some c) (hd : c.deadline = some d) (hw : waitingToRun c = true)
    (hpast : d < s.clk.mer) (hready : ready s = true) (hserved : servedHalted s k.ctx = false) :
    doQueuedDeadlineExpiry s k = fileStatus s c 0x40 := by
  simp only [doQueuedDeadlineExpiry, hc, hd]
  exact if_pos ⟨hw, hpast, hready, .inl (by simp only [hserved, Bool.not_false])⟩

/-! ## The statement of the scheduler's commands -/

/-- Settles O23: a retry by what the fixing of a launch cycle leaves, a residency by the slot granted, after the eviction where one is due, an
expiry by the request filed. -/
theorem schedulerCommands : Obligations.SchedulerCommands := by
  intro s
  refine ⟨fun k r c n hr hc hp hl hw hin harm hserve hfleet hstep htime => ?_,
    fun ctx x slot block hx hres hst hready hfleet hslot hsaved => ?_,
    fun ctx x slot v b ch hx hres hst hready hfleet hslot hne hsaved => ?_, fun k c d hc hd hw hpast hready hserved => ?_⟩
  · obtain rfl := findRun_key hr
    exact gives_of_eq rfl (doLadderRetry_tries hr hc hp hl hw hin harm hserve hfleet) (fixLaunch_leaves hr hc hstep htime)
  · exact gives_of_eq rfl (doContextResidency_free hres hst hready hfleet hx hslot hsaved block) (granted_leaves _ _ _)
  · obtain ⟨hself, hothers, -⟩ := granted_leaves (evict s v) ctx
      { x with resident := true, slot := slot, balance := b, charged := ch, saved := false }
    exact gives_of_eq rfl (doContextResidency_evicts hres hst hready hfleet hx hslot hsaved b ch)
      ⟨hself, fun y hy => evict_saves ((hothers v hne).symm.trans hy)⟩
  · obtain rfl := findCmd_key hc
    exact gives_of_eq rfl (doQueuedDeadlineExpiry_late hc hd hw hpast hready hserved) ⟨fileStatus_filed hc _, fileStatus_only _ _ _⟩

end Sys2Proof.Proofs

/-! SUPPORT. The proofs of the statements of 12_sounding_and_fix_streams.md: STREAM_BIND and STREAM_UNBIND, Sounding frames and the launch of
a unit, Fix frames with the watchdog, a failed binding and skew calibration. -/

namespace Sys2Proof.Proofs
open Sys2Proof Sys2Proof.Machine Sys2Proof.Laws

/- One proof at a time: elaborated beside the pending kernel checks of the text's tests, they need more threads than the memory limit holds. -/
set_option Elab.async false

variable {s t v : State} {n : Nat} {x : Stream} {gs : List StateGroup} {k : CmdKey} {c : Cmd}

/-! ## Laws that the proofs of this family share -/

theorem setStream_only (s : State) (n : Nat) (x : Stream) : onlyChanged [.streams] s (setStream s n x) := setStreams_only _ _
theorem setCsi_only (s : State) (l : List CsiTx) : onlyChanged [.csi] s (s.setCsi l) := by simp [onlyChanged]
theorem setOut_only (s : State) (l : List Output) : onlyChanged [.out] s (s.setOut l) := by simp [onlyChanged]
theorem streamCount_only (s : State) (ctx n i : Nat) : onlyChanged [.pel] s (streamCount s ctx n i) := ccount_only _ _ _ _

theorem traceStream_only (s : State) (n : Nat) (x : Stream) (seq : Word) (kind reason : Nat) :
    onlyChanged [.regs, .pel] s (traceStream s n x seq kind reason) := trace_only _ _

/-- A binding just put back is the one found, whatever changed since outside the bindings. -/
theorem stream_found (h : onlyChanged gs (setStream s n x) t) (hg : StateGroup.streams ∉ gs := by decide) :
    mget t.streams n = some x := by
  rw [only_streams h hg]
  exact mget_mset_same _ _ _

/-- A port just put back is the one found, whatever changed since outside the ports. -/
theorem port_found {l : List CsiTx} {i : Nat} {e : CsiTx} (he : l[i]? = some e) (h : onlyChanged gs (s.setCsi l) t)
    (hg : StateGroup.csi ∉ gs := by decide) : t.csi[i]? = some e := by
  rw [only_csi h hg]
  exact he

theorem stampIk_congr (hclk : t.clk = s.clk) (hms : t.ms = s.ms) : stampIk t = stampIk s := by simp only [stampIk, merInc, hclk, hms]

/-- An entry of a list that is changed in place. -/
theorem getElem?_lupd {α : Type} {l : List α} {i : Nat} {a : α} (f : α → α) (h : l[i]? = some a) : (lupd l i f)[i]? = some (f a) := by
  induction l generalizing i with
  | nil => simp at h
  | cons b l ih =>
    cases i with
    | zero => exact congrArg (Option.map f) h
    | succ i => exact ih h

/-- A frame to insert is among the due ones. -/
theorem mem_insDue (d : FixDue) (l : List FixDue) : d ∈ insDue d l := by
  induction l with
  | nil => exact List.mem_singleton_self d
  | cons e l ih =>
    unfold insDue
    split
    · exact List.mem_cons_self
    · exact List.mem_cons_of_mem _ ih

/-- A request filed after changes that leave the journal queue is filed since before them. -/
theorem filedAs_since {p : CommitReq → Prop} (hq : v.log.queue = s.log.queue) (h : filedAs v t k p) : filedAs s t k p := by
  simpa only [filedAs, hq] using h

/-! ## STREAM_BIND (12 R298 to R300) -/

section
variable (hc : findCmd s k = some c) (hop : opOf c.desc = 0x20) (hw : waitingToRun c = true) (hm : mayStart s c = true)
  (hn : mget s.streams (leField c.desc 48 1 % 64) = none)
include hc hop hw hm hn

/-- A bind whose models do not fit. -/
theorem doStreamBind_mismatch (hbad : bindMismatch s c.desc = true) : doStreamBind s k = fileStatus s c 0x31 := by
  simp only [doStreamBind, hc, hop, hw, hn, hm, hbad, ne_eq, not_true_eq_false, Bool.not_true, Bool.false_eq_true, or_self, if_false,
    Bool.true_or, if_true]

/-- A bind whose models fit, with room in its quota, on the ladder and on the die, is bound to that placement. -/
theorem doStreamBind_places {em cm : Model} {er cr : Route} {sm : StreamMap} {step : Nat} {p : Placement}
    (hfit : bindMismatch s c.desc = false) (hmodels : bindModels s c.desc = some (em, er, cm, cr, sm)) (hload : unloadStands s c = false)
    (hcheck : noRecheck s c.desc = false) (hserve : canServe s k.ctx = true) (hfleet : s.fleet.stopped = false)
    (hquota : quotaRoom s k.ctx (cr.berthW * cr.berthH) = true) (hstep : findStep s (ladderPattern (cr.berthW * cr.berthH)) = some step)
    (hplace : quotaPlacement s (unitRoute er cr) false c.avoid = some (s, p)) :
    doStreamBind s k = bindAt s c (leField c.desc 48 1 % 64) sm p step := by
  have hquota' : quotaRoom s k.ctx ((unitRoute er cr).berthW * (unitRoute er cr).berthH) = true := hquota
  have hstep' : findStep s (ladderPattern ((unitRoute er cr).berthW * (unitRoute er cr).berthH)) = some step := hstep
  simp only [doStreamBind, hc, hop, hw, hn, hm, hfit, hload, hcheck, hmodels, hserve, hfleet, hquota', hstep', hplace, ne_eq, not_true_eq_false,
    Bool.not_true, Bool.false_eq_true, or_self, Bool.or_self, if_false]

end

theorem reserve_heading (s : State) (a : Nat) (pat : List Nat) : (reserve s a pat).helm.heading = s.helm.heading := by
  induction pat generalizing s a with
  | nil => rfl
  | cons p ps ih => exact ih _ _

/-- The window of a bind. -/
def bindWin (c : Cmd) : Nat := leField c.desc 50 2 % 1024

/-- The descriptor that a bind writes into its window. -/
def bindWindow (c : Cmd) (n : Nat) (sm : StreamMap) (p : Placement) : Window :=
  streamWindow c.key.ctx n (placeBase p) (2 * bufBytes sm)

/-- A placed bind before its request: its window open, its pattern reserved, its binding made. -/
def boundAt (s : State) (c : Cmd) (n : Nat) (sm : StreamMap) (p : Placement) (step : Nat) : State :=
  let v := reserve (openWin s (bindWin c) (bindWindow c n sm p)) step (ladderPattern p.size)
  setStream v n (newStream v c n p step)

section
variable {sm : StreamMap} {p : Placement} {step : Nat}

theorem bindAt_opens (hclosed : (winOf s (bindWin c)).isOpen = false)
    (hopens : windowOpens s (bindWin c) (bindWindow c n sm p) = true) :
    ∃ q, bindAt s c n sm p step = fileReq (boundAt s c n sm p step) c q ∧ q.status = 0 := by
  have hroom : ¬ ((winOf s (bindWin c)).isOpen = true ∨ (!windowOpens s (bindWin c) (bindWindow c n sm p)) = true) := by
    simp only [hclosed, hopens, Bool.not_true, Bool.false_eq_true, or_self, not_false_eq_true]
  exact ⟨_, if_neg hroom, rfl⟩

theorem boundAt_leaves (s : State) (c : Cmd) (n : Nat) (sm : StreamMap) (p : Placement) (step : Nat) :
    let t := boundAt s c n sm p step
    winOf t (bindWin c) = { bindWindow c n sm p with isOpen := true, refused := 0 } ∧
      (∃ x, mget t.streams n = some x ∧ x.key = c.key ∧ x.startAk = step ∧ x.fixCount = 0 ∧ x.failed = false) ∧
      t.helm.heading = s.helm.heading ∧ onlyChanged [.streams, .chart, .helm] s t := by
  intro t
  have hres := reserve_only (openWin s (bindWin c) (bindWindow c n sm p)) step (ladderPattern p.size)
  refine ⟨?_, ⟨_, mget_mset_same _ _ _, rfl, rfl, rfl, rfl⟩, reserve_heading _ _ _,
    only_then (only_then (only_mono (setWin_only _ _ _) (by decide)) hres) (setStream_only _ _ _)⟩
  exact (congrArg (fun y : ChartSt => mgetD y.wins (bindWin c) Window.zero) (only_chart hres (by decide))).trans (winOf_setWin_same _ _ _)

end

/-! ## STREAM_UNBIND (12 R301) -/

/-- A binding that its unbind has stopped, its UNBOUND frame due. -/
def stoppedBy (s : State) (n : Nat) (x : Stream) (k : CmdKey) : Stream :=
  { x with
    stopAt := some (stampIk s), stopAk := s.clk.chipAk, unbind := some k, dogAt := none,
    due := insDue (holdDue (stampIk s + fixDelay s n) 8 0 none false) x.due }

section
variable (hc : findCmd s k = some c) (hop : opOf c.desc = 0x21) (hw : waitingToRun c = true) (hm : mayStart s c = true)
  (hserve : canServe s k.ctx = true)
include hc hop hw hm hserve

theorem doStreamUnbind_none (hn : mget s.streams (leField c.desc 48 1 % 64) = none) : doStreamUnbind s k = fileStatus s c 0x31 := by
  simp only [doStreamUnbind, hc, hop, hw, hm, hserve, hn, ne_eq, not_true_eq_false, Bool.not_true, Bool.false_eq_true, or_self, if_false]

theorem doStreamUnbind_stops (hx : mget s.streams (leField c.desc 48 1 % 64) = some x) (hh : x.ctlHandle = dHandle c.desc)
    (hs : x.suspended = false) (hf : x.failed = false) (hu : x.unbind = none) :
    doStreamUnbind s k =
      setStream (putCmd s { c with phase := .waiting }) (leField c.desc 48 1 % 64) (stoppedBy s (leField c.desc 48 1 % 64) x k) := by
  have hrun : ¬ (opOf c.desc ≠ 0x21 ∨ (!waitingToRun c) = true ∨ (!mayStart s c) = true ∨ (!canServe s k.ctx) = true) := by
    simp only [hop, hw, hm, hserve, ne_eq, not_true_eq_false, Bool.not_true, Bool.false_eq_true, or_self, not_false_eq_true]
  have hlive : ¬ (x.suspended = true ∨ x.unbind.isSome = true ∧ x.unbind ≠ some k) := by
    simp only [hs, hu, Option.isSome_none, Bool.false_eq_true, false_and, or_self, not_false_eq_true]
  simp only [doStreamUnbind, hc, hx, if_neg hrun, if_neg (not_not.mpr hh), if_neg hlive, if_neg (Bool.eq_false_iff.mp hf)]
  rfl

end

/-- Settles O58: a mismatch and an unbind of nothing by the status filed, a placed bind by what is bound before its request, an unbind by the
binding put back. -/
theorem streamBinding : Obligations.StreamBinding := by
  intro s k c hc n
  refine ⟨fun hop hw hn => ⟨fun hm hbad => ?_, ?_⟩, fun hop hw hm hserve => ⟨fun hn => ?_, fun x hx hh hs hf hu => ?_⟩⟩
  · obtain rfl := findCmd_key hc
    exact gives_of_eq rfl (doStreamBind_mismatch hc hop hw hm hn hbad) ⟨fileStatus_filed hc _, fileStatus_only _ _ _⟩
  · intro em er cm cr sm step p hfit hmodels hm hload hcheck hserve hfleet hquota hstep hplace win hclosed hopens
    obtain ⟨q, hbind, hq⟩ := bindAt_opens (step := step) hclosed hopens
    obtain ⟨hwin, ⟨x, hx, hkey, hbound⟩, hheading, ho⟩ := boundAt_leaves s c n sm p step
    obtain ⟨hfiled, hframe⟩ := fileReq_leaves (p := fun q => q.status = 0) ho hc hq
    refine gives_of_eq rfl ((doStreamBind_places hc hop hw hm hn hfit hmodels hload hcheck hserve hfleet hquota hstep hplace).trans hbind)
      ⟨hfiled, congrArg Window.isOpen hwin, congrArg Window.base hwin, ⟨x, hx, hkey.trans (findCmd_key hc), hbound⟩, hheading,
        only_mono hframe (by decide)⟩
  · obtain rfl := findCmd_key hc
    exact gives_of_eq rfl (doStreamUnbind_none hc hop hw hm hserve hn) ⟨fileStatus_filed hc _, fileStatus_only _ _ _⟩
  · obtain rfl := findCmd_key hc
    exact gives_of_eq rfl (doStreamUnbind_stops hc hop hw hm hserve hx hh hs hf hu)
      ⟨findCmd_putCmd (c := { c with phase := .waiting }) hc, ⟨_, mget_mset_same _ _ _, rfl, rfl, mem_insDue _ _⟩,
        only_then (only_mono (putCmd_only _ _) (by decide)) (setStream_only _ _ _)⟩

/-! ## Packets of no binding (12 R294) -/

theorem gcount_counted (s : State) (id m : Nat) :
    mgetD (gcount s id m).pel.gblCnt id 0 = satTo (2 ^ 64 - 1) (mgetD s.pel.gblCnt id 0 + m) := mgetD_mset_same _ _ _ _

/-- A binding after a packet header with a double-bit error on a port: its open frame is corrupt. -/
def hdrHit (p : Nat) (e : Nat × Stream) : Nat × Stream :=
  (e.1, if decide (e.1 / 16 = p) && e.2.frameOpen.isSome then { e.2 with badHdr := true } else e.2)

theorem hdrHit_badHdr {p : Nat} {e : Nat × Stream} (hp : (hdrHit p e).1 / 16 = p) (ho : (hdrHit p e).2.frameOpen.isSome = true) :
    (hdrHit p e).2.badHdr = true := by
  by_cases hopen : e.2.frameOpen.isSome = true
  · have hhit : (decide (e.1 / 16 = p) && e.2.frameOpen.isSome) = true := (Bool.and_eq_true _ _).mpr ⟨decide_eq_true hp, hopen⟩
    exact (congrArg Stream.badHdr (if_pos hhit)).trans rfl
  · have hmiss : (decide (e.1 / 16 = p) && e.2.frameOpen.isSome) = false := by rw [Bool.eq_false_iff.mpr hopen, Bool.and_false]
    rw [hdrHit, if_neg (Bool.eq_false_iff.mp hmiss)] at ho
    exact absurd ho hopen

section
variable {port : Nat} (hrx : rxEn s (port % 4) = true) (hcut : s.bin.txCut = false)
include hrx hcut

theorem doCsiPacketIgnored_packet : doCsiPacketIgnored s port false = gcount s (0x5008 + port % 4) 1 := by
  simp only [doCsiPacketIgnored, ignorePackets, hrx, hcut, Nat.mod_mod, Bool.not_true, Bool.false_eq_true, or_self, if_false]

theorem doCsiPacketIgnored_hdr :
    doCsiPacketIgnored s port true = (gcount s (0x500C + port % 4) 1).setStreams (s.streams.map (hdrHit (port % 4))) := by
  simp only [doCsiPacketIgnored, hrx, hcut, Bool.not_true, Bool.false_eq_true, or_self, if_false, if_true]
  rfl

end

/-! ## Sounding frames (12 R296, R297, R302) -/

/-- The device with the bytes of a received frame counted. -/
def rxCounted (s : State) (p : Nat) (f : SndFrame) : State :=
  gcount s (0x5000 + p) (64 * bitAt f.hdr.isSome 0 + ceilDiv f.payload.length 4 * 4)

theorem rxCounted_only (s : State) (p : Nat) (f : SndFrame) : onlyChanged [.pel] s (rxCounted s p f) := gcount_only _ _ _

/-- A sequence number is ahead of the one before it. -/
theorem ahead_pred (a : Word) : ahead a (a - 1) = true := by
  have h : a - (a - 1) = 1 := by bv_omega
  rw [ahead, h]
  decide

section
variable {port vc : Nat} {f : SndFrame} (hrx : rxEn s (port % 4) = true)
include hrx

theorem doSoundingFrameStart_opens (hx : mget s.streams (16 * (port % 4) + vc % 16) = some x) (ht : takes s x = true)
    (hopen : x.frameOpen = none) :
    doSoundingFrameStart s port vc =
      setStream s (16 * (port % 4) + vc % 16) { x with frameOpen := some (stampIk s), refusedRow := false, badHdr := false } := by
  simp only [doSoundingFrameStart, hrx, hx, ht, hopen, Bool.not_true, Bool.false_eq_true, if_false]

variable (hcut : s.bin.txCut = false)
include hcut

theorem doSoundingFrameEnd_unbound (hn : mget s.streams (16 * (port % 4) + vc % 16) = none) : ∃ m,
    doSoundingFrameEnd s port vc f = ignorePackets (rxCounted s (port % 4) f) (port % 4) m := by
  have hn' : mget (rxCounted s (port % 4) f).streams (16 * (port % 4) + vc % 16) = none := hn
  rw [rxCounted] at hn'
  simp only [doSoundingFrameEnd, hrx, hcut, hn', Bool.not_true, Bool.false_eq_true, or_self, if_false]
  exact ⟨_, rfl⟩

variable (hx : mget s.streams (16 * (port % 4) + vc % 16) = some x) (ht : takes s x = true)
include hx ht

theorem doSoundingFrameEnd_unreadable (hh : readableHdr x f = none) : doSoundingFrameEnd s port vc f =
    unreadable (rxCounted s (port % 4) f) (16 * (port % 4) + vc % 16) (frameEnded s (16 * (port % 4) + vc % 16) x (stampIk s)) := by
  have hx' : mget (rxCounted s (port % 4) f).streams (16 * (port % 4) + vc % 16) = some x := hx
  have ht' : takes (rxCounted s (port % 4) f) x = true := ht
  rw [rxCounted] at hx' ht'
  simp only [doSoundingFrameEnd, hrx, hcut, hx', ht', hh, Bool.not_true, Bool.false_eq_true, or_self, if_false]
  rfl

/-- A readable frame of the number that the binding awaits, or the first one, is not stale. -/
theorem doSoundingFrameEnd_next {h : SndHdr} (hh : readableHdr x f = some h) (hnext : x.next = none ∨ x.next = some h.seq) :
    doSoundingFrameEnd s port vc f =
      readableEnd (rxCounted s (port % 4) f) (16 * (port % 4) + vc % 16) { x with next := some h.seq } (mapOf s x) h f (stampIk s) := by
  have hx' : mget (rxCounted s (port % 4) f).streams (16 * (port % 4) + vc % 16) = some x := hx
  have ht' : takes (rxCounted s (port % 4) f) x = true := ht
  have hseq : x.next.getD h.seq = h.seq := by rcases hnext with hnext | hnext <;> rw [hnext] <;> rfl
  rw [rxCounted] at hx' ht'
  simp only [doSoundingFrameEnd, hrx, hcut, hx', ht', hh, hseq, ahead_pred, Bool.not_true, Bool.false_eq_true, or_self, if_false]
  rfl

end

/-! ### An unreadable frame -/

theorem unreadable_leaves (s : State) (n : Nat) (x : Stream) :
    (unreadable s n x).streams = mset s.streams n x ∧ onlyChanged [.streams, .pel, .regs] s (unreadable s n x) := by
  have htail : onlyChanged [.pel, .regs] (setStream s n x) (unreadable s n x) :=
    only_then (only_mono (streamCount_only _ _ _ _) (by decide)) (traceStream_only _ _ _ _ _ _)
  exact ⟨only_streams htail (by decide), only_then (only_mono (setStream_only _ _ _) (by decide)) htail⟩

/-! ### A readable frame: its rows, its unit -/

/-- A row of a frame is admitted, or refused and counted (08 R212, R217). -/
theorem frameRow_only (s : State) (n a : Nat) (bs : List Byte) : onlyChanged [.chart, .regs, .pel] s (frameRow s n a bs).1 := by
  unfold frameRow
  split
  · exact only_mono (setChart_only _ _) (by decide)
  · obtain ⟨-, -, -, ho⟩ := countRefused_spec s a
    exact ho

theorem frameRows_only (s : State) (n m a : Nat) (bs : List Byte) : onlyChanged [.chart, .regs, .pel] s (frameRows s n m a bs).1 := by
  induction m generalizing s a bs with
  | zero => exact only_refl _ _
  | succ m ih => exact only_trans (frameRow_only _ _ _ _) (ih _ _ _)

theorem storeFrame_only (s : State) (n : Nat) (x : Stream) (sm : StreamMap) (h : SndHdr) (f : SndFrame) :
    onlyChanged [.chart, .regs, .pel] s (storeFrame s n x sm h f).1 :=
  only_trans (frameRow_only _ _ _ _) (frameRows_only _ _ _ _ _)

section
variable {sm : StreamMap} {h : SndHdr} {f : SndFrame}

/-- A whole frame whose rows are all admitted, of a binding that no unit, stop or earlier Sounding keeps from it, is served (12 R302, R303). -/
theorem readableEnd_serves {tfe : Mer} (hunit : x.unit = none) (hstop : x.stopAt = none) (hserved : x.lastServed = none)
    (hrow : x.refusedRow = false) (hbad : x.badHdr = false) (hpay : f.payGood = true) (hshape : f.shapeGood = true)
    (hformat : h.format = sm.format) (helems : h.elems = sm.elems) (hstore : (storeFrame s n x sm h f).2 = false) :
    readableEnd s n x sm h f tfe = serveFrame (storeFrame s n x sm h f).1 n (frameEnded s n x tfe) h tfe f.payload := by
  have hended : storeFrame s n (frameEnded s n x tfe) sm h f = ((storeFrame s n x sm h f).1, false) := Prod.ext rfl hstore
  have hunit' : (frameEnded s n x tfe).unit = none := hunit
  have hstop' : (frameEnded s n x tfe).stopAt = none := hstop
  have hserved' : (frameEnded s n x tfe).lastServed = none := hserved
  simp only [readableEnd, hended, hunit', hstop', hserved', hrow, hbad, hpay, hshape, hformat, helems, Option.isSome_none, Bool.not_true,
    ne_eq, not_true_eq_false, decide_false, Bool.or_self, Bool.false_eq_true, if_false]

/-- A served frame is the binding's unit, still to launch. -/
theorem serveFrame_leaves (s : State) (n : Nat) (x : Stream) (h : SndHdr) (tfe : Mer) (payload : List Byte) :
    (∃ y u, mget (serveFrame s n x h tfe payload).streams n = some y ∧ y.unit = some u ∧ u.seq = h.seq ∧ u.tfe = tfe ∧ u.launchAk = none ∧
      y.lastServed = some tfe ∧ y.frameOpen = x.frameOpen) ∧ onlyChanged [.streams] s (serveFrame s n x h tfe payload) :=
  ⟨⟨_, _, mget_mset_same _ _ _, rfl, rfl, rfl, rfl, rfl, rfl⟩, setStream_only _ _ _⟩

end

/-! ## STREAM_UNIT_LAUNCH (12 R303, R304) -/

/-- A binding whose unit launches in this AK cycle. -/
def unitLaunching (s : State) (x : Stream) (u : UnitSt) : Stream := { x with unit := some { u with launchAk := some s.clk.chipAk } }

/-- A unit's binding and windows as its run begins. -/
def unitReady (s : State) (n : Nat) (x : Stream) (u : UnitSt) (rt : Route) : State :=
  openWins (setStream s n (unitLaunching s x u)) (runWindows s x.key.ctx rt [x.berth] x.plots)

theorem unitReady_only (s : State) (n : Nat) (x : Stream) (u : UnitSt) (rt : Route) :
    onlyChanged [.streams, .chart] s (unitReady s n x u rt) :=
  only_then (only_mono (setStream_only _ _ _) (by decide)) (openWins_only _ _)

/-- The launch of a unit (12 R304). -/
def unitLaunched (s : State) (n : Nat) (x : Stream) (u : UnitSt) (rt : Route) : State :=
  let v := unitReady s n x u rt
  startRun (v.setRuns (v.runs ++ [unitRun s n x rt])) (unitRun s n x rt)

section
variable {u : UnitSt} {rt : Route}

/-- A unit whose frame-complete event reached its lead conductor, at the first multiple of 32 AK cycles at least 8 cycles later. -/
theorem doStreamUnitLaunch_first {ev y : Nat} (hx : mget s.streams n = some x) (hu : x.unit = some u)
    (hrt : (mget s.helm.models x.ctlModel).bind berthRoute = some rt) (hl : u.launchAk = none) (hreq : u.req = none)
    (hf : x.failed = false) (hsus : x.suspended = false) (hstop : x.stopAt = none) (hfrozen : frozen s = false)
    (hr : findRun s x.key = none) (h32 : s.clk.chipAk % 32 = 0) (hstart : x.startAk ≤ s.clk.chipAk) (hy : u.complete = some y) (hyev : y ≤ ev)
    (hev : ev + 8 ≤ s.clk.chipAk) (hev' : s.clk.chipAk < ev + 40) (hwins : runWinsOpen s rt [x.berth] x.plots = true) :
    doStreamUnitLaunch s n ev = unitLaunched s n x u rt := by
  have hidle : ¬ (u.launchAk.isSome = true ∨ u.req.isSome = true ∨ x.failed = true ∨ x.suspended = true ∨ frozen s = true ∨
      (findRun s x.key).isSome = true) := by
    simp only [hl, hreq, hf, hsus, hfrozen, hr, Option.isSome_none, Bool.false_eq_true, or_self, not_false_eq_true]
  simp only [doStreamUnitLaunch, hx, hu, hrt]
  refine (if_neg hidle).trans ((if_neg ?_).trans ((if_neg ?_).trans rfl))
  · simp only [hstop, Option.isSome_none, Bool.false_eq_true, false_and, not_false_eq_true]
  · simp only [h32, Nat.not_lt.mpr hstart, hy, hyev, hev, hev', hwins, Option.isNone_some, Option.getD_some, decide_true, Bool.not_true,
      Bool.not_false, Bool.and_self, Bool.or_false, Bool.false_eq_true, ne_eq, not_true_eq_false, or_self, not_false_eq_true]

/-- The launch of a unit's run: no command of its own is touched. -/
theorem startRun_unit {r : Run} (hr : findRun s r.key = some r) (hst : r.stream = some n) :
    findRun (startRun s r) r.key = some (launchedRun s r) ∧ onlyChanged [.runs, .pel, .regs] s (startRun s r) := by
  let w := traceLaunch (tagLive (putRun s (launchedRun s r)) (launchedRun s r)) (launchedRun s r)
  have hw : onlyChanged [.pel, .regs] (putRun s (launchedRun s r)) w :=
    only_then (only_mono (tagLive_only _ _) (by decide)) (traceLaunch_only _ _)
  have hgo : startRun s r = w := by
    change (match findCmd w r.key with
      | some c => if r.stream.isSome then w else askPeers (putCmd w { c with phase := .running, runs := c.runs + 1 }) (launchedRun s r)
      | none => w) = w
    rw [hst]
    split <;> rfl
  rw [hgo]
  exact ⟨(findRun_congr (only_runs hw (by decide)) _).trans (findRun_putRun (r := launchedRun s r) hr),
    only_then (only_mono (putRun_only _ _) (by decide)) hw⟩

theorem unitLaunched_leaves (hr : findRun s x.key = none) :
    let t := unitLaunched s n x u rt
    (∃ z, findRun t x.key = some z ∧ z.phase = .setup ∧ z.launchAk = s.clk.chipAk ∧ z.stream = some n) ∧
      mget t.streams n = some (unitLaunching s x u) ∧ onlyChanged [.streams, .runs, .chart, .pel, .regs] s t := by
  intro t
  have hready := unitReady_only s n x u rt
  have hnone : findRun (unitReady s n x u rt) x.key = none := (findRun_congr (only_runs hready (by decide)) _).trans hr
  obtain ⟨hfound, hrun⟩ := startRun_unit (r := unitRun s n x rt) (findRun_append (r := unitRun s n x rt) hnone) rfl
  have htail : onlyChanged [.runs, .pel, .regs] (unitReady s n x u rt) t := only_trans (only_mono (setRuns_only _ _) (by decide)) hrun
  refine ⟨⟨_, hfound, rfl, ?_, rfl⟩, ?_, only_then (only_mono hready (by decide)) htail⟩
  · exact (congrArg Clk.chipAk (only_clk hready (by decide)) :)
  · exact stream_found (only_then (gs := [.chart, .runs, .pel, .regs]) (only_mono (openWins_only _ _) (by decide)) htail)

end

/-- Settles O59: each packet and frame by what it leaves of its binding, a unit by its run at the launch. -/
theorem soundingFrames : Obligations.SoundingFrames := by
  intro s port vc hrx hcut n
  refine ⟨?_, ?_, fun f hn => ?_, fun x hx ht => ⟨fun hopen => ?_, fun f hh => ?_, ?_⟩, ?_⟩
  · exact gives_of_eq rfl (doCsiPacketIgnored_packet hrx hcut) ⟨gcount_counted _ _ _, gcount_only _ _ _⟩
  · refine gives_of_eq rfl (doCsiPacketIgnored_hdr hrx hcut)
      ⟨fun e he hp ho => ?_, only_then (only_mono (gcount_only _ _ _) (by decide)) (setStreams_only _ _)⟩
    obtain ⟨d, -, rfl⟩ := List.mem_map.mp he
    exact hdrHit_badHdr hp ho
  · obtain ⟨m, hm⟩ := doSoundingFrameEnd_unbound (f := f) hrx hcut hn
    exact gives_of_eq rfl hm (only_trans (rxCounted_only _ _ _) (gcount_only _ _ _))
  · exact gives_of_eq rfl (doSoundingFrameStart_opens hrx hx ht hopen) ⟨rfl, setStream_only _ _ _⟩
  · obtain ⟨hstreams, ho⟩ := unreadable_leaves (rxCounted s (port % 4) f) n (frameEnded s n x (stampIk s))
    exact gives_of_eq rfl (doSoundingFrameEnd_unreadable hrx hcut hx ht hh)
      ⟨hstreams, only_trans (only_mono (rxCounted_only _ _ _) (by decide)) ho⟩
  · intro f h hh hnext hunit hstop hserved hrow hbad hpay hshape hformat helems hstore
    have hserve := readableEnd_serves (x := { x with next := some h.seq }) (tfe := stampIk s) hunit hstop hserved hrow hbad hpay hshape hformat
      helems hstore
    obtain ⟨hleft, ho⟩ := serveFrame_leaves (storeFrame (rxCounted s (port % 4) f) n { x with next := some h.seq } (mapOf s x) h f).1 n
      (frameEnded (rxCounted s (port % 4) f) n { x with next := some h.seq } (stampIk s)) h (stampIk s) f.payload
    exact gives_of_eq rfl ((doSoundingFrameEnd_next hrx hcut hx ht hh hnext).trans hserve)
      ⟨hleft, only_then (only_then (only_mono (rxCounted_only _ _ _) (by decide)) (storeFrame_only _ _ _ _ _ _)) ho⟩
  · intro x u rt ev y hx hu hrt hl hreq hf hsus hstop hfrozen hr h32 hstart hy hyev hev hev' hwins
    obtain ⟨hrun, hstream, ho⟩ := unitLaunched_leaves (n := n) (u := u) (rt := rt) hr
    exact gives_of_eq rfl (doStreamUnitLaunch_first hx hu hrt hl hreq hf hsus hstop hfrozen hr h32 hstart hy hyev hev hev' hwins)
      ⟨hrun, ⟨_, hstream, rfl⟩, ho⟩

/-! ## FIX_FRAME_EMIT (12 R308, R311, R312) -/

/-- The free value that a frame before any readable Sounding draws (log 52). -/
def drawnMiss (s : State) (x : Stream) : Nat × State := if x.next.isNone then freeNat s 52 else (0, s)

theorem drawnMiss_only (s : State) (x : Stream) : onlyChanged [.free] s (drawnMiss s x).2 := by
  unfold drawnMiss
  split
  · simp [onlyChanged, freeNat]
  · exact only_refl _ _

/-- The transmit port of a binding. -/
def txPort (x : Stream) : Nat := x.tx / 16 % 4

/-- A port on whose lanes the next frame starts. -/
def burstBegun (c : CsiTx) : CsiTx := { c with busy := true, frameNo := if c.frameNo ≥ 65535 then 1 else c.frameNo + 1 }

/-- What follows a frame's start: its trace record, and the counts and the notice of a HOLD for no Sounding and of a late frame (12 R312). -/
def startReported (s : State) (n : Nat) (y : Stream) (seq : Word) (d : FixDue) (now : Mer) : State :=
  let v := traceStream s n y seq d.kind d.reason
  let w := if d.status = 0xFF ∧ d.kind = 2 then streamCount v y.key.ctx n 3 else v
  if d.due + 200 * nsU < now then
    raiseNotice (streamCount w y.key.ctx n 7) srcLateFix false
      { cls := 0, cause := 0x30, unitKind := 5, unitNo := txPort y, key := some y.key }
  else w

theorem startReported_only (s : State) (n : Nat) (y : Stream) (seq : Word) (d : FixDue) (now : Mer) :
    onlyChanged reportGroups s (startReported s n y seq d now) := by
  have hv : onlyChanged reportGroups s (traceStream s n y seq d.kind d.reason) := only_mono (traceStream_only _ _ _ _ _ _) (by decide)
  have hw := only_ite (c := d.status = 0xFF ∧ d.kind = 2) (only_then hv (streamCount_only _ y.key.ctx n 3)) hv
  exact only_ite (only_trans (only_then hw (streamCount_only _ _ _ _)) (raiseNotice_only _ _ _ _)) hw

/-- A frame that starts is its binding's frame on the lanes and its port's burst. -/
theorem startFix_begins (s : State) (n : Nat) (x : Stream) (d : FixDue) (rest : List FixDue) : ∃ y seq,
    startFix s n x d rest = startReported ((setStream (drawnMiss s x).2 n y).setCsi (lupd (drawnMiss s x).2.csi (txPort x) burstBegun))
      n y seq d (stampIk (drawnMiss s x).2) ∧
    y.due = rest ∧ y.onLanes = some (d, stampIk (drawnMiss s x).2) ∧ y.fixCount = x.fixCount + 1 ∧ y.emitted.isSome = true :=
  ⟨_, _, rfl, rfl, rfl, rfl, rfl⟩

section
variable {d : FixDue} {rest : List FixDue}

/-- The cases of a binding with a frame due: not its time yet, too late, its port taken, or its start. -/
theorem doFixFrameEmit_due {c : CsiTx} (hx : mget s.streams n = some x) (hd : x.due = d :: rest) (hc : s.csi[txPort x]? = some c) :
    doFixFrameEmit s n =
      if x.failed ∨ x.suspended ∨ s.bin.txCut ∨ x.onLanes.isSome ∨ stampIk s < d.due ∨ !txEn s (txPort x) then s
      else if d.due + 10 * usU < stampIk s then failStream s n 1
      else if !d.ready ∨ !portFree c d.due (stampIk s) then s
      else startFix s n x d rest := by
  rw [txPort] at hc
  simp only [doFixFrameEmit, hx, hd, hc]
  rfl

theorem doFixFrameEmit_starts {c : CsiTx} (hx : mget s.streams n = some x) (hd : x.due = d :: rest) (hc : s.csi[txPort x]? = some c)
    (hf : x.failed = false) (hsus : x.suspended = false) (hlanes : x.onLanes = none) (hdue : d.due ≤ stampIk s)
    (hlate : stampIk s ≤ d.due + 10 * usU) (hready : d.ready = true) (hfree : portFree c d.due (stampIk s) = true)
    (htx : txEn s (txPort x) = true) (hcut : s.bin.txCut = false) : doFixFrameEmit s n = startFix s n x d rest := by
  have hgo : ¬ (x.failed = true ∨ x.suspended = true ∨ s.bin.txCut = true ∨ x.onLanes.isSome = true ∨ stampIk s < d.due ∨
      (!txEn s (txPort x)) = true) := by
    simp only [hf, hsus, hcut, hlanes, htx, Nat.not_lt.mpr hdue, Option.isSome_none, Bool.not_true, Bool.false_eq_true, or_self,
      not_false_eq_true]
  have hport : ¬ ((!d.ready) = true ∨ (!portFree c d.due (stampIk s)) = true) := by
    simp only [hready, hfree, Bool.not_true, Bool.false_eq_true, or_self, not_false_eq_true]
  rw [doFixFrameEmit_due hx hd hc, if_neg hgo, if_neg (Nat.not_lt.mpr hlate), if_neg hport]

end

/-- A started frame is on the lanes of its port. -/
theorem startFix_leaves {c : CsiTx} (hc : s.csi[txPort x]? = some c) (n : Nat) (d : FixDue) (rest : List FixDue) :
    let t := startFix s n x d rest
    (∃ y, mget t.streams n = some y ∧ y.due = rest ∧ y.onLanes = some (d, stampIk s) ∧ y.fixCount = x.fixCount + 1 ∧
      y.emitted.isSome = true) ∧ (∃ e, t.csi[txPort x]? = some e ∧ e.busy = true) ∧
      onlyChanged (.streams :: .csi :: .free :: reportGroups) s t := by
  intro t
  obtain ⟨y, seq, hbegin, hdue, hlanes, hcount, hemit⟩ := startFix_begins s n x d rest
  have hdraw := drawnMiss_only s x
  have ho := startReported_only ((setStream (drawnMiss s x).2 n y).setCsi (lupd (drawnMiss s x).2.csi (txPort x) burstBegun)) n y seq d
    (stampIk (drawnMiss s x).2)
  have hc' : (drawnMiss s x).2.csi[txPort x]? = some c := only_csi hdraw (by decide) ▸ hc
  rw [stampIk_congr (only_clk hdraw (by decide)) (only_ms hdraw (by decide))] at hlanes
  rw [← hbegin] at ho
  refine ⟨⟨y, ?_, hdue, hlanes, hcount, hemit⟩, ⟨burstBegun c, ?_, rfl⟩, ?_⟩
  · exact stream_found (only_then (gs := .csi :: reportGroups) (only_mono (setCsi_only _ _) (by decide)) ho)
  · exact port_found (getElem?_lupd burstBegun hc') ho
  · exact only_then (only_then (only_then (only_mono hdraw (by decide)) (setStream_only _ _ _)) (setCsi_only _ _)) ho

/-! ## FIX_FRAME_SENT (12 R301, R306, R311) -/

/-- The journal entry that a sent frame completes leaves the journal queue. -/
theorem streamCommitted_leaves (s : State) (n : Nat) (x : Stream) (seq : Word) :
    (streamCommitted s n x seq).log.queue = s.log.queue ∧ onlyChanged [.log] s (streamCommitted s n x seq) := by
  unfold streamCommitted
  split
  · exact ⟨rfl, only_trans (setLog_only _ _) (writeJournal_only _ _)⟩
  · exact ⟨rfl, only_refl _ _⟩

/-- A port whose burst has left the lanes. -/
def burstEnded (s : State) (c : CsiTx) : CsiTx := { c with busy := false, burstEnd := stamp s }

/-- The lanes free again, the frame out, its bytes counted. -/
def frameOut (s : State) (x : Stream) (f : FixFrame) : State :=
  gcount (emit (s.setCsi (lupd s.csi (txPort x) (burstEnded s))) (.fix (txPort x) (x.tx % 16) f)) (0x5004 + txPort x) (fixWire f)

/-- A frame that has left the lanes: it is out, its binding free for the next, its unit's journal entry completed. -/
def fixSent (s : State) (n : Nat) (x : Stream) (d : FixDue) (f : FixFrame) : State :=
  let v := setStream (frameOut s x f) n { x with onLanes := none, emitted := none }
  if d.answers then streamCommitted v n x d.seq else v

theorem frameOut_leaves (s : State) (x : Stream) (f : FixFrame) :
    (frameOut s x f).out = s.out ++ [.fix (txPort x) (x.tx % 16) f] ∧ onlyChanged [.csi, .pel, .out] s (frameOut s x f) :=
  ⟨emit_out _ _, only_then (only_then (only_mono (setCsi_only _ _) (by decide)) (emit_only _ _)) (gcount_only _ _ _)⟩

theorem fixSent_leaves (s : State) (n : Nat) (x : Stream) (d : FixDue) (f : FixFrame) :
    let t := fixSent s n x d f
    t.out = s.out ++ [.fix (txPort x) (x.tx % 16) f] ∧ mget t.streams n = some { x with onLanes := none, emitted := none } ∧
      t.log.queue = s.log.queue ∧ onlyChanged [.streams, .csi, .pel, .out, .log] s t := by
  intro t
  obtain ⟨hout, hframe⟩ := frameOut_leaves s x f
  have hqueue : (frameOut s x f).log.queue = s.log.queue := congrArg LogSt.queue (only_log hframe (by decide))
  let v := setStream (frameOut s x f) n { x with onLanes := none, emitted := none }
  have htail : t.log.queue = v.log.queue ∧ onlyChanged [.log] v t := by
    obtain ⟨hcommit, ho⟩ := streamCommitted_leaves v n x d.seq
    change (if d.answers then streamCommitted v n x d.seq else v).log.queue = _ ∧ onlyChanged [.log] v (if d.answers then _ else v)
    split
    · exact ⟨hcommit, ho⟩
    · exact ⟨rfl, only_refl _ _⟩
  obtain ⟨hlog, ho⟩ := htail
  exact ⟨(only_out ho (by decide)).trans hout, stream_found ho, hlog.trans hqueue,
    only_then (only_then (only_mono hframe (by decide)) (setStream_only _ _ _)) ho⟩

section
variable {d : FixDue} {f : FixFrame} {t0 : Mer} (hx : mget s.streams n = some x) (hl : x.onLanes = some (d, t0))
  (hf : x.emitted = some f) (hcut : s.bin.txCut = false)
include hx hl hf hcut

/-- A frame other than UNBOUND asks for no commit. -/
theorem doFixFrameSent_plain (hd : d.reason ≠ 8) : doFixFrameSent s n = fixSent s n x d f := by
  simp only [doFixFrameSent, hx, hl, hf, hcut, Bool.false_eq_true, if_false]
  split
  · next h _ => exact absurd h hd
  · rfl

/-- The UNBOUND frame of an unbind asks for its commit. -/
theorem doFixFrameSent_unbound (hd : d.reason = 8) (hu : x.unbind = some k) (hc : findCmd s k = some c) :
    ∃ q, doFixFrameSent s n = fileReq (fixSent s n x d f) c q ∧ q.status = 0 := by
  obtain ⟨-, -, -, ho⟩ := fixSent_leaves s n x d f
  have hc' : findCmd (fixSent s n x d f) k = some c := (findCmd_congr (only_cmds ho (by decide)) k).trans hc
  refine ⟨{ plainReq (fixSent s n x d f) 0 0 0 0 0 with charge := c.chargeDue }, ?_, rfl⟩
  simp only [doFixFrameSent, hx, hl, hf, hcut, Bool.false_eq_true, if_false]
  split
  · next k' _ hk' =>
    obtain rfl : k' = k := Option.some.inj (hk'.symm.trans hu)
    split
    · next c' hfound =>
      obtain rfl : c' = c := Option.some.inj (hfound.symm.trans hc')
      rfl
    · next hnone => exact nomatch hnone.symm.trans hc'
  · next hother => exact absurd hu (hother k hd)

end

/-! ## STREAM_WATCHDOG (12 R309) -/

theorem doStreamWatchdog_expires {t0 w : Mer} (hx : mget s.streams n = some x) (hdog : x.dogAt = some t0) (hw : watchdogOf s n = some w)
    (hpast : t0 < stampIk s) (ht : takes s x = true) (hstop : x.stopAt = none) :
    doStreamWatchdog s n = setStream s n { x with dogAt := some (t0 + w), due := insDue (holdDue t0 7 0 none false) x.due } := by
  simp only [doStreamWatchdog, hx, hdog, hw, Nat.not_le.mpr hpast, ht, hstop, Option.isSome_none, Bool.not_true, Bool.false_eq_true, or_self,
    if_false]

/-! ## STREAM_FAILED (12 R313) -/

/-- A binding that is silent. -/
def silenced (x : Stream) : Stream :=
  { x with failed := true, due := [], onLanes := none, emitted := none, dogAt := none, frameOpen := none }

theorem silenceStream_leaves (hx : mget s.streams n = some x) :
    mget (silenceStream s n).streams n = some (silenced x) ∧ onlyChanged [.streams, .csi] s (silenceStream s n) := by
  simp only [silenceStream, hx]
  exact ⟨mget_mset_same _ _ _, only_then (only_ite (only_mono (setCsi_only _ _) (by decide)) (only_refl _ _)) (setStream_only _ _ _)⟩

/-- The CONTEXT event of a binding that fails. -/
def streamFault (x : Stream) (n detail : Nat) : EvArg :=
  { cls := 4, cause := 0x21, unitKind := 5, unitNo := txPort x, key := some x.key, detail := b1 n ++ b1 detail }

/-- A silent binding's context, due for its reset (15 R356). -/
def resetAsked (s : State) (x : Stream) : State := s.setHelm { s.helm with ctxResetDue := s.helm.ctxResetDue ++ [x.key.ctx] }

theorem failStream_fails (hx : mget s.streams n = some x) (hf : x.failed = false) (detail : Nat) :
    failStream s n detail = raiseEvent (resetAsked (silenceStream s n) x) (streamFault x n detail) := by
  simp only [failStream, hx, hf, Bool.false_eq_true, if_false]
  rfl

theorem failStream_leaves (hx : mget s.streams n = some x) (hf : x.failed = false) (detail : Nat) :
    let t := failStream s n detail
    mget t.streams n = some (silenced x) ∧ (rget t 0x100).testBit 4 = true ∧ t.helm.ctxResetDue = s.helm.ctxResetDue ++ [x.key.ctx] ∧
      onlyChanged (.streams :: .csi :: .helm :: reportGroups) s t := by
  intro t
  obtain ⟨hsilent, ho⟩ := silenceStream_leaves hx
  have ht : t = raiseEvent (resetAsked (silenceStream s n) x) (streamFault x n detail) := failStream_fails hx hf detail
  have hevent := raiseEvent_only (resetAsked (silenceStream s n) x) (streamFault x n detail)
  rw [ht]
  refine ⟨?_, raiseEvent_bit _ (streamFault x n detail) (show 4 < 32 by decide), ?_,
    only_then (only_then (only_mono ho (by decide)) (setHelm_only _ _)) hevent⟩
  · exact (congrArg (mget · n) (only_streams hevent (by decide))).trans hsilent
  · rw [only_helm hevent (by decide)]
    exact congrArg (fun h : Helm => h.ctxResetDue ++ [x.key.ctx]) (only_helm ho (by decide))

theorem doStreamFailed_portFault (hx : mget s.streams n = some x) (hsus : x.suspended = false) (hcut : s.bin.txCut = false) :
    doStreamFailed s n true = failStream s n 0 := by
  simp only [doStreamFailed, hx, hsus, hcut, Bool.true_or, Bool.not_true, Bool.false_eq_true, or_self, if_false, if_true]

/-! ## SKEW_CALIBRATION (12 R295) -/

/-- A calibration that is due, on a free port none of whose frames it delays, is sent. -/
theorem doSkewCalibration_sends {port : Nat} {dur : Mer} {c : CsiTx} (hc : s.csi[port % 4]? = some c) (htx : txEn s (port % 4) = true)
    (hms : skewMs s (port % 4) ≠ 0) (hbusy : c.busy = false) (hdue : c.skewAt + skewMs s (port % 4) * 1000 * usU ≤ stamp s)
    (hroom : ∀ e, e ∈ s.streams → e.2.tx / 16 % 4 = port % 4 → ∀ d, d ∈ e.2.due → stamp s + dur + usU ≤ d.due)
    (hcut : s.bin.txCut = false) : ∃ l, doSkewCalibration s port dur = (s.setCsi l).setOut (s.out ++ [.skew (port % 4)]) := by
  have hnone : s.streams.any (fun e => decide (e.2.tx / 16 % 4 = port % 4) && e.2.due.any (fun d => decide (d.due < stamp s + dur + usU))) =
      false := by
    simp only [List.any_eq_false, Bool.and_eq_true, decide_eq_true_eq, List.any_eq_true, not_and, not_exists, not_lt]
    exact hroom
  simp only [doSkewCalibration, hc, htx, hcut, hms, hbusy, Nat.not_lt.mpr hdue, hnone, Bool.not_true, Bool.false_eq_true, or_self, if_false]
  exact ⟨_, rfl⟩

/-- Settles O60: a frame by its start and its end on the lanes, a watchdog by the HOLD it inserts, a failed binding by its silence and its event,
a calibration by what leaves. -/
theorem fixFrames : Obligations.FixFrames := by
  intro s hcut
  refine ⟨?_, fun n x d t0 f hx hl hf hd => ?_, fun n x d t0 f k c hx hl hf hd hu hc => ?_, fun n x t0 w hx hdog hw hpast ht hstop => ?_,
    fun n x hx hsus hf => ?_, fun port dur c hc htx hms hbusy hdue hroom => ?_⟩
  · intro n x d rest c hx hd hc hf hsus hlanes hdue hlate hready hfree htx
    exact gives_of_eq rfl (doFixFrameEmit_starts hx hd hc hf hsus hlanes hdue hlate hready hfree htx hcut) (startFix_leaves hc n d rest)
  · obtain ⟨hout, hfound, -, ho⟩ := fixSent_leaves s n x d f
    exact gives_of_eq rfl (doFixFrameSent_plain hx hl hf hcut hd) ⟨hout, ⟨_, hfound, rfl, rfl⟩, ho⟩
  · obtain ⟨hout, -, hqueue, ho⟩ := fixSent_leaves s n x d f
    obtain ⟨q, hsent, hq⟩ := doFixFrameSent_unbound hx hl hf hcut hd hu hc
    obtain rfl := findCmd_key hc
    have hc' : findCmd (fixSent s n x d f) c.key = some c := (findCmd_congr (only_cmds ho (by decide)) _).trans hc
    exact gives_of_eq rfl hsent ⟨filedAs_since hqueue (fileReq_filedAs (only_refl [] _) hc' hq), hout⟩
  · exact gives_of_eq rfl (doStreamWatchdog_expires hx hdog hw hpast ht hstop) ⟨rfl, setStream_only _ _ _⟩
  · obtain ⟨hsilent, hrest⟩ := failStream_leaves hx hf 0
    exact gives_of_eq rfl (doStreamFailed_portFault hx hsus hcut) ⟨⟨_, hsilent, rfl, rfl, rfl⟩, hrest⟩
  · obtain ⟨l, hl⟩ := doSkewCalibration_sends hc htx hms hbusy hdue hroom hcut
    exact gives_of_eq rfl hl ⟨rfl, only_then (only_mono (setCsi_only _ _) (by decide)) (setOut_only _ _)⟩

end Sys2Proof.Proofs

/-! SUPPORT. The proofs of the statements of 13_meridian_time.md to 95_what_each_step_holds.md, first part: the machine as a whole. What every
command keeps, the queue and the step, the invariant, the flash, Meridian time, SAFE-LISTEN and the safe state. -/

namespace Sys2Proof.Proofs
open Sys2Proof Sys2Proof.Machine Sys2Proof.Laws

/- One proof at a time: elaborated beside the pending kernel checks of the text's tests, they need more threads than the memory limit holds. -/
set_option Elab.async false

variable {K : Keep} {s t : State}

/-! ## Writes of a setup register: all that moves STATE or ends the safe state is the warm reset's register and BIN_RECOVER -/

theorem lowWrite_kept_of {path off : Nat} {w : Word} (ri : RegInfo) (hs : Kept K s) (hwarm : Kept K (doWarmReset s path w)) :
    Kept K (lowWrite s path off ri w) := by
  unfold lowWrite
  refine kept_ite (errStatWrite_kept _ _ hs) (kept_ite hwarm (kept_ite (ctxBaseWrite_kept _ _ _ hs) (kept_ite (ctxBaseWrite_kept _ _ _ hs)
    (kept_ite (fieldsWrite_kept _ _ _ _ _ hs) (kept_ite (rsvWrite_kept _ _ hs) (kept_ite (ctxCmdWrite_kept _ _ hs)
    (kept_ite (fnCtxWrite_kept _ _ _ hs) (kept_ite (dbgWrite_kept _ _ hs) (kept_ite (winCtlWrite_kept _ _ hs)
    (kept_ite (doAlmLinesWrite_kept _ _ _ hs) (kept_ite (bankPwrWrite_kept _ _ _ hs) (kept_ite (doWindowDescriptorWrite_kept _ _ _ _ hs)
    (kept_ite (rangeCtl_kept _ _ _ hs) (kept_ite (doHeadingEntryLatch_kept _ _ _ hs) (plainWrite_kept _ _ _ _ _ hs)))))))))))))))

theorem highWrite_kept_of {path off : Nat} {w : Word} (ri : RegInfo) (hs : Kept K s)
    (hleave : off = 0xD0008 → Kept K (doBinRecover s path w)) : Kept K (highWrite s path off ri w) := by
  unfold highWrite
  refine kept_ite (csiWrite_kept _ _ _ _ hs) (kept_ite (csiWrite_kept _ _ _ _ hs) (kept_ite (kept_ite hs (plainWrite_kept _ _ _ _ _ hs))
    (kept_ite (merCtl_kept _ _ hs) (kept_ite (srcWrite_kept _ _ _ hs) (kept_ite (fieldsWrite_kept _ _ _ _ _ hs)
    (kept_ite (portCfgWrite_kept _ _ _ hs) (kept_ite (outCfg_kept _ _ _ hs) (kept_ite (outWrite_kept _ _ _ _ hs)
    (kept_ite (inWrite_kept _ _ _ hs) (kept_ite (fltCfgWrite_kept _ _ hs) (kept_ite (fieldsWrite_kept _ _ _ _ _ hs)
    (kept_ite (fltStopWrite_kept _ _ hs) (kept_ite (kept_ite hs (plainWrite_kept _ _ _ _ _ hs))
    (kept_ite (kept_ite (clearCounters_kept _ hs) hs) (kept_ite (traceCtlWrite_kept _ _ hs) (kept_ite (wakeSelWrite_kept _ _ hs)
    (kept_ite (binCfgWrite_kept _ _ hs) ?_)))))))))))))))))
  split
  · exact hleave ‹_›
  · exact kept_ite (logWinWrite_kept _ _ _ hs) (plainWrite_kept _ _ _ _ _ hs)

/-- A write of a setup register keeps what a write of WARM keeps and, where it reaches BIN_RECOVER, what that one keeps. -/
theorem regWrite_kept_of {path off : Nat} {w : Word} (hs : Kept K s) (hwarm : Kept K (doWarmReset s path w))
    (hleave : off = 0xD0008 → Kept K (doBinRecover s path w)) : Kept K (regWrite s path off w) := by
  unfold regWrite
  split
  · exact hs
  · exact kept_ite hs (kept_ite (lowWrite_kept_of _ hs hwarm) (highWrite_kept_of _ hs hleave))

/-- REGISTER_WRITE below the mailbox. -/
theorem doRegisterWrite_kept_setup {path off : Nat} {w : Word} {full ep : Bool} (hoff : off < 0x100000) (hs : Kept K s)
    (hwrite : ∀ v, Kept K v → v.boot = s.boot → v.bin = s.bin → Kept K (regWrite v path off w)) :
    Kept K (doRegisterWrite s path off w full ep) := by
  have hspace : ∀ v, spaceWrite v path off w = regWrite v path off w := fun v => if_pos hoff
  unfold doRegisterWrite
  refine kept_ite (setPci_kept hs) (kept_ite ?_ (kept_ite hs (pcieIn_kept _ _ hs)))
  rw [hspace]
  split
  · exact hwrite s hs rfl rfl
  · exact hwrite _ (pcieIn_kept _ _ hs) rfl rfl

theorem doRegisterWrite_kept_of {path off : Nat} {w : Word} {full ep : Bool} (hs : Kept K s) (hB : K.boot = none) (hH : K.held = false)
    (hmbx : 0x100000 ≤ off → K.flash = none ∧ K.time = none) (hU : K.up = false) : Kept K (doRegisterWrite s path off w full ep) := by
  by_cases hoff : off < 0x100000
  · exact doRegisterWrite_kept_setup hoff hs (fun v hv _ _ => regWrite_kept v path off w hv hB hH)
  · obtain ⟨hF, hT⟩ := hmbx (Nat.le_of_not_lt hoff)
    exact doRegisterWrite_kept s path off w full ep hs hF hT hB hU hH

/-! ## What every command keeps -/

/-- The commands that can write the power-up group: its steps, DEVICE conditions, resets, and register writes. -/
def writesBoot : Instr → Bool
  | .deviceEvent _ _ | .safeStateExit | .binRecover _ _ | .warmReset _ _ | .warmResetComplete _ | .lockstepMismatch | .binOscLoss
  | .clockMonitorWindow _ _ _ | .voltageSample _ _ | .temperatureSample _ _ | .heartbeatTimeout _ | .avsReadback _ | .pmbAlert _ _
  | .deadlineWatch _ | .traceabilityLoss | .linkReset _ _ | .w1cClear _ _ _ _ | .counterClear _ _ | .wakePageLatch _ | .logWindowLatch _ _
  | .binCfgWrite _ _ | .porPin _ _ | .binnacleSelfTestEnd _ | .rootPllLock _ _ | .bootRomEnd _ _ _ | .selfTestEnd _ _ _ _ _ _ _
  | .firmwareReadEnd _ | .readyOp _ _ _ _ _ | .bootTimeout | .supplyDetectReset _ _ | .powerDown _ _ _ | .i3cWriteWords _ _
  | .vddSiOutOfWindow _ | .vddSiLowReset _ | .bootStepDeadline _ | .registerWrite _ _ _ _ _ | .mbxReboot _ | .mbxListen _ => true
  | _ => false

/-- The commands that can end the safe state, by themselves or through a register or the mailbox. -/
def touchesSafe : Instr → Bool
  | .safeStateExit | .binRecover _ _ | .warmReset _ _ | .linkReset _ _ | .w1cClear _ _ _ _ | .counterClear _ _ | .wakePageLatch _
  | .logWindowLatch _ _ | .binCfgWrite _ _ | .readyOp _ _ _ _ _ | .supplyDetectReset _ _ | .powerDown _ _ _ | .i3cWriteWords _ _
  | .vddSiLowReset _ | .registerWrite _ _ _ _ _ | .mbxReboot _ | .mbxListen _ => true
  | _ => false

/-- Every command goes on, and keeps the queue, the form of the memories and SAFE_N; the flash, Meridian time, the power-up group and the safe
state where it is none of the commands named for them. -/
theorem exec_kept (c : Instr) (hs : Kept K s) (hF : mailboxLike c = true → K.flash = none) (hT : clockLike c = true → K.time = none)
    (hB : writesBoot c = true → K.boot = none) (hH : touchesSafe c = true → K.held = false) (hC : K.calm = false) (hU : K.up = false) :
    ∃ t, exec c s = .next t ∧ Kept K t := by
  cases c with
  | doorbell => exact ⟨_, rfl, doDoorbell_kept (hK := hs) ..⟩
  | ringEnable => exact ⟨_, rfl, doRingEnable_kept (hK := hs) ..⟩
  | ringDisable => exact ⟨_, rfl, doRingDisable_kept (hK := hs) ..⟩
  | descriptorAccept => exact ⟨_, rfl, doDescriptorAccept_kept (hK := hs) ..⟩
  | loadModel => exact ⟨_, rfl, doLoadModel_kept (hK := hs) ..⟩
  | fitCheck => exact ⟨_, rfl, doFitCheck_kept (hK := hs) ..⟩
  | unloadModel => exact ⟨_, rfl, doUnloadModel_kept (hK := hs) ..⟩
  | unloadComplete => exact ⟨_, rfl, doUnloadComplete_kept (hK := hs) ..⟩
  | solveCmd => exact ⟨_, rfl, doSolve_kept (hK := hs) ..⟩
  | solveBatch => exact ⟨_, rfl, doSolveBatch_kept (hK := hs) ..⟩
  | estimateCmd => exact ⟨_, rfl, doEstimate_kept (hK := hs) ..⟩
  | streamBind => exact ⟨_, rfl, doStreamBind_kept (hK := hs) ..⟩
  | streamUnbind => exact ⟨_, rfl, doStreamUnbind_kept (hK := hs) ..⟩
  | timedLaunch => exact ⟨_, rfl, doTimedLaunch_kept (hK := hs) ..⟩
  | timedLaunchArm => exact ⟨_, rfl, doTimedLaunchArm_kept (hK := hs) ..⟩
  | launchTrigger => exact ⟨_, rfl, doLaunchTrigger_kept (hK := hs) ..⟩
  | beaconSignal => exact ⟨_, rfl, doBeaconSignal_kept (hK := hs) ..⟩
  | beaconWait => exact ⟨_, rfl, doBeaconWait_kept (hK := hs) ..⟩
  | beaconWaitSatisfied => exact ⟨_, rfl, doBeaconWaitSatisfied_kept (hK := hs) ..⟩
  | beaconWaitTimeout => exact ⟨_, rfl, doBeaconWaitTimeout_kept (hK := hs) ..⟩
  | fenceCmd => exact ⟨_, rfl, doFence_kept (hK := hs) ..⟩
  | fenceComplete => exact ⟨_, rfl, doFenceComplete_kept (hK := hs) ..⟩
  | watchCmd => exact ⟨_, rfl, doWatch_kept (hK := hs) ..⟩
  | watchFire => exact ⟨_, rfl, doWatchFire_kept (hK := hs) ..⟩
  | watchCopyEnd => exact ⟨_, rfl, doWatchCopyEnd_kept (hK := hs) ..⟩
  | watchTruncate => exact ⟨_, rfl, doWatchTruncate_kept (hK := hs) ..⟩
  | attestCmd => exact ⟨_, rfl, doAttest_kept (hK := hs) ..⟩
  | schedulingRound => exact ⟨_, rfl, doSchedulingRound_kept (hK := hs) ..⟩
  | ladderRetry => exact ⟨_, rfl, doLadderRetry_kept (hK := hs) ..⟩
  | contextResidency => exact ⟨_, rfl, doContextResidency_kept (hK := hs) ..⟩
  | queuedDeadlineExpiry => exact ⟨_, rfl, doQueuedDeadlineExpiry_kept (hK := hs) ..⟩
  | launchCycle => exact ⟨_, rfl, doLaunchCycle_kept (hK := hs) ..⟩
  | ladderStep => exact ⟨_, rfl, doLadderStep_kept (hK := hs) ..⟩
  | setupEnd => exact ⟨_, rfl, doSetupEnd_kept (hK := hs) ..⟩
  | iterationEnd => exact ⟨_, rfl, doIterationEnd_kept (hK := hs) ..⟩
  | deadlineTrigger => exact ⟨_, rfl, doDeadlineTrigger_kept (hK := hs) ..⟩
  | deadlineStop => exact ⟨_, rfl, doDeadlineStop_kept (hK := hs) ..⟩
  | commitPoint => exact ⟨_, rfl, doCommitPoint_kept (hK := hs) ..⟩
  | recheckEnd => exact ⟨_, rfl, doRecheckEnd_kept (hK := hs) (hC := hC) ..⟩
  | committing => exact ⟨_, rfl, doCommitting_kept (hK := hs) (hC := hC) ..⟩
  | batchTick => exact ⟨_, rfl, doBatchTick_kept (hK := hs) ..⟩
  | firstOp => exact ⟨_, rfl, doFirst_kept (hK := hs) ..⟩
  | mac => exact ⟨_, rfl, doMac_kept (hK := hs) ..⟩
  | msub => exact ⟨_, rfl, doMsub_kept (hK := hs) ..⟩
  | preload => exact ⟨_, rfl, doPreload_kept (hK := hs) ..⟩
  | drainOp => exact ⟨_, rfl, doDrain_kept (hK := hs) ..⟩
  | idleOp => exact ⟨_, rfl, doIdle_kept (hK := hs) ..⟩
  | columnStep => exact ⟨_, rfl, doColumnStep_kept (hK := hs) ..⟩
  | pivotDiv => exact ⟨_, rfl, doPivotDiv_kept (hK := hs) ..⟩
  | fma => exact ⟨_, rfl, doFma_kept (hK := hs) ..⟩
  | add => exact ⟨_, rfl, doAdd_kept (hK := hs) ..⟩
  | sub => exact ⟨_, rfl, doSub_kept (hK := hs) ..⟩
  | mul => exact ⟨_, rfl, doMul_kept (hK := hs) ..⟩
  | divOp => exact ⟨_, rfl, doDiv_kept (hK := hs) ..⟩
  | sqrt => exact ⟨_, rfl, doSqrt_kept (hK := hs) ..⟩
  | maxOp => exact ⟨_, rfl, doMax_kept (hK := hs) ..⟩
  | minOp => exact ⟨_, rfl, doMin_kept (hK := hs) ..⟩
  | compareOp => exact ⟨_, rfl, doCompare_kept (hK := hs) ..⟩
  | absOp => exact ⟨_, rfl, doAbs_kept (hK := hs) ..⟩
  | pow2Scale => exact ⟨_, rfl, doPow2Scale_kept (hK := hs) ..⟩
  | convertOp => exact ⟨_, rfl, doConvert_kept (hK := hs) ..⟩
  | partitionReset => exact ⟨_, rfl, doPartitionReset_kept (hK := hs) ..⟩
  | remoteWrite => exact ⟨_, rfl, doRemoteWrite_kept (hK := hs) ..⟩
  | windowOpen => exact ⟨_, rfl, doWindowOpen_kept (hK := hs) ..⟩
  | windowClose => exact ⟨_, rfl, doWindowClose_kept (hK := hs) ..⟩
  | windowExpiry => exact ⟨_, rfl, doWindowExpiry_kept (hK := hs) ..⟩
  | windowDescriptorWrite => exact ⟨_, rfl, doWindowDescriptorWrite_kept (hK := hs) ..⟩
  | almLinesWrite => exact ⟨_, rfl, doAlmLinesWrite_kept (hK := hs) ..⟩
  | bankPowerDownRequest => exact ⟨_, rfl, doBankPowerDownRequest_kept (hK := hs) ..⟩
  | bankPowerDownStart => exact ⟨_, rfl, doBankPowerDownStart_kept (hK := hs) ..⟩
  | bankDrainEnd => exact ⟨_, rfl, doBankDrainEnd_kept (hK := hs) ..⟩
  | bankPowerRestore => exact ⟨_, rfl, doBankPowerRestore_kept (hK := hs) ..⟩
  | bankZeroFillEnd => exact ⟨_, rfl, doBankZeroFillEnd_kept (hK := hs) ..⟩
  | scrubRewrite => exact ⟨_, rfl, doScrubRewrite_kept (hK := hs) ..⟩
  | scrubPeriod => exact ⟨_, rfl, doScrubPeriod_kept (hK := hs) ..⟩
  | sectorGate => exact ⟨_, rfl, doSectorGate_kept (hK := hs) ..⟩
  | sectorRestart => exact ⟨_, rfl, doSectorRestart_kept (hK := hs) ..⟩
  | droopStretch => exact ⟨_, rfl, doDroopStretch_kept (hK := hs) ..⟩
  | ctxDefine => exact ⟨_, rfl, doCtxDefine_kept (hK := hs) ..⟩
  | ctxUpdate => exact ⟨_, rfl, doCtxUpdate_kept (hK := hs) ..⟩
  | ctxUndefine => exact ⟨_, rfl, doCtxUndefine_kept (hK := hs) ..⟩
  | ctxBaseWrite => exact ⟨_, rfl, doCtxBaseWrite_kept (hK := hs) ..⟩
  | rsvFacetsWrite => exact ⟨_, rfl, doRsvFacetsWrite_kept (hK := hs) ..⟩
  | fnCtxWrite => exact ⟨_, rfl, doFnCtxWrite_kept (hK := hs) ..⟩
  | beaconRangeSet => exact ⟨_, rfl, doBeaconRangeSet_kept (hK := hs) ..⟩
  | beaconRangeGet => exact ⟨_, rfl, doBeaconRangeGet_kept (hK := hs) ..⟩
  | headingRangeSet => exact ⟨_, rfl, doHeadingRangeSet_kept (hK := hs) ..⟩
  | headingRangeGet => exact ⟨_, rfl, doHeadingRangeGet_kept (hK := hs) ..⟩
  | headingEntryLatch => exact ⟨_, rfl, doHeadingEntryLatch_kept (hK := hs) ..⟩
  | contextReset => exact ⟨_, rfl, doContextReset_kept (hK := hs) ..⟩
  | deviceEvent => exact ⟨_, rfl, doDeviceEvent_kept (hK := hs) (hB := hB rfl) (hC := hC) (hU := hU) ..⟩
  | safeStateExit => exact ⟨_, rfl, doSafeStateExit_kept (hK := hs) (hB := hB rfl) (hH := hH rfl) ..⟩
  | binRecover => exact ⟨_, rfl, doBinRecover_kept (hK := hs) (hB := hB rfl) (hH := hH rfl) ..⟩
  | warmReset => exact ⟨_, rfl, doWarmReset_kept (hK := hs) (hB := hB rfl) (hH := hH rfl) ..⟩
  | warmResetComplete => exact ⟨_, rfl, doWarmResetComplete_kept (hK := hs) (hB := hB rfl) ..⟩
  | lockstepMismatch => exact ⟨_, rfl, doLockstepMismatch_kept (hK := hs) (hB := hB rfl) (hC := hC) (hU := hU) ..⟩
  | binOscLoss => exact ⟨_, rfl, doBinOscLoss_kept (hK := hs) (hB := hB rfl) (hC := hC) (hU := hU) ..⟩
  | clockMonitorWindow => exact ⟨_, rfl, doClockMonitorWindow_kept (hK := hs) (hB := hB rfl) (hC := hC) (hU := hU) ..⟩
  | voltageSample => exact ⟨_, rfl, doVoltageSample_kept (hK := hs) (hB := hB rfl) (hC := hC) (hU := hU) ..⟩
  | temperatureSample => exact ⟨_, rfl, doTemperatureSample_kept (hK := hs) (hB := hB rfl) (hC := hC) (hU := hU) ..⟩
  | helmHeartbeat => exact ⟨_, rfl, doHelmHeartbeat_kept (hK := hs) ..⟩
  | heartbeatTimeout => exact ⟨_, rfl, doHeartbeatTimeout_kept (hK := hs) (hB := hB rfl) (hC := hC) (hU := hU) ..⟩
  | avsReadback => exact ⟨_, rfl, doAvsReadback_kept (hK := hs) (hB := hB rfl) (hC := hC) (hU := hU) ..⟩
  | avsUpdate => exact ⟨_, rfl, doAvsUpdate_kept (hK := hs) ..⟩
  | pmbAlert => exact ⟨_, rfl, doPmbAlert_kept (hK := hs) (hB := hB rfl) (hC := hC) (hU := hU) ..⟩
  | deadlineWatch => exact ⟨_, rfl, doDeadlineWatch_kept (hK := hs) (hB := hB rfl) (hC := hC) (hU := hU) ..⟩
  | traceabilityLoss => exact ⟨_, rfl, doTraceabilityLoss_kept (hK := hs) (hB := hB rfl) (hC := hC) (hU := hU) ..⟩
  | spareSubstitution => exact ⟨_, rfl, doSpareSubstitution_kept (hK := hs) ..⟩
  | facetLbistEnd => exact ⟨_, rfl, doFacetLbistEnd_kept (hK := hs) ..⟩
  | inputReadError => exact ⟨_, rfl, doInputReadError_kept (hK := hs) ..⟩
  | inputReadComplete => exact ⟨_, rfl, doInputReadComplete_kept (hK := hs) ..⟩
  | functionLevelReset => exact ⟨_, rfl, doFunctionLevelReset_kept (hK := hs) ..⟩
  | busMasterDisable => exact ⟨_, rfl, doBusMasterDisable_kept (hK := hs) ..⟩
  | busMasterEnable => exact ⟨_, rfl, doBusMasterEnable_kept (hK := hs) ..⟩
  | linkReset => exact ⟨_, rfl, doLinkReset_kept (hK := hs) (hB := hB rfl) (hH := hH rfl) ..⟩
  | msixUnmask => exact ⟨_, rfl, doMsixUnmask_kept (hK := hs) ..⟩
  | w1cClear => exact ⟨_, rfl, doW1cClear_kept (hK := hs) (hB := hB rfl) (hH := hH rfl) ..⟩
  | rcCounterRead => exact ⟨_, rfl, doRcCounterRead_kept (hK := hs) ..⟩
  | registerWrite => exact ⟨_, rfl, doRegisterWrite_kept_of hs (hB rfl) (hH rfl) (fun h => ⟨hF (decide_eq_true h), hT (decide_eq_true h)⟩) hU⟩
  | snapMeridian => exact ⟨_, rfl, doSnap_kept (hK := hs) ..⟩
  | setMeridian => exact ⟨_, rfl, doSet_kept (hK := hs) ..⟩
  | switchSource => exact ⟨_, rfl, doSwitch_kept (hK := hs) ..⟩
  | merNowRead => exact ⟨_, rfl, doMerNowRead_kept (hK := hs) ..⟩
  | syncSample => exact ⟨_, rfl, doSyncSample_kept (hK := hs) ..⟩
  | delayMeasurement => exact ⟨_, rfl, doDelayMeasurement_kept (hK := hs) ..⟩
  | primarySampleTimeout => exact ⟨_, rfl, doPrimarySampleTimeout_kept (hK := hs) ..⟩
  | holdLimit => exact ⟨_, rfl, doHoldLimit_kept (hK := hs) ..⟩
  | announce => exact ⟨_, rfl, doAnnounce_kept (hK := hs) ..⟩
  | ptpEventIngress => exact ⟨_, rfl, doPtpEventIngress_kept (hK := hs) ..⟩
  | ptpEventEgress => exact ⟨_, rfl, doPtpEventEgress_kept (hK := hs) ..⟩
  | outputArm => exact ⟨_, rfl, doOutputArm_kept (hK := hs) ..⟩
  | outputEdge => exact ⟨_, rfl, doOutputEdge_kept (hK := hs) ..⟩
  | inputEdge => exact ⟨_, rfl, doInputEdge_kept (hK := hs) ..⟩
  | inputFifoPop => exact ⟨_, rfl, doInputFifoPop_kept (hK := hs) ..⟩
  | hello => exact ⟨_, rfl, doHello_kept (hK := hs) ..⟩
  | rastanFrameReceive => exact ⟨_, rfl, doRastanFrameReceive_kept (hK := hs) ..⟩
  | rastanRetry => exact ⟨_, rfl, doRastanRetry_kept (hK := hs) ..⟩
  | memberDown => exact ⟨_, rfl, doMemberDown_kept (hK := hs) ..⟩
  | timedWaitLimit => exact ⟨_, rfl, doTimedWaitLimit_kept (hK := hs) ..⟩
  | globalStopRequest => exact ⟨_, rfl, doGlobalStopRequest_kept (hK := hs) ..⟩
  | globalStop => exact ⟨_, rfl, doGlobalStop_kept (hK := hs) ..⟩
  | scanOutEnd => exact ⟨_, rfl, doScanOutEnd_kept (hK := hs) ..⟩
  | globalResume => exact ⟨_, rfl, doGlobalResume_kept (hK := hs) ..⟩
  | soundingFrameEnd => exact ⟨_, rfl, doSoundingFrameEnd_kept (hK := hs) ..⟩
  | csiPacketIgnored => exact ⟨_, rfl, doCsiPacketIgnored_kept (hK := hs) ..⟩
  | streamUnitLaunch => exact ⟨_, rfl, doStreamUnitLaunch_kept (hK := hs) ..⟩
  | fixFrameEmit => exact ⟨_, rfl, doFixFrameEmit_kept (hK := hs) ..⟩
  | fixFrameSent => exact ⟨_, rfl, doFixFrameSent_kept (hK := hs) ..⟩
  | streamWatchdog => exact ⟨_, rfl, doStreamWatchdog_kept (hK := hs) ..⟩
  | streamFailed => exact ⟨_, rfl, doStreamFailed_kept (hK := hs) ..⟩
  | skewCalibration => exact ⟨_, rfl, doSkewCalibration_kept (hK := hs) ..⟩
  | counterClear => exact ⟨_, rfl, doCounterClear_kept (hK := hs) (hB := hB rfl) (hH := hH rfl) ..⟩
  | bsetRead => exact ⟨_, rfl, doBsetRead_kept (hK := hs) ..⟩
  | counterRead => exact ⟨_, rfl, doCounterRead_kept (hK := hs) ..⟩
  | serialRead => exact ⟨_, rfl, doSerialRead_kept (hK := hs) ..⟩
  | traceLost => exact ⟨_, rfl, doTraceLost_kept (hK := hs) ..⟩
  | wakePageLatch => exact ⟨_, rfl, doWakePageLatch_kept (hK := hs) (hB := hB rfl) (hH := hH rfl) ..⟩
  | logWindowLatch => exact ⟨_, rfl, doLogWindowLatch_kept (hK := hs) (hB := hB rfl) (hH := hH rfl) ..⟩
  | binCfgWrite => exact ⟨_, rfl, doBinCfgWrite_kept (hK := hs) (hB := hB rfl) (hH := hH rfl) ..⟩
  | helmBreakpoint => exact ⟨_, rfl, doHelmBreakpoint_kept (hK := hs) ..⟩
  | helmHalt => exact ⟨_, rfl, doHalt_kept (hK := hs) ..⟩
  | helmResume => exact ⟨_, rfl, doResume_kept (hK := hs) ..⟩
  | helmHalted => exact ⟨_, rfl, doHelmHalted_kept (hK := hs) ..⟩
  | porPin => exact ⟨_, rfl, doPor_kept (hK := hs) (hB := hB rfl) ..⟩
  | binnacleSelfTestEnd => exact ⟨_, rfl, doBinnacleSelfTestEnd_kept (hK := hs) (hB := hB rfl) (hU := hU) ..⟩
  | rootPllLock => exact ⟨_, rfl, doRootPllLock_kept (hK := hs) (hT := hT rfl) (hB := hB rfl) (hU := hU) ..⟩
  | bootRomEnd => exact ⟨_, rfl, doBootRomEnd_kept (hK := hs) (hB := hB rfl) (hU := hU) ..⟩
  | selfTestEnd => exact ⟨_, rfl, doSelfTestEnd_kept (hK := hs) (hB := hB rfl) (hU := hU) ..⟩
  | firmwareReadEnd => exact ⟨_, rfl, doFirmwareReadEnd_kept (hK := hs) (hB := hB rfl) (hU := hU) ..⟩
  | readyOp => exact ⟨_, rfl, doReady_kept (hK := hs) (hB := hB rfl) (hU := hU) (hH := hH rfl) ..⟩
  | bootTimeout => exact ⟨_, rfl, doBootTimeout_kept (hK := hs) (hB := hB rfl) (hU := hU) ..⟩
  | supplyDetectReset => exact ⟨_, rfl, doSupplyDetectReset_kept (hK := hs) (hT := hT rfl) (hB := hB rfl) (hU := hU) (hH := hH rfl) ..⟩
  | powerDown => exact ⟨_, rfl, doPowerDown_kept (hK := hs) (hT := hT rfl) (hB := hB rfl) (hU := hU) (hH := hH rfl) ..⟩
  | mbxReport => exact ⟨_, rfl, kept_ite hs (mbxReport_kept _ hs)⟩
  | mbxAttest => exact ⟨_, rfl, kept_ite hs (mbxAttest_kept _ hs)⟩
  | mbxErase => exact ⟨_, rfl, kept_ite hs (mbxErase_kept _ hs (hF rfl))⟩
  | mbxWrite => exact ⟨_, rfl, kept_ite hs (mbxWriteFlash_kept _ hs)⟩
  | mbxVerify => exact ⟨_, rfl, kept_ite hs (mbxVerify_kept _ hs)⟩
  | mbxReboot => exact ⟨_, rfl, kept_ite hs (mbxReboot_kept _ hs (hT rfl) (hB rfl) hU (hH rfl))⟩
  | mbxListen => exact ⟨_, rfl, kept_ite hs (mbxListen_kept _ hs (hB rfl) hU (hH rfl))⟩
  | mbxDone => exact ⟨_, rfl, doMbxDone_kept (hK := hs) (hF := hF rfl) ..⟩
  | i3cSetPage => exact ⟨_, rfl, doI3cSetPage_kept (hK := hs) ..⟩
  | i3cWriteWords => exact ⟨_, rfl, doI3cWriteWords_kept (hK := hs) (hF := hF rfl) (hT := hT rfl) (hB := hB rfl) (hU := hU) (hH := hH rfl) ..⟩
  | i3cSetReadAddr => exact ⟨_, rfl, doI3cSetReadAddr_kept (hK := hs) ..⟩
  | entdaa => exact ⟨_, rfl, doEntdaa_kept (hK := hs) ..⟩
  | setdasa => exact ⟨_, rfl, doSetdasa_kept (hK := hs) ..⟩
  | setnewda => exact ⟨_, rfl, doSetnewda_kept (hK := hs) ..⟩
  | rstdaa => exact ⟨_, rfl, doRstdaa_kept (hK := hs) ..⟩
  | enec => exact ⟨_, rfl, doEnec_kept (hK := hs) ..⟩
  | disec => exact ⟨_, rfl, doDisec_kept (hK := hs) ..⟩
  | getpid => exact ⟨_, rfl, i3cAnswer_kept (hK := hs) ..⟩
  | getbcr => exact ⟨_, rfl, i3cAnswer_kept (hK := hs) ..⟩
  | getdcr => exact ⟨_, rfl, i3cAnswer_kept (hK := hs) ..⟩
  | getstatus => exact ⟨_, rfl, i3cAnswer_kept (hK := hs) ..⟩
  | getmwl => exact ⟨_, rfl, i3cAnswer_kept (hK := hs) ..⟩
  | getmrl => exact ⟨_, rfl, i3cAnswer_kept (hK := hs) ..⟩
  | setmwl => exact ⟨_, rfl, doSetmwl_kept (hK := hs) ..⟩
  | setmrl => exact ⟨_, rfl, doSetmrl_kept (hK := hs) ..⟩
  | getmxds => exact ⟨_, rfl, i3cAnswer_kept (hK := hs) ..⟩
  | ibiRetry => exact ⟨_, rfl, doIbiRetry_kept (hK := hs) ..⟩
  | soundingFrameStart => exact ⟨_, rfl, doSoundingFrameStart_kept (hK := hs) ..⟩
  | rastanSend => exact ⟨_, rfl, doRastanSend_kept (hK := hs) ..⟩
  | pcieCompletionTimeout => exact ⟨_, rfl, doPcieCompletionTimeout_kept (hK := hs) ..⟩
  | vfEnableClear => exact ⟨_, rfl, doVfEnableClear_kept (hK := hs) ..⟩
  | vddSiOutOfWindow => exact ⟨_, rfl, doVddSiOutOfWindow_kept (hK := hs) (hB := hB rfl) (hC := hC) (hU := hU) ..⟩
  | fallbackOscillatorStop => exact ⟨_, rfl, doFallbackOscillatorStop_kept (hK := hs) (hC := hC) ..⟩
  | vddSiLowReset => exact ⟨_, rfl, doVddSiLowReset_kept (hK := hs) (hT := hT rfl) (hB := hB rfl) (hU := hU) (hH := hH rfl) ..⟩
  | bootStepDeadline => exact ⟨_, rfl, doBootStepDeadline_kept (hK := hs) (hB := hB rfl) (hU := hU) ..⟩
/-- What is held fixed when nothing is but the queue. -/
def keepQueue (q : List Instr) : Keep := ⟨q, none, none, none, false, false, false, false⟩

theorem kept_queue (s : State) : Kept (keepQueue s.pending) s := ⟨rfl, nofun, nofun, nofun, nofun, nofun, nofun, nofun, nofun⟩

/-- What is held fixed is kept by the state that exec answers. -/
theorem kept_of_exec {c : Instr} (h : exec c s = .next t) (hk : ∃ u, exec c s = .next u ∧ Kept K u) : Kept K t := by
  obtain ⟨u, hu, hk⟩ := hk
  cases h.symm.trans hu
  exact hk

/-! ## The queue and the step -/

/-- Settles O1: the step on a queue with a front command is exec on the rest. -/
theorem stepRunsFront : Obligations.StepRunsFront := by
  intro c rest s hq
  simp only [step, hq]

/-- Settles O2: the queue is held fixed for every command. -/
theorem execKeepsQueue : Obligations.ExecKeepsQueue := fun c _ _ h =>
  (kept_of_exec h (exec_kept c (kept_queue _) (fun _ => rfl) (fun _ => rfl) (fun _ => rfl) (fun _ => rfl) rfl rfl)).pending

/-! ## The invariant -/

/-- What is held fixed is the invariant. -/
def keepInv (q : List Instr) : Keep := { keepQueue q with inv := true }

theorem kept_inv (h : s.Inv) : Kept (keepInv s.pending) s := ⟨rfl, fun _ => h.1, fun _ => h.2, nofun, nofun, nofun, nofun, nofun, nofun⟩

theorem inv_of_kept {q : List Instr} (h : Kept (keepInv q) s) : s.Inv := ⟨h.mems rfl, h.safeN rfl⟩

/-- Settles O3: an AK cycle has the invariant, and every command of the queue's front has it. -/
theorem stepKeepsInvariant : Obligations.StepKeepsInvariant := by
  intro s t hs h
  cases hq : s.pending with
  | nil =>
    simp only [step, hq] at h
    cases h
    exact inv_of_kept (tick_kept s (kept_inv hs) rfl rfl)
  | cons c rest =>
    rw [stepRunsFront c rest s hq] at h
    have hrest : Kept (keepInv rest) (s.setPending rest) := kept_inv (s := s.setPending rest) hs
    exact inv_of_kept (kept_of_exec h (exec_kept c hrest (fun _ => rfl) (fun _ => rfl) (fun _ => rfl) (fun _ => rfl) rfl rfl))

/-- Settles O4: at reset every memory is empty and SAFE_N is low. -/
theorem resetInvariant : Obligations.ResetInvariant := ⟨by decide, nofun⟩

/-! ## The flash and Meridian time -/

/-- Settles O6: the flash is held fixed for every command but the mailbox's and the writes that reach it. -/
theorem flashOnlyMailbox : Obligations.FlashOnlyMailbox := by
  intro c s t hc h
  have hs : Kept { keepQueue s.pending with flash := some s.flash } s := { kept_queue s with flash := fun _ hx => Option.some.inj hx }
  exact (kept_of_exec h (exec_kept c hs (fun hm => absurd hm (by simp [hc])) (fun _ => rfl) (fun _ => rfl) (fun _ => rfl) rfl rfl)).flash _ rfl

/-- Settles O7: Meridian time and the AK count are held fixed for every command but those that start or reset the clocks. -/
theorem meridianKept : Obligations.MeridianKept := by
  intro c s t hc h
  have hs : Kept { keepQueue s.pending with time := some (s.clk.mer, s.clk.chipAk) } s :=
    { kept_queue s with time := fun _ hx => Option.some.inj hx ▸ ⟨rfl, rfl⟩ }
  exact (kept_of_exec h (exec_kept c hs (fun _ => rfl) (fun ht => absurd ht (by simp [hc])) (fun _ => rfl) (fun _ => rfl) rfl rfl)).time _ rfl

/-! ## SAFE-LISTEN (17 R405): what each command that can write the power-up group does there -/

theorem clockSeen_boot (s : State) (n : Nat) : (clockSeen s n).boot = s.boot :=
  only_boot (gs := [.clk]) (only_ite (only_refl _ _) (only_ite (setClk_only _ _) (setClk_only _ _))) (by decide)

section Listening
variable (h2 : s.boot.state = 2)
include h2

theorem inStep_listening (n : Nat) : inStep s n = false := by simp [inStep, h2]

theorem ready_listening : ready s = false := by simp [ready, h2]

theorem mayLeave_listening (go : Bool) : mayLeave s go = false := by simp [mayLeave, h2]

theorem doWarmReset_listening (path : Nat) (w : Word) : doWarmReset s path w = s := by simp [doWarmReset, h2]

theorem doBinRecover_listening (path : Nat) (w : Word) : doBinRecover s path w = s := by simp [doBinRecover, mayLeave_listening h2]

theorem regWrite_kept_listening (hs : Kept K s) (path off : Nat) (w : Word) : Kept K (regWrite s path off w) :=
  regWrite_kept_of hs (by rwa [doWarmReset_listening h2]) (fun _ => by rwa [doBinRecover_listening h2])

theorem doW1cClear_kept_listening (hs : Kept K s) (path off : Nat) (w race : Word) : Kept K (doW1cClear s path off w race) := by
  unfold doW1cClear
  split
  · exact hs
  · exact kept_ite hs (rcount_kept _ _ _ _ _ (regPut_kept _ _ _ _ (regWrite_kept_listening h2 hs _ _ _)))

/-- A DEVICE condition is recorded, and no more. -/
theorem device_kept_listening (hs : Kept K s) (a : EvArg) (fs : List Nat) : Kept K (device s a fs) := by
  have h0 : ¬ s.boot.state = 0 := by omega
  rw [device, if_neg h0, if_pos h2]
  exact kept_ite hs (deviceRecords_kept _ _ _ hs)

theorem monitorEvent_kept_listening (hs : Kept K s) (a : EvArg) : Kept K (monitorEvent s a) := by
  unfold monitorEvent
  exact kept_ite (setBin_kept hs rfl rfl) (device_kept_listening h2 hs a [])

theorem doLinkReset_kept_listening (hs : Kept K s) (width speed : Nat) : Kept K (doLinkReset s width speed) := by
  unfold doLinkReset
  refine kept_ite hs ?_
  dsimp only
  rw [if_neg (by simp [clearMsix, h2])]
  exact setPci_kept (setFns_kept (setMsix_kept hs))

theorem doClockMonitorWindow_kept_listening (hs : Kept K s) (clock count expect : Nat) :
    Kept K (doClockMonitorWindow s clock count expect) := by
  have hseen : Kept K (clockSeen s count) := clockSeen_kept s count hs
  have hv : ∃ v, v = (if clock = 0 ∨ clock = 4 then clockSeen s count else s) ∧ Kept K v ∧ v.boot.state = 2 := by
    refine ⟨_, rfl, kept_ite hseen hs, ?_⟩
    split
    · exact (congrArg Boot.state (clockSeen_boot s count)).trans h2
    · exact h2
  obtain ⟨v, he, hk, hb⟩ := hv
  unfold doClockMonitorWindow
  dsimp only
  rw [← he]
  exact kept_ite hk (kept_ite (monitorEvent_kept_listening hb hk _) hk)

theorem doVoltageSample_kept_listening (hs : Kept K s) (rail mv : Nat) : Kept K (doVoltageSample s rail mv) := by
  unfold doVoltageSample
  split
  · exact hs
  · dsimp only
    refine kept_ite ?_ (kept_ite ?_ (monitorEvent_kept_listening ?_ ?_ _))
    · exact setBin_kept hs rfl rfl
    · exact outOfLimits_kept _ (setBin_kept hs rfl rfl)
    · exact h2
    · exact outOfLimits_kept _ (setBin_kept hs rfl rfl)

theorem doTemperatureSample_kept_listening (hs : Kept K s) (sensor : Nat) (tenths : Int) : Kept K (doTemperatureSample s sensor tenths) := by
  have hbin : ∀ n, Kept K (s.setBin { s.bin with hot := n }) := fun n => setBin_kept hs rfl rfl
  unfold doTemperatureSample
  dsimp only
  refine kept_ite hs (kept_ite (hbin _) (kept_ite (raiseNotice_kept _ _ _ _ (hbin _)) (monitorEvent_kept_listening ?_ (hbin _) _)))
  exact h2

theorem doPmbAlert_kept_listening (hs : Kept K s) (outputFault other : Bool) : Kept K (doPmbAlert s outputFault other) := by
  have he := emit_kept s (.pmbus .statusWord 0) hs
  have hb : (emit s (.pmbus .statusWord 0)).boot = s.boot := only_boot (emit_only _ _) (by decide)
  unfold doPmbAlert
  dsimp only
  refine kept_ite hs (kept_ite (monitorEvent_kept_listening ?_ (outOfLimits_kept _ he) _)
    (kept_ite (emit_kept _ _ (raiseNotice_kept _ _ _ _ he)) he))
  exact (congrArg Boot.state hb).trans h2

theorem doAvsReadback_kept_listening (hs : Kept K s) (mv : Nat) : Kept K (doAvsReadback s mv) := by
  have he := emit_kept s (.pmbus .readVout 0) hs
  have hb : (emit s (.pmbus .readVout 0)).boot = s.boot := only_boot (emit_only _ _) (by decide)
  unfold doAvsReadback
  dsimp only
  exact kept_ite (device_kept_listening ((congrArg Boot.state hb).trans h2) he _ _) he

theorem doTraceabilityLoss_kept_listening (hs : Kept K s) : Kept K (doTraceabilityLoss s) := by
  unfold doTraceabilityLoss
  dsimp only
  refine kept_ite hs (kept_ite (device_kept_listening ?_ ?_ _ _) (raiseNotice_kept _ _ _ _ ?_))
  · exact h2
  · exact setBin_kept hs rfl rfl
  · exact setBin_kept (setBin_kept hs rfl rfl) rfl rfl

theorem doBinOscLoss_kept_listening (hs : Kept K s) : Kept K (doBinOscLoss s) := by
  unfold doBinOscLoss
  refine kept_ite hs (device_kept_listening ?_ ?_ _ _)
  · exact h2
  · exact setBin_kept hs rfl rfl

theorem doDeviceEvent_kept_listening (hs : Kept K s) (a : EvArg) (fs : List Nat) : Kept K (doDeviceEvent s a fs) := by
  unfold doDeviceEvent
  exact kept_ite (device_kept_listening h2 hs a fs) hs

theorem doVddSiOutOfWindow_kept_listening (hs : Kept K s) (mv : Nat) : Kept K (doVddSiOutOfWindow s mv) := by
  unfold doVddSiOutOfWindow
  exact kept_ite hs (device_kept_listening h2 hs _ _)

theorem doHeartbeatTimeout_kept_listening (hs : Kept K s) (core : Nat) : Kept K (doHeartbeatTimeout s core) := by
  unfold doHeartbeatTimeout
  split
  · exact hs
  · exact kept_ite hs (device_kept_listening h2 hs _ _)

theorem doDeadlineWatch_listening (k : CmdKey) : doDeadlineWatch s k = s := by simp [doDeadlineWatch, ready_listening h2]

theorem mbxListen_listening : mbxListen s = mbxBegin s 0x21 0x01 := by simp [mbxListen, ready_listening h2]

/-- In SAFE-LISTEN every command but the rise of POR_N and those that end it keeps the power-up group. -/
theorem exec_kept_listening {c : Instr} (hs : Kept K s) (hc : endsListen c = false) (hpor : ∀ m a, c ≠ .porPin m a) (hF : K.flash = none)
    (hT : K.time = none) (hC : K.calm = false) (hU : K.up = false) (hH : K.held = false) : ∃ t, exec c s = .next t ∧ Kept K t := by
  by_cases hw : (writesBoot c && !endsListen c) = true
  case neg => exact exec_kept c hs (fun _ => hF) (fun _ => hT) (fun h => absurd (by simp [h, hc]) hw) (fun _ => hH) hC hU
  cases c
  case deviceEvent a fs => exact ⟨_, rfl, doDeviceEvent_kept_listening h2 hs _ _⟩
  case safeStateExit => exact ⟨_, rfl, by rwa [doSafeStateExit, mayLeave_listening h2, if_neg (by decide)]⟩
  case binRecover path w => exact ⟨_, rfl, by rwa [doBinRecover_listening h2]⟩
  case warmReset path w => exact ⟨_, rfl, by rwa [doWarmReset_listening h2]⟩
  case warmResetComplete failed => exact ⟨_, rfl, by rwa [doWarmResetComplete, if_pos (.inl (by simp [h2]))]⟩
  case lockstepMismatch => exact ⟨_, rfl, device_kept_listening h2 hs _ _⟩
  case binOscLoss => exact ⟨_, rfl, doBinOscLoss_kept_listening h2 hs⟩
  case clockMonitorWindow cl n e => exact ⟨_, rfl, doClockMonitorWindow_kept_listening h2 hs _ _ _⟩
  case voltageSample rail mv => exact ⟨_, rfl, doVoltageSample_kept_listening h2 hs _ _⟩
  case temperatureSample n x => exact ⟨_, rfl, doTemperatureSample_kept_listening h2 hs _ _⟩
  case heartbeatTimeout core => exact ⟨_, rfl, doHeartbeatTimeout_kept_listening h2 hs _⟩
  case avsReadback mv => exact ⟨_, rfl, doAvsReadback_kept_listening h2 hs _⟩
  case pmbAlert f o => exact ⟨_, rfl, doPmbAlert_kept_listening h2 hs _ _⟩
  case deadlineWatch k => exact ⟨_, rfl, by rwa [doDeadlineWatch_listening h2]⟩
  case traceabilityLoss => exact ⟨_, rfl, doTraceabilityLoss_kept_listening h2 hs⟩
  case vddSiOutOfWindow mv => exact ⟨_, rfl, doVddSiOutOfWindow_kept_listening h2 hs _⟩
  case linkReset w v => exact ⟨_, rfl, doLinkReset_kept_listening h2 hs _ _⟩
  case w1cClear path off w race => exact ⟨_, rfl, doW1cClear_kept_listening h2 hs _ _ _ _⟩
  case counterClear path w => exact ⟨_, rfl, kept_ite (regWrite_kept_listening h2 hs _ _ _) hs⟩
  case wakePageLatch w => exact ⟨_, rfl, regWrite_kept_listening h2 hs _ _ _⟩
  case logWindowLatch path w => exact ⟨_, rfl, regWrite_kept_listening h2 hs _ _ _⟩
  case binCfgWrite path w => exact ⟨_, rfl, regWrite_kept_listening h2 hs _ _ _⟩
  case registerWrite path off w full ep =>
    refine ⟨_, rfl, doRegisterWrite_kept_setup (Nat.lt_of_not_le (of_decide_eq_false hc)) hs (fun v hv hb _ => ?_)⟩
    exact regWrite_kept_listening ((congrArg Boot.state hb).trans h2) hv _ _ _
  case porPin m a => exact absurd rfl (hpor m a)
  case binnacleSelfTestEnd pass => exact ⟨_, rfl, by rwa [doBinnacleSelfTestEnd, if_pos (by simp [inStep_listening h2])]⟩
  case rootPllLock w v => exact ⟨_, rfl, by rwa [doRootPllLock, if_pos (by simp [inStep_listening h2])]⟩
  case bootRomEnd c0 key serial => exact ⟨_, rfl, by rwa [doBootRomEnd, if_pos (by simp [inStep_listening h2])]⟩
  case selfTestEnd => exact ⟨_, rfl, by rwa [doSelfTestEnd, if_pos (by simp [inStep_listening h2])]⟩
  case firmwareReadEnd o => exact ⟨_, rfl, by rwa [doFirmwareReadEnd, if_pos (by simp [inStep_listening h2])]⟩
  case readyOp => exact ⟨_, rfl, by rwa [doReady, if_pos (by simp [inStep_listening h2])]⟩
  case bootTimeout => exact ⟨_, rfl, by rwa [doBootTimeout, if_neg (by simp [h2])]⟩
  case bootStepDeadline part => exact ⟨_, rfl, by rwa [doBootStepDeadline, if_neg (by simp [h2])]⟩
  case mbxListen path => exact ⟨_, rfl, kept_ite hs (mbxListen_listening h2 ▸ mbxBegin_kept _ _ _ hs)⟩
  all_goals cases hw

end Listening

/-- Settles O8: in SAFE-LISTEN the power-up group is held fixed, and the rise of POR_N leaves its STATE. -/
theorem safeListenEnds : Obligations.SafeListenEnds := by
  intro c s t h2 h hc
  by_cases hpor : ∃ m a, c = .porPin m a
  · obtain ⟨m, a, rfl⟩ := hpor
    cases h
    simp only [doPor]
    split
    · exact h2
    · exact h2
  · have hs : Kept { keepQueue s.pending with boot := some s.boot } s := { kept_queue s with boot := fun _ hx => Option.some.inj hx }
    have hk := exec_kept_listening h2 hs hc (fun m a he => hpor ⟨m, a, he⟩) rfl rfl rfl rfl rfl
    exact (congrArg Boot.state ((kept_of_exec h hk).boot _ rfl)).trans h2

/-! ## The safe state (16 R385): what each command that can end it does while it stands -/

section Held
variable (hsafe : s.bin.safe = true)
include hsafe

theorem ready_held : ready s = false := by simp [ready, hsafe]

theorem doWarmReset_held (path : Nat) (w : Word) : doWarmReset s path w = s := by simp [doWarmReset, hsafe]

theorem regWrite_kept_held (hs : Kept K s) {path off : Nat} (w : Word) (hoff : off ≠ 0xD0008) : Kept K (regWrite s path off w) :=
  regWrite_kept_of hs (by rwa [doWarmReset_held hsafe]) (fun h => absurd h hoff)

/-- BIN_RECOVER has no flag that a write of 1 clears. -/
theorem doW1cClear_kept_held (hs : Kept K s) (path off : Nat) (w race : Word) : Kept K (doW1cClear s path off w race) := by
  by_cases hoff : off = 0xD0008
  · subst hoff
    have hri : regInfo 0xD0008 = some ⟨0, 0, 0, 0, 0x80000000, .no, .rw, .no⟩ := by decide
    simpa only [doW1cClear, hri, BitVec.ofNat_eq_ofNat, BitVec.and_zero, or_true, if_true] using hs
  · unfold doW1cClear
    split
    · exact hs
    · exact kept_ite hs (rcount_kept _ _ _ _ _ (regPut_kept _ _ _ _ (regWrite_kept_held hsafe hs _ hoff)))

theorem doLinkReset_kept_held (hs : Kept K s) (width speed : Nat) : Kept K (doLinkReset s width speed) := by
  unfold doLinkReset
  refine kept_ite hs ?_
  dsimp only
  rw [if_neg (by simp [clearMsix, hsafe])]
  exact setPci_kept (setFns_kept (setMsix_kept hs))

theorem mbxListen_held : mbxListen s = mbxBegin s 0x21 0x01 := by simp [mbxListen, ready_held hsafe]

/-- While the safe state stands every command but those that leave it keeps it. -/
theorem exec_kept_held {c : Instr} (hs : Kept K s) (hc : endsSafe c = false) (hF : K.flash = none)
    (hT : K.time = none) (hB : K.boot = none) (hC : K.calm = false) (hU : K.up = false) : ∃ t, exec c s = .next t ∧ Kept K t := by
  by_cases hw : (touchesSafe c && !endsSafe c) = true
  case neg => exact exec_kept c hs (fun _ => hF) (fun _ => hT) (fun _ => hB) (fun h => absurd (by simp [h, hc]) hw) hC hU
  cases c
  case warmReset path w => exact ⟨_, rfl, by rwa [doWarmReset_held hsafe]⟩
  case linkReset w v => exact ⟨_, rfl, doLinkReset_kept_held hsafe hs _ _⟩
  case w1cClear path off w race => exact ⟨_, rfl, doW1cClear_kept_held hsafe hs _ _ _ _⟩
  case counterClear path w => exact ⟨_, rfl, kept_ite (regWrite_kept_held hsafe hs _ (by decide)) hs⟩
  case wakePageLatch w => exact ⟨_, rfl, regWrite_kept_held hsafe hs _ (by decide)⟩
  case logWindowLatch path w => exact ⟨_, rfl, regWrite_kept_held hsafe hs _ (by decide)⟩
  case binCfgWrite path w => exact ⟨_, rfl, regWrite_kept_held hsafe hs _ (by decide)⟩
  case readyOp => exact ⟨_, rfl, by rwa [doReady, if_pos (.inl (by simp [inStep, hsafe]))]⟩
  case mbxListen path => exact ⟨_, rfl, kept_ite hs (mbxListen_held hsafe ▸ mbxBegin_kept _ _ _ hs)⟩
  case registerWrite path off w full ep =>
    obtain ⟨hoff, hlow⟩ : off ≠ 0xD0008 ∧ off < 0x100000 := by simpa [endsSafe] using hc
    exact ⟨_, rfl, doRegisterWrite_kept_setup hlow hs (fun v hv _ hb =>
      regWrite_kept_held ((congrArg Bin.safe hb).trans hsafe) hv _ hoff)⟩
  all_goals cases hw

end Held

/-- Settles O9: the safe state is held fixed for every command but those that leave it. -/
theorem safeStateEnds : Obligations.SafeStateEnds := by
  intro c s t hsafe h hc
  have hs : Kept { keepQueue s.pending with held := true } s := { kept_queue s with held := fun _ => hsafe }
  exact (kept_of_exec h (exec_kept_held hsafe hs hc rfl rfl rfl rfl rfl)).held rfl

end Sys2Proof.Proofs

/-! SUPPORT. The proofs of the statements of 13_meridian_time.md: the servo, MER_CTL and MER_NOW, PTP stamps, pulse outputs, capture inputs. -/

namespace Sys2Proof.Proofs
open Sys2Proof Sys2Proof.Machine Sys2Proof.Laws

/- One proof at a time: elaborated beside the pending kernel checks of the text's tests, they need more threads than the memory limit holds. -/
set_option Elab.async false

variable {s t u : State} {i n : Nat} {w : Word}

/-! ## What the servo's own work leaves (13 R329 to R334) -/

theorem setMs_only (s : State) (m : MerSt) : onlyChanged [.ms] s (s.setMs m) := by simp [onlyChanged]

theorem updSlot_only (s : State) (i : Nat) (f : Slot → Slot) : onlyChanged [.ms] s (updSlot s i f) := setMs_only _ _

theorem updSlot_servo (s : State) (i : Nat) (f : Slot → Slot) : (updSlot s i f).ms.servo = s.ms.servo := rfl

theorem updSlot_hits (s : State) (i : Nat) (f : Slot → Slot) : (updSlot s i f).ms.hits = s.ms.hits := rfl

/-- The groups that the servo works on. -/
def servoGroups : List StateGroup := [.ms, .regs, .bin]

/-- What a slot has measured. -/
def slotMeasured (x : Slot) : Int × List (Mer × Int) × Option Mer := (x.delay, x.samples, x.lastAt)

/-- A change by the servo alone: of the registers MER_STAT, no slot's measurements, nothing that software has asked of the next MK edge. -/
structure Steered (s t : State) : Prop where
  only : onlyChanged servoGroups s t
  measured : ∀ j : Nat, (t.ms.slots[j]?).map slotMeasured = (s.ms.slots[j]?).map slotMeasured
  regs : ∀ off, off ≠ 0x90004 → rget t off = rget s off
  setDue : t.ms.setDue = s.ms.setDue
  snapDue : t.ms.snapDue = s.ms.snapDue

theorem Steered.refl (s : State) : Steered s s := ⟨only_refl _ _, fun _ => rfl, fun _ _ => rfl, rfl, rfl⟩

theorem Steered.trans (h : Steered s t) (h' : Steered t u) : Steered s u :=
  ⟨only_trans h.only h'.only, fun j => (h'.measured j).trans (h.measured j),
    fun off ho => (h'.regs off ho).trans (h.regs off ho), h'.setDue.trans h.setDue, h'.snapDue.trans h.snapDue⟩

theorem Steered.ite {c : Prop} [Decidable c] (h : Steered s t) (h' : Steered s u) : Steered s (if c then t else u) := by
  split <;> assumption

/-- The slot that a measurement has left keeps it. -/
theorem Steered.slot (h : Steered s t) {x : Slot} (hx : s.ms.slots[i]? = some x) :
    ∃ y, t.ms.slots[i]? = some y ∧ y.delay = x.delay ∧ y.samples = x.samples ∧ y.lastAt = x.lastAt := by
  have hm := h.measured i
  rw [hx] at hm
  obtain ⟨y, hy, he⟩ := Option.map_eq_some_iff.mp hm
  simp only [slotMeasured, Prod.mk.injEq] at he
  exact ⟨y, hy, he⟩

/-- The servo's other fields may change. -/
theorem Steered.setMs {m : MerSt} (h : Steered s t) (hslots : m.slots = t.ms.slots := by rfl) (hset : m.setDue = t.ms.setDue := by rfl)
    (hsnap : m.snapDue = t.ms.snapDue := by rfl) : Steered s (t.setMs m) :=
  h.trans ⟨only_mono (setMs_only _ _) (by decide), fun j => congrArg (fun l : List Slot => (l[j]?).map slotMeasured) hslots, fun _ _ => rfl, hset,
    hsnap⟩

theorem rflag_steered (s : State) (i : Nat) : Steered s (rflag s 0x90004 i) :=
  ⟨only_mono (rflag_only _ _ _) (by decide), fun _ => rfl, fun _ ho => rget_rput_ne _ ho, rfl, rfl⟩

theorem setBin_steered (s : State) (b : Bin) : Steered s (s.setBin b) :=
  ⟨only_mono (setBin_only _ _) (by decide), fun _ => rfl, fun _ _ => rfl, rfl, rfl⟩

theorem measured_lupd {f : Slot → Slot} (hf : ∀ x, slotMeasured (f x) = slotMeasured x) (l : List Slot) (i j : Nat) :
    ((lupd l i f)[j]?).map slotMeasured = (l[j]?).map slotMeasured := by
  induction l generalizing i j with
  | nil => rfl
  | cons x xs ih => cases i <;> cases j <;> simp [lupd, hf, ih]

/-- A slot's counts and held samples are the servo's own. -/
theorem updSlot_steered (s : State) (i : Nat) {f : Slot → Slot} (hf : ∀ x, slotMeasured (f x) = slotMeasured x) : Steered s (updSlot s i f) :=
  ⟨only_mono (updSlot_only _ _ _) (by decide), fun j => measured_lupd hf _ i j, fun _ _ => rfl, rfl, rfl⟩

/-- TRACEABLE follows the servo's state; nothing else of the servo does. -/
theorem setTrace_ms (s : State) (b : Bool) : (setTrace s b).ms = { s.ms with traceable := (setTrace s b).ms.traceable } := by
  unfold setTrace
  split
  · rfl
  · split <;> rfl

theorem setTrace_steered (s : State) (b : Bool) : Steered s (setTrace s b) := by
  unfold setTrace
  exact .ite (((Steered.refl s).setMs.trans (rflag_steered _ 5)).trans (setBin_steered _ _))
    (.ite ((Steered.refl s).setMs.trans (setBin_steered _ _)) (.refl _))

theorem enterServo_steered (s : State) (v : Servo) : Steered s (enterServo s v) := by
  cases v
  case holdover => exact (Steered.refl s).setMs.setMs
  all_goals exact (Steered.refl s).setMs.setMs.trans (setTrace_steered _ _)

theorem enterServo_servo (s : State) (v : Servo) : (enterServo s v).ms.servo = v := by
  cases v
  case holdover => rfl
  all_goals exact congrArg MerSt.servo (setTrace_ms _ _)

theorem enterServo_acquire_hits (s : State) : (enterServo s .acquire).ms.hits = 0 := congrArg MerSt.hits (setTrace_ms _ _)

theorem askSwitch_steered (s : State) : Steered s (askSwitch s) := .ite (Steered.refl s).setMs (.refl _)

/-- The slots as the servo enters HOLDOVER: held samples gone, measurements kept. -/
theorem holdSlots_steered (s : State) :
    Steered s (s.setMs { s.ms with slots := s.ms.slots.map (fun x => { x with held := [], outCount := 0, within := 0 }) }) := by
  refine ⟨only_mono (setMs_only _ _) (by decide), fun j => ?_, fun _ _ => rfl, rfl, rfl⟩
  simp only [State.setMs_ms, List.getElem?_map, Option.map_map]
  rfl

theorem enterHoldover_steered (s : State) : Steered s (enterHoldover s) :=
  (((Steered.refl s).setMs.trans (enterServo_steered _ _)).trans (holdSlots_steered _)).trans (askSwitch_steered _)

theorem suspect_steered (s : State) (flag : Nat) : Steered s (suspect s flag) := (rflag_steered _ _).trans (enterHoldover_steered _)

theorem steer_steered (s : State) (i : Nat) (theta lim : Int) : Steered s (steer s i theta lim) :=
  (Steered.refl s).setMs

theorem acquireSample_steered (s : State) (i : Nat) (theta : Int) : Steered s (acquireSample s i theta) := by
  have hsteer := steer_steered s i theta (ppm 5000)
  unfold acquireSample
  exact .ite (Steered.refl s).setMs (.ite (hsteer.setMs.trans (enterServo_steered _ _)) hsteer.setMs)

theorem slewSample_steered (s : State) (i : Nat) (theta : Int) : Steered s (slewSample s i theta) :=
  .ite ((steer_steered _ _ _ _).trans (enterServo_steered _ _)) (steer_steered _ _ _ _).setMs

theorem applySample_steered (s : State) (i : Nat) (theta : Int) : Steered s (applySample s i theta) := by
  unfold applySample
  split
  · exact acquireSample_steered _ _ _
  · exact steer_steered _ _ _ _
  · exact slewSample_steered _ _ _
  · exact .refl _

theorem holdoverSample_steered (s : State) (i : Nat) (theta : Int) : Steered s (holdoverSample s i theta) := by
  have hwithin : ∀ v n, Steered v (updSlot v i (fun x => { x with within := n })) := fun v n => updSlot_steered v i (fun _ => rfl)
  unfold holdoverSample
  dsimp only
  refine .ite (hwithin _ _) ?_
  exact .ite (((hwithin _ _).trans (hwithin _ _)).trans (enterServo_steered _ _))
    (((hwithin _ _).trans (hwithin _ _)).trans (enterServo_steered _ _)).setMs

theorem primarySample_steered (s : State) (i : Nat) (raw theta : Int) : Steered s (primarySample s i raw theta) := by
  have hheld : ∀ v, Steered v (updSlot v i (fun x => { x with held := x.held ++ [raw], outCount := x.outCount + 1 })) :=
    fun v => updSlot_steered v i (fun _ => rfl)
  have hcount : ∀ v, Steered v (updSlot v i (fun x => { x with outCount := 0 })) := fun v => updSlot_steered v i (fun _ => rfl)
  have hfirst : Steered s (if s.ms.servo = .free then enterServo s .acquire else s) := .ite (enterServo_steered _ _) (.refl _)
  unfold primarySample
  generalize (if s.ms.servo = .free then enterServo s .acquire else s) = v at hfirst ⊢
  refine hfirst.trans (.ite (holdoverSample_steered _ _ _) (.ite ?_ ?_))
  · exact .ite ((hheld _).trans (suspect_steered _ _)) (hheld _)
  · exact (hcount _).trans (applySample_steered _ _ _)

theorem secondarySample_steered (s : State) (i : Nat) (theta : Int) : Steered s (secondarySample s i theta) := by
  have hfirst : Steered s (if consistWin s < theta.natAbs then updSlot s i (fun x => { x with beyond := x.beyond + 1 }) else s) :=
    .ite (updSlot_steered _ i (fun _ => rfl)) (.refl _)
  exact .ite (hfirst.trans (askSwitch_steered _)) hfirst

theorem foldl_steered {α : Type} {f : State → α → State} (hf : ∀ v x, Steered v (f v x)) (l : List α) (s : State) :
    Steered s (l.foldl f s) := by
  induction l generalizing s with
  | nil => exact .refl _
  | cons x xs ih => exact (hf s x).trans (ih _)

theorem recompute_steered (s : State) (i : Nat) (d : Int) (stepped : Bool) : Steered s (recompute s i d stepped) := by
  unfold recompute
  split
  · exact .refl _
  · refine .ite (.refl _) (.ite (.ite (suspect_steered _ _) (.refl _)) ?_)
    have hheld : Steered s (updSlot s i (fun x => { x with held := [], outCount := 0 })) := updSlot_steered s i (fun _ => rfl)
    exact hheld.trans (foldl_steered (fun v x => applySample_steered v i x) _ _)

/-- A state in which nothing was sampled before: the first primary sample starts ACQUIRE, and cannot lock. -/
theorem acquireSample_acquire (hs : s.ms.servo = .acquire) (hhits : s.ms.hits = 0) (i : Nat) (theta : Int) :
    (acquireSample s i theta).ms.servo = .acquire := by
  unfold acquireSample
  split
  · exact hs
  · have hfew : ¬ 8 ≤ (if theta.natAbs ≤ lockNs (steer s i theta (ppm 5000)) then (steer s i theta (ppm 5000)).ms.hits + 1 else 0) := by
      have : (steer s i theta (ppm 5000)).ms.hits = 0 := hhits
      split <;> omega
    dsimp only
    rw [if_neg hfew]
    exact hs

theorem primarySample_free (hs : s.ms.servo = .free) (i : Nat) (raw theta : Int) : (primarySample s i raw theta).ms.servo = .acquire := by
  have hv := enterServo_servo s .acquire
  have hacq : applySample (updSlot (enterServo s .acquire) i (fun x => { x with outCount := 0 })) i theta =
      acquireSample (updSlot (enterServo s .acquire) i (fun x => { x with outCount := 0 })) i theta := by
    simp only [applySample, updSlot_servo, hv]
  unfold primarySample
  simp only [hs, hv, if_true, reduceCtorEq, if_false, ne_eq, not_true_eq_false, false_and]
  rw [hacq]
  exact acquireSample_acquire (s := updSlot (enterServo s .acquire) i _) ((updSlot_servo _ _ _).trans hv)
    ((updSlot_hits _ _ _).trans (enterServo_acquire_hits s)) i theta

/-! ## Samples, delays, the loss of the primary (13 R316, R328, R329, R332) -/

/-- A sample of an enabled source is kept; the rest is the servo's. -/
theorem doSyncSample_records {x : Slot} (hx : s.ms.slots[i]? = some x) (hen : servoEn s = true) (hsrc : srcEn s i = true)
    (hlock : s.clk.locked = true) (hsw : s.ms.switchDue = false ∨ i ≠ primary s) (origin ingress : Int) :
    let theta := ingress - origin - portCorr s (srcPort s i) 2 - x.delay
    let log := x.samples ++ [(s.clk.mer, theta)]
    let v := updSlot s i (fun x => { x with samples := log.drop (log.length - 4), lastAt := some s.clk.mer })
    Steered v (doSyncSample s i origin ingress) ∧
      (i = primary s → doSyncSample s i origin ingress = primarySample v i (ingress - origin - portCorr s (srcPort s i) 2) theta) := by
  have hgo : ¬ (s.ms.switchDue = true ∧ i = primary s) := by
    rintro ⟨h1, h2⟩
    exact hsw.elim (fun h => by simp [h] at h1) (fun h => h h2)
  simp only [doSyncSample, hx, hen, hsrc, hlock, Bool.not_true, Bool.false_eq_true, or_self, if_false, hgo]
  refine ⟨.ite (primarySample_steered _ _ _ _) (secondarySample_steered _ _ _), fun hi => if_pos hi⟩

theorem getLast?_drop_append {α : Type} (l : List α) (x : α) : ((l ++ [x]).drop ((l ++ [x]).length - 4)).getLast? = some x := by
  rw [List.getLast?_drop]
  simp

/-- The slot that a sample leaves: its newest sample, its time, its delay as before. -/
theorem doSyncSample_slot {x : Slot} (hx : s.ms.slots[i]? = some x) {log : List (Mer × Int)} {a : Mer}
    (h : Steered (updSlot s i (fun x => { x with samples := log, lastAt := some a })) t) :
    ∃ y, t.ms.slots[i]? = some y ∧ y.lastAt = some a ∧ y.delay = x.delay ∧ y.samples = log := by
  obtain ⟨y, hy, hd, hs, hl⟩ := h.slot (getElem?_lupd _ hx)
  exact ⟨y, hy, hl, hd, hs⟩

theorem doDelayMeasurement_records {x : Slot} (hx : s.ms.slots[i]? = some x) (hen : servoEn s = true) (hsrc : srcEn s i = true)
    (t1 t2 t3 t4 : Int) : ∃ l, Steered (updSlot s i (fun x => { x with delay := ((t2 - t1) + (t4 - t3)) / 2, delays := l }))
      (doDelayMeasurement s i t1 t2 t3 t4) := by
  simp only [doDelayMeasurement, hx, hen, hsrc, Bool.not_true, Bool.false_eq_true, or_self, if_false]
  exact ⟨_, recompute_steered _ _ _ _⟩

/-- HOLDOVER from the loss of the primary touches the servo alone. -/
theorem enterHoldover_holds (s : State) : (enterHoldover s).ms.servo = .holdover ∧ (enterHoldover s).ms.holdSince = s.clk.mer ∧
    onlyChanged [.ms] s (enterHoldover s) := by
  have hask : ∀ v : State, (askSwitch v).ms.servo = v.ms.servo ∧ (askSwitch v).ms.holdSince = v.ms.holdSince ∧
      onlyChanged [.ms] v (askSwitch v) := fun v => by
    unfold askSwitch
    split
    · exact ⟨rfl, rfl, setMs_only _ _⟩
    · exact ⟨rfl, rfl, only_refl _ _⟩
  obtain ⟨hservo, hsince, honly⟩ := hask ((enterServo (s.setMs { s.ms with freq := meanFreq s }) .holdover).setMs
    { (enterServo (s.setMs { s.ms with freq := meanFreq s }) .holdover).ms with
      slots := (enterServo (s.setMs { s.ms with freq := meanFreq s }) .holdover).ms.slots.map
        (fun x => { x with held := [], outCount := 0, within := 0 }) })
  refine ⟨hservo, hsince, only_trans ?_ honly⟩
  exact only_trans (only_trans (setMs_only _ _) (only_trans (setMs_only _ _) (setMs_only _ _))) (setMs_only _ _)

theorem doPrimarySampleTimeout_lost {x : Slot} (hx : s.ms.slots[primary s]? = some x)
    (hpast : ∀ u, x.lastAt = some u → u + 3 * syncInterval s (primary s) ≤ s.clk.mer)
    (hst : s.ms.servo = .locked ∨ s.ms.servo = .slewing) : doPrimarySampleTimeout s = enterHoldover s := by
  cases hl : x.lastAt with
  | none =>
    simp only [doPrimarySampleTimeout, hx, hl]
    exact if_pos (by simpa using hst)
  | some u =>
    simp only [doPrimarySampleTimeout, hx, hl]
    exact if_pos (by simpa [hpast u hl] using hst)

/-- TRACEABLE falls: HOLD_LIMIT stands, and the Binnacle is told. -/
theorem setTrace_falls (h : s.ms.traceable = true) : (setTrace s false).ms.traceable = false ∧ (rget (setTrace s false) 0x90004).testBit 5 = true ∧
    (setTrace s false).bin.traceFell = true := by
  have he : setTrace s false = (rflag (s.setMs { s.ms with traceable := false }) 0x90004 5).setBin { s.bin with traceFell := true } := by
    simp only [setTrace, h, Bool.not_false, Bool.and_self, if_true]
    rfl
  rw [he]
  exact ⟨rfl, rflag_same 0x90004 (by decide), rfl⟩

theorem primary_lt (s : State) : primary s < 2 := by
  unfold primary bitAt
  split <;> decide

/-- A masked write takes the mask's bits from the new word, the others from the old. -/
theorem testBit_maskIn {old new mask j : Nat} (hj : j < 32) (hm : mask < 2 ^ 32) :
    (maskIn old new mask).testBit j = if mask.testBit j then new.testBit j else old.testBit j := by
  have hc : (0xFFFFFFFF - mask % 2 ^ 32).testBit j = !mask.testBit j := by
    rw [Nat.mod_eq_of_lt hm, show 0xFFFFFFFF - mask = 2 ^ 32 - (mask + 1) by omega, Nat.testBit_two_pow_sub_succ hm]
    simp [hj]
  simp only [maskIn, Nat.testBit_mod_two_pow, hj, decide_true, Bool.true_and, Nat.testBit_or, Nat.testBit_and, hc]
  cases mask.testBit j <;> simp

theorem nbits_maskIn_logSync (old n : Nat) : nbits (maskIn old (n % 16 * 2 ^ 16) 0xF0000) 19 16 = n % 16 := by
  refine Nat.eq_of_testBit_eq fun j => ?_
  have hmul : n % 16 * 2 ^ 16 = (n % 16) <<< 16 := (Nat.shiftLeft_eq _ _).symm
  simp only [nbits, Nat.testBit_mod_two_pow, Nat.testBit_shiftRight]
  by_cases hj : j < 4
  · have hbit : Nat.testBit 0xF0000 (16 + j) = true := by
      interval_cases j <;> decide
    rw [testBit_maskIn (by omega) (by decide), hbit, hmul, Nat.testBit_shiftLeft]
    simp [hj]
  · rw [Nat.testBit_lt_two_pow (lt_of_lt_of_le (Nat.mod_lt n (by decide)) (Nat.pow_le_pow_right (by decide) (Nat.le_of_not_lt hj) : 2 ^ 4 ≤ 2 ^ j))]
    simp [hj]

/-- Settles O37: each report leaves the slot as it says; what follows is the servo's own work, which keeps every slot's measurements. -/
theorem meridianServo : Obligations.MeridianServo := by
  intro s i
  refine ⟨fun x origin ingress hx hen hsrc hlock hsw => ?_, fun x t1 t2 t3 t4 hx hen hsrc => ?_, fun x hx hpast hst => ?_,
    fun hst hlim htr => ?_, fun utc v p n hi hsrc => ?_⟩
  · obtain ⟨hsteer, hprim⟩ := doSyncSample_records hx hen hsrc hlock hsw origin ingress
    obtain ⟨y, hy, hat, hdelay, hlog⟩ := doSyncSample_slot hx hsteer
    refine gives_of_eq rfl rfl ⟨⟨y, hy, hat, hdelay, ?_⟩, fun hfree hi => ?_, only_trans (only_mono (updSlot_only _ _ _) (by decide)) hsteer.only⟩
    · rw [hlog, getLast?_drop_append]
    · rw [hprim hi]
      exact primarySample_free ((updSlot_servo _ _ _).trans hfree) _ _ _
  · obtain ⟨l, hsteer⟩ := doDelayMeasurement_records hx hen hsrc t1 t2 t3 t4
    obtain ⟨y, hy, hdelay, -, -⟩ := hsteer.slot (getElem?_lupd _ hx)
    exact gives_of_eq rfl rfl ⟨⟨y, hy, hdelay⟩, only_trans (only_mono (updSlot_only _ _ _) (by decide)) hsteer.only⟩
  · exact gives_of_eq rfl (doPrimarySampleTimeout_lost hx hpast hst) (enterHoldover_holds s)
  · obtain ⟨hfell, hflag, hbin⟩ := setTrace_falls htr
    exact gives_of_eq rfl (if_pos ⟨hst, hlim⟩) ⟨hfell, hflag, hbin, (setTrace_steered s false).only⟩
  · have hlow : ¬ 2 ≤ i := Nat.not_le.mpr (hi ▸ primary_lt s)
    have hgo : doAnnounce s i utc v p n =
        (rput s (0x90020 + 4 * i) (maskIn (srcCfg s i) (n % 16 * 2 ^ 16) 0xF0000)).setMs { s.ms with utcOff := utc % 2 ^ 16, utcValid := v && p } := by
      rw [doAnnounce, if_neg (by simp [hlow, hsrc])]
      exact if_pos hi
    refine gives_of_eq rfl hgo ⟨rfl, ?_, only_then (only_mono (rput_only _ _ _) (by decide)) (setMs_only _ _)⟩
    have hcfg : srcCfg ((rput s (0x90020 + 4 * i) (maskIn (srcCfg s i) (n % 16 * 2 ^ 16) 0xF0000)).setMs
        { s.ms with utcOff := utc % 2 ^ 16, utcValid := v && p }) i = maskIn (srcCfg s i) (n % 16 * 2 ^ 16) 0xF0000 :=
      rget_rput_of_lt (Nat.mod_lt _ (by decide))
    rw [hcfg]
    exact nbits_maskIn_logSync _ _

/-! ## A write of MER_CTL, stage by stage (13 R317, R318, R333) -/

theorem servoCheck_steered (s : State) : Steered s (servoCheck s) := by
  unfold servoCheck
  split
  · exact .ite (.refl s) (enterServo_steered s .free)
  · exact .ite (enterHoldover_steered s) (.refl s)

theorem servoCheck_free (h : s.ms.servo = .free) : servoCheck s = s := by simp [servoCheck, h]

theorem servoCheck_enabled (hen : servoEn s = true) (hsrc : srcEn s (primary s) = true) : servoCheck s = s := by
  have hone : (srcEn s 0 || srcEn s 1) = true := by
    unfold primary bitAt at hsrc
    split at hsrc <;> simp_all
  unfold servoCheck
  rw [if_neg (by simp [hen, hone]), if_neg (by simp [hsrc])]

/-- What a write of MER_CTL has done before its SET. -/
def ctlSnap (s : State) (w : Word) : State :=
  let v := servoCheck (rput s 0x90000 (w.toNat &&& 6))
  if bit w 31 then v.setMs { v.ms with snapDue := true } else v

/-- What it has done before its SWITCH. -/
def ctlSet (s : State) (w : Word) : State := if bit w 30 then askSet (ctlSnap s w) else ctlSnap s w

theorem merCtl_eq (s : State) (w : Word) : merCtl s w = if bit w 29 then requestSwitch (ctlSet s w) else ctlSet s w := rfl

/-- The groups that a write of MER_CTL works on. -/
abbrev ctlGroups : List StateGroup := [.ms, .regs, .bin]

theorem rputCtl_only (s : State) (v : Nat) : onlyChanged ctlGroups s (rput s 0x90000 v) := only_mono (rput_only _ _ _) (by decide)

theorem ctlSnap_only (s : State) (w : Word) : onlyChanged ctlGroups s (ctlSnap s w) :=
  only_trans (rputCtl_only _ _) (only_trans (servoCheck_steered _).only (only_ite (only_mono (setMs_only _ _) (by decide)) (only_refl _ _)))

theorem ctlSnap_setDue (s : State) (w : Word) : (ctlSnap s w).ms.setDue = s.ms.setDue := by
  have hv : (servoCheck (rput s 0x90000 (w.toNat &&& 6))).ms.setDue = s.ms.setDue := (servoCheck_steered _).setDue
  unfold ctlSnap
  split <;> exact hv

theorem ctlSnap_snapDue (h : bit w 31 = true) (s : State) : (ctlSnap s w).ms.snapDue = true := by
  simp only [ctlSnap, h, if_true]
  rfl

/-- Where the servo has nothing to do, SNAP is all that a write does besides its own fields. -/
theorem ctlSnap_eq (h : servoCheck (rput s 0x90000 (w.toNat &&& 6)) = rput s 0x90000 (w.toNat &&& 6)) :
    ctlSnap s w = if bit w 31 then (rput s 0x90000 (w.toNat &&& 6)).setMs { s.ms with snapDue := true } else rput s 0x90000 (w.toNat &&& 6) := by
  simp only [ctlSnap, h]
  rfl

theorem askSet_cases (s : State) : askSet s = s.setMs { s.ms with setDue := some (stagedMer s) } ∨ askSet s = rflag s 0x90004 0 := by
  unfold askSet
  split
  · exact .inl rfl
  · exact .inr rfl

theorem requestSwitch_cases (s : State) : requestSwitch s = s.setMs { s.ms with switchDue := true } ∨ requestSwitch s = rflag s 0x90004 0 := by
  unfold requestSwitch
  split
  · exact .inl rfl
  · exact .inr rfl

theorem askSet_only (s : State) : onlyChanged ctlGroups s (askSet s) :=
  only_ite (only_mono (setMs_only _ _) (by decide)) (only_mono (rflag_only _ _ _) (by decide))

theorem requestSwitch_only (s : State) : onlyChanged ctlGroups s (requestSwitch s) :=
  only_ite (only_mono (setMs_only _ _) (by decide)) (only_mono (rflag_only _ _ _) (by decide))

theorem ctlSet_only (s : State) (w : Word) : onlyChanged ctlGroups s (ctlSet s w) :=
  only_trans (ctlSnap_only s w) (only_ite (askSet_only _) (only_refl _ _))

theorem merCtl_only (s : State) (w : Word) : onlyChanged ctlGroups s (merCtl s w) :=
  only_trans (ctlSet_only s w) (only_ite (requestSwitch_only _) (only_refl _ _))

/-- SWITCH leaves alone what SNAP and SET have asked. -/
theorem merCtl_asked (s : State) (w : Word) : (merCtl s w).ms.snapDue = (ctlSet s w).ms.snapDue ∧ (merCtl s w).ms.setDue = (ctlSet s w).ms.setDue := by
  rw [merCtl_eq]
  split
  · rcases requestSwitch_cases (ctlSet s w) with h | h <;> rw [h] <;> exact ⟨rfl, rfl⟩
  · exact ⟨rfl, rfl⟩

theorem ctlSet_snapDue (s : State) (w : Word) : (ctlSet s w).ms.snapDue = (ctlSnap s w).ms.snapDue := by
  unfold ctlSet
  split
  · rcases askSet_cases (ctlSnap s w) with h | h <;> rw [h] <;> rfl
  · rfl

theorem merCtl_snapDue (h : bit w 31 = true) (s : State) : (merCtl s w).ms.snapDue = true :=
  (merCtl_asked s w).1.trans ((ctlSet_snapDue s w).trans (ctlSnap_snapDue h s))

/-- A refusal that SET has told stays told. -/
theorem merCtl_refused (h : (rget (ctlSet s w) 0x90004).testBit 0 = true) : (rget (merCtl s w) 0x90004).testBit 0 = true := by
  rw [merCtl_eq]
  split
  · rcases requestSwitch_cases (ctlSet s w) with h' | h' <;> rw [h']
    · exact h
    · exact rflag_same 0x90004 (by decide)
  · exact h

/-! ### SET -/

theorem bit_and {m j : Nat} (hm : m.testBit j = true) (hw : bit w j = true) : (w.toNat &&& m).testBit j = true := by
  rw [Nat.testBit_and, hm, Bool.and_true]
  exact hw

theorem and_six_lt (w : Word) : (w.toNat &&& 6) < 2 ^ 32 := Nat.lt_of_le_of_lt Nat.and_le_right (by decide)

/-- The registers other than MER_CTL are those of before. -/
theorem ctlSnap_rget (h : servoCheck (rput s 0x90000 (w.toNat &&& 6)) = rput s 0x90000 (w.toNat &&& 6)) {off : Nat} (ho : off ≠ 0x90000) :
    rget (ctlSnap s w) off = rget s off := by
  rw [ctlSnap_eq h]
  split <;> exact rget_rput_ne _ ho

theorem ctlSnap_ctl (h : servoCheck (rput s 0x90000 (w.toNat &&& 6)) = rput s 0x90000 (w.toNat &&& 6)) :
    rget (ctlSnap s w) 0x90000 = w.toNat &&& 6 := by
  rw [ctlSnap_eq h]
  split <;> exact rget_rput_of_lt (and_six_lt w)

theorem stagedMer_congr (h : ∀ off, off ≠ 0x90000 → rget t off = rget s off) : stagedMer t = stagedMer s := by
  simp [stagedMer, h]

/-- No binding and no command stand against a step (13 R331). -/
theorem stepOk_of (hstep : stepEn s = true) (hstreams : s.streams = [])
    (hcmds : ∀ c, c ∈ s.cmds → opOf c.desc ≠ 0x30 ∧ (c.deadline = none ∨ isSolve c.desc = false ∨ dClass c.desc = 0)) : stepOk s = true := by
  have hnone : s.cmds.any (fun c => decide (opOf c.desc = 0x30) || (c.deadline.isSome && isSolve c.desc && decide (dClass c.desc ≠ 0))) = false := by
    rw [List.any_eq_false]
    intro c hc
    obtain ⟨hop, h | h | h⟩ := hcmds c hc <;> simp [hop, h]
  rw [stepOk, hstep, hstreams, hnone]
  rfl

/-- A SET that nothing stands against is due at the next MK edge. -/
theorem merCtl_set (hset : bit w 30 = true) (hstep : bit w 2 = true) (hfree : s.ms.servo = .free) (hstreams : s.streams = [])
    (hcmds : ∀ c, c ∈ s.cmds → opOf c.desc ≠ 0x30 ∧ (c.deadline = none ∨ isSolve c.desc = false ∨ dClass c.desc = 0))
    (hns : rget s 0x90010 < 1000000000) : (merCtl s w).ms.setDue = some (stagedMer s) := by
  have hcheck : servoCheck (rput s 0x90000 (w.toNat &&& 6)) = rput s 0x90000 (w.toNat &&& 6) := servoCheck_free hfree
  have honly := ctlSnap_only s w
  have hms : (ctlSnap s w).ms.servo = .free := by
    rw [ctlSnap_eq hcheck]
    split <;> exact hfree
  have hok : stepOk (ctlSnap s w) = true :=
    stepOk_of (by rw [stepEn, ctlSnap_ctl hcheck]; exact bit_and (by decide) hstep) ((only_streams honly (by decide)).trans hstreams)
      (by rw [only_cmds honly (by decide)]; exact hcmds)
  have hgo : ctlSet s w = (ctlSnap s w).setMs { (ctlSnap s w).ms with setDue := some (stagedMer (ctlSnap s w)) } := by
    rw [ctlSet, if_pos hset, askSet]
    exact if_pos ⟨hms, hok, by rw [ctlSnap_rget hcheck (by decide)]; exact hns⟩
  rw [(merCtl_asked s w).2, hgo]
  exact congrArg some (stagedMer_congr fun off ho => ctlSnap_rget hcheck ho)

/-- A SET of nanoseconds out of range is refused. -/
theorem merCtl_set_refused (hset : bit w 30 = true) (hns : 1000000000 ≤ rget s 0x90010) :
    (merCtl s w).ms.setDue = s.ms.setDue ∧ (rget (merCtl s w) 0x90004).testBit 0 = true := by
  have hsnap : rget (ctlSnap s w) 0x90010 = rget (servoCheck (rput s 0x90000 (w.toNat &&& 6))) 0x90010 := by
    unfold ctlSnap
    split <;> rfl
  have hreg : rget (ctlSnap s w) 0x90010 = rget s 0x90010 :=
    hsnap.trans (((servoCheck_steered _).regs 0x90010 (by decide)).trans (rget_rput_ne _ (by decide)))
  have hgo : ctlSet s w = rflag (ctlSnap s w) 0x90004 0 := by
    rw [ctlSet, if_pos hset, askSet]
    exact if_neg (by rw [hreg]; omega)
  refine ⟨(merCtl_asked s w).2.trans ?_, merCtl_refused ?_⟩ <;> rw [hgo]
  · exact ctlSnap_setDue s w
  · exact rflag_same 0x90004 (by decide)

/-! ### SWITCH -/

/-- What decides a switchover. -/
theorem consistent_congr (hprim : t.ms.primaryB = s.ms.primaryB) (hslots : t.ms.slots = s.ms.slots) (hclk : t.clk = s.clk)
    (hregs : ∀ off, off ≠ 0x90000 → off ≠ 0x90004 → rget t off = rget s off) : consistent t = consistent s := by
  have hp : primary t = primary s := by simp only [primary, hprim]
  have hsrc : ∀ j, srcCfg t j = srcCfg s j := fun j => hregs _ (by omega) (by omega)
  simp only [consistent, srcEn, syncInterval, consistWin, hp, hsrc, hslots, hclk, hregs 0x90034 (by decide) (by decide)] <;> rfl

/-- SNAP and SET leave alone what SWITCH goes by. -/
theorem ctlSet_switch (h : servoCheck (rput s 0x90000 (w.toNat &&& 6)) = rput s 0x90000 (w.toNat &&& 6)) :
    consistent (ctlSet s w) = consistent s ∧ (ctlSet s w).ms.switchDue = s.ms.switchDue := by
  have hsnap : (ctlSnap s w).ms.primaryB = s.ms.primaryB ∧ (ctlSnap s w).ms.slots = s.ms.slots ∧
      (ctlSnap s w).ms.switchDue = s.ms.switchDue := by
    rw [ctlSnap_eq h]
    split <;> exact ⟨rfl, rfl, rfl⟩
  have hset : (ctlSet s w).ms.primaryB = (ctlSnap s w).ms.primaryB ∧ (ctlSet s w).ms.slots = (ctlSnap s w).ms.slots ∧
      (ctlSet s w).ms.switchDue = (ctlSnap s w).ms.switchDue ∧ ∀ off, off ≠ 0x90004 → rget (ctlSet s w) off = rget (ctlSnap s w) off := by
    unfold ctlSet
    split
    · rcases askSet_cases (ctlSnap s w) with h' | h' <;> rw [h']
      · exact ⟨rfl, rfl, rfl, fun _ _ => rfl⟩
      · exact ⟨rfl, rfl, rfl, fun _ ho => rget_rput_ne _ ho⟩
    · exact ⟨rfl, rfl, rfl, fun _ _ => rfl⟩
  obtain ⟨hp, hsl, hsw⟩ := hsnap
  obtain ⟨hp', hsl', hsw', hr'⟩ := hset
  exact ⟨consistent_congr (hp'.trans hp) (hsl'.trans hsl) (only_clk (ctlSet_only s w) (by decide))
    (fun off ho ho' => (hr' off ho').trans (ctlSnap_rget h ho)), hsw'.trans hsw⟩

/-- SWITCH with the servo enabled and the primary slot in use. -/
theorem merCtl_switch (hsw : bit w 29 = true) (hen : bit w 1 = true) (hsrc : srcEn s (primary s) = true) :
    (consistent s = true → (merCtl s w).ms.switchDue = true) ∧
      (consistent s = false → (merCtl s w).ms.switchDue = s.ms.switchDue ∧ (rget (merCtl s w) 0x90004).testBit 0 = true) := by
  have hctl : servoEn (rput s 0x90000 (w.toNat &&& 6)) = true := by
    rw [servoEn, rget_rput_of_lt (and_six_lt w)]
    exact bit_and (by decide) hen
  have hsrc' : srcEn (rput s 0x90000 (w.toNat &&& 6)) (primary (rput s 0x90000 (w.toNat &&& 6))) = true := by
    rw [srcEn, srcCfg, rget_rput_ne _ (by omega)]
    exact hsrc
  obtain ⟨hcons, hdue⟩ := ctlSet_switch (servoCheck_enabled hctl hsrc')
  rw [merCtl_eq, if_pos hsw, requestSwitch, hcons]
  refine ⟨fun h => ?_, fun h => ?_⟩
  · rw [if_pos h]
    rfl
  · rw [if_neg (by simp [h])]
    exact ⟨hdue, rflag_same 0x90004 (by decide)⟩

/-! ## The read of MER_NOW (20 R447) -/

theorem regRaw_congr (h : t.regs = s.regs) (copy off : Nat) : regRaw t copy off = regRaw s copy off := by simp only [regRaw, h]

theorem regRaw_regPut_same (s : State) (copy off v : Nat) : regRaw (regPut s copy off v) copy off = v % 2 ^ 32 := by
  simp [regRaw, regPut]

theorem regRaw_regPut_ne {off off' : Nat} (h : off ≠ off') (s : State) (copy v : Nat) :
    regRaw (regPut s copy off' v) copy off = regRaw s copy off := by
  have hk : regKey copy off ≠ regKey copy off' := fun he => h (Nat.add_left_cancel he)
  simp only [regRaw, regPut, State.setRegs_regs, mget_mset_ne _ _ hk]

theorem pathOpen_of (hpf : pfOpen s = true) {path : Nat} (h : fnEnabled s path = true) : pathOpen s path = true := by simp [pathOpen, hpf, h]

/-- Settles O36: each request stands once the stages of the write of MER_CTL before and after it have passed. -/
theorem meridianControl : Obligations.MeridianControl := by
  intro s w hpf
  refine ⟨fun h => ?_, fun h hstep hfree hstreams hcmds hns => ?_, fun h hns => ?_, fun h hen hsrc => ?_, fun path hp hen => ?_⟩
  · exact gives_of_eq rfl (if_pos ⟨hpf, h⟩) ⟨merCtl_snapDue h s, merCtl_only s w⟩
  · exact gives_of_eq rfl (if_pos ⟨hpf, h⟩)
      ⟨merCtl_set h hstep hfree hstreams hcmds hns, only_clk (merCtl_only s w) (by decide), merCtl_only s w⟩
  · obtain ⟨hdue, hflag⟩ := merCtl_set_refused h hns
    exact gives_of_eq rfl (if_pos ⟨hpf, h⟩) ⟨hdue, hflag, merCtl_only s w⟩
  · obtain ⟨hyes, hno⟩ := merCtl_switch h hen hsrc
    exact ⟨fun hc => gives_of_eq rfl (if_pos ⟨hpf, h⟩) ⟨hyes hc, merCtl_only s w⟩,
      fun hc => gives_of_eq rfl (if_pos ⟨hpf, h⟩) ⟨(hno hc).1, (hno hc).2, merCtl_only s w⟩⟩
  · have hgo : doMerNowRead s path = emit (regPut (regPut (regPut s path 0x90304 (merSec s.clk.mer / 2 ^ 32)) path 0x90308 (merNs s.clk.mer))
        path 0x9030C (merFrac s.clk.mer)) (.regRead path 0x90300 (BitVec.ofNat 32 (merSec s.clk.mer))) :=
      if_neg (by simp [pathOpen_of hpf hen])
    have hns : merNs s.clk.mer < 2 ^ 32 := lt_trans (Nat.mod_lt _ (by decide)) (by decide)
    have hfrac : merFrac s.clk.mer < 2 ^ 32 := lt_trans (Nat.mod_lt _ (by decide)) (by decide)
    have hregs := only_regs (emit_only (regPut (regPut (regPut s path 0x90304 (merSec s.clk.mer / 2 ^ 32)) path 0x90308 (merNs s.clk.mer))
      path 0x9030C (merFrac s.clk.mer)) (.regRead path 0x90300 (BitVec.ofNat 32 (merSec s.clk.mer)))) (by decide)
    refine gives_of_eq rfl hgo ⟨emit_out _ _, ?_, ?_, ?_⟩
    · rw [regRaw_congr hregs, regRaw_regPut_ne (by decide), regRaw_regPut_same, Nat.mod_eq_of_lt hns]
    · rw [regRaw_congr hregs, regRaw_regPut_same, Nat.mod_eq_of_lt hfrac]
    · exact only_trans (only_mono (only_trans (regPut_only _ _ _ _) (only_trans (regPut_only _ _ _ _) (regPut_only _ _ _ _))) (by decide))
        (only_mono (emit_only _ _) (by decide))

/-! ## PTP stamps (13 R325 to R327) -/

/-- An enabled port on a link that is up stamps its event frames. -/
theorem ptpOpen (hi : i < 4) (hen : (ptpCfg s i).testBit 31 = true) (hlinks : s.bin.linksDown = false) (hport : s.boot.portEn.testBit i = true) :
    ¬ (4 ≤ i ∨ (!(ptpCfg s i).testBit 31) = true ∨ s.bin.linksDown = true ∨ (!s.boot.portEn.testBit i) = true) := by
  simp [Nat.not_le.mpr hi, hen, hlinks, hport]

theorem doPtpEventEgress_twoStep (hopen : ¬ (4 ≤ i ∨ (!(ptpCfg s i).testBit 31) = true ∨ s.bin.linksDown = true ∨ (!s.boot.portEn.testBit i) = true))
    (hmode : (ptpCfg s i).testBit 30 = false) {q : List Egress} (hq : s.ms.egress[i]? = some q) (hroom : q.length < 64) (sub seqId ty : Nat) (ca : Bool) :
    doPtpEventEgress s i sub seqId ty ca =
      s.setMs { s.ms with egress := lset s.ms.egress i (q ++ [⟨seqId, ty, corrected (ballTime s sub) (portCorr s i 1)⟩]) } := by
  rw [doPtpEventEgress, if_neg hopen]
  simp only [hmode, Bool.false_eq_true, if_false, hq, if_neg (Nat.not_le.mpr hroom)]

theorem doPtpEventEgress_oneStep (hopen : ¬ (4 ≤ i ∨ (!(ptpCfg s i).testBit 31) = true ∨ s.bin.linksDown = true ∨ (!s.boot.portEn.testBit i) = true))
    (hmode : (ptpCfg s i).testBit 30 = true) {ty : Nat} (hty : ty = 0 ∨ ty = 3) (sub seqId : Nat) :
    doPtpEventEgress s i sub seqId ty true = emit s (.ptp i (corrected (ballTime s sub) (portCorr s i 1))) := by
  have hkind : (decide (ty = 0) || decide (ty = 3)) = true := by simpa using hty
  rw [doPtpEventEgress, if_neg hopen]
  simp only [hmode, if_true, hkind, Bool.and_self]

/-! ## Pulse outputs (13 R336, R337) -/

/-- A refused arming: MISSED stands, ARM does not. -/
theorem refuseArm_bits (s : State) (n v : Nat) :
    (rget (refuseArm s n v) (outReg n 0)).testBit 28 = true ∧ (rget (refuseArm s n v) (outReg n 0)).testBit 31 = false := by
  rw [refuseArm, rget_rput_of_lt (by omega)]
  constructor
  · rw [Nat.testBit_eq_decide_div_mod_eq]
    exact decide_eq_true (by omega)
  · rw [Nat.testBit_eq_decide_div_mod_eq]
    exact decide_eq_false (by omega)

/-- The fields that a write of MER_OUT_CFG takes: MODE, POL and WIDTH. -/
theorem outFields_width (w : Word) : (w.toNat &&& 0x6000FFFF) % 2 ^ 16 = w.toNat % 2 ^ 16 := by
  have h := nbits_and (hi := 15) (lo := 0) (m := 0x6000FFFF) (by decide) w.toNat
  simpa [nbits] using h

theorem outFields_le (w : Word) : (w.toNat &&& 0x6000FFFF) ≤ 0x6000FFFF := Nat.and_le_right

theorem outFields_mode (h : bit w 30 = false) : (w.toNat &&& 0x6000FFFF).testBit 30 = false := by
  rw [Nat.testBit_and, show w.toNat.testBit 30 = false from h, Bool.false_and]

theorem bitAt_le (b : Bool) (k : Nat) : bitAt b k ≤ 2 ^ k := by
  unfold bitAt
  split <;> simp

/-- With no width an arming is refused. -/
theorem outCfg_noWidth {x : PulseOut} (hx : s.ms.outs[n]? = some x) (hoff : x.armed = false) (harm : bit w 31 = true)
    (hwidth : w.toNat % 2 ^ 16 = 0) : outCfg s n w = refuseArm s n (w.toNat &&& 0x6000FFFF) := by
  simp only [outCfg, hx, hoff, harm, Bool.not_true, Bool.false_eq_true, if_false]
  exact if_pos (.inl (by rw [outFields_width, hwidth, Nat.zero_mul]))

/-- A one-shot whose start the next MK edge leaves time for is armed. -/
theorem outCfg_oneShot {x : PulseOut} (hx : s.ms.outs[n]? = some x) (hoff : x.armed = false) (harm : bit w 31 = true)
    (hwidth : w.toNat % 2 ^ 16 ≠ 0) (hmode : bit w 30 = false)
    (htime : s.clk.mer + merInc s + 20 * nsU ≤ completeTime s (rget s (outReg n 1)) (rget s (outReg n 2))) :
    ∃ m, m ≤ 2 ^ 28 ∧ outCfg s n w = (rput s (outReg n 0) ((w.toNat &&& 0x6000FFFF) + m + 2 ^ 31)).setMs
      { s.ms with outs := lset s.ms.outs n ⟨true, completeTime s (rget s (outReg n 1)) (rget s (outReg n 2)), 0, 0, x.high⟩ } := by
  have hw : (w.toNat &&& 0x6000FFFF) % 2 ^ 16 * 5 ≠ 0 := by
    rw [outFields_width]
    omega
  refine ⟨bitAt ((rget s (outReg n 0)).testBit 28 && !bit w 28) 28, bitAt_le _ _, ?_⟩
  simp only [outCfg, hx, hoff, harm, Bool.not_true, Bool.false_eq_true, if_false, hw, false_and, or_self, if_pos htime, outFields_mode hmode]

/-- A pulse starts: the output is high, and a one-shot disarms. -/
theorem doOutputEdge_start {x : PulseOut} (hx : s.ms.outs[n]? = some x) (hlow : x.high = false) (harmed : x.armed = true)
    (htime : edgeTime x x.nextK ≤ stamp s) :
    let v := emit (s.setMs { s.ms with outs := lset s.ms.outs n { x with high := true, nextK := x.nextK + 1 } })
      (.pulse n (!(rget s (outReg n 0)).testBit 29) (edgeTime x x.nextK))
    doOutputEdge s n = if outPeriodic v n then v else disarm v n := by
  simp only [doOutputEdge, hx, hlow, harmed, Bool.not_true, Bool.false_eq_true, if_false, false_or, if_neg (Nat.not_lt.mpr htime)]

theorem doOutputEdge_end {x : PulseOut} (hx : s.ms.outs[n]? = some x) (hhigh : x.high = true)
    (htime : edgeTime x (x.nextK - 1) + outWidth s n ≤ stamp s) :
    doOutputEdge s n = emit (s.setMs { s.ms with outs := lset s.ms.outs n { x with high := false } })
      (.pulse n ((rget s (outReg n 0)).testBit 29) (edgeTime x (x.nextK - 1) + outWidth s n)) := by
  simp only [doOutputEdge, hx, hhigh, if_true, if_neg (Nat.not_lt.mpr htime)]

theorem emit_ms (s : State) (o : Output) : (emit s o).ms = s.ms := only_ms (emit_only s o) (by decide)

theorem emit_clk (s : State) (o : Output) : (emit s o).clk = s.clk := only_clk (emit_only s o) (by decide)

theorem emit_regs (s : State) (o : Output) : (emit s o).regs = s.regs := only_regs (emit_only s o) (by decide)

theorem outPeriodic_congr (h : t.regs = s.regs) (n : Nat) : outPeriodic t n = outPeriodic s n := by
  simp only [outPeriodic, rget_congr h]

/-- Disarming takes the arming from one output and nothing more. -/
theorem disarm_outs {x : PulseOut} (hx : s.ms.outs[n]? = some x) : (disarm s n).ms.outs[n]? = some { x with armed := false } :=
  getElem?_lupd (fun x : PulseOut => { x with armed := false }) hx

/-! ## Capture inputs (13 R338) -/

/-- The input looks for this edge. -/
theorem edgeWanted (hon : (inCfg s i).testBit 31 = true) {rise : Bool} (hedge : (inCfg s i).testBit (if rise then 29 else 30) = true) :
    ((inCfg s i).testBit 31 && (if rise = true then (inCfg s i).testBit 29 else (inCfg s i).testBit 30)) = true := by
  cases rise <;> simpa [hon] using hedge

/-- An edge with room for it and none too close before it. -/
theorem doInputEdge_captured {c : CapIn} (hc : s.ms.ins[i]? = some c) (hon : (inCfg s i).testBit 31 = true) {rise : Bool}
    (hedge : (inCfg s i).testBit (if rise then 29 else 30) = true) {sub : Nat} (hsub : sub < 8) (hlock : s.clk.locked = true)
    (hroom : c.fifo.length < 4) (hfar : ∀ l, c.lastEdge = some l → l + 10 * nsU ≤ stamp s + sub * merInc s / 16) :
    doInputEdge s i rise sub =
      s.setMs { s.ms with ins := lset s.ms.ins i ⟨c.fifo ++ [(stamp s + sub * merInc s / 16, rise)], some (stamp s + sub * merInc s / 16)⟩ } := by
  have hfull : decide (4 ≤ c.fifo.length) = false := decide_eq_false (Nat.not_le.mpr hroom)
  simp only [doInputEdge, hc, edgeWanted hon hedge, hlock, Nat.not_le.mpr hsub, Bool.not_true, Bool.false_eq_true, or_self, if_false, hfull,
    Bool.or_false]
  cases hl : c.lastEdge with
  | none => rfl
  | some l => exact if_neg (by simpa using hfar l hl)

/-- An edge that the full FIFO has no room for. -/
theorem doInputEdge_full {c : CapIn} (hc : s.ms.ins[i]? = some c) (hon : (inCfg s i).testBit 31 = true) {rise : Bool}
    (hedge : (inCfg s i).testBit (if rise then 29 else 30) = true) {sub : Nat} (hsub : sub < 8) (hlock : s.clk.locked = true)
    (hfull : 4 ≤ c.fifo.length) : doInputEdge s i rise sub = rflag s (0x90200 + 16 * i) 28 := by
  simp only [doInputEdge, hc, edgeWanted hon hedge, hlock, Nat.not_le.mpr hsub, Bool.not_true, Bool.false_eq_true, or_self, if_false,
    decide_eq_true hfull, Bool.or_true, if_true]

/-- Settles O38: each event leaves what its own equation says. -/
theorem ptpPulsesCaptures : Obligations.PtpPulsesCaptures := by
  intro s i hi
  refine ⟨fun sub hen hlinks hport => ?_, fun sub q ty ca xs hen hlinks hport => ⟨fun hmode hq hroom => ?_, fun hmode hca hty => ?_⟩,
    fun n w x hn hpf harm hx hoff => ⟨fun hwidth => ?_, fun hwidth hmode htime => ?_⟩, fun n x hx hlow harmed htime => ?_,
    fun n x hx hhigh htime => ?_, fun c rise sub hc hon hedge hsub hlock => ⟨fun hroom hfar => ?_, fun hfull => ?_⟩, fun c hc hpf => ?_⟩
  · exact gives_of_eq rfl (if_neg (ptpOpen hi hen hlinks hport)) ⟨emit_out _ _, emit_only _ _⟩
  · exact gives_of_eq rfl (doPtpEventEgress_twoStep (ptpOpen hi hen hlinks hport) hmode hq hroom sub _ ty ca) ⟨lset_same hq _, setMs_only _ _⟩
  · subst hca
    exact gives_of_eq rfl (doPtpEventEgress_oneStep (ptpOpen hi hen hlinks hport) hmode hty sub _) ⟨emit_out _ _, emit_only _ _⟩
  · exact gives_of_eq rfl ((if_pos ⟨hpf, hn, harm⟩).trans (outCfg_noWidth hx hoff harm hwidth))
      ⟨rfl, (refuseArm_bits s n _).1, (refuseArm_bits s n _).2, rput_only _ _ _⟩
  · obtain ⟨m, hm, hgo⟩ := outCfg_oneShot hx hoff harm hwidth hmode htime
    have hv := outFields_le w
    refine gives_of_eq rfl ((if_pos ⟨hpf, hn, harm⟩).trans hgo) ⟨lset_same hx _, ?_, ?_⟩
    · show (rget (rput s (outReg n 0) _) (outReg n 0)).testBit 31 = true
      rw [rget_rput_same, Nat.testBit_eq_decide_div_mod_eq]
      exact decide_eq_true (by omega)
    · exact only_trans (only_mono (rput_only _ _ _) (by decide)) (only_mono (setMs_only _ _) (by decide))
  · refine gives_of_eq rfl (doOutputEdge_start hx hlow harmed htime) ?_
    generalize ho : Output.pulse n (!(rget s (outReg n 0)).testBit 29) (edgeTime x x.nextK) = o
    generalize hv : emit (s.setMs { s.ms with outs := lset s.ms.outs n { x with high := true, nextK := x.nextK + 1 } }) o = v
    have houts : v.ms.outs[n]? = some { x with high := true, nextK := x.nextK + 1 } := by
      rw [← hv, emit_ms]
      exact lset_same hx _
    have hout : v.out = s.out ++ [o] := hv ▸ emit_out _ _
    have hclk : v.clk = s.clk := hv ▸ emit_clk _ _
    have hper : outPeriodic v n = outPeriodic s n := outPeriodic_congr (hv ▸ emit_regs _ _) n
    rw [hper]
    by_cases hp : outPeriodic s n = true
    · rw [if_pos hp]
      exact ⟨hout, ⟨_, houts, rfl, rfl, by rw [hp]; exact harmed⟩, hclk⟩
    · rw [if_neg hp]
      exact ⟨hout, ⟨_, disarm_outs houts, rfl, rfl, (Bool.eq_false_of_not_eq_true hp).symm⟩, hclk⟩
  · refine gives_of_eq rfl (doOutputEdge_end hx hhigh htime) ⟨emit_out _ _, ?_, emit_clk _ _⟩
    rw [emit_ms]
    exact lset_same hx _
  · exact gives_of_eq rfl (doInputEdge_captured hc hon hedge hsub hlock hroom hfar) ⟨lset_same hc _, setMs_only _ _⟩
  · exact gives_of_eq rfl (doInputEdge_full hc hon hedge hsub hlock hfull) ⟨rfl, rflag_same _ (by decide), rflag_only _ _ _⟩
  · have hgo : doInputFifoPop s i = (emit s (.regRead 0 (0x90208 + 16 * i) (BitVec.ofNat 32 (merNs (capHead s i).1)))).setMs
        { (emit s (.regRead 0 (0x90208 + 16 * i) (BitVec.ofNat 32 (merNs (capHead s i).1)))).ms with
          ins := lset (emit s (.regRead 0 (0x90208 + 16 * i) (BitVec.ofNat 32 (merNs (capHead s i).1)))).ms.ins i { c with fifo := c.fifo.drop 1 } } := by
      simp only [doInputFifoPop, hc, hpf, Bool.not_true, Bool.false_eq_true, if_false]
    refine gives_of_eq rfl hgo ⟨?_, emit_out _ _, only_trans (only_mono (emit_only _ _) (by decide)) (only_mono (setMs_only _ _) (by decide))⟩
    exact lset_same (by rw [emit_ms]; exact hc) _

end Sys2Proof.Proofs

/-! SUPPORT. The proofs of the statements of 14_fleet.md: HELLO, MEMBER_DOWN, RASTAN_RETRY, a received frame, the global stop and the limit of a timed wait. -/

namespace Sys2Proof.Proofs
open Sys2Proof Sys2Proof.Machine Sys2Proof.Laws

/- One proof at a time: elaborated beside the pending kernel checks of the text's tests, they need more threads than the memory limit holds. -/
set_option Elab.async false

variable {s t u : State} {c n port : Nat} {k : CmdKey} {f : RFrame} {w : Word}

/-- Two steps change what either may change. -/
theorem only_append {gs gs' : List StateGroup} (h : onlyChanged gs s t) (h' : onlyChanged gs' t u) : onlyChanged (gs ++ gs') s u :=
  only_trans (only_mono h fun _ hg => List.mem_append_left _ hg) (only_mono h' fun _ hg => List.mem_append_right _ hg)

/-! ## The wire and the peers (14 R343, R344) -/

theorem putOnWire_only (s : State) (port : Nat) (f : RFrame) : onlyChanged [.pel, .out] s (putOnWire s port f) := by
  unfold putOnWire
  split
  · exact only_refl _ _
  · exact only_trans (only_mono (gcount_only _ _ _) (by decide)) (emit_only _ _)

theorem putOnWire_out (h : ethOn s port = true) (f : RFrame) : (putOnWire s port f).out = s.out ++ [.rastan (port % 4) f] := by
  rw [putOnWire, if_neg (by simp [h]), emit_out]
  exact congrArg (· ++ [_]) (only_out (gcount_only s (0x4000 + port % 4) (frameBytes f)) (by decide))

theorem ethOn_congr (h : t.boot = s.boot) (port : Nat) : ethOn t port = ethOn s port := by simp only [ethOn, h]

theorem peerCfg_congr (h : t.regs = s.regs) (c : Nat) : peerCfg t c = peerCfg s c := by simp only [peerCfg, rget_congr h]

theorem altEn_congr (h : t.regs = s.regs) (c : Nat) : altEn t c = altEn s c := by simp only [altEn, peerCfg_congr h]

theorem peerPort_congr (h : t.regs = s.regs) (c : Nat) (alt : Bool) : peerPort t c alt = peerPort s c alt := by
  simp only [peerPort, peerCfg_congr h]

theorem helloTime_congr (h : t.regs = s.regs) : helloTime t = helloTime s := by simp only [helloTime, rget_congr h]

theorem setFleet_only (s : State) (x : Fleet) : onlyChanged [.fleet] s (s.setFleet x) := by simp [onlyChanged]

/-- The HELLO that a member is sent: it carries what was last applied from it. -/
def helloOf (s : State) (c : Nat) : RFrame := { newFrame s .hello c with ack := (peerOf s c).applied }

/-- The HELLO of one member, on the alternate port as well where ALT_EN is set. -/
def sayHello (s : State) (c : Nat) : State :=
  let t := putOnWire (setPeer s c { peerOf s c with ackDue := false }) (peerPort s c false) (helloOf s c)
  if altEn t c then putOnWire t (peerPort t c true) { helloOf s c with alt := true } else t

theorem sayHello_only (s : State) (c : Nat) : onlyChanged [.fleet, .pel, .out] s (sayHello s c) := by
  have h : onlyChanged [.fleet, .pel, .out] s (putOnWire (setPeer s c { peerOf s c with ackDue := false }) (peerPort s c false) (helloOf s c)) :=
    only_trans (only_mono (setPeer_only _ _ _) (by decide)) (only_mono (putOnWire_only _ _ _) (by decide))
  unfold sayHello
  exact only_ite (only_trans h (only_mono (putOnWire_only _ _ _) (by decide))) h

theorem doHello_due (hon : fleetOn s = true) (hdue : s.fleet.helloAt ≤ stamp s) :
    doHello s = ((members s).foldl sayHello s).setFleet { ((members s).foldl sayHello s).fleet with
      helloAt := stamp ((members s).foldl sayHello s) + helloTime ((members s).foldl sayHello s) } :=
  if_neg (by simp [hon, Nat.not_lt.mpr hdue])

theorem sayHellos_only (s : State) (l : List Nat) : onlyChanged [.fleet, .pel, .out] s (l.foldl sayHello s) :=
  only_foldl (fun _ _ h => only_trans h (sayHello_only _ _)) (only_refl _ _)

/-- With ALT_EN 0 one HELLO goes out. -/
theorem sayHello_out (halt : altEn s c = false) (hon : ethOn s (peerPort s c false) = true) :
    (sayHello s c).out = s.out ++ [.rastan (peerPort s c false % 4) (helloOf s c)] := by
  have ho := only_append (setPeer_only s c { peerOf s c with ackDue := false }) (putOnWire_only _ (peerPort s c false) (helloOf s c))
  have hout := putOnWire_out (s := setPeer s c { peerOf s c with ackDue := false }) hon (helloOf s c)
  unfold sayHello
  rw [if_neg (by rw [altEn_congr (only_regs ho (by decide)), halt]; decide)]
  exact hout

/-! ## MEMBER_DOWN (14 R343) -/

/-- The NOTICE that a member has come UP or gone DOWN. -/
def memberNotice (s : State) (c up : Nat) : State :=
  raiseNotice s srcMember false { cls := 0, cause := 0x30, unitKind := 6, unitNo := c, detail := b1 c ++ b1 up }

theorem memberNotice_only (s : State) (c up : Nat) : onlyChanged reportGroups s (memberNotice s c up) := raiseNotice_only _ _ _ _

/-- What DOWN leaves of a member: its started frames, that belong to no command any more. -/
def downPeer (p : Peer) : Peer :=
  { p with
    up := false
    sent := (p.sent.filter (fun f => f.started)).map (fun f => { f with key := none })
    discarded := p.discarded + (p.sent.length - (p.sent.filter (fun f => f.started)).length) }

theorem doMemberDown_silent (hup : (peerOf s c).up = true) (hen : fltEn s = true) (hmem : isMember s c = true)
    (hsilent : (peerOf s c).heard + 3 * helloTime s ≤ stamp s) (hnone : signalsTo s c = []) :
    doMemberDown s c = memberNotice (setPeer s c (downPeer (peerOf s c))) c 0 := by
  have hs : signalsTo (memberNotice (setPeer s c (downPeer (peerOf s c))) c 0) c = [] := by
    have hcmds := only_cmds (only_append (setPeer_only s c (downPeer (peerOf s c))) (memberNotice_only _ c 0)) (by decide)
    simp only [signalsTo, hcmds]
    exact hnone
  have hgo : doMemberDown s c = (signalsTo (memberNotice (setPeer s c (downPeer (peerOf s c))) c 0) c).foldl (fun s x => signalLost s x.key c)
      (memberNotice (setPeer s c (downPeer (peerOf s c))) c 0) :=
    if_neg (by simp [hup, hen, hmem, hsilent])
  rw [hgo, hs]
  rfl

/-! ## RASTAN_RETRY (14 R344) -/

/-- A frame as it goes out again. -/
def retriedFrame (s : State) (c : Nat) (f : RFrame) : RFrame :=
  { f with retry := true, alt := altEn s c && !f.alt, ack := (peerOf s c).applied }

/-- What a retry leaves of the member: the frame as it went out now, one retry more. -/
def retriedPeer (s : State) (c : Nat) (w : Word) (x : SentFrame) : Peer :=
  { peerOf s c with
    ackDue := false
    sent := (peerOf s c).sent.map (fun y => if y.started && decide (y.frame.lseq = w)
      then { x with frame := retriedFrame s c x.frame, retries := x.retries + 1, at0 := stamp s } else y) }

theorem doRastanRetry_due {x : SentFrame} (hx : (peerOf s c).sent.find? (fun f => f.started && decide (f.frame.lseq = w)) = some x)
    (hon : fleetOn s = true) (hdue : x.at0 + retryTime s ≤ stamp s) :
    let port := peerPort s c (altEn s c && !x.frame.alt)
    doRastanRetry s c w = putOnWire (gcount (setPeer s c (retriedPeer s c w x)) (0x400C + port) 1) port (retriedFrame s c x.frame) := by
  simp only [doRastanRetry, hx, if_neg (show ¬ ((!fleetOn s) = true ∨ stamp s < x.at0 + retryTime s) by simp [hon, Nat.not_lt.mpr hdue]),
    peerPort_congr (show (setPeer s c _).regs = s.regs from rfl)]
  rfl

/-- Settles O44: a HELLO for each member, the frames that DOWN keeps, and the frame that a retry sends anew. -/
theorem fleetMembers : Obligations.FleetMembers := by
  intro s c
  refine ⟨fun hon hdue => ⟨?_, fun hone halt heth => ?_⟩, fun hup hen hmem hsilent hnone => ?_, fun q f hf hon hdue => ?_⟩
  · have ho := sayHellos_only s (members s)
    refine gives_of_eq rfl (doHello_due hon hdue) ⟨?_, only_trans ho (only_mono (setFleet_only _ _) (by decide))⟩
    rw [State.setFleet_fleet, stamp_congr (only_clk ho (by decide)) (only_ms ho (by decide)), helloTime_congr (only_regs ho (by decide))]
  · refine gives_of_eq rfl (doHello_due hon hdue) ?_
    rw [State.setFleet_out, hone]
    exact sayHello_out halt heth
  · have ho := memberNotice_only (setPeer s c (downPeer (peerOf s c))) c 0
    have hp : peerOf (memberNotice (setPeer s c (downPeer (peerOf s c))) c 0) c = downPeer (peerOf s c) :=
      (peerOf_congr (only_fleet ho (by decide)) c).trans (peerOf_setPeer _ _ _)
    refine gives_of_eq rfl (doMemberDown_silent hup hen hmem hsilent hnone) ⟨?_, ?_, ?_⟩
    · rw [hp]
      rfl
    · rw [hp]
      rfl
    · exact only_trans (only_mono (setPeer_only _ _ _) (by decide)) (only_mono ho (by decide))
  · intro alt heth
    have ho := only_append (setPeer_only s c (retriedPeer s c q f)) (gcount_only _ (0x400C + peerPort s c alt) 1)
    refine gives_of_eq rfl (doRastanRetry_due hf hon hdue) ⟨?_, only_mono (only_append ho (putOnWire_only _ _ _)) (by decide)⟩
    rw [putOnWire_out ((ethOn_congr (only_boot ho (by decide)) _).trans heth), only_out ho (by decide)]
    rfl

/-! ## A member is heard (14 R343) -/

/-- A NOTICE writes the class register and the index of its record, no other register. -/
theorem raiseNotice_rget (s : State) (src : Nat) (always : Bool) (e : EvArg) {off : Nat} (h0 : off ≠ 0x100) (h4 : off ≠ 0x104) :
    rget (raiseNotice s src always e) off = rget s off := by
  unfold raiseNotice
  dsimp only
  split
  · rw [reportClass_some, rget_congr (alerted_regs _ _), rget_rput_ne _ h4, rflag, rget_rput_ne _ h0,
      rget_congr (only_regs (logEvent_only_log _ _) (by decide)), rget_congr (State.setLog_regs _ _)]
  · rw [reportClass_none, rget_congr (alerted_regs _ _), rflag, rget_rput_ne _ h0, rget_congr (State.setLog_regs _ _)]

/-- The member as it was heard now. -/
def heardPeer (s : State) (c : Nat) : Peer :=
  { peerOf s c with
    up := true, heard := stamp s
    sent := if (peerOf s c).up then (peerOf s c).sent else (peerOf s c).sent.map (fun f => { f with retries := 0 }) }

/-- A frame of a member touches that member and, where it comes UP, the reports of a NOTICE. -/
structure Heard (s t : State) (c : Nat) : Prop where
  peer : peerOf t c = heardPeer s c
  only : onlyChanged (.fleet :: reportGroups) s t
  stop : t.fleet.stop = s.fleet.stop
  stopped : t.fleet.stopped = s.fleet.stopped
  regs : ∀ off, off ≠ 0x100 → off ≠ 0x104 → rget t off = rget s off

theorem heardFrom_heard (s : State) (c : Nat) : Heard s (heardFrom s c) c := by
  have hv : Heard s (setPeer s c (heardPeer s c)) c :=
    ⟨peerOf_setPeer _ _ _, only_mono (setPeer_only _ _ _) (by decide), rfl, rfl, fun _ _ _ => rfl⟩
  have hgo : heardFrom s c = if (peerOf s c).up then setPeer s c (heardPeer s c) else memberNotice (setPeer s c (heardPeer s c)) c 1 := rfl
  rw [hgo]
  split
  · exact hv
  · have ho := memberNotice_only (setPeer s c (heardPeer s c)) c 1
    have hfleet := only_fleet ho (by decide)
    exact ⟨(peerOf_congr hfleet c).trans hv.peer, only_trans hv.only (only_mono ho (by decide)), (congrArg Fleet.stop hfleet).trans hv.stop,
      (congrArg Fleet.stopped hfleet).trans hv.stopped, fun _ h0 h4 => (raiseNotice_rget _ _ _ _ h0 h4).trans (hv.regs _ h0 h4)⟩

/-- A state after a frame has been counted and its sender heard. -/
def frameHeard (s : State) (port : Nat) (f : RFrame) : State := heardFrom (gcount s (0x4004 + port % 4) (frameBytes f)) f.src

theorem frameHeard_heard (s : State) (port : Nat) (f : RFrame) : Heard s (frameHeard s port f) f.src := by
  have hc := gcount_only s (0x4004 + port % 4) (frameBytes f)
  have h := heardFrom_heard (gcount s (0x4004 + port % 4) (frameBytes f)) f.src
  have hfleet := only_fleet hc (by decide)
  refine ⟨h.peer.trans ?_, only_trans (only_mono hc (by decide)) h.only, h.stop.trans (congrArg Fleet.stop hfleet),
    h.stopped.trans (congrArg Fleet.stopped hfleet), fun off h0 h4 => (h.regs off h0 h4).trans (rget_congr (only_regs hc (by decide)) off)⟩
  simp only [heardPeer, peerOf_congr hfleet, stamp_congr (only_clk hc (by decide)) (only_ms hc (by decide))]

theorem Heard.chipId (h : Heard s t c) : chipId t = chipId s := by
  simp only [Machine.chipId, h.regs 0xA0000 (by decide) (by decide)]

theorem dropped_congr (h : t.regs = s.regs) (f : RFrame) (w : RWire) : dropped t f w = dropped s f w := by
  have hfleet : fleetId t = fleetId s := by rw [fleetId, fleetId, rget_congr h]
  have hchip : chipId t = chipId s := by rw [chipId, chipId, rget_congr h]
  rw [dropped, dropped, hfleet, hchip, isMember_congr h]

/-! ## A received frame that passes its checks (14 R341) -/

/-- What a frame does that passes, once its sender has been heard. -/
def takeFrame (s : State) (port : Nat) (f : RFrame) : State :=
  if f.dst = chipId s then
    match f.kind with
    | .hello | .ack => takeAck s f.src f.ack
    | .refused => takeAck (takeSequenced s f) f.src f.ack
    | _ => takeSequenced (takeAck s f.src f.ack) f
  else if f.kind = .stop ∨ f.kind = .resume then applyFrame s port f
  else s

section
variable {wire : RWire} (hon : fleetOn s = true) (heth : ethOn s port = true)
include hon heth

theorem doRastanFrameReceive_dropped (hd : dropped s f wire = true) :
    doRastanFrameReceive s port f wire = gcount (gcount s (0x4004 + port % 4) (frameBytes f)) (0x4008 + port % 4) 1 := by
  rw [doRastanFrameReceive, if_neg (by simp [hon, heth])]
  exact if_pos (by rw [dropped_congr (only_regs (gcount_only _ _ _) (by decide)), hd])

theorem doRastanFrameReceive_taken (hd : dropped s f wire = false) :
    doRastanFrameReceive s port f wire = takeFrame (frameHeard s port f) port f := by
  rw [doRastanFrameReceive, if_neg (by simp [hon, heth])]
  dsimp only
  rw [if_neg (by rw [dropped_congr (only_regs (gcount_only _ _ _) (by decide)), hd]; decide), takeFrame]
  change (if (!decide (f.dst = chipId (frameHeard s port f))) = true then _ else _) = _
  by_cases h : f.dst = chipId (frameHeard s port f)
  · rw [if_pos h, if_neg (by simp [h])]
    rfl
  · rw [if_neg h, if_pos (by simp [h])]
    rfl

end

theorem takeFrame_hello (hdst : f.dst = chipId s) (hk : f.kind = .hello) : takeFrame s port f = takeAck s f.src f.ack := by
  rw [takeFrame, if_pos hdst, hk]

theorem takeFrame_write (hdst : f.dst = chipId s) (hk : f.kind = .write) : takeFrame s port f = takeSequenced (takeAck s f.src f.ack) f := by
  rw [takeFrame, if_pos hdst, hk]

theorem takeFrame_stop (hdst : f.dst ≠ chipId s) (hk : f.kind = .stop) : takeFrame s port f = applyStop s f := by
  rw [takeFrame, if_neg hdst, if_pos (.inl hk), applyFrame, hk]

/-! ### The ACK of a frame, where nothing is on its way -/

theorem takeAck_none (h : (peerOf s c).sent = []) (ack : Word) : takeAck s c ack = setPeer s c { peerOf s c with sent := [] } := by
  rw [takeAck, h]
  rfl

/-- The sender was heard and its ACK was taken. -/
theorem ackTaken (hsent : (peerOf s f.src).sent = []) (port : Nat) (ack : Word) :
    takeAck (frameHeard s port f) f.src ack = setPeer (frameHeard s port f) f.src { heardPeer s f.src with sent := [] } := by
  have h := (frameHeard_heard s port f).peer
  have hnone : (peerOf (frameHeard s port f) f.src).sent = [] := by
    rw [h, heardPeer, hsent]
    split <;> rfl
  rw [takeAck_none hnone, h]

/-! ### A WRITE in its turn (14 R344, R345) -/

theorem ahead_succ (a : Word) : ahead (a + 1) a = true := by
  have h := ahead_pred (a + 1)
  rwa [BitVec.add_sub_cancel] at h

theorem takeSequenced_next (hheld : (peerOf s f.src).held = []) (hq : f.lseq = (peerOf s f.src).applied + 1) :
    takeSequenced s f = drainHeld 34 (setPeer s f.src { peerOf s f.src with held := [f] }) f.src := by
  have hnew : ahead f.lseq (peerOf s f.src).applied = true := hq ▸ ahead_succ _
  have hturn : decide (f.lseq ≠ (peerOf s f.src).applied + 1) = false := decide_eq_false (not_not.mpr hq)
  simp only [takeSequenced, hheld, hnew, hturn, List.any_nil, Bool.not_true, Bool.false_and, Bool.false_eq_true, if_false, List.nil_append]

theorem takeSequenced_again (h : ahead f.lseq (peerOf s f.src).applied = false) :
    takeSequenced s f = setPeer s f.src { peerOf s f.src with ackDue := true } := if_pos (by rw [h]; rfl)

theorem drainHeld_empty (h : (peerOf s c).held = []) (n : Nat) : drainHeld n s c = s := by
  cases n with
  | zero => rfl
  | succ n => simp only [drainHeld, h, List.find?_nil]

/-- A WRITE that is next in its turn is applied. -/
theorem drainHeld_write (hheld : (peerOf s c).held = [f]) (hk : f.kind = .write) (hq : f.lseq = (peerOf s c).applied + 1) (n : Nat) :
    drainHeld (n + 1) s c = drainHeld n (applyWrite (setPeer s c { peerOf s c with applied := f.lseq, ackDue := true, held := [] }) f) c := by
  simp only [drainHeld, hheld, List.find?_cons, hq, decide_true, reduceCtorEq, false_and, if_false, applyFrame, hk, List.filter_cons,
    List.filter_nil, Bool.not_true, Bool.false_eq_true]

/-- Rows that wait for their bank cycles. -/
theorem admitRows_leaves {α : Type} (row : α → Nat) (data : α → List Byte) (writer : Nat) (l : List α) (s : State) :
    let t := l.foldl (fun s x => admitRow s (row x) writer (data x)) s
    t.chart.mem = s.chart.mem ∧ t.chart.admitted.length = s.chart.admitted.length + l.length ∧ onlyChanged [.chart] s t := by
  induction l generalizing s with
  | nil => exact ⟨rfl, rfl, only_refl _ _⟩
  | cons x xs ih =>
    obtain ⟨hmem, hlen, ho⟩ := ih (admitRow s (row x) writer (data x))
    refine ⟨hmem, hlen.trans ?_, only_trans (setChart_only _ _) ho⟩
    simp only [admitRow, admitBytes, State.setChart_chart, List.length_append, List.length_cons, List.length_nil]
    omega

/-- A WRITE whose rows may all be written: each waits for its bank cycle, and the waits for the window count them. -/
theorem applyWrite_admitted (h : ∀ i, i < f.rows.length → admits s ((winOf s f.winId).base + f.addr + 512 * i) (0x3000 + f.src) false = true) :
    (applyWrite s f).chart.mem = s.chart.mem ∧ (applyWrite s f).chart.admitted.length = s.chart.admitted.length + f.rows.length ∧
      onlyChanged [.chart, .runs] s (applyWrite s f) := by
  have hnone : f.rows.zipIdx.find? (fun x => !admits s ((winOf s f.winId).base + f.addr + 512 * x.2) (0x3000 + f.src) false) = none := by
    rw [List.find?_eq_none, List.forall_mem_zipIdx]
    intro i hi
    simp [h i hi]
  obtain ⟨hmem, hlen, ho⟩ := admitRows_leaves (fun x : List Byte × Nat => (winOf s f.winId).base + f.addr + 512 * x.2) (·.1) (0x3000 + f.src)
    f.rows.zipIdx s
  simp only [applyWrite, hnone]
  exact ⟨hmem, hlen.trans (by rw [List.length_zipIdx]), only_mono (only_append ho (setRuns_only _ _)) (by decide)⟩

/-- The sender's state before its WRITE is applied. -/
def writeTaken (s : State) (port : Nat) (f : RFrame) : State :=
  setPeer (setPeer (setPeer (frameHeard s port f) f.src { heardPeer s f.src with sent := [] }) f.src { heardPeer s f.src with sent := [], held := [f] })
    f.src { heardPeer s f.src with sent := [], applied := f.lseq, ackDue := true, held := [] }

theorem writeTaken_only (s : State) (port : Nat) (f : RFrame) : onlyChanged (.fleet :: reportGroups) s (writeTaken s port f) :=
  only_mono (only_append (frameHeard_heard s port f).only (only_trans (setPeer_only _ _ _) (only_trans (setPeer_only _ _ _) (setPeer_only _ _ _))))
    (by decide)

/-- The next WRITE of a member: its rows are applied, nothing is held behind it. -/
theorem takeSequenced_write (hsent : (peerOf s f.src).sent = []) (hheld : (peerOf s f.src).held = [])
    (hq : f.lseq = (peerOf s f.src).applied + 1) (hk : f.kind = .write) (port : Nat)
    (hrows : ∀ i, i < f.rows.length → admits s ((winOf s f.winId).base + f.addr + 512 * i) (0x3000 + f.src) false = true) :
    let t := takeSequenced (takeAck (frameHeard s port f) f.src f.ack) f
    t = applyWrite (writeTaken s port f) f ∧ t.chart.mem = s.chart.mem ∧
      t.chart.admitted.length = s.chart.admitted.length + f.rows.length ∧ onlyChanged (.fleet :: .chart :: .runs :: reportGroups) s t ∧
      peerOf t f.src = { heardPeer s f.src with sent := [], applied := f.lseq, ackDue := true, held := [] } := by
  have hready := writeTaken_only s port f
  have hchart := only_chart hready (by decide)
  have hwin : winOf (writeTaken s port f) f.winId = winOf s f.winId := by simp only [winOf, hchart]
  have hadm : ∀ i, i < f.rows.length →
      admits (writeTaken s port f) ((winOf (writeTaken s port f) f.winId).base + f.addr + 512 * i) (0x3000 + f.src) false = true := fun i hi => by
    rw [hwin, admits_congr (congrArg ChartSt.wins hchart) (congrArg ChartSt.banks hchart) (only_clk hready (by decide)) (only_ms hready (by decide))]
    exact hrows i hi
  obtain ⟨hmem, hlen, ho⟩ := applyWrite_admitted hadm
  have hpeer : peerOf (applyWrite (writeTaken s port f) f) f.src = { heardPeer s f.src with sent := [], applied := f.lseq, ackDue := true, held := [] } :=
    (peerOf_congr (only_fleet ho (by decide)) _).trans (peerOf_setPeer _ _ _)
  have hgo : takeSequenced (takeAck (frameHeard s port f) f.src f.ack) f = applyWrite (writeTaken s port f) f := by
    rw [ackTaken hsent, takeSequenced_next (by rw [peerOf_setPeer]; exact hheld) (by rw [peerOf_setPeer]; exact hq), peerOf_setPeer,
      drainHeld_write (f := f) (by rw [peerOf_setPeer]) hk (by rw [peerOf_setPeer]; exact hq), peerOf_setPeer]
    exact drainHeld_empty (s := applyWrite (writeTaken s port f) f) (by rw [hpeer]) _
  intro t
  have ht : t = applyWrite (writeTaken s port f) f := hgo
  rw [ht, hmem, hlen, hchart]
  exact ⟨rfl, rfl, rfl, only_mono (only_append hready ho) (by decide), hpeer⟩

/-- Settles O46: the sender is heard; then the frame does what its kind and its turn say. -/
theorem framesReceived : Obligations.FramesReceived := by
  intro s port f w hon heth
  have hh := frameHeard_heard s port f
  refine ⟨fun hd => ?_, fun hd hdst hsent => ⟨fun hk => ?_, fun hk hheld hq hrows => ?_, fun hk hold => ?_⟩, fun hd hdst hk hrun hstop htime => ?_⟩
  · exact gives_of_eq rfl (doRastanFrameReceive_dropped hon heth hd) (only_trans (gcount_only _ _ _) (gcount_only _ _ _))
  · have hgo := (doRastanFrameReceive_taken hon heth hd).trans (takeFrame_hello (hdst.trans hh.chipId.symm) hk)
    rw [ackTaken hsent] at hgo
    refine gives_of_eq rfl hgo ⟨?_, ?_, only_mono (only_append hh.only (setPeer_only _ _ _)) (by decide)⟩
    · rw [peerOf_setPeer]
      rfl
    · rw [peerOf_setPeer]
      rfl
  · have hgo := (doRastanFrameReceive_taken hon heth hd).trans (takeFrame_write (hdst.trans hh.chipId.symm) hk)
    obtain ⟨-, hmem, hlen, ho, hpeer⟩ := takeSequenced_write hsent hheld hq hk port hrows
    refine gives_of_eq rfl hgo ⟨?_, ?_, hmem, hlen, ho⟩ <;> rw [hpeer]
  · have hgo := (doRastanFrameReceive_taken hon heth hd).trans (takeFrame_write (hdst.trans hh.chipId.symm) hk)
    rw [ackTaken hsent, takeSequenced_again (by rw [peerOf_setPeer]; exact hold), peerOf_setPeer] at hgo
    refine gives_of_eq rfl hgo ⟨?_, ?_, only_mono (only_append hh.only (only_trans (setPeer_only _ _ _) (setPeer_only _ _ _))) (by decide)⟩
    · rw [peerOf_setPeer]
      rfl
    · rw [peerOf_setPeer]
  · have hgo := (doRastanFrameReceive_taken hon heth hd).trans (takeFrame_stop (by rwa [hh.chipId]) hk)
    have hclk := only_clk hh.only (by decide)
    have ht : completeTime (frameHeard s port f) f.aux f.value.toNat = completeTime s f.aux f.value.toNat := by simp only [completeTime, hclk]
    have harm : applyStop (frameHeard s port f) f = (frameHeard s port f).setFleet { (frameHeard s port f).fleet with
        stop := some (completeTime s f.aux f.value.toNat, f.streams), reached := none } := by
      rw [applyStop, if_neg (by rw [hh.stopped, hrun]; decide), if_neg (by
        rw [ht, stamp_congr hclk (only_ms hh.only (by decide))]; exact Nat.not_lt.mpr htime), armStop, ht]
      simp only [hh.stop, hstop]
    refine gives_of_eq rfl (hgo.trans harm) ⟨?_, only_mono (only_append hh.only (setFleet_only _ _)) (by decide)⟩
    rw [State.setFleet_fleet]

/-! ## FLT_STOP (14 R353, R355) -/

theorem toAll_only (s : State) (kind : RType) (g : RFrame → RFrame) : onlyChanged [.fleet] s (toAll s kind g) :=
  only_foldl (fun _ _ h => only_trans h (queueFrame_only _ _ _ _)) (only_refl _ _)

/-- Frames for the members leave the stop as it is. -/
theorem queueFrame_stop (s : State) (c : Nat) (f : RFrame) (key : Option CmdKey) :
    (queueFrame s c f key).fleet.stop = s.fleet.stop ∧ (queueFrame s c f key).fleet.stopped = s.fleet.stopped := by
  unfold queueFrame
  split
  · exact ⟨rfl, rfl⟩
  · dsimp only
    split <;> exact ⟨rfl, rfl⟩

theorem toAll_stop (s : State) (kind : RType) (g : RFrame → RFrame) :
    (toAll s kind g).fleet.stop = s.fleet.stop ∧ (toAll s kind g).fleet.stopped = s.fleet.stopped := by
  unfold toAll
  induction members s using List.reverseRecOn with
  | nil => exact ⟨rfl, rfl⟩
  | append_singleton l c ih =>
    rw [List.foldl_append]
    exact ⟨(queueFrame_stop _ _ _ _).1.trans ih.1, (queueFrame_stop _ _ _ _).2.trans ih.2⟩

/-- The word that a write leaves in FLT_STOP: STREAMS, LEAD_US unless it is 0, LATE_STOP cleared by a 1. -/
def stopWord (old : Nat) (w : Word) : Nat :=
  let v := maskIn old w.toNat (2 ^ 29 + (if bits w 15 0 = 0 then 0 else 0xFFFF))
  if bit w 27 then maskIn v 0 (2 ^ 27) else v

theorem stopWord_lt (old : Nat) (w : Word) : stopWord old w < 2 ^ 32 := by
  unfold stopWord
  dsimp only
  split <;> exact Nat.mod_lt _ (by decide)

/-- The clear of LATE_STOP touches that bit alone. -/
theorem stopWord_testBit (old : Nat) (w : Word) {j : Nat} (hj : j < 32) (h27 : j ≠ 27) :
    (stopWord old w).testBit j =
      if (2 ^ 29 + (if bits w 15 0 = 0 then 0 else 0xFFFF)).testBit j then w.toNat.testBit j else old.testBit j := by
  have hm : 2 ^ 29 + (if bits w 15 0 = 0 then 0 else 0xFFFF) < 2 ^ 32 := by split <;> decide
  unfold stopWord
  dsimp only
  split
  · rw [testBit_maskIn hj (by decide), Nat.testBit_two_pow_of_ne h27.symm, if_neg (by decide), testBit_maskIn hj hm]
  · exact testBit_maskIn hj hm

theorem stopWord_streams (old : Nat) (w : Word) : (stopWord old w).testBit 29 = bit w 29 := by
  have hm : (2 ^ 29 + (if bits w 15 0 = 0 then 0 else 0xFFFF)).testBit 29 = true := by split <;> decide
  rw [stopWord_testBit old w (by decide) (by decide), hm]
  rfl

theorem testBit_nbits (v : Nat) {hi lo j : Nat} (hj : j < hi + 1 - lo) : (nbits v hi lo).testBit j = v.testBit (lo + j) := by
  simp [nbits, Nat.testBit_mod_two_pow, Nat.testBit_shiftRight, hj]

theorem testBit_nbits_ge (v : Nat) {hi lo j : Nat} (hj : hi + 1 - lo ≤ j) : (nbits v hi lo).testBit j = false :=
  Nat.testBit_lt_two_pow (lt_of_lt_of_le (Nat.mod_lt _ (Nat.two_pow_pos _)) (Nat.pow_le_pow_right (by decide) hj))

theorem stopWord_lead (old : Nat) (w : Word) : nbits (stopWord old w) 15 0 = if bits w 15 0 = 0 then nbits old 15 0 else bits w 15 0 := by
  have hside : (if bits w 15 0 = 0 then nbits old 15 0 else bits w 15 0) = nbits (if bits w 15 0 = 0 then old else w.toNat) 15 0 := by
    split <;> rfl
  rw [hside]
  refine Nat.eq_of_testBit_eq fun j => ?_
  by_cases hj : j < 15 + 1 - 0
  · have hbit : (2 ^ 29 + (if bits w 15 0 = 0 then 0 else 0xFFFF)).testBit (0 + j) = !decide (bits w 15 0 = 0) := by
      by_cases h : bits w 15 0 = 0 <;> simp only [h, if_true, if_false, decide_true, decide_false] <;> interval_cases j <;> decide
    rw [testBit_nbits _ hj, testBit_nbits _ hj, stopWord_testBit old w (by omega) (by omega), hbit]
    by_cases h : bits w 15 0 = 0 <;> simp only [h, decide_true, decide_false, Bool.not_true, Bool.not_false, Bool.false_eq_true, if_true, if_false]
  · rw [testBit_nbits_ge _ (Nat.le_of_not_lt hj), testBit_nbits_ge _ (Nat.le_of_not_lt hj)]

/-- The register after a write. -/
def stopPut (s : State) (w : Word) : State := rput s 0xA0008 (stopWord (rget s 0xA0008) w)

theorem stopPut_fltEn (s : State) (w : Word) : fltEn (stopPut s w) = fltEn s := by
  rw [fltEn, fltEn, stopPut, rget_rput_ne _ (by decide)]

/-- RESUME comes before REQ. -/
def stopResumed (s : State) (w : Word) : State :=
  if bit w 30 = true ∧ fltEn (stopPut s w) = true then endStop (toAll (stopPut s w) .resume id) else stopPut s w

theorem fltStopWrite_eq (s : State) (w : Word) :
    fltStopWrite s w = if bit w 31 = true ∧ fltEn (stopResumed s w) = true then requestStop (stopResumed s w) else stopResumed s w := rfl

theorem fltStopWrite_req (h31 : bit w 31 = true) (h30 : bit w 30 = false) (hen : fltEn s = true) :
    fltStopWrite s w = requestStop (stopPut s w) := by
  have hv : stopResumed s w = stopPut s w := if_neg (by simp [h30])
  rw [fltStopWrite_eq, hv, if_pos ⟨h31, (stopPut_fltEn s w).trans hen⟩]

theorem fltStopWrite_resume (h30 : bit w 30 = true) (h31 : bit w 31 = false) (hen : fltEn s = true) :
    fltStopWrite s w = endStop (toAll (stopPut s w) .resume id) := by
  have hv : stopResumed s w = endStop (toAll (stopPut s w) .resume id) := if_pos ⟨h30, (stopPut_fltEn s w).trans hen⟩
  rw [fltStopWrite_eq, if_neg (by simp [h31]), hv]

/-- A request arms the stop that the register names. -/
theorem requestStop_arms (hrun : s.fleet.stopped = false) (hnone : s.fleet.stop = none) :
    (requestStop s).fleet.stop = some ((stampR s + nbits (rget s 0xA0008) 15 0 * usU) / nsU * nsU, (rget s 0xA0008).testBit 29) ∧
      onlyChanged [.fleet] s (requestStop s) := by
  obtain ⟨t, hto, hall⟩ : ∃ t, onlyChanged [.fleet] s t ∧ (t.fleet.stop = none ∧ t.fleet.stopped = false) ∧
      requestStop s = if t.fleet.stopped then t
        else armStop t ((stampR s + nbits (rget s 0xA0008) 15 0 * usU) / nsU * nsU) ((rget s 0xA0008).testBit 29) :=
    ⟨_, toAll_only s .stop _, ⟨(toAll_stop s .stop _).1.trans hnone, (toAll_stop s .stop _).2.trans hrun⟩, rfl⟩
  obtain ⟨⟨hstop, hstopped⟩, hgo⟩ := hall
  rw [hgo, if_neg (by simp [hstopped]), armStop]
  simp only [hstop]
  exact ⟨by rw [State.setFleet_fleet], only_trans hto (setFleet_only _ _)⟩

/-- RESUME: the chip leaves STOPPED and its Helm goes on. -/
theorem endStop_resumes (h : s.fleet.stopped = true) : (endStop s).fleet.stopped = false ∧ onlyChanged [.fleet, .helm, .pel, .out] s (endStop s) := by
  have ho : ∀ (l : List Nat) (v : State), onlyChanged [.helm, .pel, .out] v (l.foldl pumpCtx v) := fun l v =>
    only_foldl (fun _ _ h => only_trans h (pumpCtx_leaves _ _).2) (only_refl _ _)
  rw [endStop, if_pos h]
  have hp := ho (s.helm.ctxs.map (·.1)) (s.setFleet { s.fleet with stopped := false })
  exact ⟨(congrArg Fleet.stopped (only_fleet hp (by decide))).trans (congrArg Fleet.stopped (State.setFleet_fleet _ _)),
    only_mono (only_append (setFleet_only _ _) hp) (by decide)⟩

/-! ## The stop acts (14 R353, R354; 18 R423) -/

/-- What the stop leaves alone once the scan area is filled. -/
structure Scans (s t : State) : Prop where
  clk : t.clk = s.clk
  boot : t.boot = s.boot
  flash : t.flash = s.flash
  stopIndex : t.pel.stopIndex = s.pel.stopIndex
  scanning : t.pel.scanning = s.pel.scanning
  scan : t.pel.scan = s.pel.scan

theorem Scans.refl (s : State) : Scans s s := ⟨rfl, rfl, rfl, rfl, rfl, rfl⟩

theorem Scans.trans (h : Scans s t) (h' : Scans t u) : Scans s u :=
  ⟨h'.clk.trans h.clk, h'.boot.trans h.boot, h'.flash.trans h.flash, h'.stopIndex.trans h.stopIndex, h'.scanning.trans h.scanning,
    h'.scan.trans h.scan⟩

theorem Scans.ite {p : Prop} [Decidable p] (h : Scans s t) (h' : Scans s u) : Scans s (if p then t else u) := by
  split <;> assumption

theorem scans_of_only {gs : List StateGroup} (h : onlyChanged gs s t)
    (hg : StateGroup.clk ∉ gs ∧ StateGroup.boot ∉ gs ∧ StateGroup.flash ∉ gs ∧ StateGroup.pel ∉ gs := by decide) : Scans s t := by
  obtain ⟨hclk, hboot, hflash, hpel⟩ := hg
  have hp := only_pel h hpel
  exact ⟨only_clk h hclk, only_boot h hboot, only_flash h hflash, by rw [hp], by rw [hp], by rw [hp]⟩

theorem foldl_scans {α : Type} {f : State → α → State} (hf : ∀ v x, Scans v (f v x)) (l : List α) (s : State) : Scans s (l.foldl f s) := by
  induction l generalizing s with
  | nil => exact .refl s
  | cons x xs ih => exact (hf s x).trans (ih _)

theorem gcount_scans (s : State) (id n : Nat) : Scans s (gcount s id n) := ⟨rfl, rfl, rfl, rfl, rfl, rfl⟩

theorem emit_scans (s : State) (o : Output) : Scans s (emit s o) := by
  unfold emit
  dsimp only
  split
  · exact ⟨rfl, rfl, rfl, rfl, rfl, rfl⟩
  · exact (gcount_scans s _ _).trans ⟨rfl, rfl, rfl, rfl, rfl, rfl⟩

theorem trace_scans (s : State) (r : TraceRec) : Scans s (trace s r) := by
  unfold trace
  split
  · exact .refl s
  · split
    · exact (scans_of_only (rcount_only s 0xC0048 31 0 1)).trans ⟨rfl, rfl, rfl, rfl, rfl, rfl⟩
    · exact ⟨rfl, rfl, rfl, rfl, rfl, rfl⟩

theorem logEvent_scans (s : State) (e : Event) : Scans s (logEvent s e) :=
  (scans_of_only (setLog_only s _)).trans (gcount_scans _ _ _)

theorem raiseMsix_scans (s : State) (f e : Nat) : Scans s (raiseMsix s f e) := by
  unfold raiseMsix
  dsimp only
  split
  · exact ⟨rfl, rfl, rfl, rfl, rfl, rfl⟩
  · exact emit_scans _ _

theorem raiseIbi_scans (s : State) (kind payload : Nat) : Scans s (raiseIbi s kind payload) := by
  have hv : Scans s (s.setI3c { s.i3c with ibis := mset s.i3c.ibis kind (BitVec.ofNat 32 payload) }) := ⟨rfl, rfl, rfl, rfl, rfl, rfl⟩
  unfold raiseIbi
  split
  · exact .refl s
  · exact .ite hv (hv.trans (emit_scans _ _))

theorem alerted_scans (s : State) (cls : Nat) : Scans s (alerted s cls) := by
  unfold alerted
  refine .ite ?_ (.refl s)
  exact ((scans_of_only (setBin_only s _)).trans (raiseMsix_scans _ _ _)).trans (raiseIbi_scans _ _ _)

theorem raiseEvent_scans (s : State) (a : EvArg) : Scans s (raiseEvent s a) := by
  rw [raiseEvent, reportClass_some]
  exact (logEvent_scans _ _).trans ((scans_of_only (only_trans (rflag_only _ _ _) (rput_only _ _ _))).trans (alerted_scans _ _))

theorem killWatches_scans (s : State) (k : CmdKey) : Scans s (killWatches s k) := by
  unfold killWatches
  dsimp only
  refine Scans.trans (foldl_scans (fun v w => ?_) _ s) ⟨rfl, rfl, rfl, rfl, rfl, rfl⟩
  exact .ite (emit_scans _ _) (.refl v)

theorem releaseRun_scans (s : State) (r : Run) : Scans s (releaseRun s r) := by
  unfold releaseRun
  dsimp only
  have hslot : ∀ v : State, Scans v (freeSlot v r.key) := fun v => ⟨rfl, rfl, rfl, rfl, rfl, rfl⟩
  have hlive : ∀ (v : State) (b : Berth), Scans v (dropLive v b.origin r.key) := fun v b => ⟨rfl, rfl, rfl, rfl, rfl, rfl⟩
  refine Scans.trans ?_ (scans_of_only (dropFrames_only _ _))
  refine Scans.trans ?_ (scans_of_only (dropRun_only _ _))
  refine Scans.trans ?_ (foldl_scans hlive _ _)
  refine Scans.trans ?_ (.ite (scans_of_only (unreserve_only _ _ _)) (.refl _))
  refine Scans.trans ?_ (scans_of_only (emptyRun_only _ r))
  exact Scans.trans (scans_of_only (closeWins_only s _)) (.ite (hslot _) (.refl _))

theorem killRun_scans (s : State) (r : Run) (cause : Nat) (charged : Bool) : Scans s (killRun s r cause charged) := by
  unfold killRun
  refine .ite (.refl s) ?_
  dsimp only
  split <;> [refine Scans.trans ?_ (scans_of_only (returnUnit_only _ _)); refine Scans.trans ?_ (scans_of_only (returnCmd_only _ _ _ _))]
  all_goals
    refine Scans.trans ?_ (.ite (scans_of_only (addBalance_only _ _ _)) (.refl _))
    refine Scans.trans ?_ (.ite (.refl _) (gcount_scans _ _ _))
    refine Scans.trans ?_ (releaseRun_scans _ r)
    refine Scans.trans ?_ (killWatches_scans _ _)
    exact Scans.trans (trace_scans s _) (.ite (logEvent_scans _ _) (.refl _))

theorem killRuns_scans (s : State) (p : Run → Bool) (cause : Nat) : Scans s (killRuns s p cause) :=
  foldl_scans (fun _ _ => killRun_scans _ _ _ _) _ s

theorem killUnit_scans (s : State) (i : Nat) (x : BatchUnit) (cause : Nat) : Scans s (killUnit s i x cause) := by
  have hslots : Scans s ((x.slots.filterMap id).foldl (fun s k => match findRun s k with | some r => killRun s r cause false | none => s) s) :=
    foldl_scans (fun v k => by
      split
      · exact killRun_scans _ _ _ _
      · exact .refl v) _ s
  unfold killUnit
  dsimp only
  split
  · exact hslots
  · split
    · exact hslots
    · refine .ite hslots ?_
      refine Scans.trans ?_ (scans_of_only (only_append (only_append (closeWins_only _ _) (emptyFacets_only _ _)) (setBatches_only _ _)))
      exact hslots

theorem killBatches_scans (s : State) (p : Batch → Bool) (cause : Nat) : Scans s (killBatches s p cause) :=
  (foldl_scans (fun _ _ => foldl_scans (fun _ _ => killUnit_scans _ _ _ _) _ _) _ s).trans (scans_of_only (setBatches_only _ _))

theorem disarmLaunches_scans (s : State) : Scans s (disarmLaunches s) := by
  unfold disarmLaunches
  refine Scans.trans (foldl_scans (fun v a => ?_) _ s) (scans_of_only (setHelm_only _ _))
  split
  · exact scans_of_only (putCmd_only _ _)
  · exact .refl v

theorem silenceStream_scans (s : State) (i : Nat) : Scans s (silenceStream s i) := by
  unfold silenceStream
  split
  · exact .refl s
  · dsimp only
    refine Scans.trans ?_ (scans_of_only (setStream_only _ _ _))
    exact .ite (scans_of_only (setCsi_only s _)) (.refl s)

theorem failStream_scans (s : State) (i detail : Nat) : Scans s (failStream s i detail) := by
  unfold failStream
  split
  · exact .refl s
  · refine .ite (.refl s) ?_
    refine Scans.trans ?_ (raiseEvent_scans _ _)
    exact (silenceStream_scans s i).trans (scans_of_only (setHelm_only _ _))

/-! ### The scan area -/

/-- The slot that a facet's stop leaves. -/
def stoppedSlot (s : State) (streams late : Bool) (places : List (Nat × Nat × Nat)) (g : Nat) : ScanSlot :=
  match stoppedAt s streams g with
  | some (org, k, ak) => heldSlot s g org k ak late (((places.find? (fun p => decide (p.1 = g))).map (·.2)).getD (0, 0))
  | none => freeSlotOf s g late

theorem stopSlot_index (s : State) (streams late : Bool) (places : List (Nat × Nat × Nat)) (g : Nat) :
    (stoppedSlot s streams late places g).index = s.pel.stopIndex ∧ (stoppedSlot s streams late places g).stop = stampR s := by
  unfold stoppedSlot
  split <;> exact ⟨rfl, rfl⟩

theorem mget_mapped {α : Type} (slot : Nat → α) {l : List Nat} {g : Nat} (h : g ∈ l) : mget (l.map (fun g => (g, slot g))) g = some (slot g) := by
  induction l with
  | nil => cases h
  | cons x xs ih =>
    by_cases hx : x = g
    · simp [mget, hx]
    · simp only [List.map_cons, mget, hx, if_false]
      exact ih ((List.mem_cons.mp h).resolve_left (Ne.symm hx))

/-- The new index is given, and the scan area is filled under it. -/
def indexed (s : State) : State := s.setPel { s.pel with stopIndex := s.pel.stopIndex + 1, scanning := true }
def scanned (s : State) (streams late : Bool) (places : List (Nat × Nat × Nat)) : State :=
  (indexed s).setPel { (indexed s).pel with scan := (List.range 256).map (fun g => (g, stoppedSlot (indexed s) streams late places g)) }

/-- The kills of the stop leave what is in the scan area. -/
theorem actStop_scans (s : State) (streams late : Bool) (places : List (Nat × Nat × Nat)) :
    ∃ v, Scans (scanned s streams late places) v ∧
      actStop s streams late places = v.setFleet { v.fleet with stop := none, reached := none, stopped := true } := by
  refine ⟨_, ?_, rfl⟩
  refine Scans.trans ?_ (.ite (foldl_scans (fun _ _ => failStream_scans _ _ _) _ _) (.refl _))
  refine Scans.trans ?_ (killRuns_scans _ _ _)
  refine Scans.trans ?_ (disarmLaunches_scans _)
  exact Scans.trans (trace_scans _ _) (killBatches_scans _ _ _)

theorem actStop_stops (s : State) (streams late : Bool) (places : List (Nat × Nat × Nat)) :
    let t := actStop s streams late places
    t.fleet.stopped = true ∧ t.fleet.stop = none ∧ t.pel.stopIndex = s.pel.stopIndex + 1 ∧ t.pel.scanning = true ∧
      (∀ g, g < 256 → ∃ x, mget t.pel.scan g = some x ∧ x.index = s.pel.stopIndex + 1 ∧ x.stop = stampR s) ∧
      t.clk = s.clk ∧ t.boot = s.boot ∧ t.flash = s.flash := by
  obtain ⟨v, hv, hgo⟩ := actStop_scans s streams late places
  intro t
  have ht : t = v.setFleet { v.fleet with stop := none, reached := none, stopped := true } := hgo
  rw [ht, State.setFleet_fleet, State.setFleet_pel, State.setFleet_clk, State.setFleet_boot, State.setFleet_flash]
  refine ⟨rfl, rfl, hv.stopIndex, hv.scanning, fun g hg => ?_, hv.clk, hv.boot, hv.flash⟩
  obtain ⟨hindex, hstop⟩ := stopSlot_index (indexed s) streams late places g
  refine ⟨stoppedSlot (indexed s) streams late places g, ?_, hindex, hstop⟩
  rw [hv.scan]
  exact mget_mapped _ (List.mem_range.mpr hg)

theorem doGlobalStop_acts {at0 : Mer} {streams : Bool} {a : Nat} (hstop : s.fleet.stop = some (at0, streams)) (hreached : s.fleet.reached = some a)
    (hsoon : s.clk.chipAk ≤ a + 24) (hrun : s.fleet.stopped = false) (hf : frozen s = false) (places : List (Nat × Nat × Nat)) :
    doGlobalStop s places = actStop s streams false places := by
  simp only [doGlobalStop, hstop, hreached]
  exact if_neg (by simp [hrun, hf, Nat.not_lt.mpr hsoon])

theorem doGlobalStop_waits (h : s.fleet.reached = none) (places : List (Nat × Nat × Nat)) : doGlobalStop s places = s := by
  simp only [doGlobalStop, h]
  cases s.fleet.stop <;> rfl

/-! ## The limit of a timed wait (11 R278) -/

theorem traceLimit_only (s : State) (r : Run) (x : RWait) : onlyChanged [.regs, .pel] s (traceLimit s r x) := by
  cases x with
  | beacon b v met => exact trace_only _ _
  | fill w p n g => exact trace_only _ _
  | clock x => exact only_refl _ _

theorem doTimedWaitLimit_late {r : Run} (hr : findRun s k = some r) (hw : r.waits ≠ []) (hwork : working r = true) (hf : frozen s = false) :
    doTimedWaitLimit s k = putRun (r.waits.foldl (fun s x => traceLimit s r x) s) (resumeRun s r) := by
  have hwait : r.waits.isEmpty = false := by simpa using hw
  simp only [doTimedWaitLimit, hr, hwait, hwork, hf, Bool.not_true, Bool.or_self, Bool.false_eq_true, if_false]

/-- Settles O47: FLT_STOP arms and resumes; the stop fills the scan area, and what it kills afterwards leaves that alone. -/
theorem globalStops : Obligations.GlobalStops := by
  intro s
  refine ⟨fun w h31 h30 hpf hen hrun hnone => ?_, fun places hwait => ?_, fun at0 streams places a hstop hreached hsoon hrun hf => ?_,
    fun hscan => ?_, fun w h30 h31 hpf hen hstopped => ?_, fun k r hr hw hwork hf => ?_⟩
  · intro lead
    obtain ⟨harm, ho⟩ := requestStop_arms (s := stopPut s w) hrun hnone
    have hreg : rget (stopPut s w) 0xA0008 = stopWord (rget s 0xA0008) w := rget_rput_of_lt (stopWord_lt _ _)
    have hnow : stampR (stopPut s w) = stampR s := by rw [stampR, stampR, stamp_congr (s := s) (t := stopPut s w) rfl rfl]
    refine gives_of_eq rfl ((if_pos ⟨h31, hpf⟩).trans (fltStopWrite_req h31 h30 hen)) ⟨?_, only_mono (only_append (rput_only _ _ _) ho) (by decide)⟩
    rw [harm, hreg, hnow, stopWord_lead, stopWord_streams]
  · exact gives_of_eq rfl (doGlobalStop_waits hwait places) rfl
  · exact gives_of_eq rfl (doGlobalStop_acts hstop hreached hsoon hrun hf places) (actStop_stops s streams false places)
  · have hgo : doScanOutEnd s = gcount (s.setPel { s.pel with scanning := false }) 0x2005
        ((s.pel.scan.filter (fun x => x.2.held)).length * 16704 + (256 - (s.pel.scan.filter (fun x => x.2.held)).length) * 64) := if_pos hscan
    exact gives_of_eq rfl hgo ⟨rfl, rfl, only_trans (setPel_only _ _) (gcount_only _ _ _)⟩
  · obtain ⟨hfleet, ho⟩ := endStop_resumes (s := toAll (stopPut s w) .resume id) ((toAll_stop _ _ _).2.trans hstopped)
    have hall := only_append (rput_only s 0xA0008 (stopWord (rget s 0xA0008) w)) (only_append (toAll_only _ .resume id) ho)
    exact gives_of_eq rfl ((if_pos ⟨h30, hpf⟩).trans (fltStopWrite_resume h30 h31 hen))
      ⟨hfleet, only_clk hall (by decide), only_runs hall (by decide), only_chart hall (by decide)⟩
  · have ho : onlyChanged [.regs, .pel] s (r.waits.foldl (fun s x => traceLimit s r x) s) :=
      only_foldl (fun _ _ h => only_trans h (traceLimit_only _ _ _)) (only_refl _ _)
    obtain rfl := findRun_key hr
    refine gives_of_eq rfl (doTimedWaitLimit_late hr hw hwork hf) ⟨?_, only_mono (only_append ho (putRun_only _ _)) (by decide)⟩
    have hr' : findRun (r.waits.foldl (fun s x => traceLimit s r x) s) r.key = some r := by
      rw [findRun, only_runs ho (by decide)]
      exact hr
    exact findRun_putRun (r := resumeRun s r) hr'

end Sys2Proof.Proofs

/-! SUPPORT. The proofs of the statements of 15_faults_and_recovery.md: the resets of the supplies, the warm reset, the reset of a context. -/

namespace Sys2Proof.Proofs
open Sys2Proof Sys2Proof.Machine Sys2Proof.Laws

/- One proof at a time: elaborated beside the pending kernel checks of the text's tests, they need more threads than the memory limit holds. -/
set_option Elab.async false

variable {s t u : State} {k : CmdKey} {c : Cmd} {ctx n : Nat} {w : Word}

/-! ## The resets of POR_N and the supply detectors (15 R370, 21 R462) -/

/-- Settles O26: every group of the held state is its reset value but for those that it names. -/
theorem powerResets : Obligations.PowerResets := by
  intro s cleared
  have hheld : ∀ si lg, cleared si lg (heldState s si lg) := fun si lg =>
    ⟨rfl, rfl, rfl, rfl, rfl, rfl, rfl, rfl, rfl, rfl, rfl, rfl, rfl, rfl, rfl, rfl, rfl, rfl, rfl, rfl, rfl, rfl, rfl⟩
  refine ⟨fun si lg => gives_of_eq rfl rfl (hheld si lg), fun core sram h => gives_of_eq rfl (if_pos h) (hheld true true),
    fun core sram h => gives_of_eq rfl (if_neg (by simp [h])) rfl, fun mv h => gives_of_eq rfl (if_pos h) (hheld false true),
    fun mv h => gives_of_eq rfl (if_neg (Nat.not_lt.mpr h)) rfl⟩

/-! ## Every command goes back to its slot (15 R369) -/

/-- Is a command back at its slot, or does it wait with its request? -/
def backOrRequested (c : Cmd) : Prop := c.phase = .refetch ∨ c.phase = .requested

theorem requestedCmd_iff (c : Cmd) : requestedCmd c = true ↔ c.phase = .requested := by simp [requestedCmd]

/-- Commands put back one after the other: each stands at its slot, the others are those of before. -/
theorem refetch_mem (l : List Cmd) (s : State) {x : Cmd} (hx : x ∈ (l.foldl refetchCmd s).cmds) :
    x.phase = .refetch ∨ (x ∈ s.cmds ∧ ∀ c, c ∈ l → x.key ≠ c.key) := by
  induction l generalizing s with
  | nil => exact .inr ⟨hx, fun _ h => absurd h List.not_mem_nil⟩
  | cons c cs ih =>
    rcases ih (refetchCmd s c) hx with h | ⟨hmem, hnot⟩
    · exact .inl h
    · simp only [refetchCmd, putCmd, State.setCmds_cmds, List.mem_map] at hmem
      obtain ⟨d, hd, he⟩ := hmem
      split at he
      · subst he
        exact .inl rfl
      · subst he
        rename_i hne
        refine .inr ⟨hd, fun y hy => ?_⟩
        rcases List.mem_cons.mp hy with rfl | hy
        · simpa using hne
        · exact hnot y hy

theorem refetchAll_cmds (s : State) (p : Nat → Bool) {x : Cmd} (hx : x ∈ (refetchAll s p).cmds) (hp : p x.key.ctx = true) : backOrRequested x := by
  have hx' : x ∈ ((s.cmds.filter (fun c => p c.key.ctx && !requestedCmd c)).foldl refetchCmd s).cmds := hx
  rcases refetch_mem _ s hx' with h | ⟨hmem, hnot⟩
  · exact .inl h
  · by_cases hr : requestedCmd x = true
    · exact .inr ((requestedCmd_iff x).mp hr)
    · exact absurd rfl (hnot x (List.mem_filter.mpr ⟨hmem, by simp [hp, hr]⟩))

/-! ## A warm reset begins (15 R369) -/

theorem refetchAll_only (s : State) (p : Nat → Bool) : onlyChanged [.cmds, .helm] s (refetchAll s p) :=
  only_mono (only_append (only_foldl (l := s.cmds.filter (fun c => p c.key.ctx && !requestedCmd c))
    (fun _ _ h => only_trans h (putCmd_only _ _)) (only_refl [.cmds] s)) (only_trans (setHelm_only _ _) (setHelm_only _ _))) (by decide)

theorem discardReqs_runs (l : List Cmd) (s : State) (h : s.runs = []) : (l.foldl discardReq s).runs = [] := by
  induction l generalizing s with
  | nil => exact h
  | cons c cs ih =>
    refine ih _ ?_
    simp [discardReq, dropRun, putCmd, h]

theorem discardRequests_runs (h : s.runs = []) : (discardRequests s).runs = [] := discardReqs_runs _ s h

theorem undoBind_only (s : State) (n : Nat) (x : Stream) : onlyChanged [.chart, .streams] s (undoBind s n x) :=
  only_mono (only_append (closeWin_only s _) (setStreams_only _ _)) (by decide)

/-- The device once nothing runs any more and every command is back. -/
def warmStopped (s : State) : State :=
  refetchAll (discardRequests ((((killBatches s (fun _ => true) causeReset).runs.foldl resetRun (killBatches s (fun _ => true) causeReset)).setRuns
    []).setBatches [])) (fun _ => true)

/-- The binds that have not committed are undone. -/
def warmUndone (s : State) : State :=
  ((warmStopped s).streams.filter (fun e => !bindStands (warmStopped s) e.2)).foldl (fun s e => undoBind s e.1 e.2) (warmStopped s)

theorem warmUndone_only (s : State) : onlyChanged [.chart, .streams] (warmStopped s) (warmUndone s) :=
  only_foldl (fun _ _ h => only_trans h (undoBind_only _ _ _)) (only_refl _ _)

theorem warmStopped_idle (s : State) : (warmStopped s).runs = [] ∧ (warmStopped s).batches = [] := by
  constructor
  · exact (only_runs (refetchAll_only _ _) (by decide)).trans (discardRequests_runs (State.setBatches_runs _ _))
  · exact (only_batches (refetchAll_only _ _) (by decide)).trans (only_batches (discardRequests_only _) (by decide))

/-- What a warm reset sets besides: the bindings suspended, every conductor, core and interface stopped. -/
def warmQuiet (s : State) (leaving : Bool) : State :=
  let s := s.setStreams (s.streams.map (fun e => (e.1, suspendStream s e.1 e.2)))
  let s := s.setHelm { s.helm with
    ladder := [], armed := [], ctxResetDue := [],
    cores := s.helm.cores.map (fun c => { c with halted := false, draining := false, resumeDue := false }) }
  let s := s.setRose { s.rose with acc := [], panel := [], perm := [], east := [], south := [], rowZ := [], dmax := [], vec := [], sxt := [] }
  let s := s.setCsi (s.csi.map (fun c => { c with busy := false }))
  let s := s.setFleet { s.fleet with peers := s.fleet.peers.map (fun e => (e.1, resetPeer e.2)), stop := none, reached := none, stopped := false }
  let s := s.setPel { s.pel with
    bsets := [], watches := s.pel.watches.map (fun w => { w with copying := false, killed := w.killed || w.copying }), scanning := false }
  let s := s.setBin { s.bin with safe := false, txCut := true, linksDown := true, frozen := false, warm := leaving, namedCmds := [] }
  s.setBoot { s.boot with state := 3 }

theorem startWarm_eq (s : State) (leaving : Bool) : startWarm s leaving = warmQuiet (warmUndone s) leaving := by
  simp only [startWarm, warmQuiet, warmUndone, warmStopped]

theorem warmQuiet_sets (s : State) (leaving : Bool) :
    (warmQuiet s leaving).boot.state = 3 ∧ (warmQuiet s leaving).bin.safe = false ∧ (warmQuiet s leaving).helm.armed = [] ∧
      (warmQuiet s leaving).helm.ladder = [] := ⟨rfl, rfl, rfl, rfl⟩

theorem warmQuiet_only (s : State) (leaving : Bool) :
    onlyChanged [.streams, .helm, .rose, .csi, .fleet, .pel, .bin, .boot] s (warmQuiet s leaving) := by simp [onlyChanged, warmQuiet]

theorem startWarm_begins (s : State) (leaving : Bool) : warmBegun (startWarm s leaving) := by
  obtain ⟨hnorun, hnobatch⟩ := warmStopped_idle s
  obtain ⟨hstate, hsafe, harmed, hladder⟩ := warmQuiet_sets (warmUndone s) leaving
  have ho := only_append (warmUndone_only s) (warmQuiet_only (warmUndone s) leaving)
  rw [startWarm_eq]
  refine ⟨hstate, hsafe, (only_runs ho (by decide)).trans hnorun, (only_batches ho (by decide)).trans hnobatch, harmed, hladder, fun x hx => ?_⟩
  rw [only_cmds ho (by decide)] at hx
  exact refetchAll_cmds _ _ hx rfl

/-! ## Its completion (15 R369, 16 R382) -/

/-- The device at READY again, before its bindings and its rings resume. -/
def warmReady (s : State) (failed : List Nat) : State :=
  let v := replayUnits (warmTests s failed)
  let v := v.setBoot { v.boot with state := 1 }
  let v := v.setBin { v.bin with safeN := true, txCut := false, linksDown := false, named := [], namedCmds := [], causes := [] }
  v.setHelm { v.helm with cores := v.helm.cores.map (fun c => { c with heartbeat := v.clk.shadow }) }

/-- What resumes. -/
def warmResumed (v : State) : State :=
  let t := v.streams.foldl (fun s e => resumeStream s e.1) v
  resumeWhere (missedNotice (raiseIbi t 2 (bootStat t))) (fun _ => true)

theorem doWarmResetComplete_eq (hst : s.boot.state = 3) (hsafe : s.bin.safe = false) (failed : List Nat) :
    doWarmResetComplete s failed = warmResumed (warmReady s failed) := if_neg (by simp [hst, hsafe])

/-- READY out of the safe state, whatever resumes. -/
def keepReady (s : State) : Keep := ⟨s.pending, none, none, some s.boot, true, false, false, false⟩

theorem kept_ready (h : s.bin.safe = false) : Kept (keepReady s) s :=
  ⟨rfl, nofun, nofun, nofun, nofun, fun _ hx => Option.some.inj hx, fun _ => h, nofun, nofun⟩

theorem warmResumed_kept {K : Keep} (h : Kept K s) : Kept K (warmResumed s) :=
  resumeWhere_kept _ _ (missedNotice_kept _ (raiseIbi_kept _ _ _ (kept_foldl h fun _ _ h => resumeStream_kept _ _ h)))

theorem warmReady_calm (h : s.bin.safe = false) (failed : List Nat) : (warmReady s failed).boot.state = 1 ∧ (warmReady s failed).bin.safe = false :=
  ⟨rfl, (replayUnits_kept _ (warmTests_kept _ failed (kept_ready h))).calm rfl⟩

/-! ### The device without bindings, contexts and requests -/

/-- Alerts change ALERT_N alone of the Binnacle. -/
theorem alerted_bin (s : State) (cls : Nat) : (alerted s cls).bin = { s.bin with alertN := (alerted s cls).bin.alertN } := by
  unfold alerted
  split
  · rw [only_bin (raiseIbi_only _ _ _) (by decide), only_bin (raiseMsix_only _ _ _) (by decide)]
    rfl
  · rfl

theorem reportClass_bin (s : State) (cls : Nat) (i : Option Nat) :
    (reportClass s cls i).bin = { s.bin with alertN := (reportClass s cls i).bin.alertN } := by
  cases i with
  | none => exact alerted_bin _ _
  | some i => exact alerted_bin _ _

theorem raiseNotice_bin (s : State) (src : Nat) (always : Bool) (e : EvArg) :
    (raiseNotice s src always e).bin = { s.bin with alertN := (raiseNotice s src always e).bin.alertN } := by
  unfold raiseNotice
  dsimp only
  split <;> exact reportClass_bin _ _ _

theorem raiseNotice_queue (s : State) (src : Nat) (always : Bool) (e : EvArg) : (raiseNotice s src always e).log.queue = s.log.queue := by
  unfold raiseNotice
  dsimp only
  split
  · rw [reportClass_some, only_log (alerted_only _ _) (by decide)]
    rfl
  · rw [reportClass_none, only_log (alerted_only _ _) (by decide)]
    rfl

/-- What the tests of a warm reset touch. -/
structure Tested (s t : State) : Prop where
  only : onlyChanged (.rose :: reportGroups) s t
  queue : t.log.queue = s.log.queue

theorem Tested.refl (s : State) : Tested s s := ⟨only_refl _ _, rfl⟩

theorem Tested.trans (h : Tested s t) (h' : Tested t u) : Tested s u := ⟨only_trans h.only h'.only, h'.queue.trans h.queue⟩

theorem foldl_tested {α : Type} {f : State → α → State} (hf : ∀ v x, Tested v (f v x)) (l : List α) (s : State) : Tested s (l.foldl f s) := by
  induction l generalizing s with
  | nil => exact .refl s
  | cons x xs ih => exact (hf s x).trans (ih _)

theorem setRose_tested (s : State) (x : Rose) : Tested s (s.setRose x) := ⟨only_mono (setRose_only _ _) (by decide), rfl⟩

theorem raiseNotice_tested (s : State) (src : Nat) (always : Bool) (e : EvArg) : Tested s (raiseNotice s src always e) :=
  ⟨only_mono (raiseNotice_only _ _ _ _) (by decide), raiseNotice_queue _ _ _ _⟩

theorem raiseEvent_tested (s : State) (e : EvArg) : Tested s (raiseEvent s e) := ⟨only_mono (raiseEvent_only _ _) (by decide), raiseEvent_queue _ _⟩

theorem failFacet_tested (s : State) (g : Nat) : Tested s (failFacet s g) := by
  unfold failFacet
  dsimp only
  split
  · exact .refl s
  · exact (setRose_tested s _).trans (raiseNotice_tested _ _ _ _)

theorem doSpareSubstitution_tested (s : State) (sector : Nat) : Tested s (doSpareSubstitution s sector) := by
  unfold doSpareSubstitution
  split
  · exact .refl s
  · split
    · exact .refl s
    · dsimp only
      split
      · exact .refl s
      · exact ((setRose_tested s _).trans (raiseNotice_tested _ _ _ _)).trans (raiseEvent_tested _ _)

theorem warmTests_tested (s : State) (failed : List Nat) : Tested s (warmTests s failed) :=
  (foldl_tested failFacet_tested _ s).trans (foldl_tested doSpareSubstitution_tested _ _)

theorem replayUnits_none (h : s.streams = []) : replayUnits s = s := by
  have hone : ∀ n e, replayUnit s n e = s := fun n e => by simp [replayUnit, h, mget]
  unfold replayUnits
  generalize s.log.journal.filter (fun e => decide (e.2.kind = 3)) = l
  induction l with
  | nil => rfl
  | cons e es ih => rw [List.foldl_cons, hone, ih]

theorem resumeWhere_none (hctxs : s.helm.ctxs = []) (hqueue : s.log.queue = []) (p : Nat → Bool) : resumeWhere s p = s := by
  have hreplay : replayAll s (fun c => p c && ctxMasters s c) = s := by simp [replayAll, standing, hqueue]
  simp [resumeWhere, hreplay, hctxs]

theorem missedNotice_cases (s : State) : missedNotice s = s ∨ ∃ e l v, v = raiseNotice s srcMissed true e ∧
    missedNotice s = (v.setCmds l).setBin { v.bin with warm := false } := by
  unfold missedNotice
  split
  · exact .inl rfl
  · exact .inr ⟨_, _, _, rfl, rfl⟩

/-- The NOTICE of the missed deadlines keeps what the end of a warm reset goes by. -/
theorem missedNotice_keeps (s : State) :
    (missedNotice s).helm = s.helm ∧ (missedNotice s).log.queue = s.log.queue ∧ (missedNotice s).bin.safeN = s.bin.safeN ∧
      (missedNotice s).bin.txCut = s.bin.txCut ∧ (missedNotice s).bin.linksDown = s.bin.linksDown := by
  rcases missedNotice_cases s with h | ⟨e, l, v, hv, h⟩
  · rw [h]
    exact ⟨rfl, rfl, rfl, rfl, rfl⟩
  · have hbin := raiseNotice_bin s srcMissed true e
    rw [← hv] at hbin
    have hsafeN : v.bin.safeN = s.bin.safeN := (congrArg Bin.safeN hbin :)
    have hcut : v.bin.txCut = s.bin.txCut := (congrArg Bin.txCut hbin :)
    have hdown : v.bin.linksDown = s.bin.linksDown := (congrArg Bin.linksDown hbin :)
    rw [h, State.setBin_helm, State.setBin_log, State.setBin_bin, State.setCmds_helm, State.setCmds_log]
    refine ⟨?_, ?_, hsafeN, hcut, hdown⟩
    · rw [hv]
      exact only_helm (raiseNotice_only _ _ _ _) (by decide)
    · rw [hv]
      exact raiseNotice_queue _ _ _ _

theorem warmResumed_idle (hstreams : s.streams = []) (hctxs : s.helm.ctxs = []) (hqueue : s.log.queue = []) :
    (warmResumed s).bin.safeN = s.bin.safeN ∧ (warmResumed s).bin.txCut = s.bin.txCut ∧ (warmResumed s).bin.linksDown = s.bin.linksDown := by
  obtain ⟨hhelm, hq, hsafeN, hcut, hdown⟩ := missedNotice_keeps (raiseIbi s 2 (bootStat s))
  have ho := raiseIbi_only s 2 (bootStat s)
  have hbin := only_bin ho (by decide)
  have hgo : warmResumed s = missedNotice (raiseIbi s 2 (bootStat s)) := by
    simp only [warmResumed, hstreams, List.foldl_nil]
    exact resumeWhere_none (by rw [hhelm, only_helm ho (by decide), hctxs]) (by rw [hq, only_log ho (by decide), hqueue]) _
  rw [hgo, hsafeN, hcut, hdown, hbin]
  exact ⟨rfl, rfl, rfl⟩

theorem warmReady_idle (hstreams : s.streams = []) (hctxs : s.helm.ctxs = []) (hqueue : s.log.queue = []) (failed : List Nat) :
    let v := warmReady s failed
    (v.streams = [] ∧ v.helm.ctxs = [] ∧ v.log.queue = []) ∧ v.bin.safeN = true ∧ v.bin.txCut = false ∧ v.bin.linksDown = false := by
  have h := warmTests_tested s failed
  have hst := (only_streams h.only (by decide)).trans hstreams
  have hu := replayUnits_none hst
  refine ⟨⟨?_, ?_, ?_⟩, rfl, rfl, rfl⟩
  · exact (congrArg State.streams hu).trans hst
  · exact (congrArg (fun v : State => v.helm.ctxs) hu).trans ((congrArg Helm.ctxs (only_helm h.only (by decide))).trans hctxs)
  · exact (congrArg (fun v : State => v.log.queue) hu).trans (h.queue.trans hqueue)

/-! ## What asks for no reset of a context (15 R368) -/

/-- The contexts whose reset is due are those of before. -/
def sameDue (s t : State) : Prop := t.helm.ctxResetDue = s.helm.ctxResetDue

theorem sameDue.refl (s : State) : sameDue s s := rfl

theorem sameDue.trans (h : sameDue s t) (h' : sameDue t u) : sameDue s u := Eq.trans h' h

theorem sameDue_ite {p : Prop} [Decidable p] (h : sameDue s t) (h' : sameDue s u) : sameDue s (if p then t else u) := by
  split <;> assumption

theorem sameDue_of_only {gs : List StateGroup} (h : onlyChanged gs s t) (hg : StateGroup.helm ∉ gs := by decide) : sameDue s t :=
  congrArg Helm.ctxResetDue (only_helm h hg)

theorem sameDue_foldl {α : Type} {f : State → α → State} (hf : ∀ v x, sameDue v (f v x)) (l : List α) (s : State) : sameDue s (l.foldl f s) := by
  induction l generalizing s with
  | nil => exact sameDue.refl s
  | cons x xs ih => exact (hf s x).trans (ih _)

/-! ### Kills -/

theorem unreserve_due (s : State) (i : Nat) (pat : List Nat) : sameDue s (unreserve s i pat) := by
  induction pat generalizing s i with
  | nil => exact sameDue.refl s
  | cons n ns ih =>
    refine sameDue.trans ?_ (ih _ _)
    exact sameDue_ite rfl rfl

theorem addBalance_due (s : State) (ctx : Nat) (b : Int) : sameDue s (addBalance s ctx b) := by
  unfold addBalance
  split <;> rfl

theorem releaseRun_due (s : State) (r : Run) : sameDue s (releaseRun s r) := by
  have hlive : ∀ (v : State) (b : Berth), sameDue v (dropLive v b.origin r.key) := fun v b => rfl
  unfold releaseRun
  dsimp only
  refine sameDue.trans ?_ (sameDue_of_only (dropFrames_only _ _))
  refine sameDue.trans ?_ (sameDue_of_only (dropRun_only _ _))
  refine sameDue.trans ?_ (sameDue_foldl hlive _ _)
  refine sameDue.trans ?_ (sameDue_ite (unreserve_due _ _ _) (sameDue.refl _))
  refine sameDue.trans ?_ (sameDue_of_only (emptyRun_only _ r))
  exact sameDue.trans (sameDue_of_only (closeWins_only s _)) (sameDue_ite rfl rfl)

theorem killRun_due (s : State) (r : Run) (cause : Nat) (charged : Bool) : sameDue s (killRun s r cause charged) := by
  unfold killRun
  refine sameDue_ite (sameDue.refl s) ?_
  dsimp only
  split <;> [refine sameDue.trans ?_ (sameDue_of_only (returnUnit_only _ _)); refine sameDue.trans ?_ (sameDue_of_only (returnCmd_only _ _ _ _))]
  all_goals
    refine sameDue.trans ?_ (sameDue_ite (addBalance_due _ _ _) (sameDue.refl _))
    refine sameDue.trans ?_ (sameDue_ite (sameDue.refl _) (sameDue_of_only (gcount_only _ _ _)))
    refine sameDue.trans ?_ (releaseRun_due _ r)
    refine sameDue.trans ?_ (sameDue_of_only (killWatches_only _ _))
    exact sameDue.trans (sameDue_of_only (trace_only s _)) (sameDue_ite (sameDue_of_only (logEvent_only _ _)) (sameDue.refl _))

theorem killRuns_due (s : State) (p : Run → Bool) (cause : Nat) : sameDue s (killRuns s p cause) :=
  sameDue_foldl (fun _ _ => killRun_due _ _ _ _) _ s

theorem killUnit_due (s : State) (i : Nat) (x : BatchUnit) (cause : Nat) : sameDue s (killUnit s i x cause) := by
  have hslots : sameDue s ((x.slots.filterMap id).foldl (fun s k => match findRun s k with | some r => killRun s r cause false | none => s) s) :=
    sameDue_foldl (fun v k => by
      split
      · exact killRun_due _ _ _ _
      · exact sameDue.refl v) _ s
  unfold killUnit
  dsimp only
  split
  · exact hslots
  · split
    · exact hslots
    · refine sameDue_ite hslots ?_
      refine sameDue.trans ?_ (sameDue_of_only (only_append (only_append (closeWins_only _ _) (emptyFacets_only _ _)) (setBatches_only _ _)))
      exact hslots

theorem killBatches_due (s : State) (p : Batch → Bool) (cause : Nat) : sameDue s (killBatches s p cause) :=
  (sameDue_foldl (fun _ _ => sameDue_foldl (fun _ _ => killUnit_due _ _ _ _) _ _) _ s).trans (sameDue_of_only (setBatches_only _ _))

theorem silenceStream_only (s : State) (i : Nat) : onlyChanged [.csi, .streams] s (silenceStream s i) := by
  unfold silenceStream
  split
  · exact only_refl _ _
  · dsimp only
    refine only_trans ?_ (only_mono (setStream_only _ _ _) (by decide))
    exact only_ite (only_mono (setCsi_only s _) (by decide)) (only_refl _ _)

/-! ### Replays -/

theorem setHdg_due (s : State) (h : Nat) (e : Hdg) : sameDue s (setHdg s h e) := rfl

theorem freeOthers_due (s : State) (k : CmdKey) (hs : List Nat) : sameDue s (freeOthers s k hs) := by
  induction hs generalizing s with
  | nil => exact sameDue.refl s
  | cons h hs ih =>
    refine sameDue.trans ?_ (ih _)
    exact sameDue_ite rfl rfl

theorem bindEntries_due (s : State) (i : Nat) (m : Model) (j : Nat) : sameDue s (bindEntries s i m j) := by
  induction j generalizing s with
  | zero => exact sameDue.refl s
  | succ j ih => exact (setHdg_due s _ _).trans (ih _)

theorem freeEntries_due (s : State) (first j : Nat) : sameDue s (freeEntries s first j) := by
  induction j generalizing s with
  | zero => exact sameDue.refl s
  | succ j ih => exact (setHdg_due s _ _).trans (ih _)

theorem commitLoad_due (s : State) (i : Nat) : sameDue s (commitLoad s i) := by
  unfold commitLoad
  split
  · exact sameDue.trans rfl (bindEntries_due _ _ _ _)
  · exact sameDue.refl s

theorem commitUnload_due (s : State) (i : Nat) : sameDue s (commitUnload s i) := by
  unfold commitUnload
  split
  · exact sameDue.trans rfl (freeEntries_due _ _ _)
  · exact sameDue.refl s

theorem unbindStream_due (s : State) (k : CmdKey) (i : Nat) : sameDue s (unbindStream s k i) := by
  unfold unbindStream
  split
  · exact sameDue.refl s
  · dsimp only
    refine sameDue.trans ?_ (setHdg_due _ _ _)
    refine sameDue.trans ?_ (setHdg_due _ _ _)
    exact sameDue_of_only (only_append (only_append (only_append (emptyFacets_only s _) (closeWin_only _ _)) (dropRun_only _ _)) (setStreams_only _ _))

theorem headingOp_due (s : State) (c : Cmd) (q : CommitReq) : sameDue s (headingOp s c q) := by
  unfold headingOp
  refine sameDue_ite (sameDue_ite (commitLoad_due _ _) (sameDue.refl s)) (sameDue_ite (commitUnload_due _ _) ?_)
  exact sameDue_ite (setHdg_due _ _ _) (sameDue_ite (unbindStream_due _ _ _) (sameDue.refl s))

theorem headingEntry_due (s : State) (c : Cmd) (q : CommitReq) (img : Option Hdg) : sameDue s (headingEntry s c q img) := by
  cases img with
  | none => exact sameDue.refl s
  | some e => exact (sameDue_of_only (putStore_only _ _ _)).trans (setHdg_due _ _ _)

theorem chargeCtx_due (s : State) (ctx : Nat) (soft : Bool) (charge : Nat) (credit : Int) : sameDue s (chargeCtx s ctx soft charge credit) := by
  unfold chargeCtx
  split
  · exact sameDue_ite rfl rfl
  · exact sameDue.refl s

theorem headingStep_due (s : State) (c : Cmd) (q : CommitReq) (img : Option Hdg) : sameDue s (headingStep s c q img) := by
  obtain ⟨others, counts, soft, he⟩ := headingStep_eq s c q img
  rw [he]
  exact (headingEntry_due s c q img).trans ((freeOthers_due _ _ _).trans ((headingOp_due _ _ _).trans
    ((sameDue_of_only (ccounts_only _ _ _)).trans (chargeCtx_due _ _ _ _ _))))

theorem commitSignal_due (s : State) (k : CmdKey) (b : Nat) (v : Word) (raise : Bool) : sameDue s (commitSignal s k b v raise) :=
  (sameDue_of_only (trace_only s _)).trans rfl

theorem beaconStep_due (s : State) (c : Cmd) (q : CommitReq) : sameDue s (beaconStep s c q) := by
  unfold beaconStep
  dsimp only
  refine sameDue.trans ?_ (sameDue_ite (sameDue_of_only (raiseRing_only _ _ _)) (sameDue.refl _))
  refine sameDue.trans ?_ (sameDue_ite (commitSignal_due _ _ _ _ _) (sameDue.refl _))
  exact sameDue_ite (commitSignal_due _ _ _ _ _) (sameDue.refl _)

theorem pumpN_due (i : Nat) (s : State) (ctx ring : Nat) : sameDue s (pumpN i s ctx ring) := by
  induction i generalizing s with
  | zero => exact sameDue.refl s
  | succ i ih =>
    unfold pumpN
    dsimp only
    split
    · refine sameDue.trans ?_ (ih _)
      exact sameDue.trans (t := setRing s ctx ring _) rfl (sameDue_of_only (emit_only _ _))
    · exact sameDue.refl s

theorem endCommand_due (s : State) (c : Cmd) : sameDue s (endCommand s c) := by
  unfold endCommand
  dsimp only
  refine sameDue.trans (sameDue.trans ?_ (sameDue_of_only (only_append (dropRun_only _ _) (dropCmd_only _ _)))) rfl
  split
  · refine sameDue_ite (sameDue.trans ?_ (sameDue_of_only (noteBreach_only _ _ _))) ?_ <;> exact sameDue_of_only (expireWatches_only s _ _ _)
  · exact sameDue_of_only (expireWatches_only s _ _ _)

theorem passDone_due (s : State) (k : CmdKey) : sameDue s (passDone s k) :=
  sameDue.trans (t := setRing s k.ctx k.ring { ringOf s k.ctx k.ring with done := k.seq + 1 }) rfl (pumpN_due 32 _ _ _)

theorem committedStep_due (s : State) (c : Cmd) (replayed : Bool) : sameDue s (committedStep s c replayed) := by
  rw [committedStep_eq]
  exact (sameDue_of_only (journalCommitted_spec s c.key replayed).1).trans ((endCommand_due _ c).trans (passDone_due _ _))

theorem postRecord_due (s : State) (c : Cmd) (bs : List Byte) : sameDue s (postRecord s c bs) := sameDue_of_only (emit_only _ _)

theorem replayEntry_due (s : State) (e : JEntry) : sameDue s (replayEntry s e) := by
  unfold replayEntry
  split
  · exact sameDue.refl s
  · rename_i c hc
    split
    · exact sameDue.refl s
    · dsimp only
      refine sameDue.trans ?_ (committedStep_due _ _ _)
      refine sameDue.trans ?_ (beaconStep_due _ _ _)
      refine sameDue.trans (postRecord_due s c (replayRecord e.record)) ?_
      refine sameDue_ite ?_ (headingStep_due _ _ _ _)
      split
      · exact setHdg_due _ _ _
      · exact sameDue.refl _

theorem replayAll_due (s : State) (p : Nat → Bool) : sameDue s (replayAll s p) := sameDue_foldl replayEntry_due _ s

/-! ### The commands go back -/

theorem dropRequest_due (s : State) (c : Cmd) : sameDue s (dropRequest s c) := by
  unfold dropRequest
  dsimp only
  refine sameDue.trans ?_ (sameDue_of_only (setLog_only _ _))
  refine sameDue.trans (sameDue_of_only (discardReq_only s c)) ?_
  split
  · exact sameDue_of_only (putCmd_only _ _)
  · exact sameDue.refl _

theorem refetchAll_due (s : State) (p : Nat → Bool) : sameDue s (refetchAll s p) := by
  unfold refetchAll
  dsimp only
  exact (sameDue_foldl (fun v c => sameDue_of_only (putCmd_only v _)) _ s).trans rfl

theorem rebuildRing_leaves (s : State) (ctx ring : Nat) (r : Option Rec) :
    sameDue s (rebuildRing s ctx ring r) ∧ (rebuildRing s ctx ring r).cmds = s.cmds := by
  unfold rebuildRing
  dsimp only
  split
  · exact ⟨sameDue.refl s, rfl⟩
  · have ho := fun x : Ring => only_append (setRing_only s ctx ring x) (raiseRing_only (setRing s ctx ring x) ctx x)
    exact ⟨sameDue.trans (t := setRing s ctx ring _) rfl (sameDue_of_only (raiseRing_only _ _ _)), only_cmds (ho _) (by decide)⟩

theorem rebuildRings_leaves (s : State) (ctx : Nat) (recs : Map Rec) (l : List Nat) :
    let t := l.foldl (fun s i => rebuildRing s ctx i (mget recs i)) s
    sameDue s t ∧ t.cmds = s.cmds := by
  induction l generalizing s with
  | nil => exact ⟨sameDue.refl s, rfl⟩
  | cons i is ih =>
    obtain ⟨hdue, hcmds⟩ := rebuildRing_leaves s ctx i (mget recs i)
    obtain ⟨hdue', hcmds'⟩ := ih (rebuildRing s ctx i (mget recs i))
    exact ⟨hdue.trans hdue', hcmds'.trans hcmds⟩

/-- The reset of a context is done once, and its commands without a request are back at their slots. -/
theorem doContextReset_leaves (hdue : s.helm.ctxResetDue.contains ctx = true) (hready : ready s = true) (recs : List (Nat × Rec)) :
    (doContextReset s ctx recs).helm.ctxResetDue = s.helm.ctxResetDue.filter (fun c => !decide (c = ctx)) ∧
      ∀ c, c ∈ (doContextReset s ctx recs).cmds → c.key.ctx = ctx → backOrRequested c := by
  let mine (c : Nat) : Bool := decide (c = ctx)
  let v0 := s.setHelm { s.helm with ctxResetDue := s.helm.ctxResetDue.filter (fun c => !mine c) }
  let v1 := killRuns (killBatches v0 (fun b => mine b.ctx) causeCtx) (fun r => mine r.key.ctx && r.slot.isNone) causeCtx
  let v2 := replayAll ((v1.streams.filter (fun e => mine e.2.key.ctx)).foldl (fun s e => silenceStream s e.1) v1) mine
  let v3 := (v2.cmds.filter (fun c => mine c.key.ctx && requestedCmd c && !journalled v2 c.key)).foldl dropRequest v2
  have hgo : doContextReset s ctx recs = (List.range 8).foldl (fun s i => rebuildRing s ctx i (mget recs i)) (refetchAll v3 mine) :=
    if_neg (by rw [hdue, hready]; decide)
  have h1 : sameDue v0 v1 := (killBatches_due _ _ _).trans (killRuns_due _ _ _)
  have h2 : sameDue v1 v2 := (sameDue_foldl (fun v e => sameDue_of_only (silenceStream_only v _)) _ _).trans (replayAll_due _ _)
  have h3 : sameDue v2 v3 := sameDue_foldl dropRequest_due _ _
  obtain ⟨h4, hcmds⟩ := rebuildRings_leaves (refetchAll v3 mine) ctx recs (List.range 8)
  rw [hgo]
  refine ⟨(h1.trans (h2.trans (h3.trans ((refetchAll_due v3 mine).trans h4)))).trans rfl, fun c hc hctx => ?_⟩
  rw [hcmds] at hc
  exact refetchAll_cmds v3 mine hc (decide_eq_true hctx)

/-- Settles O31: what begins a warm reset stops the device; its completion keeps READY whatever resumes; a context's reset is taken off the list
first, and puts its commands back last. -/
theorem warmResets : Obligations.WarmResets := by
  intro s
  refine ⟨fun h => ?_, fun path w hpath hopen hw h => ?_, fun path w hpath hopen hw hst hsafe => ?_, fun failed hst hsafe => ⟨?_, ?_⟩,
    fun ctx recs hdue hready => ?_⟩
  · exact gives_of_eq rfl (if_pos h) (startWarm_begins _ _)
  · exact gives_of_eq rfl (if_pos ⟨hpath, hopen, hw, h⟩) (startWarm_begins _ _)
  · exact gives_of_eq rfl (if_pos ⟨hpath, hopen, hst, hw, by simp [hsafe]⟩) (startWarm_begins _ _)
  · obtain ⟨hstate, hcalm⟩ := warmReady_calm hsafe failed
    have hk := warmResumed_kept (kept_ready hcalm)
    exact gives_of_eq rfl (doWarmResetComplete_eq hst hsafe failed) ⟨(congrArg Boot.state (hk.boot _ rfl)).trans hstate, hk.calm rfl⟩
  · intro hstreams hctxs hqueue
    obtain ⟨hstate, hcalm⟩ := warmReady_calm hsafe failed
    have hk := warmResumed_kept (kept_ready hcalm)
    obtain ⟨⟨hst', hctx', hq'⟩, hsafeN, hcut, hdown⟩ := warmReady_idle hstreams hctxs hqueue failed
    obtain ⟨h1, h2, h3⟩ := warmResumed_idle hst' hctx' hq'
    exact gives_of_eq rfl (doWarmResetComplete_eq hst hsafe failed)
      ⟨(congrArg Boot.state (hk.boot _ rfl)).trans hstate, hk.calm rfl, h1.trans hsafeN, h2.trans hcut, h3.trans hdown⟩
  · obtain ⟨hleft, hback⟩ := doContextReset_leaves hdue hready recs
    refine gives_of_eq rfl rfl ⟨?_, hback⟩
    rw [hleft]
    simp

end Sys2Proof.Proofs

/-! SUPPORT. The proofs of the statements of 16_binnacle_safety.md on the monitors: the DEVICE conditions, and readings within their limits. -/

namespace Sys2Proof.Proofs
open Sys2Proof Sys2Proof.Machine Sys2Proof.Laws

/- One proof at a time: elaborated beside the pending kernel checks of the text's tests, they need more threads than the memory limit holds. -/
set_option Elab.async false

variable {s t u : State} {k : CmdKey} {c : Cmd} {n mv : Nat} {a : EvArg}

/-! ## A DEVICE event at READY (16 R374, R384) -/

/-- Where a DEVICE event is one of the safe state: at READY, out of the safe state. -/
def onWatch (s : State) : Prop := s.boot.por = true ∧ ready s = true

theorem onWatch_iff (s : State) : onWatch s ↔ s.boot.por = true ∧ s.boot.state = 1 ∧ s.bin.safe = false := by
  simp [onWatch, ready]

theorem onWatch_congr (hboot : t.boot = s.boot) (hsafe : t.bin.safe = s.bin.safe) (h : onWatch s) : onWatch t := by
  rw [onWatch_iff] at h ⊢
  rwa [hboot, hsafe]

theorem device_onWatch (h : onWatch s) (a : EvArg) (fs : List Nat) : device s a fs = deviceEvent s a fs := by
  obtain ⟨hpor, hst, -⟩ := (onWatch_iff s).mp h
  simp [device, hpor, hst]

theorem monitorEvent_onWatch (h : onWatch s) (a : EvArg) : monitorEvent s a = deviceEvent s a [] := by
  obtain ⟨-, -, hsafe⟩ := (onWatch_iff s).mp h
  rw [monitorEvent, if_neg (by simp [hsafe]), device_onWatch h]

/-- A DEVICE event at READY brings the safe state with its cause. -/
theorem device_safe (h : onWatch s) (a : EvArg) (fs : List Nat) : safeStateBy (device s a fs) (a.cause % 256) ∧ (device s a fs).boot = s.boot := by
  rw [device_onWatch h]
  exact deviceEvent_safe s a fs

theorem monitorEvent_safe (h : onWatch s) (a : EvArg) : safeStateBy (monitorEvent s a) (a.cause % 256) := by
  rw [monitorEvent_onWatch h]
  exact (deviceEvent_safe s a []).1

theorem deviceEvent_leaves (s : State) (a : EvArg) (fs : List Nat) :
    (deviceEvent s a fs).flash = s.flash ∧ (deviceEvent s a fs).bin.fallback = s.bin.fallback := by
  constructor
  · simp [deviceEvent, only_flash (deviceRecords_only _ _ _) (by decide), only_flash (discardRequests_only _) (by decide)]
  · simp [deviceEvent, deviceRecords_bin, only_bin (discardRequests_only _) (by decide)]

/-! ## What each monitor finds -/

/-- A clock seen to run or to stand still. -/
theorem clockSeen_only (s : State) (i : Nat) : onlyChanged [.clk] s (clockSeen s i) := by
  unfold clockSeen
  exact only_ite (only_refl _ _) (only_ite (setClk_only _ _) (setClk_only _ _))

/-- What a window of the clock monitor does to the clocks. -/
def clockTaken (s : State) (clock count : Nat) : State := if clock = 0 ∨ clock = 4 then clockSeen s count else s

theorem clockTaken_only (s : State) (clock count : Nat) : onlyChanged [.clk] s (clockTaken s clock count) :=
  only_ite (clockSeen_only _ _) (only_refl _ _)

/-- How far a count is from what it ought to be. -/
def farFrom (x y : Nat) : Nat := if x < y then y - x else x - y

theorem doClockMonitorWindow_bad (hp : 3 ≤ s.boot.passed) {clock count expect : Nat}
    (h : count = 0 ∨ clockNominal clock expect < 100 * farFrom count (clockNominal clock expect)) :
    ∃ d, doClockMonitorWindow s clock count expect =
      monitorEvent (clockTaken s clock count) { cls := 5, cause := 0x10, unitKind := 7, unitNo := clock % 256, detail := d } := by
  have hboot : (clockTaken s clock count).boot = s.boot := only_boot (clockTaken_only _ _ _) (by decide)
  have hgo : ¬ ((clockTaken s clock count).boot.passed < 3 ∧ clock < 5) := by
    rw [hboot]
    omega
  exact ⟨b4 count, (if_neg hgo).trans (if_pos h.symm)⟩

theorem doClockMonitorWindow_good (hp : 3 ≤ s.boot.passed) {clock count expect : Nat} (hrun : count ≠ 0)
    (h : 100 * farFrom count (clockNominal clock expect) ≤ clockNominal clock expect) :
    doClockMonitorWindow s clock count expect = clockTaken s clock count := by
  have hboot : (clockTaken s clock count).boot = s.boot := only_boot (clockTaken_only _ _ _) (by decide)
  have hgo : ¬ ((clockTaken s clock count).boot.passed < 3 ∧ clock < 5) := by
    rw [hboot]
    omega
  have hfine : ¬ (clockNominal clock expect < 100 * farFrom count (clockNominal clock expect) ∨ count = 0) := by omega
  exact (if_neg hgo).trans (if_neg hfine)

theorem doVoltageSample_good {rail v : Nat} (hv : railSet s rail = some v) (h : 20 * farFrom mv v ≤ v) :
    doVoltageSample s rail mv = s.setBin { s.bin with vBad := mdel s.bin.vBad rail } := by
  simp only [doVoltageSample, hv]
  exact if_pos h

/-- The fourth bad sample in a row. -/
theorem doVoltageSample_fourth {rail v : Nat} (hv : railSet s rail = some v) (h : v < 20 * farFrom mv v) (hrow : 3 ≤ mgetD s.bin.vBad rail 0) :
    ∃ x, x.bin.safe = s.bin.safe ∧ onlyChanged [.bin] s x ∧
      doVoltageSample s rail mv = monitorEvent x { cls := 5, cause := 0x12, unitKind := 6, unitNo := rail, detail := b2 mv } := by
  simp only [doVoltageSample, hv]
  refine ⟨_, ?_, ?_, (if_neg (Nat.not_le.mpr h)).trans (if_neg (show ¬ (mgetD s.bin.vBad rail 0 + 1 < 4) by omega))⟩
  · rfl
  · exact only_trans (setBin_only _ _) (setBin_only _ _)

/-- The sensors above 110 °C but for one. -/
def otherHot (s : State) (n : Nat) : Nat := if s.bin.hot.testBit n then s.bin.hot - 2 ^ n else s.bin.hot

section
variable {x : Int} (hn : n < 20)
include hn

theorem doTemperatureSample_cool (h : x ≤ 1050) : doTemperatureSample s n x = s.setBin { s.bin with hot := otherHot s n } :=
  (if_neg (Nat.not_le.mpr hn)).trans (if_pos h)

theorem doTemperatureSample_warm (h : 1050 < x) (h' : x ≤ 1100) :
    doTemperatureSample s n x = raiseNotice (s.setBin { s.bin with hot := otherHot s n }) srcTemp false
      { cls := 0, cause := 0x30, unitKind := 8, unitNo := n, detail := b2 x.toNat } :=
  (if_neg (Nat.not_le.mpr hn)).trans ((if_neg (not_le.mpr h)).trans (if_pos h'))

theorem doTemperatureSample_hot (h : 1100 < x) :
    doTemperatureSample s n x = monitorEvent (s.setBin { s.bin with hot := otherHot s n + 2 ^ n })
      { cls := 5, cause := 0x13, unitKind := 8, unitNo := n, detail := b2 x.toNat } :=
  (if_neg (Nat.not_le.mpr hn)).trans ((if_neg (by omega)).trans (if_neg (not_le.mpr h)))

end

theorem doHeartbeatTimeout_silent {x : HelmCore} (hx : s.helm.cores[n]? = some x) (hok : x.ok = true) (hrun : x.halted = false)
    (hlate : x.heartbeat + 250 * usU ≤ s.clk.shadow) (h : onWatch s) :
    doHeartbeatTimeout s n = device s { cls := 5, cause := 0x14, unitKind := 4, unitNo := n } [] := by
  obtain ⟨-, hst, hsafe⟩ := (onWatch_iff s).mp h
  simp only [doHeartbeatTimeout, hx]
  exact if_neg (by simp [hok, hrun, hst, hsafe, Nat.not_lt.mpr hlate])

/-- The set point one step up or down. -/
def steppedMv (s : State) (up : Bool) : Nat := if up then s.bin.setMv + 5 else s.bin.setMv - 5

/-- A step of the set point by 5 mV (21 R455). -/
theorem doAvsUpdate_step {up : Bool} (hst : s.boot.state = 1) (hlate : s.bin.avsAt + 50 * usU ≤ s.clk.shadow)
    (hlow : 680 ≤ steppedMv s up) (hhigh : steppedMv s up ≤ 820) :
    doAvsUpdate s (some up) = emit (s.setBin { s.bin with prevMv := s.bin.setMv, setMv := steppedMv s up, avsAt := s.clk.shadow })
      (.pmbus .voutCommand (steppedMv s up)) := by
  have hmoves : steppedMv s up ≠ s.bin.setMv := by
    unfold steppedMv at hlow ⊢
    split at hlow <;> simp_all
    omega
  have hgo : ¬ (s.boot.state ≠ 1 ∨ steppedMv s up = s.bin.setMv ∨ steppedMv s up < 680 ∨ 820 < steppedMv s up ∨
      s.clk.shadow < s.bin.avsAt + 50 * usU) := by
    rintro (h | h | h | h | h)
    · exact h hst
    · exact hmoves h
    · exact absurd hlow (Nat.not_le.mpr h)
    · exact absurd hhigh (Nat.not_le.mpr h)
    · exact absurd hlate (Nat.not_le.mpr h)
  cases up <;> exact if_neg hgo

/-- What the step leaves. -/
theorem avsStep_leaves (s : State) (up : Bool) :
    let t := emit (s.setBin { s.bin with prevMv := s.bin.setMv, setMv := steppedMv s up, avsAt := s.clk.shadow }) (.pmbus .voutCommand (steppedMv s up))
    t.bin = { s.bin with prevMv := s.bin.setMv, setMv := steppedMv s up, avsAt := s.clk.shadow } ∧
      t.out = s.out ++ [.pmbus .voutCommand (steppedMv s up)] ∧ onlyChanged [.bin, .pel, .out] s t :=
  ⟨only_bin (emit_only _ _) (by decide), emit_out _ _, only_mono (only_append (setBin_only _ _) (emit_only _ _)) (by decide)⟩

theorem doFallbackOscillatorStop_acts (hpor : s.boot.por = true) (h : s.bin.fallback = true) : doFallbackOscillatorStop s = hardwired s 0x11 :=
  if_pos ⟨hpor, h⟩

/-- The hardwired path touches the Binnacle alone. -/
theorem hardwired_leaves (s : State) (cause : Nat) :
    (hardwired s cause).bin.safe = true ∧ (hardwired s cause).bin.safeN = false ∧ (hardwired s cause).bin.frozen = true ∧
      (hardwired s cause).bin.cause = cause % 256 ∧ onlyChanged [.bin] s (hardwired s cause) := ⟨rfl, rfl, rfl, rfl, setBin_only _ _⟩

theorem emit_bin (s : State) (o : Output) : (emit s o).bin = s.bin := only_bin (emit_only s o) (by decide)

theorem emit_boot (s : State) (o : Output) : (emit s o).boot = s.boot := only_boot (emit_only s o) (by decide)

/-- READ_VOUT against the last command. -/
theorem doAvsReadback_eq (s : State) (mv : Nat) : doAvsReadback s mv =
    if 15 < farFrom mv s.bin.setMv then device (emit s (.pmbus .readVout 0)) { cls := 5, cause := 0x18, unitKind := 6, unitNo := 0, detail := b2 mv } []
    else emit s (.pmbus .readVout 0) := by
  rw [doAvsReadback]
  rw [emit_bin]
  rfl

theorem doDeadlineWatch_breach (hready : ready s = true) (hb : s.bin.breached.find? (fun y => y.1 == k) = none)
    (hs : s.streams.find? (fun e => e.2.key == k) = none) (hc : findCmd s k = some c) (hw : watchedClass c.desc = true) (hnew : c.watched = false)
    {x : Mer} (hx : cmdBreach s c = some x) : doDeadlineWatch s k = breachEvent (putCmd s { c with watched := true }) k x := by
  simp only [doDeadlineWatch, hready, hb, hs, hc, hw, hnew, hx, Bool.not_true, Bool.false_eq_true, or_self, if_false]

/-- Settles O29: each condition comes to a DEVICE event of the device on watch, with its cause; the hardwired path and the step of the set point are
written out. -/
theorem deviceConditions : Obligations.DeviceConditions := by
  intro s hpor hready
  have hwatch : onWatch s := ⟨hpor, hready⟩
  obtain ⟨-, hst, hsafe⟩ := (onWatch_iff s).mp hwatch
  refine ⟨fun a fs ha => ?_, ?_, fun hfall => ?_, fun mv hmv => ?_, fun i c hc hok hrun hlate => ?_, fun hfall => ?_, fun up hlate => ?_,
    fun mv hmv => ?_, fun cl n e hp hbad => ?_, fun rail mv v hv hbad hrow => ?_, fun n x hn hx => ?_, fun o => ?_, fun hfell htrace => ?_,
    fun k c x hb hs hc hw hnew hx => ?_⟩
  · obtain ⟨hby, hboot⟩ := device_safe hwatch a fs
    refine gives_of_eq rfl (if_pos ha) ⟨hby, hboot, ?_⟩
    rw [device_onWatch hwatch]
    exact (deviceEvent_leaves s a fs).1
  · exact gives_of_eq rfl rfl (device_safe hwatch _ _)
  · have hw : onWatch (s.setBin { s.bin with fallback := true, oscLost := true }) := hwatch
    refine gives_of_eq rfl (if_neg (by simp [hpor, hfall])) ⟨(device_safe hw _ _).1, ?_⟩
    rw [device_onWatch hw]
    exact (deviceEvent_leaves _ _ _).2
  · have hcause : causeVddSi % 256 = 0x12 := by decide
    exact gives_of_eq rfl (if_neg (by omega))
      (hcause ▸ (device_safe hwatch { cls := 5, cause := causeVddSi, unitKind := 6, unitNo := 5, detail := b2 mv } []).1)
  · exact gives_of_eq rfl (doHeartbeatTimeout_silent hc hok hrun hlate hwatch) (device_safe hwatch _ _).1
  · exact gives_of_eq rfl (doFallbackOscillatorStop_acts hpor hfall) (hardwired_leaves s 0x11)
  · intro mv hlow hhigh
    exact gives_of_eq rfl (doAvsUpdate_step hst hlate hlow hhigh) (avsStep_leaves s up)
  · have hw : onWatch (emit s (.pmbus .readVout 0)) := onWatch_congr (emit_boot _ _) (congrArg Bin.safe (emit_bin _ _)) hwatch
    have hfar : 15 < farFrom mv s.bin.setMv := by
      unfold farFrom
      split <;> omega
    exact gives_of_eq rfl ((doAvsReadback_eq s mv).trans (if_pos hfar)) (device_safe hw _ _).1
  · obtain ⟨d, hgo⟩ := doClockMonitorWindow_bad (expect := e) hp hbad
    have ho := clockTaken_only s cl n
    have hw : onWatch (clockTaken s cl n) := onWatch_congr (only_boot ho (by decide)) (congrArg Bin.safe (only_bin ho (by decide))) hwatch
    exact gives_of_eq rfl hgo (monitorEvent_safe hw _)
  · obtain ⟨v', hsafe', ho, hgo⟩ := doVoltageSample_fourth hv hbad hrow
    exact gives_of_eq rfl hgo (monitorEvent_safe (onWatch_congr (only_boot ho (by decide)) hsafe' hwatch) _)
  · have hw : onWatch (s.setBin { s.bin with hot := otherHot s n + 2 ^ n }) := hwatch
    exact gives_of_eq rfl (doTemperatureSample_hot hn hx) (monitorEvent_safe hw _)
  · have hread : onWatch (emit s (.pmbus .statusWord 0)) := onWatch_congr (emit_boot _ _) (congrArg Bin.safe (emit_bin _ _)) hwatch
    have hw : onWatch (outOfLimits (emit s (.pmbus .statusWord 0))) := hread
    exact gives_of_eq rfl (if_neg (by simp [hpor])) (monitorEvent_safe hw _)
  · have hw : onWatch (s.setBin { s.bin with traceFell := false }) := hwatch
    exact gives_of_eq rfl ((if_neg (by simp [hfell])).trans (if_pos htrace)) (device_safe hw _ _).1
  · have hseen : onWatch (putCmd s { c with watched := true }) := hwatch
    exact gives_of_eq rfl (doDeadlineWatch_breach hready hb hs hc hw hnew hx) (device_safe hseen _ _).1

/-! ## Readings within their limits, and NOTICEs (16 R376, R383) -/

/-- A NOTICE of the Binnacle: the class stands, the safe state is as before. -/
theorem notice_leaves (s : State) (b : Bin) (hb : b.safe = s.bin.safe) (src : Nat) (e : EvArg) :
    (rget (raiseNotice (s.setBin b) src false e) 0x100).testBit 0 = true ∧ (raiseNotice (s.setBin b) src false e).bin.safe = s.bin.safe ∧
      onlyChanged reportGroups s (raiseNotice (s.setBin b) src false e) := by
  refine ⟨raiseNotice_bit _ _ _ _, ?_, only_trans (only_mono (setBin_only _ _) (by decide)) (raiseNotice_only _ _ _ _)⟩
  rw [raiseNotice_bin]
  exact hb

theorem doPmbAlert_other (hpor : s.boot.por = true) : doPmbAlert s false true =
    emit (raiseNotice (emit s (.pmbus .statusWord 0)) srcPmb false { cls := 0, cause := 0x30, unitKind := 6, unitNo := 0 }) (.pmbus .clearFaults 0) :=
  if_neg (by simp [hpor])

/-- Settles O30: within its limits a reading touches its monitor's own count; the NOTICEs leave the safe state as it is. -/
theorem monitorsWithinLimits : Obligations.MonitorsWithinLimits := by
  intro s
  refine ⟨fun rail mv v hv h => ?_, fun n x hn hx => ?_, fun n x hn hx hx' => ?_, fun i c hc hok => ?_, fun mv h h' => ?_,
    fun up hst hlate => ?_, fun hpor => ?_, fun hpor hfall => ?_, fun hfell htrace => ?_, fun cl n e hp hrun h => ?_⟩
  · exact gives_of_eq rfl (doVoltageSample_good hv h) ⟨rfl, setBin_only _ _⟩
  · exact gives_of_eq rfl (doTemperatureSample_cool hn hx) ⟨rfl, setBin_only _ _⟩
  · exact gives_of_eq rfl (doTemperatureSample_warm hn hx hx') (notice_leaves s { s.bin with hot := otherHot s n } rfl srcTemp _)
  · refine gives_of_eq rfl rfl ⟨?_, setHelm_only _ _⟩
    exact (getElem?_lupd (fun c => if c.ok then { c with heartbeat := s.clk.shadow } else c) hc).trans (congrArg some (if_pos hok))
  · have hnear : ¬ 15 < farFrom mv s.bin.setMv := by
      unfold farFrom
      split <;> omega
    exact gives_of_eq rfl ((doAvsReadback_eq s mv).trans (if_neg hnear)) ⟨emit_out _ _, emit_only _ _⟩
  · intro mv hlow hhigh
    exact gives_of_eq rfl (doAvsUpdate_step hst hlate hlow hhigh) (avsStep_leaves s up)
  · have ho := only_append (emit_only s (.pmbus .statusWord 0)) (only_append (raiseNotice_only (emit s (.pmbus .statusWord 0)) srcPmb false
      { cls := 0, cause := 0x30, unitKind := 6, unitNo := 0 }) (emit_only _ (.pmbus .clearFaults 0)))
    refine gives_of_eq rfl (doPmbAlert_other hpor) ⟨?_, ?_, only_mono ho (by decide)⟩
    · rw [emit_bin, raiseNotice_bin, emit_bin]
    · rw [rget_congr (emit_regs _ _)]
      exact raiseNotice_bit _ _ _ _
  · obtain ⟨hs, hn, hf, -, ho⟩ := hardwired_leaves s 0x11
    exact gives_of_eq rfl (doFallbackOscillatorStop_acts hpor hfall) ⟨hs, hn, hf, ho⟩
  · have hreg : (rget (s.setBin { s.bin with traceFell := false }) 0xD0004).testBit 2 ≠ true := by
      rw [rget_congr (State.setBin_regs s _), htrace]
      decide
    obtain ⟨hbit, hsafe, ho⟩ := notice_leaves s { s.bin with traceFell := false, noLateMer := true } rfl srcTrace { cls := 0, cause := 0x30 }
    refine gives_of_eq rfl ((if_neg (by simp [hfell])).trans (if_neg hreg)) ⟨?_, ?_, hsafe, hbit, ho⟩
    · exact (congrArg Bin.noLateMer (raiseNotice_bin _ _ _ _) :).trans rfl
    · exact (congrArg Bin.traceFell (raiseNotice_bin _ _ _ _) :).trans rfl
  · exact gives_of_eq rfl (doClockMonitorWindow_good hp hrun h) (clockTaken_only _ _ _)

end Sys2Proof.Proofs

/-! SUPPORT. The proofs of the statements of 17_power_up_and_identity.md: what the device holds at reset, the steps of power-up, the mailbox. -/

namespace Sys2Proof.Proofs
open Sys2Proof Sys2Proof.Machine Sys2Proof.Laws

/- One proof at a time: elaborated beside the pending kernel checks of the text's tests, they need more threads than the memory limit holds. -/
set_option Elab.async false

variable {s t u : State} {path code n : Nat} {w : Word}

/-! ## What the device holds while POR_N is low (17 R393; 20 R444) -/

/-- With no word stored a register reads its reset value. -/
theorem rget_unwritten (h : s.regs = []) {off : Nat} {ri : RegInfo} (hri : regInfo off = some ri) : rget s off = ri.reset := by
  simp [rget, regRaw, h, mget, hri]

/-- Settles O5: every store of the reset state is empty, and each reads its default. -/
theorem resetHolds : Obligations.ResetHolds := by
  refine ⟨rfl, rfl, rfl, rfl, rfl, rfl, rfl, rfl, fun c => rfl, fun c r => rfl, fun h => rfl, fun b => rfl, fun c b => ⟨?_, ?_⟩, fun c h => ?_,
    fun a => rfl, fun off ri hri => rget_unwritten rfl hri⟩
  · rfl
  · rfl
  · rfl

/-! ## The mailbox (17 R406, R407) -/

theorem setMbx_only (s : State) (x : Mbx) : onlyChanged [.mbx] s (s.setMbx x) := by simp [onlyChanged]

theorem setFlash_only (s : State) (x : Flash) : onlyChanged [.flash] s (s.setFlash x) := by simp [onlyChanged]

/-- A path that reaches the mailbox for a command reaches it for each. -/
theorem mbxReach_any (h : mbxReach s path 0 = true) (code : Nat) : mbxReach s path code = true := by
  unfold mbxReach at h ⊢
  split <;> rename_i hp
  · simpa [hp] using h
  · simp_all

section
variable (h : mbxReach s path 0 = true) (hidle : s.mbx.busy = false)
include h hidle

/-- GO runs the command that its code names. -/
theorem mbxGo_runs (code : Nat) : ¬ ((!mbxReach s path code) = true ∨ s.mbx.busy = true) := by
  simp [mbxReach_any h code, hidle]

theorem mbxGo_report : mbxGo s path 0x01 = mbxReport s := if_neg (mbxGo_runs h hidle 0x01)
theorem mbxGo_attest : mbxGo s path 0x02 = mbxAttest s := if_neg (mbxGo_runs h hidle 0x02)
theorem mbxGo_erase : mbxGo s path 0x10 = mbxErase s := if_neg (mbxGo_runs h hidle 0x10)
theorem mbxGo_write : mbxGo s path 0x11 = mbxWriteFlash s := if_neg (mbxGo_runs h hidle 0x11)
theorem mbxGo_verify : mbxGo s path 0x12 = mbxVerify s := if_neg (mbxGo_runs h hidle 0x12)
theorem mbxGo_reboot : mbxGo s path 0x20 = mbxReboot s := if_neg (mbxGo_runs h hidle 0x20)
theorem mbxGo_listen : mbxGo s path 0x21 = mbxListen s := if_neg (mbxGo_runs h hidle 0x21)

end

/-- A command that has begun, with the result that it will have. -/
def mbxBegun (t : State) (code result : Nat) : Prop := t.mbx.busy = true ∧ t.mbx.running = code ∧ t.mbx.doneResult = result

theorem mbxBegin_begun (s : State) (code result : Nat) : mbxBegun (mbxBegin s code result) code result ∧ onlyChanged [.mbx] s (mbxBegin s code result) :=
  ⟨⟨rfl, rfl, rfl⟩, setMbx_only _ _⟩

/-- It may fill the buffer or hold bytes for the flash. -/
theorem mbxFill_begun (s : State) (code result : Nat) (bs : List Byte) :
    mbxBegun (mbxFill (mbxBegin s code result) bs) code result ∧
      (mbxFill (mbxBegin s code result) bs).mbx.buf = memWriteBytes 0#8 s.mbx.buf 0 bs ∧ onlyChanged [.mbx] s (mbxFill (mbxBegin s code result) bs) :=
  ⟨⟨rfl, rfl, rfl⟩, rfl, only_trans (setMbx_only _ _) (setMbx_only _ _)⟩

theorem mbxHold_begun (s : State) (code result : Nat) (cfg : Bool) (off : Nat) (bs : List Byte) :
    mbxBegun (mbxHold (mbxBegin s code result) cfg off bs) code result ∧
      (mbxHold (mbxBegin s code result) cfg off bs).mbx.chunk = some (cfg, off, bs) ∧
      onlyChanged [.mbx] s (mbxHold (mbxBegin s code result) cfg off bs) :=
  ⟨⟨rfl, rfl, rfl⟩, rfl, only_trans (setMbx_only _ _) (setMbx_only _ _)⟩

/-! ### ERASE, WRITE and VERIFY in SAFE-LISTEN -/

section
variable (hl : listens s = true)
include hl

theorem mbxErase_fw (hr : mbxRegion s = 0) :
    mbxErase s = (mbxHold (mbxBegin s 0x10 0) false 0 []).setFlash { s.flash with fw := [], fwNext := some 0 } :=
  (if_neg (by simp [hl])).trans (if_pos hr)

theorem mbxErase_cfg (hr : mbxRegion s = 1) :
    mbxErase s = (mbxHold (mbxBegin s 0x10 0) true 0 []).setFlash { s.flash with cfg := [], cfgNext := some 0 } :=
  (if_neg (by simp [hl])).trans ((if_neg (by omega)).trans (if_pos hr))

theorem mbxWriteFlash_good (hok : mbxWriteOk s = true) : mbxWriteFlash s =
    mbxHold (mbxBegin s 0x11 0) (decide (mbxRegion s = 1)) (s.mbx.args.getD 0 0).toNat (memReadBytes 0#8 s.mbx.buf 0 (mbxLen s)) :=
  (if_neg (by simp [hl])).trans (if_neg (by simp [hok]))

theorem mbxVerify_good (hr : mbxRegion s ≤ 1) (hv : verifyFail s (mbxRegion s) = none) : mbxVerify s = mbxBegin s 0x12 0 := by
  rw [mbxVerify, if_neg (by simp [hl]), if_neg (Nat.not_lt.mpr hr)]
  simp only [hv]

theorem mbxVerify_bad (hr : mbxRegion s ≤ 1) {f : Nat} (hv : verifyFail s (mbxRegion s) = some f) :
    mbxVerify s = (mbxBegin s 0x12 0x03).setMbx { (mbxBegin s 0x12 0x03).mbx with failCode := some f } := by
  rw [mbxVerify, if_neg (by simp [hl]), if_neg (Nat.not_lt.mpr hr)]
  simp only [hv]

end

/-! ### SAFE-LISTEN (17 R394) -/

/-- Pulse outputs that go low leave the Binnacle and the power-up group as they are. -/
theorem outputLow_only (s : State) (i : Nat) : onlyChanged [.ms, .pel, .out] s (outputLow s i) := by
  unfold outputLow
  split
  · exact only_refl _ _
  · dsimp only
    exact only_ite (only_mono (only_append (setMs_only s _) (emit_only _ _)) (by decide)) (only_mono (setMs_only s _) (by decide))

/-- What SAFE-LISTEN sets, before its record and its report. -/
def listenSet (s : State) (fail : Nat) : State :=
  let v := s.setBoot { s.boot with state := 2, fail := fail }
  v.setBin { v.bin with safeN := false, alertN := false, txCut := true, linksDown := true }

theorem safeListen_after (s : State) (fail : Nat) : onlyChanged [.ms, .log, .i3c, .pel, .out] (listenSet s fail) (safeListen s fail) := by
  have hlow : onlyChanged [.ms, .pel, .out] (listenSet s fail) ((List.range 8).foldl outputLow (listenSet s fail)) :=
    only_foldl (fun _ _ h => only_trans h (outputLow_only _ _)) (only_refl _ _)
  have hreport : ∀ (v : State) (e : Event) (p : Nat), onlyChanged [.log, .i3c, .pel, .out] v (raiseIbi (logEvent v e) 3 p) := fun v e p =>
    only_mono (only_append (logEvent_only_log _ _) (raiseIbi_only _ _ _)) (by decide)
  unfold safeListen
  exact only_trans (only_mono hlow (by decide)) (only_mono (hreport _ _ _) (by decide))

theorem safeListen_listening (s : State) (fail : Nat) : listening (safeListen s fail) fail := by
  have ho := safeListen_after s fail
  have hboot := only_boot ho (by decide)
  have hbin := only_bin ho (by decide)
  refine ⟨?_, ?_, ?_, ?_, ?_, ?_⟩
  · rw [hboot]
    rfl
  · rw [hboot]
    rfl
  all_goals
    rw [hbin]
    rfl

theorem safeListen_flash (s : State) (fail : Nat) : (safeListen s fail).flash = s.flash :=
  (only_flash (safeListen_after s fail) (by decide)).trans rfl

/-- Settles O27: each code runs its command; what it begins, and what it does besides, are the command's own equations. -/
theorem mailboxCommands : Obligations.MailboxCommands := by
  intro s path h hidle began
  refine ⟨?_, fun hkey => ?_, fun hkey => ?_, fun hl => ⟨?_, ?_, ?_, ?_⟩,
    fun hl => ⟨fun hr => ?_, fun hr => ?_, fun hok => ?_, fun hr hv => ?_, fun f hr hv => ?_, ?_⟩, fun hready hrings hstreams => ?_, fun hready => ?_⟩
  · exact gives_of_eq rfl (mbxGo_report h hidle) (mbxFill_begun s 0x01 0 _)
  · exact gives_of_eq rfl ((mbxGo_attest h hidle).trans (if_pos (by simp [hkey]))) (mbxBegin_begun s 0x02 0x05)
  · exact gives_of_eq rfl ((mbxGo_attest h hidle).trans (if_neg (by simp [hkey]))) (mbxFill_begun s 0x02 0 _)
  · exact gives_of_eq rfl ((mbxGo_erase h hidle).trans (if_pos (by simp [hl]))) (mbxBegin_begun s 0x10 1)
  · exact gives_of_eq rfl ((mbxGo_write h hidle).trans (if_pos (by simp [hl]))) (mbxBegin_begun s 0x11 1)
  · exact gives_of_eq rfl ((mbxGo_verify h hidle).trans (if_pos (by simp [hl]))) (mbxBegin_begun s 0x12 1)
  · exact gives_of_eq rfl ((mbxGo_reboot h hidle).trans (if_pos (by simp [hl]))) (mbxBegin_begun s 0x20 1)
  · obtain ⟨hb, -, ho⟩ := mbxHold_begun s 0x10 0 false 0 []
    exact gives_of_eq rfl ((mbxGo_erase h hidle).trans (mbxErase_fw hl hr)) ⟨hb, rfl, only_mono (only_append ho (setFlash_only _ _)) (by decide)⟩
  · obtain ⟨hb, -, ho⟩ := mbxHold_begun s 0x10 0 true 0 []
    exact gives_of_eq rfl ((mbxGo_erase h hidle).trans (mbxErase_cfg hl hr)) ⟨hb, rfl, only_mono (only_append ho (setFlash_only _ _)) (by decide)⟩
  · exact gives_of_eq rfl ((mbxGo_write h hidle).trans (mbxWriteFlash_good hl hok)) (mbxHold_begun s 0x11 0 _ _ _)
  · exact gives_of_eq rfl ((mbxGo_verify h hidle).trans (mbxVerify_good hl hr hv)) (mbxBegin_begun s 0x12 0)
  · exact gives_of_eq rfl ((mbxGo_verify h hidle).trans (mbxVerify_bad hl hr hv))
      ⟨⟨rfl, rfl, rfl⟩, rfl, only_trans (setMbx_only _ _) (setMbx_only _ _)⟩
  · exact gives_of_eq rfl ((mbxGo_reboot h hidle).trans (if_neg (by simp [hl]))) ⟨rfl, rfl, rfl, rfl, rfl, rfl, rfl, rfl, rfl, rfl, rfl⟩
  · have hnone : s.helm.rings.any (fun r => r.2.enable) = false := by
      rw [List.any_eq_false]
      exact fun r hr => by simp [hrings r hr]
    exact gives_of_eq rfl ((mbxGo_listen h hidle).trans (if_neg (by simp [hready, hnone, hstreams]))) (safeListen_listening _ 0)
  · exact gives_of_eq rfl ((mbxGo_listen h hidle).trans (if_pos (by simp [hready]))) (mbxBegin_begun s 0x21 1)

/-! ### MBX_DONE -/

/-- What the end of a command leaves in the mailbox. -/
def mbxEnded (s : State) (bad : Bool) (args : List Word) (t : State) : State :=
  let v := t.setMbx { t.mbx with
    busy := false, result := if bad then 0x04 else s.mbx.doneResult, args := args, chunk := none, failCode := none }
  raiseIbi v 4 (mbxCmdWord v)

theorem mbxEnded_leaves (s : State) (bad : Bool) (args : List Word) (t : State) :
    (mbxEnded s bad args t).mbx.busy = false ∧ (mbxEnded s bad args t).mbx.result = (if bad then 0x04 else s.mbx.doneResult) ∧
      (mbxEnded s bad args t).mbx.args = args ∧ onlyChanged [.mbx, .i3c, .pel, .out] t (mbxEnded s bad args t) := by
  have ho := raiseIbi_only (t.setMbx { t.mbx with
    busy := false, result := if bad then 0x04 else s.mbx.doneResult, args := args, chunk := none, failCode := none }) 4
    (mbxCmdWord (t.setMbx { t.mbx with
      busy := false, result := if bad then 0x04 else s.mbx.doneResult, args := args, chunk := none, failCode := none }))
  have hm := only_mbx ho (by decide)
  refine ⟨(congrArg Mbx.busy hm :).trans rfl, (congrArg Mbx.result hm :).trans rfl, (congrArg Mbx.args hm :).trans rfl,
    only_mono (only_append (setMbx_only _ _) ho) (by decide)⟩

/-- MBX_DONE while a command runs. -/
def mbxFailed (s : State) (good : Bool) : Bool :=
  !good && mbxUsesFlash s.mbx.running && decide (s.mbx.doneResult ≠ 1) && decide (s.mbx.doneResult ≠ 2)

/-- The bytes that the command holds have reached their region. -/
def mbxLanded (s : State) (good : Bool) : State :=
  match s.mbx.chunk with
  | some c => mbxLand s c (!mbxFailed s good)
  | none => s

/-- The argument words that it leaves: VERIFY puts the code of what it found in the first. -/
def mbxArgs (s : State) (good : Bool) : List Word :=
  match s.mbx.failCode with
  | some f => if mbxFailed s good then s.mbx.args else lset s.mbx.args 0 (BitVec.ofNat 32 f)
  | none => s.mbx.args

theorem mbxArgs_failed {good : Bool} (h : mbxFailed s good = true) : mbxArgs s good = s.mbx.args := by
  unfold mbxArgs
  split
  · exact if_pos h
  · rfl

theorem mbxLanded_none (h : s.mbx.chunk = none) (good : Bool) : mbxLanded s good = s := by simp only [mbxLanded, h]

theorem mbxLanded_some {x : Bool × Nat × List Byte} (h : s.mbx.chunk = some x) : mbxLanded s true = mbxLand s x true := by
  simp only [mbxLanded, h]
  rfl

theorem doMbxDone_ends (hbusy : s.mbx.busy = true) (good : Bool) :
    doMbxDone s good = mbxEnded s (mbxFailed s good) (mbxArgs s good) (mbxLanded s good) := if_neg (by simp [hbusy])

/-- The bytes that land leave the rest as it is. -/
theorem mbxLand_good (s : State) (c : Bool × Nat × List Byte) : onlyChanged [.flash] s (mbxLand s c true) := by
  obtain ⟨cfg, off, bs⟩ := c
  cases cfg <;> exact setFlash_only _ _

/-- Settles O28: with the flash at work the bytes that the command holds reach their region; then the mailbox is idle. -/
theorem mailboxDone : Obligations.MailboxDone := by
  intro s hbusy
  refine ⟨?_, fun huse h1 h2 => ?_⟩
  · obtain ⟨hidle, hresult, -, ho⟩ := mbxEnded_leaves s (mbxFailed s true) (mbxArgs s true) (mbxLanded s true)
    have hflash := only_flash ho (by decide)
    refine gives_of_eq rfl (doMbxDone_ends hbusy true) ⟨hidle, hresult, ?_, fun hc => ?_, fun off bs hc => ?_, fun off bs hc => ?_⟩
    · cases hc : s.mbx.chunk with
      | none =>
        rw [mbxLanded_none hc] at ho ⊢
        exact only_mono ho (by decide)
      | some c =>
        rw [mbxLanded_some hc] at ho ⊢
        exact only_mono (only_append (mbxLand_good s c) ho) (by decide)
    · exact hflash.trans (congrArg State.flash (mbxLanded_none hc true))
    · exact hflash.trans (congrArg State.flash (mbxLanded_some hc))
    · exact hflash.trans (congrArg State.flash (mbxLanded_some hc))
  · have hbad : mbxFailed s false = true := by simp [mbxFailed, huse, h1, h2]
    obtain ⟨hidle, hresult, hargs, -⟩ := mbxEnded_leaves s (mbxFailed s false) (mbxArgs s false) (mbxLanded s false)
    exact gives_of_eq rfl (doMbxDone_ends hbusy false) ⟨hidle, by rw [hresult, hbad]; rfl, hargs.trans (mbxArgs_failed hbad)⟩

/-! ## The steps of power-up (17 R393 to R404) -/

theorem setBoot_only (s : State) (b : Boot) : onlyChanged [.boot] s (s.setBoot b) := by simp [onlyChanged]

theorem setPci_only (s : State) (x : Pci) : onlyChanged [.pci] s (s.setPci x) := by simp [onlyChanged]

theorem setI3c_only (s : State) (x : I3cSt) : onlyChanged [.i3c] s (s.setI3c x) := by simp [onlyChanged]

/-- A step is under way: its command is not turned away. -/
theorem inStep_runs (h : inStep s n = true) : ¬ (!inStep s n) = true := by simp [h]

theorem inStep_iff (s : State) (n : Nat) :
    inStep s n = true ↔ s.boot.por = true ∧ s.boot.state = 0 ∧ s.boot.stage = n ∧ s.bin.safe = false := by
  simp [inStep, and_assoc]

/-! ### Steps 2 to 4 -/

theorem doBinnacleSelfTestEnd_passed (h : inStep s 2 = true) : doBinnacleSelfTestEnd s true = stepPassed s 2 :=
  (if_neg (inStep_runs h)).trans (if_pos rfl)

theorem doBinnacleSelfTestEnd_failed (h : inStep s 2 = true) : doBinnacleSelfTestEnd s false = safeListen s 0x01 :=
  (if_neg (inStep_runs h)).trans (if_neg (by decide))

/-- The root PLL is locked: Meridian time starts at 0, the link is up. -/
def pllLocked (s : State) (width speed : Nat) : State :=
  let v := s.setClk { s.clk with
    locked := true, rootPhase := 0, stretch := 0, mer := 0, mkAk := s.clk.chipAk, mkPrev := s.clk.chipAk, shadow := 0, shadowMark := false }
  v.setPci { v.pci with dlUp := true, width := width, speed := speed }

theorem pllLocked_leaves (s : State) (width speed : Nat) :
    (pllLocked s width speed).clk.locked = true ∧ (pllLocked s width speed).clk.mer = 0 ∧ (pllLocked s width speed).pci.dlUp = true ∧
      (pllLocked s width speed).pci.width = width ∧ (pllLocked s width speed).pci.speed = speed ∧
      onlyChanged [.clk, .pci] s (pllLocked s width speed) := ⟨rfl, rfl, rfl, rfl, rfl, only_append (setClk_only _ _) (setPci_only _ _)⟩

theorem pllLocked_passed (s : State) (width speed : Nat) :
    let t := stepPassed (pllLocked s width speed) 3
    t.clk.locked = true ∧ t.clk.mer = 0 ∧ t.pci.dlUp = true ∧ t.pci.width = width ∧ t.pci.speed = speed ∧
      t.boot = { s.boot with passed := 3, stage := 4 } ∧ onlyChanged [.clk, .pci, .boot] s t := by
  obtain ⟨hlock, hmer, hup, hw, hv, ho⟩ := pllLocked_leaves s width speed
  exact ⟨hlock, hmer, hup, hw, hv, rfl, only_append ho (setBoot_only _ _)⟩

theorem doRootPllLock_normal (h : inStep s 3 = true) (hm : s.boot.mode < 2) (width speed : Nat) :
    doRootPllLock s width speed = stepPassed (pllLocked s width speed) 3 :=
  (if_neg (inStep_runs h)).trans (if_neg (show ¬ (s.boot.mode = 2 ∨ s.boot.mode = 3) by omega))

theorem doRootPllLock_reserved (h : inStep s 3 = true) (hm : s.boot.mode = 2 ∨ s.boot.mode = 3) (width speed : Nat) :
    doRootPllLock s width speed = safeListen ((pllLocked s width speed).setBoot { s.boot with passed := 3 }) 0x10 :=
  (if_neg (inStep_runs h)).trans (if_pos hm)

/-- Helm core 0 has checked itself and the serial is read. -/
def romRead (s : State) (key : Bool) (serial : Word64) : State :=
  let v := s.setBoot { s.boot with serial := serial, helmOk := 1, lodestone := key }
  v.setHelm { v.helm with cores := lupd v.helm.cores 0 (fun c => { c with ok := true }) }

theorem romRead_only (s : State) (key : Bool) (serial : Word64) : onlyChanged [.boot, .helm] s (romRead s key serial) :=
  only_append (setBoot_only _ _) (setHelm_only _ _)

theorem doBootRomEnd_unchecked (h : inStep s 4 = true) (key : Bool) (serial : Word64) : doBootRomEnd s false key serial = safeListen s 0x03 :=
  (if_neg (inStep_runs h)).trans (if_pos rfl)

theorem doBootRomEnd_keyless (h : inStep s 4 = true) (serial : Word64) : doBootRomEnd s true false serial = safeListen (romRead s false serial) 0x04 := by
  rw [doBootRomEnd, if_neg (inStep_runs h)]
  simp only [Bool.not_true, Bool.not_false, Bool.false_eq_true, if_true, if_false]
  rfl

theorem doBootRomEnd_bad (h : inStep s 4 = true) (serial : Word64) {f : Nat} (hf : blockFail (regionBytes s.flash.cfg 16384) = some f) :
    doBootRomEnd s true true serial = safeListen (romRead s true serial) f := by
  rw [doBootRomEnd, if_neg (inStep_runs h)]
  simp only [Bool.not_true, Bool.false_eq_true, if_false, State.setHelm_flash, State.setBoot_flash, hf]
  rfl

theorem doBootRomEnd_good (h : inStep s 4 = true) (serial : Word64) (hf : blockFail (regionBytes s.flash.cfg 16384) = none) :
    doBootRomEnd s true true serial =
      stepPassed ((romRead s true serial).setBoot (keepBlock (romRead s true serial).boot (regionBytes s.flash.cfg 16384))) 4 := by
  rw [doBootRomEnd, if_neg (inStep_runs h)]
  simp only [Bool.not_true, Bool.false_eq_true, if_false, State.setHelm_flash, State.setBoot_flash, hf]
  rfl

/-! ### Step 5 -/

/-- What LBIST and MBIST keep: the power-up group and the flash. -/
def keepTested (s : State) : Keep := ⟨s.pending, some s.flash, none, some s.boot, false, false, false, false⟩

theorem kept_tested (s : State) : Kept (keepTested s) s :=
  ⟨rfl, nofun, nofun, fun _ hx => Option.some.inj hx, nofun, fun _ hx => Option.some.inj hx, nofun, nofun, nofun⟩

/-- The device after its self-test, with what it has found. -/
def testTaken (s : State) (facets spares sextants cores rows banks : List Nat) : State :=
  let v := selfTest s (sortNat facets) spares (sortNat sextants) cores rows (sortNat banks)
  v.setBoot { v.boot with
    helmOk := coresOk v, degraded := decide (coresOk v ≠ 0xFF) || !(facets.isEmpty && sextants.isEmpty && banks.isEmpty) }

section
variable (fa sp sx co ro ba : List Nat) (tables : Bool)

theorem selfTest_keeps (s : State) :
    (selfTest s (sortNat fa) sp (sortNat sx) co ro (sortNat ba)).boot = s.boot ∧
      (selfTest s (sortNat fa) sp (sortNat sx) co ro (sortNat ba)).flash = s.flash := by
  have h := selfTest_kept s (sortNat fa) sp (sortNat sx) co ro (sortNat ba) (kept_tested s)
  exact ⟨h.boot _ rfl, h.flash _ rfl⟩

theorem doSelfTestEnd_eq (h : inStep s 5 = true) :
    let v := selfTest s (sortNat fa) sp (sortNat sx) co ro (sortNat ba)
    let t := testTaken s fa sp sx co ro ba
    doSelfTestEnd s fa sp sx co ro ba tables =
      if lbistFatal v then safeListen t 0x07
      else if mbistFatal ba tables then safeListen t 0x08
      else if s.boot.mode = 1 then safeListen (t.setBoot { t.boot with passed := 5 }) 0x0E
      else stepPassed t 5 := by
  have hmode : (testTaken s fa sp sx co ro ba).boot.mode = s.boot.mode := by
    simp only [testTaken, State.setBoot_boot, (selfTest_keeps fa sp sx co ro ba s).1]
  intro v t
  rw [← hmode, doSelfTestEnd, if_neg (inStep_runs h)]
  rfl

end

/-! ### Step 6 -/

theorem doFirmwareReadEnd_unread (h : inStep s 6 = true) : doFirmwareReadEnd s false = safeListen s 0x09 :=
  (if_neg (inStep_runs h)).trans (if_pos rfl)

theorem doFirmwareReadEnd_bad (h : inStep s 6 = true) {f : Nat} (hf : imageFail s.flash.fw s.boot.minFw s.boot.keyMask = some f) :
    doFirmwareReadEnd s true = safeListen s f := by
  rw [doFirmwareReadEnd, if_neg (inStep_runs h), if_neg (by decide)]
  simp only [hf]

theorem doFirmwareReadEnd_good (h : inStep s 6 = true) (hf : imageFail s.flash.fw s.boot.minFw s.boot.keyMask = none) :
    doFirmwareReadEnd s true = stepPassed (s.setBoot { s.boot with
      fwVersion := fieldOf (regionBytes s.flash.fw 512) 8 4, fwDigest := slice (regionBytes s.flash.fw 512) 64 64 }) 6 := by
  rw [doFirmwareReadEnd, if_neg (inStep_runs h), if_neg (by decide)]
  simp only [hf]

/-! ### READY (17 R397, 21 R455) -/

/-- The commands to the regulator, 5 mV at a time. -/
def avsSteps (s : State) (mv : Nat) : State :=
  (List.range ((if mv < 750 then 750 - mv else mv - 750) / 5)).foldl (fun s i =>
    emit s (.pmbus .voutCommand (if mv < 750 then 750 - 5 * (i + 1) else 750 + 5 * (i + 1)))) (emit s (.pmbus .voutMode 0))

theorem avsSteps_only (s : State) (mv : Nat) : onlyChanged [.pel, .out] s (avsSteps s mv) :=
  only_trans (emit_only _ _) (only_foldl (fun _ _ h => only_trans h (emit_only _ _)) (only_refl _ _))

theorem firstAvs_cases (s : State) (mv : Nat) : firstAvs s mv = avsSteps s mv ∨ ∃ b, b.safe = (avsSteps s mv).bin.safe ∧
    firstAvs s mv = (avsSteps s mv).setBin b := by
  by_cases hn : (if mv < 750 then 750 - mv else mv - 750) / 5 = 0
  · exact .inl (if_pos hn)
  · refine .inr ⟨_, ?_, if_neg hn⟩
    rfl

/-- The set point moves; nothing else of the Binnacle does. -/
theorem firstAvs_leaves (s : State) (mv : Nat) : (firstAvs s mv).bin.safe = s.bin.safe ∧ onlyChanged [.bin, .pel, .out] s (firstAvs s mv) := by
  have ho := avsSteps_only s mv
  have hsafe := congrArg Bin.safe (only_bin ho (by decide))
  rcases firstAvs_cases s mv with h | ⟨b, hb, h⟩ <;> rw [h]
  · exact ⟨hsafe, only_mono ho (by decide)⟩
  · exact ⟨hb.trans hsafe, only_mono (only_append ho (setBin_only _ _)) (by decide)⟩

theorem csiWrite_only (s : State) (tx : Bool) (p : Nat) (w : Word) : onlyChanged [.regs, .csi, .pel, .out] s (csiWrite s tx p w) := by
  unfold csiWrite
  dsimp only
  refine only_ite (only_refl _ _) (only_ite ?_ (only_mono (rput_only _ _ _) (by decide)))
  exact only_mono (only_append (rput_only s _ _) (only_append (setCsi_only _ _) (emit_only _ _))) (by decide)

theorem enablePorts_only (s : State) : onlyChanged [.regs, .csi, .pel, .out] s (enablePorts s) := by
  unfold enablePorts
  refine only_foldl (fun v p h => only_trans h ?_) (only_refl _ _)
  dsimp only
  refine only_trans ?_ (only_ite (csiWrite_only _ _ _ _) (only_refl _ _))
  exact only_ite (csiWrite_only _ _ _ _) (only_refl _ _)

theorem binCfgWrite_only (s : State) (w : Word) : onlyChanged [.regs] s (binCfgWrite s w) := only_ite (only_refl _ _) (rput_only _ _ _)

/-- The controllers have trained. -/
def trained (s : State) : State := s.setBoot { s.boot with trained0 := true, trained1 := true && !s.boot.memProfile.testBit 5 }

/-- Step 7 has set VDD_CORE: STATE is READY. -/
def coreSet (s : State) (mv : Nat) : State :=
  (firstAvs (trained s) mv).setBoot { (firstAvs (trained s) mv).boot with state := 1, passed := 7 }

/-- The registers of the block are written and the ports enabled. -/
def portsOn (s : State) : State := enablePorts (binCfgWrite s (BitVec.ofNat 32 s.boot.binCfgInit))

/-- SAFE_N rises, before it is reported. -/
def safeSet (s : State) : State :=
  let v := s.setBoot { s.boot with readyUs := s.boot.age / usU % 2 ^ 32 }
  let v := v.setBin { v.bin with safeN := true, txCut := false, linksDown := false }
  let v := v.setLog { v.log with shadow := [] }
  v.setHelm { v.helm with cores := v.helm.cores.map (fun c => { c with heartbeat := v.clk.shadow }) }

theorem safeSet_only (s : State) : onlyChanged [.boot, .bin, .log, .helm] s (safeSet s) :=
  only_append (setBoot_only _ _) (only_append (setBin_only _ _) (only_append (setLog_only _ _) (setHelm_only _ _)))

/-- READY is reported over I3C. -/
def safeRaised (s : State) : State := raiseIbi (safeSet s) 2 (bootStat (safeSet s))

/-- What follows the writes of the block's registers. -/
def afterWrites (p : State × Bool) : State :=
  match p with
  | (t, ok) => if !ok then safeListen (t.setBoot { t.boot with passed := 6 }) 0x0C else safeRaised (portsOn t)

section
variable {mv : Nat} (h : inStep s 7 = true) (hlow : 680 ≤ mv) (hhigh : mv ≤ 820)
include h hlow hhigh

/-- READY where the controllers train and the regulator answers. -/
theorem doReady_eq (init0 : Bool) : doReady s true true true init0 mv =
    if !init0 then safeListen (trained s) 0x0C else afterWrites (applyWrites (coreSet s mv) (firstAvs (trained s) mv).boot.cfgWrites) := by
  rw [doReady, if_neg (by simp [h, Nat.not_lt.mpr hlow, Nat.not_lt.mpr hhigh])]
  simp only [memTrained, Bool.true_or, Bool.and_true, Bool.true_and]
  rfl

theorem doReady_uninitialised : doReady s true true true false mv = safeListen (trained s) 0x0C := by
  rw [doReady_eq h hlow hhigh]
  exact if_pos rfl

theorem doReady_ready (hnone : s.boot.cfgWrites = []) : doReady s true true true true mv = safeRaised (portsOn (coreSet s mv)) := by
  have hwrites : (firstAvs (trained s) mv).boot.cfgWrites = [] := (congrArg Boot.cfgWrites (only_boot (firstAvs_leaves _ mv).2 (by decide))).trans hnone
  rw [doReady_eq h hlow hhigh, hwrites]
  rfl

end

theorem coreSet_leaves (s : State) (mv : Nat) : (coreSet s mv).bin.safe = s.bin.safe ∧ (coreSet s mv).boot.state = 1 ∧ (coreSet s mv).boot.passed = 7 ∧
    onlyChanged [.boot, .bin, .pel, .out] s (coreSet s mv) := by
  obtain ⟨hsafe, ho⟩ := firstAvs_leaves (trained s) mv
  exact ⟨hsafe, rfl, rfl, only_mono (only_append (setBoot_only _ _) (only_append ho (setBoot_only _ _))) (by decide)⟩

theorem portsOn_only (s : State) : onlyChanged [.regs, .csi, .pel, .out] s (portsOn s) :=
  only_trans (only_mono (binCfgWrite_only _ _) (by decide)) (enablePorts_only _)

theorem safeRaised_leaves (s : State) :
    (safeRaised s).boot.state = s.boot.state ∧ (safeRaised s).boot.passed = s.boot.passed ∧ (safeRaised s).bin.safeN = true ∧
      (safeRaised s).bin.safe = s.bin.safe ∧ (safeRaised s).helm.ctxs = s.helm.ctxs ∧ (safeRaised s).helm.heading = s.helm.heading ∧
      onlyChanged [.boot, .bin, .log, .helm, .i3c, .pel, .out] s (safeRaised s) := by
  have ho := raiseIbi_only (safeSet s) 2 (bootStat (safeSet s))
  have hboot : (safeRaised s).boot = (safeSet s).boot := only_boot ho (by decide)
  have hbin : (safeRaised s).bin = (safeSet s).bin := only_bin ho (by decide)
  have hhelm : (safeRaised s).helm = (safeSet s).helm := only_helm ho (by decide)
  rw [hboot, hbin, hhelm]
  exact ⟨rfl, rfl, rfl, rfl, rfl, rfl, only_append (safeSet_only s) ho⟩

/-! ### Deadlines -/

theorem doBootStepDeadline_past (hpor : s.boot.por = true) (hst : s.boot.state = 0) (hpast : pastBound s (stepBound s.boot.stage) = true) (part : Nat) :
    doBootStepDeadline s part = safeListen s ((stepCodes s.boot.stage).getD part ((stepCodes s.boot.stage).getD 0 0)) :=
  if_pos (by simp [hpor, hst, hpast])

theorem doBootTimeout_past (hpor : s.boot.por = true) (hst : s.boot.state = 0) (hpast : pastBound s 180000 = true) :
    doBootTimeout s = safeListen s 0x0F := if_pos (by simp [hpor, hst, hpast])

/-- Settles O25: a step that passes counts itself and goes on to the next, one that fails enters SAFE-LISTEN with its code; the groups that a step works
on are those of its own functions. -/
theorem powerUpSteps : Obligations.PowerUpSteps := by
  intro s
  refine ⟨fun mode sa hpor => ?_, fun h => ⟨?_, ?_⟩, fun w v h => ⟨fun hm => ?_, fun hm => ?_⟩, fun serial h => ⟨?_, ?_, fun f hf => ?_, fun hf => ?_⟩,
    fun fa sp sx co ro ba tables h => ⟨fun hl => ?_, fun hl hm => ?_, fun hl hm hmode => ?_, fun hl hm hmode => ?_⟩,
    fun h => ⟨?_, fun f hf => ?_, fun hf => ?_⟩, fun mv h hlow hhigh => ⟨?_, fun hnone => ?_⟩, fun part hpor hst hpast => ?_,
    fun hpor hst hpast => ?_⟩
  · exact gives_of_eq rfl (if_neg (by simp [hpor])) ⟨rfl, rfl, rfl, rfl, rfl, only_append (setBoot_only _ _) (setClk_only _ _)⟩
  · exact gives_of_eq rfl (doBinnacleSelfTestEnd_passed h) ⟨rfl, setBoot_only _ _⟩
  · exact gives_of_eq rfl (doBinnacleSelfTestEnd_failed h) ⟨safeListen_listening s 0x01, safeListen_flash s 0x01⟩
  · exact gives_of_eq rfl (doRootPllLock_normal h hm w v) (pllLocked_passed s w v)
  · exact gives_of_eq rfl (doRootPllLock_reserved h hm w v) (safeListen_listening _ 0x10)
  · exact gives_of_eq rfl (doBootRomEnd_unchecked h true serial) (safeListen_listening s 0x03)
  · exact gives_of_eq rfl (doBootRomEnd_keyless h serial) (safeListen_listening _ 0x04)
  · exact gives_of_eq rfl (doBootRomEnd_bad h serial hf) (safeListen_listening _ f)
  · exact gives_of_eq rfl (doBootRomEnd_good h serial hf)
      ⟨rfl, only_mono (only_append (romRead_only s true serial) (only_append (setBoot_only _ _) (setBoot_only _ _))) (by decide)⟩
  · exact gives_of_eq rfl ((doSelfTestEnd_eq fa sp sx co ro ba tables h).trans (if_pos hl)) (safeListen_listening _ 0x07)
  · exact gives_of_eq rfl ((doSelfTestEnd_eq fa sp sx co ro ba tables h).trans ((if_neg (by simp [hl])).trans (if_pos hm)))
      (safeListen_listening _ 0x08)
  · exact gives_of_eq rfl ((doSelfTestEnd_eq fa sp sx co ro ba tables h).trans
      ((if_neg (by simp [hl])).trans ((if_neg (by simp [hm])).trans (if_neg hmode)))) ⟨rfl, rfl, rfl, rfl⟩
  · obtain ⟨hboot, hflash⟩ := selfTest_keeps fa sp sx co ro ba s
    refine gives_of_eq rfl ((doSelfTestEnd_eq fa sp sx co ro ba tables h).trans
      ((if_neg (by simp [hl])).trans ((if_neg (by simp [hm])).trans (if_pos hmode)))) ⟨safeListen_listening _ 0x0E, ?_, ?_⟩
    · rw [safeListen_flash]
      exact hflash
    · rw [only_boot (safeListen_after _ 0x0E) (by decide)]
      exact (congrArg Boot.fwVersion hboot :)
  · exact gives_of_eq rfl (doFirmwareReadEnd_unread h) (safeListen_listening s 0x09)
  · exact gives_of_eq rfl (doFirmwareReadEnd_bad h hf) (safeListen_listening s f)
  · exact gives_of_eq rfl (doFirmwareReadEnd_good h hf) ⟨rfl, rfl, rfl, only_trans (setBoot_only _ _) (setBoot_only _ _)⟩
  · exact gives_of_eq rfl (doReady_uninitialised h hlow hhigh) (safeListen_listening (trained s) 0x0C)
  · obtain ⟨-, -, -, hsafe⟩ := (inStep_iff s 7).mp h
    obtain ⟨hsafe1, hstate, hpassed, ho1⟩ := coreSet_leaves s mv
    have ho2 := portsOn_only (coreSet s mv)
    have hboot2 := only_boot ho2 (by decide)
    obtain ⟨hst3, hp3, hsafeN, hsafe3, hctxs, hheading, ho3⟩ := safeRaised_leaves (portsOn (coreSet s mv))
    have hhelm := only_helm (only_append ho1 ho2) (by decide)
    have ho := only_append ho1 (only_append ho2 ho3)
    refine gives_of_eq rfl (doReady_ready h hlow hhigh hnone) ⟨?_, ?_, hsafeN, ?_, only_cmds ho (by decide), only_runs ho (by decide),
      hctxs.trans (congrArg Helm.ctxs hhelm), hheading.trans (congrArg Helm.heading hhelm), only_chart ho (by decide), only_flash ho (by decide)⟩
    · rw [hst3, hboot2, hstate]
    · rw [hp3, hboot2, hpassed]
    · rw [hsafe3, only_bin ho2 (by decide), hsafe1, hsafe]
  · obtain ⟨hstate, hfail, -⟩ := safeListen_listening s ((stepCodes s.boot.stage).getD part ((stepCodes s.boot.stage).getD 0 0))
    exact gives_of_eq rfl (doBootStepDeadline_past hpor hst hpast part) ⟨hstate, hfail⟩
  · exact gives_of_eq rfl (doBootTimeout_past hpor hst hpast) (safeListen_listening s 0x0F)

end Sys2Proof.Proofs

/-! SUPPORT. The proofs of the statements of 18_pelorus.md: breakpoints of Helm cores, counters, latches and windows. -/

namespace Sys2Proof.Proofs
open Sys2Proof Sys2Proof.Machine Sys2Proof.Laws

/- One proof at a time: elaborated beside the pending kernel checks of the text's tests, they need more threads than the memory limit holds. -/
set_option Elab.async false

variable {s t u : State} {c : HelmCore} {i j path n : Nat} {w : Word}

/-! ## Helm cores (18 R422) -/

theorem getElem?_lupd_ne {α : Type} (l : List α) {i j : Nat} (f : α → α) (h : j ≠ i) : (lupd l i f)[j]? = l[j]? := by
  induction l generalizing i j with
  | nil => rfl
  | cons x xs ih =>
    match i, j with
    | 0, 0 => exact absurd rfl h
    | 0, _ + 1 => rfl
    | _ + 1, 0 => rfl
    | _ + 1, _ + 1 => exact ih fun hij => h (congrArg (· + 1) hij)

theorem updCore_only (s : State) (i : Nat) (f : HelmCore → HelmCore) : onlyChanged [.helm] s (updCore s i f) := setHelm_only _ _

theorem updCore_core (f : HelmCore → HelmCore) (h : s.helm.cores[i]? = some c) : (updCore s i f).helm.cores[i]? = some (f c) := getElem?_lupd f h

theorem updCore_other (s : State) (f : HelmCore → HelmCore) (h : j ≠ i) : (updCore s i f).helm.cores[j]? = s.helm.cores[j]? :=
  getElem?_lupd_ne _ f h

theorem traceCore_only (s : State) (kind core : Nat) (pc : Word64) : onlyChanged [.regs, .pel] s (traceCore s kind core pc) := trace_only _ _

/-! ### HELM_BREAKPOINT and HELM_HALTED -/

theorem doHelmBreakpoint_drains {pc : Word64} (hi : i < 8) (hc : s.helm.cores[i]? = some c) (hd : debugEn s = true) (hr : ready s = true)
    (hb : breaksAt s i pc = true) (hruns : coreRuns c = true) :
    (doHelmBreakpoint s i pc).helm.cores[i]? = some { c with draining := true, pc := some pc } ∧
      onlyChanged [.helm] s (doHelmBreakpoint s i pc) := by
  rw [doHelmBreakpoint, if_pos ⟨hi, hd, hr, hb⟩]
  exact ⟨(updCore_core _ hc).trans (congrArg some (if_pos hruns)), updCore_only _ _ _⟩

/-- A core that has halted at an address. -/
def haltAt (at0 : Word64) (c : HelmCore) : HelmCore := { c with draining := false, halted := true, pc := some at0 }

theorem doHelmHalted_halts (pc : Word64) (hc : s.helm.cores[i]? = some c) (hd : c.draining = true) (hres : c.resumeDue = false) :
    doHelmHalted s i pc = traceCore (updCore s i (haltAt (c.pc.getD pc))) 0x31 i (c.pc.getD pc) := by
  simp only [doHelmHalted, hc, hd, hres, Bool.not_true, Bool.false_eq_true, if_false]
  rfl

/-! ### HALT -/

/-- A running core that a write of HALT finds drains. -/
def haltCore (c : HelmCore) : HelmCore := if coreRuns c then { c with draining := true, pc := none } else c

theorem haltCore_halted (c : HelmCore) : haltCore (haltCore c) = haltCore c := by
  by_cases h : coreRuns c = true
  · rw [haltCore, haltCore, if_pos h]
    exact if_neg (by simp [coreRuns])
  · have hstays : haltCore c = c := if_neg h
    rw [hstays, hstays]

/-- A change of a core that is the same done twice: over a list of cores it reaches each of them. -/
theorem foldl_updCore {f : HelmCore → HelmCore} (hf : ∀ x, f (f x) = f x) (l : List Nat) (hc : s.helm.cores[i]? = some c) :
    (l.foldl (fun v j => updCore v j f) s).helm.cores[i]? = some (if i ∈ l then f c else c) := by
  induction l generalizing s c with
  | nil => simpa using hc
  | cons j l ih =>
    by_cases hij : i = j
    · subst hij
      rw [List.foldl_cons, ih (updCore_core f hc)]
      simp [hf]
    · rw [List.foldl_cons, ih ((updCore_other s f hij).trans hc)]
      simp [hij]

/-- The cores that a write of HELM_DBG_CTL names. -/
def namedCores (w : Word) : List Nat := (List.range 8).filter (fun i => (bits w 7 0).testBit i)

theorem mem_namedCores (hi : i < 8) (hw : bit w i = true) : i ∈ namedCores w := by
  have hbit : (bits w 7 0).testBit i = w.toNat.testBit i := by
    simpa [bits, hi] using Nat.testBit_mod_two_pow w.toNat 8 i
  exact List.mem_filter.mpr ⟨List.mem_range.mpr hi, hbit.trans hw⟩

theorem debugEn_named (s : State) (n : Nat) : debugEn (rput s 0x10600 n) = debugEn s :=
  congrArg (fun x : Nat => x.testBit 3) (rget_rput_ne _ (by decide))

theorem doHalt_drains (hpf : pfOpen s = true) (hhalt : bit w 30 = true) (hres : bit w 31 = false) (hd : debugEn s = true) :
    doHalt s w = (namedCores w).foldl (fun v j => updCore v j haltCore) (rput s 0x10600 (bits w 7 0)) := by
  rw [doHalt, if_pos ⟨hhalt, by simpa [pfOpen] using hpf⟩]
  simp only [dbgWrite, hres, debugEn_named, hhalt, hd, and_self, if_true, Bool.false_eq_true, if_false]
  rfl

/-! ### RESUME -/

theorem pumpN_cores (n : Nat) (s : State) (ctx ring : Nat) : (pumpN n s ctx ring).helm.cores = s.helm.cores := by
  induction n generalizing s with
  | zero => rfl
  | succ n ih =>
    unfold pumpN
    dsimp only
    split
    · rw [ih, only_helm (emit_only _ _) (by decide)]
      rfl
    · rfl

theorem pumpCtx_cores (s : State) (ctx : Nat) : (pumpCtx s ctx).helm.cores = s.helm.cores := by
  unfold pumpCtx
  refine List.foldlRecOn (motive := fun t : State => t.helm.cores = s.helm.cores) _ _ rfl (fun t ht ring _ => ?_)
  exact (pumpN_cores 32 t ctx ring).trans ht

theorem pumpAll_cores (l : List Nat) (s : State) : (l.foldl pumpCtx s).helm.cores = s.helm.cores :=
  List.foldlRecOn (motive := fun t : State => t.helm.cores = s.helm.cores) _ _ rfl (fun t ht ctx _ => (pumpCtx_cores t ctx).trans ht)

theorem pumpAll_only (l : List Nat) (s : State) : onlyChanged [.helm, .pel, .out] s (l.foldl pumpCtx s) :=
  only_foldl (fun _ _ h => only_trans h (pumpCtx_leaves _ _).2) (only_refl _ _)

/-- A halted core that runs on, its heartbeat counted from `at0`. -/
def runOn (at0 : Mer) (c : HelmCore) : HelmCore := { c with halted := false, resumeDue := false, pc := none, heartbeat := at0 }

theorem resumeCore_running (hc : s.helm.cores[i]? = some c) (hh : c.halted = false) : resumeCore s i = s := by
  simp only [resumeCore, hc, hh, Bool.not_false, if_true]

theorem resumeCore_halted (hc : s.helm.cores[i]? = some c) (hh : c.halted = true) :
    resumeCore s i =
      let v := traceCore s 0x32 i (c.pc.getD 0)
      let v := updCore v i (runOn v.clk.shadow)
      (v.helm.ctxs.map (·.1)).foldl pumpCtx v := by
  simp only [resumeCore, hc, hh, Bool.not_true, Bool.false_eq_true, if_false]
  rfl

theorem resumeCore_leaves (s : State) (i : Nat) :
    (∀ c, s.helm.cores[i]? = some c → (resumeCore s i).helm.cores[i]? = some (if c.halted then runOn s.clk.shadow c else c)) ∧
      (∀ j, j ≠ i → (resumeCore s i).helm.cores[j]? = s.helm.cores[j]?) ∧ (resumeCore s i).clk = s.clk := by
  cases hc : s.helm.cores[i]? with
  | none =>
    rw [resumeCore, hc]
    exact ⟨nofun, fun _ _ => rfl, rfl⟩
  | some c =>
    cases hh : c.halted with
    | false =>
      rw [resumeCore_running hc hh]
      exact ⟨fun x hx => by rw [hc, ← Option.some.inj hx, hh]; rfl, fun _ _ => rfl, rfl⟩
    | true =>
      have ho := traceCore_only s 0x32 i (c.pc.getD 0)
      have hhelm := only_helm ho (by decide)
      have hclk := only_clk ho (by decide)
      rw [resumeCore_halted hc hh]
      dsimp only
      rw [pumpAll_cores, hclk]
      refine ⟨fun x hx => ?_, fun j hj => ?_, ?_⟩
      · rw [← Option.some.inj hx, hh]
        exact updCore_core _ (by rw [hhelm]; exact hc)
      · rw [updCore_other _ _ hj, hhelm]
      · rw [only_clk (pumpAll_only _ _) (by decide), only_clk (updCore_only _ _ _) (by decide)]
        exact hclk

/-- RESUME of a core that drains takes effect when it halts. -/
def dueCore (c : HelmCore) : HelmCore := if c.draining then { c with resumeDue := true } else c

theorem dueCore_calm (h : c.draining = false) : dueCore c = c := if_neg (by simp [h])

/-- What a write of RESUME does to one core. -/
def resumeNamed (s : State) (j : Nat) : State := resumeCore (updCore s j dueCore) j

/-- A core on its way from `c`, halted, to running: in service as before, not draining, its heartbeat the present time once it runs. -/
structure Resuming (s : State) (c : HelmCore) (i : Nat) (v : State) (x : HelmCore) : Prop where
  core : v.helm.cores[i]? = some x
  clk : v.clk = s.clk
  ok : x.ok = c.ok
  calm : x.draining = false
  beat : x.halted = false → x.heartbeat = s.clk.shadow

theorem resumeNamed_resuming {v : State} {x : HelmCore} (h : Resuming s c i v x) (j : Nat) :
    ∃ y, Resuming s c i (resumeNamed v j) y ∧ (j = i ∨ x.halted = false → y.halted = false) := by
  obtain ⟨hcore, hclk, hok, hcalm, hbeat⟩ := h
  obtain ⟨hsame, hother, hclk'⟩ := resumeCore_leaves (updCore v j dueCore) j
  have hclk'' : (resumeNamed v j).clk = s.clk := hclk'.trans hclk
  by_cases hij : j = i
  · subst hij
    have hnow := hsame (dueCore x) (updCore_core dueCore hcore)
    rw [dueCore_calm hcalm] at hnow
    cases hh : x.halted with
    | false =>
      rw [hh] at hnow
      exact ⟨x, ⟨hnow, hclk'', hok, hcalm, hbeat⟩, fun _ => hh⟩
    | true =>
      rw [hh] at hnow
      exact ⟨runOn v.clk.shadow x, ⟨hnow, hclk'', hok, hcalm, fun _ => congrArg Clk.shadow hclk⟩, fun _ => rfl⟩
  · have hnow := (hother i (Ne.symm hij)).trans ((updCore_other v dueCore (Ne.symm hij)).trans hcore)
    exact ⟨x, ⟨hnow, hclk'', hok, hcalm, hbeat⟩, fun h => h.resolve_left hij⟩

theorem resumeAll_resuming (l : List Nat) {v : State} {x : HelmCore} (h : Resuming s c i v x) :
    ∃ y, Resuming s c i (l.foldl resumeNamed v) y ∧ (i ∈ l ∨ x.halted = false → y.halted = false) := by
  induction l generalizing v x with
  | nil => exact ⟨x, h, fun h => h.resolve_left (by simp)⟩
  | cons j l ih =>
    obtain ⟨y, hy, hyr⟩ := resumeNamed_resuming h j
    obtain ⟨z, hz, hzr⟩ := ih hy
    refine ⟨z, hz, fun hor => hzr ?_⟩
    rcases hor with hmem | hrun
    · rcases List.mem_cons.mp hmem with rfl | hmem
      · exact .inr (hyr (.inl rfl))
      · exact .inl hmem
    · exact .inr (hyr (.inr hrun))

theorem doResume_resumes (hpf : pfOpen s = true) (hres : bit w 31 = true) (hhalt : bit w 30 = false) :
    doResume s w = (namedCores w).foldl resumeNamed (rput s 0x10600 (bits w 7 0)) := by
  rw [doResume, if_pos ⟨hres, by simpa [pfOpen] using hpf⟩]
  simp only [dbgWrite, hhalt, hres, Bool.false_eq_true, false_and, if_false, if_true]
  rfl

/-- Settles O35: each write reaches every core that it names, and a core once resumed stays so. -/
theorem helmDebug : Obligations.HelmDebug := by
  intro s i c pc w hi hc
  refine ⟨fun hd hr hb hruns => ?_, fun hhalt hres hd hpf hw hruns => ?_, fun hd hres => ?_, fun hres hhalt hpf hw hh hd => ?_, fun hok => ?_⟩
  · exact gives_of_eq rfl rfl (doHelmBreakpoint_drains hi hc hd hr hb hruns)
  · have hcore := foldl_updCore haltCore_halted (namedCores w) (s := rput s 0x10600 (bits w 7 0)) hc
    rw [if_pos (mem_namedCores hi hw), haltCore, if_pos hruns] at hcore
    refine gives_of_eq rfl (doHalt_drains hpf hhalt hres hd) ⟨hcore, only_foldl (fun _ _ h => ?_) (only_mono (rput_only _ _ _) (by decide))⟩
    exact only_trans h (only_mono (updCore_only _ _ _) (by decide))
  · have ho := traceCore_only (updCore s i (haltAt (c.pc.getD pc))) 0x31 i (c.pc.getD pc)
    refine gives_of_eq rfl (doHelmHalted_halts pc hc hd hres) ⟨?_, only_append (updCore_only s i _) ho⟩
    rw [only_helm ho (by decide)]
    exact updCore_core _ hc
  · have hstart : Resuming s c i (rput s 0x10600 (bits w 7 0)) c := ⟨hc, rfl, rfl, hd, fun h => absurd (h.symm.trans hh) (by decide)⟩
    obtain ⟨x, hx, hrun⟩ := resumeAll_resuming (namedCores w) hstart
    have hnow := hrun (.inl (mem_namedCores hi hw))
    exact gives_of_eq rfl (doResume_resumes hpf hres hhalt) ⟨x, hx.core, hnow, hx.ok, hx.beat hnow⟩
  · refine gives_of_eq rfl rfl ⟨?_, fun j hj => getElem?_lupd_ne _ _ hj, setHelm_only _ _⟩
    exact (getElem?_lupd (fun c => if c.ok then { c with heartbeat := s.clk.shadow } else c) hc).trans (congrArg some (if_pos hok))

/-! ## Words latched into consecutive registers -/

theorem leNat_lt (bs : List Byte) : leNat bs < 2 ^ (8 * bs.length) := by
  induction bs with
  | nil => decide
  | cons b bs ih =>
    have hb := b.isLt
    have hpow : 2 ^ (8 * (b :: bs).length) = 256 * 2 ^ (8 * bs.length) := by
      rw [List.length_cons, Nat.mul_add, Nat.pow_add, Nat.mul_comm]
    rw [hpow]
    simp only [leNat]
    omega

theorem leNat_word (bs : List Byte) : leNat (bs.take 4) < 2 ^ 32 :=
  Nat.lt_of_lt_of_le (leNat_lt _) (Nat.pow_le_pow_right (by decide) (by simp only [List.length_take]; omega))

theorem latchWords_only (n : Nat) (s : State) (copy off : Nat) (bs : List Byte) : onlyChanged [.regs] s (latchWords s copy off bs n) := by
  induction n generalizing s off bs with
  | zero => exact only_refl _ _
  | succ n ih => exact only_trans (regPut_only _ _ _ _) (ih _ _ _)

theorem latchWords_below (n : Nat) (s : State) (copy : Nat) {off a : Nat} (bs : List Byte) (h : a < off) :
    regRaw (latchWords s copy off bs n) copy a = regRaw s copy a := by
  induction n generalizing s off bs with
  | zero => rfl
  | succ n ih =>
    rw [latchWords, ih _ _ (by omega)]
    exact regRaw_regPut_ne (by omega) _ _ _

theorem latchWords_word (s : State) (copy off : Nat) (bs : List Byte) (h : i < n) :
    regRaw (latchWords s copy off bs n) copy (off + 4 * i) = leNat ((bs.drop (4 * i)).take 4) := by
  induction n generalizing s off bs i with
  | zero => omega
  | succ n ih =>
    rw [latchWords]
    cases i with
    | zero =>
      rw [latchWords_below _ _ _ _ (by omega)]
      exact (regRaw_regPut_same _ _ _ _).trans (Nat.mod_eq_of_lt (leNat_word _))
    | succ i =>
      have hstep := ih (regPut s copy off (leNat (bs.take 4))) (off + 4) (bs.drop 4) (i := i) (by omega)
      rw [List.drop_drop, show off + 4 + 4 * i = off + 4 * (i + 1) by omega, show 4 + 4 * i = 4 * (i + 1) by omega] at hstep
      exact hstep

/-! ## The reach of a function's path (20 R443) -/

section
variable {off : Nat} {ri : RegInfo}

theorem reads_function (hpf : pfOpen s = true) (hpath : path < 64) (hen : fnEnabled s path = true) (hri : regInfo off = some ri)
    (hvf : ri.vf ≠ .no) : reads s path off = true := by
  have hreadable : regReadable ri path = true := by
    rw [regReadable, if_neg (by unfold i3cPath; omega)]
    split
    · rfl
    · exact decide_eq_true hvf
  simp only [reads, hri, hreadable, stateReaches, hpf, if_true, pathOpen_of hpf hen, Bool.and_self]

theorem fnEnabled_physical (s : State) : fnEnabled s 0 = true := rfl

theorem writes_physical (hpf : pfOpen s = true) (hri : regInfo off = some ri) : writes s 0 off = true := by
  have hwritable : regWritable ri 0 = true := rfl
  simp only [writes, hri, hwritable, stateReaches, hpf, if_true, pathOpen_of hpf (fnEnabled_physical s), Bool.and_self]

theorem reads_physical (hpf : pfOpen s = true) (hri : regInfo off = some ri) : reads s 0 off = true := by
  have hreadable : regReadable ri 0 = true := rfl
  simp only [reads, hri, hreadable, stateReaches, hpf, if_true, pathOpen_of hpf (fnEnabled_physical s), Bool.and_self]

theorem regWrite_low (hpf : pfOpen s = true) (hri : regInfo off = some ri) (hoff : off < 0x80000) (w : Word) :
    regWrite s 0 off w = lowWrite s 0 off ri w := by
  simp only [regWrite, hri, writes_physical hpf hri, Bool.not_true, Bool.false_eq_true, if_false, if_pos hoff]

theorem regWrite_high (hpf : pfOpen s = true) (hri : regInfo off = some ri) (hoff : ¬ off < 0x80000) (w : Word) :
    regWrite s 0 off w = highWrite s 0 off ri w := by
  simp only [regWrite, hri, writes_physical hpf hri, Bool.not_true, Bool.false_eq_true, if_false, if_neg hoff]

end

/-! ## Reads that latch (15 R361, 18 R413) -/

theorem readOut_only {off v : Nat} (hr : regRead s path off = (t, v)) (ho : onlyChanged [.regs] s t) :
    onlyChanged [.regs, .pel, .out] s (readOut s path off) := by
  rw [readOut, hr]
  exact only_append ho (emit_only _ _)

theorem readOut_out {off v : Nat} (hr : regRead s path off = (t, v)) (ho : onlyChanged [.regs] s t) :
    (readOut s path off).out = s.out ++ [.regRead path off (BitVec.ofNat 32 v)] := by
  rw [readOut, hr]
  exact (emit_out _ _).trans (congrArg (· ++ _) (only_out ho (by decide)))

theorem readOut_reg {off v : Nat} (hr : regRead s path off = (t, v)) (copy a : Nat) : regRaw (readOut s path off) copy a = regRaw t copy a := by
  rw [readOut, hr]
  exact regRaw_congr (emit_regs _ _) _ _

theorem ofNat_low (n : Nat) : BitVec.ofNat 32 (n % 2 ^ 32) = BitVec.ofNat 32 n := by
  apply BitVec.eq_of_toNat_eq
  simp

/-! ### PEL_CNT_LO -/

theorem regRead_counter (h : reads s path 0xC0024 = true) : regRead s path 0xC0024 = counterRead s path := by
  have hri : regInfo 0xC0024 = some (roReg 0 .rw .rw) := by decide
  simp only [regRead, hri, h, Bool.not_true, Bool.false_eq_true, if_false, if_true]
  rfl

/-- The instance's HI and STAT as a read of LO latches them. -/
def counterLatched (s : State) (path n : Nat) : State :=
  regPut (regPut s path 0xC0028 (n / 2 ^ 32 % 2 ^ 32)) path 0xC002C (2 ^ 31 + bitAt (decide (2 ^ 64 - 1 ≤ n)) 30)

theorem counterRead_selected (h : selCounter s path = some n) : counterRead s path = (counterLatched s path n, n % 2 ^ 32) := by
  simp only [counterRead, h]
  rfl

theorem counterLatched_only (s : State) (path n : Nat) : onlyChanged [.regs] s (counterLatched s path n) :=
  only_trans (regPut_only _ _ _ _) (regPut_only _ _ _ _)

theorem counterLatched_hi (s : State) (path n : Nat) : regRaw (counterLatched s path n) path 0xC0028 = n / 2 ^ 32 % 2 ^ 32 := by
  rw [counterLatched, regRaw_regPut_ne (by decide), regRaw_regPut_same, Nat.mod_mod]

/-! ### PEL_BSET_VAL_LO -/

theorem regRead_bset (h : reads s path 0xC0004 = true) : regRead s path 0xC0004 = bsetRead s path := by
  have hri : regInfo 0xC0004 = some (roReg 0 .rw .no) := by decide
  simp only [regRead, hri, h, Bool.not_true, Bool.false_eq_true, if_false, if_true, Nat.reduceEqDiff]
  rfl

/-- A berth counter's VAL_HI, SEQ and SRC as a read of VAL_LO latches them. -/
def bsetLatched (s : State) (path v : Nat) (k : CmdKey) (live : Bool) : State :=
  regPut (regPut (regPut s path 0xC0008 (v / 2 ^ 32 % 2 ^ 32)) path 0xC000C k.seq.toNat) path 0xC0010
    (2 ^ 31 + bitAt live 30 + k.ring % 8 * 2 ^ 12 + k.ctx % 4096)

theorem bsetRead_owned {vals : List Nat} {k : CmdKey} {live : Bool} (h : bsetSample s (regRaw s path 0xC0000 % 256) = some (vals, k, live))
    (hown : pathOwns s path k.ctx = true) :
    bsetRead s path = (bsetLatched s path (vals.getD (regRaw s path 0xC0000 / 256 % 8) 0) k live,
      vals.getD (regRaw s path 0xC0000 / 256 % 8) 0 % 2 ^ 32) := by
  simp only [bsetRead, h, hown, if_true]
  rfl

theorem bsetLatched_only (s : State) (path v : Nat) (k : CmdKey) (live : Bool) : onlyChanged [.regs] s (bsetLatched s path v k live) :=
  only_trans (regPut_only _ _ _ _) (only_trans (regPut_only _ _ _ _) (regPut_only _ _ _ _))

theorem bsetLatched_seq (s : State) (path v : Nat) (k : CmdKey) (live : Bool) :
    regRaw (bsetLatched s path v k live) path 0xC000C = k.seq.toNat := by
  rw [bsetLatched, regRaw_regPut_ne (by decide), regRaw_regPut_same]
  exact Nat.mod_eq_of_lt k.seq.isLt

/-! ### TOP_SERIAL_LO and an RC counter -/

theorem regRead_serial (h : reads s path 0x4 = true) :
    regRead s path 0x4 = (regPut s path 0x8 (s.boot.serial.toNat / 2 ^ 32), s.boot.serial.toNat % 2 ^ 32) := by
  have hri : regInfo 0x4 = some (roReg 0 .r .r) := by decide
  simp only [regRead, hri, h, Bool.not_true, Bool.false_eq_true, if_false, if_true, Nat.reduceEqDiff]
  rfl

theorem maskIn_clear (n : Nat) : maskIn n 0 0xFFFFFFFF = 0 := by simp [maskIn]

theorem regRead_race (h : reads s 0 0x10C = true) : regRead s 0 0x10C = (rput s 0x10C 0, rget s 0x10C) := by
  have hri : regInfo 0x10C = some ⟨0, 0, 0, 0xFFFFFFFF, 0, .no, .rw, .no⟩ := by decide
  have hview : regView s 0 0x10C = rget s 0x10C := by simp [regView, lowView, inArray, rget]
  have hclears : readClears ⟨0, 0, 0, 0xFFFFFFFF, 0, .no, .rw, .no⟩ 0 = true := rfl
  have hcopy : regCopy ⟨0, 0, 0, 0xFFFFFFFF, 0, .no, .rw, .no⟩ 0x10C 0 = 0 := by decide
  simp only [regRead, hri, h, hcopy, hview, hclears, maskIn_clear]
  simp [inArray, rput]

/-! ## Counters and the trace queue (18 R414, R417) -/

theorem doCounterClear_clears (hpf : pfOpen s = true) (hclr : bit w 31 = true) : doCounterClear s 0 w = clearCounters s := by
  have hri : regInfo 0xC0030 = some ⟨0, 0, 0, 0, 0x80000000, .no, .no, .no⟩ := by decide
  rw [doCounterClear, if_pos hclr, regWrite_high hpf hri (by decide)]
  simp [highWrite, inArray, hclr]

/-- The LOST record of the records dropped since the last. -/
def lostRecord (s : State) : TraceRec := ⟨0x3F, 0, 0x20, 0, 0, stampR s, s.clk.chipAk % 2 ^ 32, satTo (2 ^ 32 - 1) s.pel.lostRun, 0⟩

theorem doTraceLost_writes (hrun : s.pel.lostRun ≠ 0) (hroom : s.pel.queue.length < 1024) (hen : (rget s 0xC0040).testBit 31 = true)
    (hfull : (rget s 0xC0040).testBit 29 = false) :
    doTraceLost s = s.setPel { s.pel with lostRun := 0, queue := s.pel.queue ++ [lostRecord s] } :=
  if_neg (by simp [hrun, Nat.not_le.mpr hroom, hen, hfull])

/-! ## Windows (16 R389, 18 R415) -/

theorem doWakePageLatch_latches (hpf : pfOpen s = true) (w : Word) : doWakePageLatch s w = wakeSelWrite s w := by
  have hri : regInfo 0xC0050 = some ⟨0, 0xFFFFF, 0, 0, 0, .no, .no, .no⟩ := by decide
  rw [doWakePageLatch, regWrite_high hpf hri (by decide)]
  simp [highWrite, inArray]

theorem wakeSelWrite_leaves (s : State) (w : Word) : rget (wakeSelWrite s w) 0xC0050 = bits w 19 0 ∧
    (∀ i, i < 1024 → rget (wakeSelWrite s w) (0xC1000 + 4 * i) = leNat (((wakePage s (bits w 19 0)).drop (4 * i)).take 4)) ∧
    onlyChanged [.regs] s (wakeSelWrite s w) := by
  have hpage : bits w 19 0 < 2 ^ 32 := Nat.lt_of_lt_of_le (Nat.mod_lt _ (by decide)) (by decide)
  refine ⟨?_, fun i hi => latchWords_word _ 0 0xC1000 _ hi, only_trans (rput_only _ _ _) (latchWords_only _ _ _ _ _)⟩
  exact (latchWords_below _ _ 0 _ (by decide)).trans (rget_rput_of_lt hpage)

theorem doLogWindowLatch_latches (hpf : pfOpen s = true) (w : Word) : doLogWindowLatch s 0 w = logWinWrite s 0 w := by
  have hri : regInfo 0xE0000 = some ⟨0, 0x83FFFFFF, 0, 0, 0, .no, .rw, .no⟩ := by decide
  rw [doLogWindowLatch, regWrite_high hpf hri (by decide)]
  simp [highWrite, inArray]

theorem logWinWrite_leaves (s : State) (w : Word) :
    (∀ i, i < 16 → rget (logWinWrite s 0 w) (0xE0040 + 4 * i) = leNat (((logBlock s (bit w 31) (bits w 25 0)).drop (4 * i)).take 4)) ∧
      onlyChanged [.regs] s (logWinWrite s 0 w) :=
  ⟨fun _ hi => latchWords_word _ 0 0xE0040 _ hi, only_trans (regPut_only _ _ _ _) (latchWords_only _ _ _ _ _)⟩

/-! ## BIN_CFG (16 R385) -/

theorem doBinCfgWrite_writes (hpf : pfOpen s = true) (w : Word) : doBinCfgWrite s 0 w = binCfgWrite s w := by
  have hri : regInfo 0xD0004 = some ⟨1, 0x8000000F, 0, 0, 0, .no, .rw, .no⟩ := by decide
  rw [doBinCfgWrite, regWrite_high hpf hri (by decide)]
  simp [highWrite, inArray]

theorem and_8000000F (w : Word) : (w.toNat &&& 0x80000007) + bitAt (w.toNat.testBit 3) 3 = w.toNat &&& 0x8000000F := by
  have hbit : bitAt (w.toNat.testBit 3) 3 = w.toNat &&& 2 ^ 3 := by
    rw [Nat.and_comm, Nat.two_pow_and]
    cases w.toNat.testBit 3 <;> rfl
  have hdisjoint : (w &&& 0x80000007#32) &&& (w &&& 8#32) = 0#32 := by
    rw [show (w &&& 0x80000007#32) &&& (w &&& 8#32) = (w &&& w) &&& (0x80000007#32 &&& 8#32) by ac_rfl]
    simp
  have hadd : (w &&& 0x80000007#32) + (w &&& 8#32) = w &&& 0x8000000F#32 := by
    rw [BitVec.add_eq_or_of_and_eq_zero _ _ hdisjoint, ← BitVec.and_or_distrib_left]
    rfl
  have hle : (w.toNat &&& 0x80000007) ≤ 0x80000007 := Nat.and_le_right
  have hle' : (w.toNat &&& 2 ^ 3) ≤ 2 ^ 3 := Nat.and_le_right
  have hnat := congrArg BitVec.toNat hadd
  rw [BitVec.toNat_add, BitVec.toNat_and, BitVec.toNat_and, BitVec.toNat_and] at hnat
  rw [hbit, ← show _ = w.toNat &&& 0x8000000F from hnat]
  exact (Nat.mod_eq_of_lt (show (w.toNat &&& 0x80000007) + (w.toNat &&& 2 ^ 3) < 2 ^ 32 by omega)).symm

theorem binCfgWrite_unlocked (hlock : (rget s 0xD0004).testBit 31 = false) (hsafe : safeStands s = false) (w : Word) :
    rget (binCfgWrite s w) 0xD0004 = (w.toNat &&& 0x8000000F) := by
  have hlt : (w.toNat &&& 0x8000000F) < 2 ^ 32 := Nat.lt_of_le_of_lt Nat.and_le_right (by decide)
  have hdebug : (bit w 3 && ((rget s 0xD0004).testBit 3 || !safeStands s)) = w.toNat.testBit 3 := by
    rw [hsafe, Bool.not_false, Bool.or_true, Bool.and_true]
    rfl
  simp only [binCfgWrite, hlock, hdebug, Bool.false_eq_true, if_false, and_8000000F]
  exact rget_rput_of_lt hlt

/-! ## A plain write, a clear, an RC read (15 R358, R359; 20 R442) -/

theorem pfOpen_pcieIn (s : State) (n : Nat) : pfOpen (pcieIn s n) = pfOpen s := rfl

theorem maskIn_none (n m : Nat) : maskIn n m 0 = n % 2 ^ 32 := by
  have hall : (0xFFFFFFFF : Nat) = 2 ^ 32 - 1 := by decide
  rw [maskIn, Nat.and_zero, Nat.or_zero, Nat.zero_mod, Nat.sub_zero, hall, Nat.and_two_pow_sub_one_eq_mod, Nat.mod_mod]

theorem regWrite_classMask (hpf : pfOpen s = true) (w : Word) : regWrite s 0 0x108 w = rput s 0x108 (maskIn (rget s 0x108) w.toNat 0x1F) := by
  have hri : regInfo 0x108 = some ⟨0x38, 0x1F, 0, 0, 0, .no, .rw, .yes⟩ := by decide
  have hclear : ∀ n, maskIn (maskIn n w.toNat 0x1F) 0 0 = maskIn n w.toNat 0x1F := fun n => by
    rw [maskIn_none, maskIn, Nat.mod_mod]
  rw [regWrite_low hpf hri (by decide)]
  simp [lowWrite, inArray, plainWrite, hclear, regCopy, rput, rget]

theorem doRegisterWrite_classMask (hpf : pfOpen s = true) (w : Word) :
    doRegisterWrite s 0 0x108 w true false = rput (pcieIn s 4) 0x108 (maskIn (rget s 0x108) w.toNat 0x1F) := by
  have hwrite : doRegisterWrite s 0 0x108 w true false = regWrite (pcieIn s 4) 0 0x108 w := by
    simp [doRegisterWrite, i3cPath, spaceWrite, mbxBase]
  rw [hwrite, regWrite_classMask ((pfOpen_pcieIn s 4).trans hpf)]
  rfl

/-- The flags of a written word that hardware sets in the same cycle. -/
def lostFlags (w race : Word) : Word := w &&& race &&& 0x3F#32

theorem doW1cClear_errStat (hpf : pfOpen s = true) (hw : w &&& 0x3F ≠ 0) (race : Word) :
    doW1cClear s 0 0x100 w race =
      let v := errStatWrite s (w &&& ~~~lostFlags w race)
      rcount (rput v 0x100 (rget v 0x100 ||| (lostFlags w race).toNat)) 0x10C 31 0 (popCount (lostFlags w race)) := by
  have hri : regInfo 0x100 = some ⟨0, 0, 0x3F, 0, 0, .no, .rw, .no⟩ := by decide
  have hwrite : ∀ x : Word, regWrite s 0 0x100 x = errStatWrite s x := fun x => by
    rw [regWrite_low hpf hri (by decide)]
    simp [lowWrite]
  have hmask : ¬ (w &&& 63#32 = 0) := hw
  have hcopy : regCopy ⟨0, 0, 0x3F, 0, 0, .no, .rw, .no⟩ 0x100 0 = 0 := by decide
  simp only [doW1cClear, hri, writes_physical hpf hri, Bool.not_true, Bool.false_eq_true, false_or, if_neg hmask, hwrite, hcopy]
  rfl

theorem errStatWrite_only (s : State) (w : Word) : onlyChanged [.regs, .log, .bin] s (errStatWrite s w) := by
  unfold errStatWrite
  have hclear : onlyChanged [.regs, .log] s (if bit w 0 then (rput s 0x100 (maskIn (rget s 0x100) 0 (w.toNat &&& 0x3F))).setLog
      { s.log with notices := [] } else rput s 0x100 (maskIn (rget s 0x100) 0 (w.toNat &&& 0x3F))) :=
    only_ite (only_append (rput_only _ _ _) (setLog_only _ _)) (only_mono (rput_only _ _ _) (by decide))
  exact only_ite (only_mono hclear (by decide)) (only_mono (only_append hclear (setBin_only _ _)) (by decide))

theorem errStatWrite_regs (s : State) (w : Word) : (errStatWrite s w).regs = (rput s 0x100 (maskIn (rget s 0x100) 0 (w.toNat &&& 0x3F))).regs := by
  unfold errStatWrite
  dsimp only
  split <;> split <;> rfl

theorem classBits (hi : i < 6) : (0x3F : Nat).testBit i = true := by
  rw [show (0x3F : Nat) = 2 ^ 6 - 1 by decide, Nat.testBit_two_pow_sub_one]
  exact decide_eq_true hi

theorem errStatWrite_bit (s : State) (w : Word) (hi : i < 6) :
    (rget (errStatWrite s w) 0x100).testBit i = ((rget s 0x100).testBit i && !bit w i) := by
  have h32 : i < 32 := by omega
  have hlt : (w.toNat &&& 0x3F) < 2 ^ 32 := Nat.lt_of_le_of_lt Nat.and_le_right (by decide)
  have hw : bit w i = w.toNat.testBit i := rfl
  rw [rget_congr (errStatWrite_regs s w), rget_rput_same, Nat.testBit_mod_two_pow, testBit_maskIn h32 hlt, Nat.testBit_and, classBits hi, hw]
  cases w.toNat.testBit i <;> simp [h32]

theorem lostFlags_bit (w race : Word) (hi : i < 6) : bit (lostFlags w race) i = (bit w i && bit race i) := by
  have hmask : (0x3F#32).getLsbD i = true := classBits hi
  simp only [bit, lostFlags, BitVec.getLsbD_and, hmask, Bool.and_true]

theorem keptFlags_bit (w race : Word) (hi : i < 6) : bit (w &&& ~~~lostFlags w race) i = (bit w i && !bit race i) := by
  have h32 : i < 32 := by omega
  have hlost := lostFlags_bit w race hi
  unfold bit at hlost ⊢
  rw [BitVec.getLsbD_and, BitVec.getLsbD_not, hlost]
  cases w.getLsbD i <;> simp [h32]

/-- The set of hardware wins over the clear of the same cycle (15 R358). -/
theorem doW1cClear_bit (hpf : pfOpen s = true) (hw : w &&& 0x3F ≠ 0) (race : Word) (hi : i < 6) :
    (rget (doW1cClear s 0 0x100 w race) 0x100).testBit i = ((rget s 0x100).testBit i && !bit w i || bit w i && bit race i) := by
  have h32 : i < 32 := by omega
  have hlost : (lostFlags w race).toNat.testBit i = (bit w i && bit race i) := lostFlags_bit w race hi
  rw [doW1cClear_errStat hpf hw]
  dsimp only
  rw [rcount, rget_rput_ne _ (by decide), rget_rput_same, Nat.testBit_mod_two_pow, Nat.testBit_or, errStatWrite_bit _ _ hi, hlost,
    keptFlags_bit _ _ hi]
  cases bit w i <;> simp [h32]

theorem doW1cClear_only (hpf : pfOpen s = true) (hw : w &&& 0x3F ≠ 0) (race : Word) :
    onlyChanged [.regs, .log, .bin] s (doW1cClear s 0 0x100 w race) := by
  rw [doW1cClear_errStat hpf hw]
  exact only_trans (errStatWrite_only _ _) (only_mono (only_trans (rput_only _ _ _) (rcount_only _ _ _ _ _)) (by decide))

/-- Settles O34: a read's latches come from the word that it returns, a window's words from its block, a flag's bit from the set that wins. -/
theorem latchesAndCounters : Obligations.LatchesAndCounters := by
  intro s path w hpf
  refine ⟨fun hclr => ?_, fun n hpath hen hsel => ?_, fun vals k live hpath hen hsel hown => ?_, fun hpath hen => ?_,
    fun hrun hroom hten hfull => ?_, ?_, ?_, fun hlock => ?_, fun hlock hsafe => ?_, ?_, fun race hw => ?_, ?_⟩
  · exact gives_of_eq rfl (doCounterClear_clears hpf hclr) ⟨rfl, setPel_only _ _⟩
  · have hreads := reads_function hpf hpath hen (show regInfo 0xC0024 = some (roReg 0 .rw .rw) by decide) (by decide)
    have hr := (regRead_counter hreads).trans (counterRead_selected hsel)
    have ho := counterLatched_only s path n
    refine gives_of_eq rfl (if_pos hreads) ⟨?_, (readOut_reg hr _ _).trans (counterLatched_hi _ _ _), readOut_only hr ho⟩
    rw [readOut_out hr ho, ofNat_low]
  · have hreads := reads_function hpf hpath hen (show regInfo 0xC0004 = some (roReg 0 .rw .no) by decide) (by decide)
    have hr := (regRead_bset hreads).trans (bsetRead_owned hsel hown)
    have ho := bsetLatched_only s path (vals.getD (regRaw s path 0xC0000 / 256 % 8) 0) k live
    refine gives_of_eq rfl (if_pos hreads) ⟨?_, (readOut_reg hr _ _).trans (bsetLatched_seq _ _ _ _ _), readOut_only hr ho⟩
    rw [readOut_out hr ho, ofNat_low]
  · have hreads := reads_function hpf hpath hen (show regInfo 0x4 = some (roReg 0 .r .r) by decide) (by decide)
    have hr := regRead_serial hreads
    have ho := regPut_only s path 0x8 (s.boot.serial.toNat / 2 ^ 32)
    refine gives_of_eq rfl (if_pos hreads) ⟨?_, readOut_only hr ho⟩
    rw [readOut_out hr ho, ofNat_low]
  · exact gives_of_eq rfl (doTraceLost_writes hrun hroom hten hfull) ⟨rfl, ⟨lostRecord s, rfl, rfl, rfl⟩, setPel_only _ _⟩
  · exact gives_of_eq rfl (doWakePageLatch_latches hpf w) (wakeSelWrite_leaves s w)
  · exact gives_of_eq rfl (doLogWindowLatch_latches hpf w) (logWinWrite_leaves s w)
  · exact gives_of_eq rfl ((doBinCfgWrite_writes hpf w).trans (if_pos hlock)) rfl
  · exact gives_of_eq rfl (doBinCfgWrite_writes hpf w) ⟨binCfgWrite_unlocked hlock hsafe w, binCfgWrite_only s w⟩
  · refine gives_of_eq rfl (doRegisterWrite_classMask hpf w) ⟨rget_rput_of_lt (Nat.mod_lt _ (by decide)), fun o ho => ?_, ?_⟩
    · exact rget_rput_ne _ ho
    · exact only_mono (only_append (gcount_only s 0x3F00 4) (rput_only _ _ _)) (by decide)
  · exact gives_of_eq rfl rfl ⟨fun i hi => doW1cClear_bit hpf hw race hi, doW1cClear_only hpf hw race⟩
  · have hri : regInfo 0x10C = some ⟨0, 0, 0, 0xFFFFFFFF, 0, .no, .rw, .no⟩ := by decide
    have hreads := reads_physical hpf hri
    have hr := regRead_race hreads
    have ho := rput_only s 0x10C 0
    have hdo : doRcCounterRead s 0 0x10C = readOut s 0 0x10C := by
      simp only [doRcCounterRead, hri, hreads]
      exact if_pos ⟨by decide, trivial⟩
    refine gives_of_eq rfl hdo ⟨readOut_out hr ho, ?_, readOut_only hr ho⟩
    exact (readOut_reg hr 0 0x10C).trans (rget_rput_same _ _)

end Sys2Proof.Proofs

/-! SUPPORT. The proofs of the statements of 19_host_and_memory_ports.md and 20_register_map.md: ranges of Beacons and Heading entries, the I3C
target, PCIe functions. -/

namespace Sys2Proof.Proofs
open Sys2Proof Sys2Proof.Machine Sys2Proof.Laws

/- One proof at a time: elaborated beside the pending kernel checks of the text's tests, they need more threads than the memory limit holds. -/
set_option Elab.async false

variable {s t u : State} {path ctx f n : Nat} {w : Word}

/-! ## Ranges of Beacons (20 R448) -/

/-- The helm group and the registers' own values stay through the write of a command word. -/
theorem cmdRegWrite_helm (s : State) (off : Nat) (w : Word) : (cmdRegWrite s off w).helm = s.helm := rfl

theorem rget_cmdRegWrite_ne {off a : Nat} (h : a ≠ off) (w : Word) : rget (cmdRegWrite s off w) a = rget s a := rget_rput_ne _ h

theorem rangeWord_lt (r : BcnRange) : rangeWord r < 2 ^ 32 := by
  have hen := bitAt_le r.en 31
  unfold rangeWord
  omega

theorem bcnSet_leaves (s : State) (ctx : Nat) :
    sigRange (bcnSet s ctx) ctx = rangeOf (rget s 0x70004) ∧ waitRange (bcnSet s ctx) ctx = rangeOf (rget s 0x70008) ∧
      (∀ c, c ≠ ctx → sigRange (bcnSet s ctx) c = sigRange s c ∧ waitRange (bcnSet s ctx) c = waitRange s c) ∧
      onlyChanged [.helm] s (bcnSet s ctx) :=
  ⟨mgetD_mset_same _ _ _ _, mgetD_mset_same _ _ _ _, fun _ hc => ⟨mgetD_mset_ne _ _ _ hc, mgetD_mset_ne _ _ _ hc⟩, setHelm_only _ _⟩

theorem doBeaconRangeSet_go (hpf : pfOpen s = true) (hgo : bit w 31 = true) (hop : cmdOp w = 1) :
    doBeaconRangeSet s w = bcnSet (cmdRegWrite s 0x70000 w) (cmdCtx w) := if_pos ⟨hpf, hgo, hop⟩

theorem bcnGet_leaves (s : State) (ctx : Nat) :
    rget (bcnGet s ctx) 0x70004 = rangeWord (sigRange s ctx) ∧ rget (bcnGet s ctx) 0x70008 = rangeWord (waitRange s ctx) ∧
      onlyChanged [.regs] s (bcnGet s ctx) :=
  ⟨(rget_rput_ne _ (by decide)).trans (rget_rput_of_lt (rangeWord_lt _)), rget_rput_of_lt (rangeWord_lt _),
    only_trans (rput_only _ _ _) (rput_only _ _ _)⟩

theorem doBeaconRangeGet_go (hpf : pfOpen s = true) (hgo : bit w 31 = true) (hop : cmdOp w = 2) :
    doBeaconRangeGet s w = bcnGet (cmdRegWrite s 0x70000 w) (cmdCtx w) := if_pos ⟨hpf, hgo, hop⟩

/-! ## Ranges of Heading entries (20 R450, R451) -/

theorem doHeadingRangeSet_go (hpf : pfOpen s = true) (hgo : bit w 31 = true) (hop : cmdOp w = 1) :
    doHeadingRangeSet s w = hdgSet (cmdRegWrite s 0x78000 w) (cmdCtx w) := if_pos ⟨hpf, hgo, hop⟩

theorem doHeadingRangeGet_go (hpf : pfOpen s = true) (hgo : bit w 31 = true) (hop : cmdOp w = 2) :
    doHeadingRangeGet s w = hdgGet (cmdRegWrite s 0x78000 w) (cmdCtx w) := if_pos ⟨hpf, hgo, hop⟩

theorem hdgSet_good (h : hdgSetBad s ctx (rget s 0x78004 % 2 ^ 16) (rget s 0x78008 % 2 ^ 17) = false) :
    hdgSet s ctx = s.setHelm { s.helm with hdgRange := mset s.helm.hdgRange ctx (rget s 0x78004 % 2 ^ 16, rget s 0x78008 % 2 ^ 17) } :=
  if_neg (ne_true_of_eq_false h)

theorem hdgSet_bad (h : hdgSetBad s ctx (rget s 0x78004 % 2 ^ 16) (rget s 0x78008 % 2 ^ 17) = true) : hdgSet s ctx = cmdRegErr s 0x78000 := if_pos h

/-- What a SET finds of the staged range and of the table, the command word being written. -/
theorem hdgSetBad_cmdRegWrite (s : State) (w : Word) (ctx : Nat) :
    hdgSetBad (cmdRegWrite s 0x78000 w) ctx (rget (cmdRegWrite s 0x78000 w) 0x78004 % 2 ^ 16) (rget (cmdRegWrite s 0x78000 w) 0x78008 % 2 ^ 17) =
      hdgSetBad s ctx (rget s 0x78004 % 2 ^ 16) (rget s 0x78008 % 2 ^ 17) := by
  rw [rget_cmdRegWrite_ne (by decide), rget_cmdRegWrite_ne (by decide)]
  rfl

theorem hdgGet_leaves (s : State) (ctx : Nat) :
    rget (hdgGet s ctx) 0x78004 = (mgetD s.helm.hdgRange ctx (0, 0)).1 % 2 ^ 32 ∧
      rget (hdgGet s ctx) 0x78008 = (mgetD s.helm.hdgRange ctx (0, 0)).2 % 2 ^ 32 ∧ onlyChanged [.regs] s (hdgGet s ctx) :=
  ⟨(rget_rput_ne _ (by decide)).trans (rget_rput_same _ _), rget_rput_same _ _, only_trans (rput_only _ _ _) (rput_only _ _ _)⟩

/-- The select register and the entry's words as HEADING_ENTRY_LATCH leaves them. -/
def entryLatched (s : State) (path h : Nat) : State :=
  latchWords (regPut s path 0x78010 (h + bitAt (hdgReadable s path h) 31)) path 0x78040
    (if hdgReadable s path h then hdgBytes (hdgOf s h) else zeros 64) 16

theorem doHeadingEntryLatch_latches (hpf : pfOpen s = true) (hpath : path < 64) (hen : fnEnabled s path = true) (w : Word) :
    doHeadingEntryLatch s path w = entryLatched s path (bits w 15 0) :=
  if_neg (by simp [pathOpen_of hpf hen, i3cPath]; omega)

theorem entryLatched_leaves (s : State) (path : Nat) {h : Nat} (hh : h < 2 ^ 16) :
    regRaw (entryLatched s path h) path 0x78010 = h + bitAt (hdgReadable s path h) 31 ∧
      (∀ i, i < 16 → regRaw (entryLatched s path h) path (0x78040 + 4 * i) =
        leNat (((if hdgReadable s path h then hdgBytes (hdgOf s h) else zeros 64).drop (4 * i)).take 4)) ∧
      onlyChanged [.regs] s (entryLatched s path h) := by
  have hbit := bitAt_le (hdgReadable s path h) 31
  refine ⟨?_, fun i hi => latchWords_word _ _ _ _ hi, only_trans (regPut_only _ _ _ _) (latchWords_only _ _ _ _ _)⟩
  exact (latchWords_below _ _ _ _ (by decide)).trans ((regRaw_regPut_same _ _ _ _).trans (Nat.mod_eq_of_lt (by omega)))

/-- Settles O15: the command word's own write leaves the staged ranges, from which SET takes its values. -/
theorem rangeCommands : Obligations.RangeCommands := by
  intro s w hpf ctx
  refine ⟨fun hgo hop => ⟨?_, fun hgood => ?_, fun hbad => ?_⟩, fun hgo hop => ⟨?_, ?_⟩, fun path hpath hen => ?_⟩
  · obtain ⟨hsig, hwait, hother, ho⟩ := bcnSet_leaves (cmdRegWrite s 0x70000 w) ctx
    rw [rget_cmdRegWrite_ne (by decide)] at hsig hwait
    exact gives_of_eq rfl (doBeaconRangeSet_go hpf hgo hop) ⟨hsig, hwait, hother, only_append (cmdRegWrite_only _ _ _) ho⟩
  · have hset := hdgSet_good ((hdgSetBad_cmdRegWrite s w ctx).trans hgood)
    rw [rget_cmdRegWrite_ne (by decide), rget_cmdRegWrite_ne (by decide), cmdRegWrite_helm] at hset
    exact gives_of_eq rfl ((doHeadingRangeSet_go hpf hgo hop).trans hset) ⟨rfl, only_append (cmdRegWrite_only _ _ _) (setHelm_only _ _)⟩
  · exact gives_of_eq rfl ((doHeadingRangeSet_go hpf hgo hop).trans (hdgSet_bad ((hdgSetBad_cmdRegWrite s w ctx).trans hbad)))
      ⟨cmdRegErr_bit _ _, only_trans (cmdRegWrite_only _ _ _) (cmdRegErr_only _ _)⟩
  · obtain ⟨hsig, hwait, ho⟩ := bcnGet_leaves (cmdRegWrite s 0x70000 w) ctx
    exact gives_of_eq rfl (doBeaconRangeGet_go hpf hgo hop) ⟨hsig, hwait, only_trans (cmdRegWrite_only _ _ _) ho⟩
  · obtain ⟨hfirst, hcount, ho⟩ := hdgGet_leaves (cmdRegWrite s 0x78000 w) ctx
    exact gives_of_eq rfl (doHeadingRangeGet_go hpf hgo hop) ⟨hfirst, hcount, only_trans (cmdRegWrite_only _ _ _) ho⟩
  · exact gives_of_eq rfl (doHeadingEntryLatch_latches hpf hpath hen w) (entryLatched_leaves s path (Nat.mod_lt _ (by decide)))

/-! ## The I3C target (19 R430 to R434) -/

theorem updI3c_only (s : State) (g : I3cSt → I3cSt) : onlyChanged [.i3c] s (updI3c s g) := setI3c_only _ _

/-! ### Common command codes -/

theorem i3cAnswer_answers (hpor : s.boot.por = true) (hda : s.i3c.da.isSome = true) (bs : List Byte) :
    i3cAnswer s bs = emit s (.i3cRead bs) := if_pos ⟨hpor, hda⟩

theorem answered (s : State) (bs : List Byte) :
    (emit s (.i3cRead bs)).out = s.out ++ [.i3cRead bs] ∧ onlyChanged [.pel, .out] s (emit s (.i3cRead bs)) := ⟨emit_out _ _, emit_only _ _⟩

theorem doSetmwl_takes (hpor : s.boot.por = true) (hn : n < 2 ^ 16) (h8 : 8 ≤ n) : doSetmwl s n = updI3c s (fun x => { x with mwl := n }) := by
  rw [doSetmwl, Nat.mod_eq_of_lt hn]
  exact if_pos ⟨hpor, h8⟩

theorem doSetmrl_takes (hpor : s.boot.por = true) (hn : n < 2 ^ 16) (h8 : 8 ≤ n) : doSetmrl s n = updI3c s (fun x => { x with mrl := n }) := by
  rw [doSetmrl, Nat.mod_eq_of_lt hn]
  exact if_pos ⟨hpor, h8⟩

theorem short_length (hn : n < 8) : ¬ (s.boot.por = true ∧ 8 ≤ n % 2 ^ 16) := by omega

/-! ### Private writes -/

theorem doI3cSetPage_sets (hpor : s.boot.por = true) {p : Nat} (hp : p ≤ 0x10) : doI3cSetPage s 1 p = updI3c s (fun x => { x with page := p }) := by
  simp [doI3cSetPage, hpor, Nat.not_lt.mpr hp]

theorem doI3cSetReadAddr_sets (hpor : s.boot.por = true) {a : Nat} (ha : a % 4 = 0) :
    doI3cSetReadAddr s a 0 = updI3c s (fun x => { x with rdAddr := a % 0x10000 }) := by
  simp [doI3cSetReadAddr, hpor, ha, i3cRead]

/-- I3C writes the class mask as the physical function does. -/
theorem regWrite_classMask_i3c (hpf : pfOpen s = true) (w : Word) :
    regWrite s i3cPath 0x108 w = rput s 0x108 (maskIn (rget s 0x108) w.toNat 0x1F) := by
  have hri : regInfo 0x108 = some ⟨0x38, 0x1F, 0, 0, 0, .no, .rw, .yes⟩ := by decide
  have hwrites : writes s i3cPath 0x108 = true := by simp [writes, hri, regWritable, stateReaches, pathOpen, hpf, i3cPath]
  have hclear : ∀ n, maskIn (maskIn n w.toNat 0x1F) 0 0 = maskIn n w.toNat 0x1F := fun n => by
    rw [maskIn_none, maskIn, Nat.mod_mod]
  simp [regWrite, hri, hwrites, lowWrite, inArray, plainWrite, hclear, regCopy, rput, rget]

theorem doI3cWriteWords_classMask (hpor : s.boot.por = true) (hpf : pfOpen s = true) (hpage : s.i3c.page = 0) {d : List Byte} (hd : d.length = 4) :
    doI3cWriteWords s 0x108 d = rput s 0x108 (maskIn (rget s 0x108) (leNat d) 0x1F) := by
  have hlt : leNat d < 2 ^ 32 := by simpa [hd] using leNat_lt d
  have hword : wordsOf 1 d = [BitVec.ofNat 32 (leNat d)] := by rw [wordsOf, wordsOf, List.take_of_length_le (by omega)]
  have hdo : doI3cWriteWords s 0x108 d = spaceWrite s i3cPath 0x108 (BitVec.ofNat 32 (leNat d)) := by
    simp [doI3cWriteWords, hpor, hd, hword, i3cWrite, i3cAddr, hpage]
  have hspace : spaceWrite s i3cPath 0x108 (BitVec.ofNat 32 (leNat d)) = regWrite s i3cPath 0x108 (BitVec.ofNat 32 (leNat d)) := if_pos (by decide)
  rw [hdo, hspace, regWrite_classMask_i3c hpf, BitVec.toNat_ofNat, Nat.mod_eq_of_lt hlt]

/-! ### In-band interrupts -/

theorem doIbiRetry_acknowledged {ks : List Nat} (h : ∀ e, e ∈ s.i3c.ibis → e.1 ∈ ks) : doIbiRetry s ks = updI3c s (fun x => { x with ibis := [] }) := by
  have hnone : s.i3c.ibis.filter (fun e => !ks.contains e.1) = [] := by
    refine List.filter_eq_nil_iff.mpr fun e he => ?_
    simpa using h e he
  have hupd : updI3c s (fun x => { x with ibis := x.ibis.filter (fun e => !ks.contains e.1) }) = updI3c s (fun x => { x with ibis := [] }) :=
    congrArg (fun l => s.setI3c { s.i3c with ibis := l }) hnone
  rw [doIbiRetry, hupd]
  exact ite_self _

/-- Settles O40: each code sets its own field of the target; a GET code answers once the target has an address. -/
theorem i3cCommands : Obligations.I3cCommands := by
  intro s hpor
  refine ⟨fun a hda => ?_, fun a hda => ?_, fun c a hda => ?_, ?_, fun e he => ⟨?_, ?_⟩, fun n hn h8 => ⟨?_, ?_⟩, fun n hn => ⟨?_, ?_⟩,
    fun hda => ?_, fun p hp => ?_, fun d hd hpf hpage => ?_, fun a ha => ?_, fun ks hks => ?_⟩
  · exact gives_of_eq rfl (if_pos ⟨hpor, hda⟩) ⟨rfl, updI3c_only _ _⟩
  · exact gives_of_eq rfl (if_pos ⟨hpor, hda, rfl⟩) ⟨rfl, updI3c_only _ _⟩
  · exact gives_of_eq rfl (if_pos ⟨hpor, hda⟩) ⟨rfl, updI3c_only _ _⟩
  · exact gives_of_eq rfl (if_pos hpor) ⟨rfl, updI3c_only _ _⟩
  · exact gives_of_eq rfl (if_pos ⟨hpor, he⟩) ⟨rfl, updI3c_only _ _⟩
  · exact gives_of_eq rfl (if_pos ⟨hpor, he⟩) ⟨rfl, updI3c_only _ _⟩
  · exact gives_of_eq rfl (doSetmwl_takes hpor hn h8) ⟨rfl, updI3c_only _ _⟩
  · exact gives_of_eq rfl (doSetmrl_takes hpor hn h8) ⟨rfl, updI3c_only _ _⟩
  · exact gives_of_eq rfl (if_neg (short_length hn)) rfl
  · exact gives_of_eq rfl (if_neg (short_length hn)) rfl
  · intro answers
    have hanswers : ∀ {i : Instr} {bs : List Byte}, exec i s = .next (i3cAnswer s bs) → answers i bs := fun hi =>
      gives_of_eq hi (i3cAnswer_answers hpor hda _) (answered s _)
    exact ⟨hanswers rfl, hanswers rfl, hanswers rfl, hanswers rfl, hanswers rfl, ⟨_, hanswers rfl⟩, ⟨_, hanswers rfl⟩⟩
  · exact gives_of_eq rfl (doI3cSetPage_sets hpor hp) ⟨rfl, updI3c_only _ _⟩
  · exact gives_of_eq rfl (doI3cWriteWords_classMask hpor hpf hpage hd) ⟨rget_rput_of_lt (Nat.mod_lt _ (by decide)), rput_only _ _ _⟩
  · exact gives_of_eq rfl (doI3cSetReadAddr_sets hpor ha) ⟨rfl, updI3c_only _ _⟩
  · exact gives_of_eq rfl (doIbiRetry_acknowledged hks) ⟨rfl, updI3c_only _ _⟩

/-! ## What stopping the commands of functions leaves (19 R429, 15 R369) -/

/-- What kills and the return of commands to their slots change. -/
def stopGroups : List StateGroup := [.log, .out, .chart, .batches, .rose, .helm, .pel, .runs, .fleet, .regs, .streams, .cmds]

theorem killRun_only (s : State) (r : Run) (cause : Nat) (charged : Bool) : onlyChanged stopGroups s (killRun s r cause charged) := by
  rcases killRun_cases s r cause charged with h | ⟨x, v, hv, h⟩
  · rw [h]
    exact only_refl _ _
  · have hkill : onlyChanged stopGroups s v := only_trans (only_mono (trace_only s x) (by decide)) (only_mono hv (by decide))
    rcases h with ⟨n, h⟩ | ⟨n, ran, h⟩ <;> rw [h]
    · exact only_then hkill (returnUnit_only _ _)
    · exact only_then hkill (returnCmd_only _ _ _ _)

theorem killRuns_only (s : State) (p : Run → Bool) (cause : Nat) : onlyChanged stopGroups s (killRuns s p cause) :=
  only_foldl (fun _ _ h => only_trans h (killRun_only _ _ _ _)) (only_refl _ _)

theorem killUnit_only (s : State) (i : Nat) (x : BatchUnit) (cause : Nat) : onlyChanged stopGroups s (killUnit s i x cause) := by
  have hslots : onlyChanged stopGroups s
      ((x.slots.filterMap id).foldl (fun s k => match findRun s k with | some r => killRun s r cause false | none => s) s) :=
    only_foldl (fun v k h => by
      split
      · exact only_trans h (killRun_only _ _ _ _)
      · exact h) (only_refl _ _)
  unfold killUnit
  dsimp only
  split
  · exact hslots
  · split
    · exact hslots
    · refine only_ite hslots (only_trans hslots ?_)
      exact only_mono (only_append (only_append (closeWins_only _ _) (emptyFacets_only _ _)) (setBatches_only _ _)) (by decide)

theorem killBatches_only (s : State) (p : Batch → Bool) (cause : Nat) : onlyChanged stopGroups s (killBatches s p cause) :=
  only_then (only_foldl (fun _ _ h => only_trans h (only_foldl (fun _ _ h => only_trans h (killUnit_only _ _ _ _)) (only_refl _ _))) (only_refl _ _))
    (setBatches_only _ _)

theorem suspendWhere_only (s : State) (p : Nat → Bool) : onlyChanged stopGroups s (suspendWhere s p) :=
  only_then (only_trans (killBatches_only _ _ _) (killRuns_only _ _ _)) (refetchAll_only _ _)

theorem countReset_only (s : State) (k : CmdKey) (avoid : List Nat) (i : Nat) : onlyChanged [.cmds] s (countReset s k avoid i) := by
  unfold countReset
  split
  · exact putCmd_only _ _
  · exact only_refl _ _

theorem resetRun_only (s : State) (r : Run) : onlyChanged stopGroups s (resetRun s r) := by
  unfold resetRun
  refine only_ite (only_mono (dropRun_only _ _) (by decide)) ?_
  dsimp only
  split
  · exact only_then (killRun_only _ _ _ _) (countReset_only _ _ _ _)
  · exact killRun_only _ _ _ _

theorem warmStopped_only (s : State) : onlyChanged stopGroups s (warmStopped s) := by
  have hruns : ∀ v : State, onlyChanged stopGroups v (v.runs.foldl resetRun v) := fun v =>
    only_foldl (fun _ _ h => only_trans h (resetRun_only _ _)) (only_refl _ _)
  refine only_then (only_then ?_ (discardRequests_only _)) (refetchAll_only _ _)
  exact only_then (only_then (only_trans (killBatches_only _ _ _) (hruns _)) (setRuns_only _ _)) (setBatches_only _ _)

/-- The start of a warm reset leaves the functions, their MSI-X tables and the link. -/
theorem startWarm_only (s : State) (leaving : Bool) : onlyChanged (stopGroups ++ [.csi, .bin, .boot]) s (startWarm s leaving) := by
  rw [startWarm_eq]
  exact only_mono (only_append (warmStopped_only s) (only_append (warmUndone_only s) (warmQuiet_only _ leaving))) (by decide)

/-! ## What resuming the commands of functions leaves -/

/-- What a replay and the fetches after it change. -/
def resumeGroups : List StateGroup := headGroups ++ beaconGroups ++ committedGroups

theorem committedStep_only (s : State) (c : Cmd) (replayed : Bool) : onlyChanged committedGroups s (committedStep s c replayed) := by
  obtain ⟨-, -, -, -, ho, -⟩ := committedStep_spec s c replayed
  exact ho

theorem replayEntry_only (s : State) (e : JEntry) : onlyChanged resumeGroups s (replayEntry s e) := by
  unfold replayEntry
  split
  · exact only_refl _ _
  · rename_i c hc
    split
    · exact only_refl _ _
    · rename_i q hq
      dsimp only
      refine only_trans ?_ (only_mono (committedStep_only _ c true) (by decide))
      refine only_trans ?_ (only_mono (beaconStep_only _ c q).1 (by decide))
      refine only_trans (only_mono (emit_only s _) (by decide)) (only_ite ?_ (only_mono (headingStep_only _ c q _) (by decide)))
      split
      · exact only_mono (setHdg_only _ _ _) (by decide)
      · exact only_refl _ _

theorem resumeCtx_only (s : State) (ctx : Nat) : onlyChanged [.helm, .pel, .out] s (resumeCtx s ctx) :=
  only_foldl (fun _ _ h => only_trans h (only_trans (only_mono (setRing_only _ _ _ _) (by decide)) (pump_spec _ _ _).1)) (only_refl _ _)

theorem resumeWhere_only (s : State) (p : Nat → Bool) : onlyChanged resumeGroups s (resumeWhere s p) := by
  have hreplay : ∀ q, onlyChanged resumeGroups s (replayAll s q) := fun q => only_foldl (fun _ _ h => only_trans h (replayEntry_only _ _)) (only_refl _ _)
  exact only_foldl (fun _ _ h => only_then h (resumeCtx_only _ _)) (hreplay _)

theorem sendPending_only (s : State) (f : Nat) : onlyChanged [.msix, .pel, .out] s (sendPending s f) := by
  have hone : ∀ (v : State) (e : Nat × MsixEnt), onlyChanged [.msix, .pel, .out] v
      (emit (v.setMsix (mset v.msix e.1 { e.2 with pend := false })) (.msix f (e.1 % 2048))) := fun v e =>
    only_append (gs := [.msix]) (by simp [onlyChanged]) (emit_only _ _)
  exact only_foldl (fun _ _ h => only_trans h (hone _ _)) (only_refl _ _)

/-! ## The functions (19 R424 to R429) -/

theorem getElem?_lupd_map {α : Type} (l : List α) (i : Nat) (g : α → α) : (lupd l i g)[i]? = (l[i]?).map g := by
  induction l generalizing i with
  | nil => rfl
  | cons x xs ih =>
    cases i with
    | zero => rfl
    | succ i => exact ih i

theorem setRegs_only (s : State) (x : List (Nat × Word)) : onlyChanged [.regs] s (s.setRegs x) := by simp [onlyChanged]

theorem setMsix_only (s : State) (x : List (Nat × MsixEnt)) : onlyChanged [.msix] s (s.setMsix x) := by simp [onlyChanged]

theorem fnAnswers_runs (h : fnAnswers s f = true) : ¬ (!fnAnswers s f) = true := by simp [h]

theorem fnAnswers_iff (s : State) (f : Nat) : fnAnswers s f = true ↔ s.pci.dlUp = true ∧ f < 64 ∧ fnEnabled s f = true := by
  simp [fnAnswers, and_assoc]

/-- A function's configuration bits after its reset. -/
def fnReset : Fn := ⟨false, false, false⟩

/-! ### Function Level Reset -/

/-- The functions that the reset of one reaches: the physical one takes every virtual one with it. -/
def flrHits (f g : Nat) : Bool := decide (g = f) || decide (f = 0)

theorem flrHits_iff {g : Nat} : flrHits f g = true ↔ g = f ∨ f = 0 := by simp [flrHits]

/-- The state of a Function Level Reset before the functions' own bits. -/
def flrCleared (s : State) (f : Nat) : State :=
  let v := clearMsix (suspendWhere s (ofFns s (flrHits f))) (flrHits f)
  v.setRegs (v.regs.filter (fun e => !flrClears (flrHits f) e.1))

theorem doFunctionLevelReset_eq (h : fnAnswers s f = true) :
    doFunctionLevelReset s f =
      (flrCleared s f).setFns ((flrCleared s f).fns.zipIdx.map (fun x => if flrHits f x.2 then fnReset else x.1)) := by
  rw [doFunctionLevelReset, if_neg (fnAnswers_runs h)]
  rfl

theorem flrCleared_only (s : State) (f : Nat) : onlyChanged (stopGroups ++ [.msix, .regs]) s (flrCleared s f) :=
  only_append (suspendWhere_only _ _) (only_append (setMsix_only _ _) (setRegs_only _ _))

theorem flrCleared_msix (s : State) (f : Nat) {e : Nat × MsixEnt} (h : e ∈ (flrCleared s f).msix) : e.1 / 2048 ≠ f := by
  have hmem : e ∈ (suspendWhere s (ofFns s (flrHits f))).msix.filter (fun e => !flrHits f (e.1 / 2048)) := h
  have hkept := (List.mem_filter.mp hmem).2
  intro heq
  simp [flrHits, heq] at hkept

theorem mapped_fn {l : List Fn} {g : Nat} {x : Fn} (p : Fn × Nat → Fn) (h : (l.zipIdx.map p)[g]? = some x) : ∃ y, x = p (y, g) := by
  rw [List.getElem?_map, List.getElem?_zipIdx] at h
  cases hy : l[g]? with
  | none => simp [hy] at h
  | some y => exact ⟨y, by simpa [hy] using h.symm⟩

theorem doFunctionLevelReset_leaves (h : fnAnswers s f = true) :
    let t := doFunctionLevelReset s f
    t.fns.length = s.fns.length ∧ (∀ g x, t.fns[g]? = some x → g = f ∨ f = 0 → x = fnReset) ∧ (∀ e, e ∈ t.msix → e.1 / 2048 ≠ f) ∧
      t.boot = s.boot ∧ t.flash = s.flash := by
  have ho := flrCleared_only s f
  have hboot : (flrCleared s f).boot = s.boot := only_boot ho (by decide)
  have hflash : (flrCleared s f).flash = s.flash := only_flash ho (by decide)
  rw [doFunctionLevelReset_eq h]
  refine ⟨?_, fun g x hx hg => ?_, fun e he => flrCleared_msix s f he, hboot, hflash⟩
  · have hfns : (flrCleared s f).fns.length = s.fns.length := congrArg List.length (only_fns ho (by decide))
    rw [State.setFns_fns, List.length_map, List.length_zipIdx, hfns]
  · obtain ⟨y, hy⟩ := mapped_fn _ hx
    exact hy.trans (if_pos (flrHits_iff.mpr hg))

/-! ### Bus Master Enable, D3hot, VF Enable -/

theorem doBusMasterDisable_eq (h : fnAnswers s f = true) (d3 : Bool) :
    doBusMasterDisable s f d3 = updFn (suspendWhere s (ofFns s (fun g => decide (g = f)))) f
      (fun x => if d3 then { x with d3 := true } else { x with bme := false }) := if_neg (fnAnswers_runs h)

theorem suspended_fn {p : Nat → Bool} {x : Fn} (g : Fn → Fn) (hx : s.fns[f]? = some x) :
    (updFn (suspendWhere s p) f g).fns[f]? = some (g x) :=
  getElem?_lupd g (by rw [only_fns (suspendWhere_only s p) (by decide)]; exact hx)

/-- Bus Master Enable set, in D0; of a virtual function, VF Enable stands. -/
def mastering (s : State) (f : Nat) : State :=
  updFn (if f = 0 then s else updFn s 0 (fun x => { x with vfEn := true })) f (fun x => { x with bme := true, d3 := false })

theorem mastering_fn {x : Fn} (h : (mastering s f).fns[f]? = some x) : x.bme = true ∧ x.d3 = false := by
  have hmap := (getElem?_lupd_map _ _ _).symm.trans h
  obtain ⟨y, -, hy⟩ := Option.map_eq_some_iff.mp hmap
  rw [← hy]
  exact ⟨rfl, rfl⟩

theorem doBusMasterEnable_only (h : fnAnswers s f = true) (hvf : f ≤ s.boot.numVf) :
    onlyChanged ([.msix, .pel, .out] ++ resumeGroups) (mastering s f) (doBusMasterEnable s f) := by
  obtain ⟨hup, h64, -⟩ := (fnAnswers_iff s f).mp h
  have hresume := only_append (sendPending_only (mastering s f) f)
    (resumeWhere_only (sendPending (mastering s f) f) (ofFns (mastering s f) (fun g => decide (g = f))))
  rw [doBusMasterEnable, if_neg (by simp [hup]; omega)]
  exact only_ite (only_refl _ _) hresume

theorem doVfEnableClear_eq (h : fnAnswers s 0 = true) :
    let v := clearMsix (suspendWhere s (ofFns s (fun g => decide (0 < g)))) (fun g => decide (0 < g))
    doVfEnableClear s = v.setFns (v.fns.zipIdx.map (fun x => if x.2 = 0 then { x.1 with vfEn := false } else fnReset)) :=
  if_neg (fnAnswers_runs h)

/-! ### MSI-X and the link -/

section
variable {e : Nat}

theorem doMsixUnmask_runs (h : fnAnswers s f = true) (he : e < msixSize s f) : ¬ ((!fnAnswers s f) = true ∨ msixSize s f ≤ e) := by
  simp [h, Nat.not_le.mpr he]

theorem doMsixUnmask_quiet (h : fnAnswers s f = true) (he : e < msixSize s f) (hpend : (mgetD s.msix (msixKey f e) ⟨true, false⟩).pend = false) :
    doMsixUnmask s f e = s.setMsix (mset s.msix (msixKey f e) ⟨false, false⟩) := by
  rw [doMsixUnmask, if_neg (doMsixUnmask_runs h he)]
  refine (if_neg (by simp [hpend])).trans ?_
  rw [hpend]

theorem doMsixUnmask_sends (h : fnAnswers s f = true) (he : e < msixSize s f) (hpend : (mgetD s.msix (msixKey f e) ⟨true, false⟩).pend = true)
    (hmaster : canMaster s f = true) :
    doMsixUnmask s f e = emit (s.setMsix (mset s.msix (msixKey f e) ⟨false, false⟩)) (.msix f e) := by
  rw [doMsixUnmask, if_neg (doMsixUnmask_runs h he)]
  exact if_pos ⟨hpend, hmaster⟩

end

/-- The link and the functions' configuration after PERST_N, from step 3 of power-up on. -/
def linkTrained (s : State) (width speed : Nat) : State :=
  let v := clearMsix s (fun _ => true)
  let v := v.setFns (v.fns.map (fun _ => fnReset))
  v.setPci { v.pci with dlUp := true, width := width, speed := speed }

theorem linkTrained_leaves (s : State) (width speed : Nat) :
    (linkTrained s width speed).msix = [] ∧ (linkTrained s width speed).pci = { s.pci with dlUp := true, width := width, speed := speed } ∧
      (∀ x, x ∈ (linkTrained s width speed).fns → x = fnReset) ∧ (linkTrained s width speed).boot = s.boot := by
  refine ⟨?_, rfl, fun x hx => ?_, rfl⟩
  · have hnone : (linkTrained s width speed).msix = s.msix.filter (fun _ => !true) := rfl
    rw [hnone]
    simp
  · have hmem : x ∈ s.fns.map (fun _ => fnReset) := hx
    obtain ⟨-, -, he⟩ := List.mem_map.mp hmem
    exact he.symm

theorem doLinkReset_eq (hpor : s.boot.por = true) (hup : 3 ≤ s.boot.passed) (width speed : Nat) :
    doLinkReset s width speed =
      if s.boot.state = 1 ∧ !s.bin.safe then startWarm (linkTrained s width speed) false else linkTrained s width speed := by
  rw [doLinkReset, if_neg (by simp [hpor])]
  simp only [decide_eq_true hup, if_true]
  rfl

/-- A warm reset that follows changes neither the functions nor the link. -/
theorem doLinkReset_leaves (hpor : s.boot.por = true) (hup : 3 ≤ s.boot.passed) (width speed : Nat) :
    (doLinkReset s width speed).msix = [] ∧
      (doLinkReset s width speed).pci = { s.pci with dlUp := true, width := width, speed := speed } ∧
      (∀ x, x ∈ (doLinkReset s width speed).fns → x = fnReset) := by
  obtain ⟨hmsix, hpci, hfns, -⟩ := linkTrained_leaves s width speed
  have ho := startWarm_only (linkTrained s width speed) false
  rw [doLinkReset_eq hpor hup]
  split
  · rw [only_msix ho (by decide), only_pci ho (by decide), only_fns ho (by decide)]
    exact ⟨hmsix, hpci, hfns⟩
  · exact ⟨hmsix, hpci, hfns⟩

/-- Settles O32: stopping a function's commands, and resuming them, leaves the configuration bits and the MSI-X tables. -/
theorem pcieFunctions : Obligations.PcieFunctions := by
  intro s f hans
  refine ⟨?_, ?_, ?_, fun hvf => ?_, fun e he hpend => ?_, fun e he hpend hmaster => ?_, fun hf => ?_, fun width speed hpor hup => ?_⟩
  · exact gives_of_eq rfl rfl (doFunctionLevelReset_leaves hans)
  · exact gives_of_eq rfl (doBusMasterDisable_eq hans false) fun x hx => suspended_fn _ hx
  · exact gives_of_eq rfl (doBusMasterDisable_eq hans true) fun x hx => suspended_fn _ hx
  · refine gives_of_eq rfl rfl fun x hx => mastering_fn (s := s) (f := f) ?_
    rw [← only_fns (doBusMasterEnable_only hans hvf) (by decide)]
    exact hx
  · exact gives_of_eq rfl (doMsixUnmask_quiet hans he hpend) ⟨mget_mset_same _ _ _, setMsix_only _ _⟩
  · refine gives_of_eq rfl (doMsixUnmask_sends hans he hpend hmaster) ⟨?_, emit_out _ _, only_append (setMsix_only _ _) (emit_only _ _)⟩
    rw [only_msix (emit_only _ _) (by decide)]
    exact mget_mset_same _ _ _
  · refine gives_of_eq rfl (doVfEnableClear_eq (hf ▸ hans)) fun g x hx => ?_
    obtain ⟨y, rfl⟩ := mapped_fn _ hx
    rcases Nat.eq_zero_or_pos g with rfl | hg
    · exact ⟨rfl, fun h => absurd h (by decide)⟩
    · rw [if_neg (Nat.ne_of_gt hg)]
      exact ⟨rfl, fun _ => rfl⟩
  · obtain ⟨hmsix, hpci, hfns⟩ := doLinkReset_leaves hpor hup width speed
    refine gives_of_eq rfl rfl ⟨hmsix, hpci, hfns, fun hst hsafe => ?_, fun hst => ?_⟩
    · rw [doLinkReset_eq hpor hup, if_pos ⟨hst, by simp [hsafe]⟩]
      exact startWarm_begins _ _
    · obtain ⟨-, -, -, hboot⟩ := linkTrained_leaves s width speed
      rw [doLinkReset_eq hpor hup, if_neg (by omega)]
      exact hboot

end Sys2Proof.Proofs
